-- ==== Sys2Proof/Word.lean ====
section
/-! DEFINITION. The word types of the VL9256 model and the sparse table that holds every large array of the controller. -/

namespace Sys2Proof

abbrev Byte := BitVec 8
abbrev Word := BitVec 32
/-- A line address L = PA[51:7] (R45). -/
abbrev LineAddr := BitVec 45
/-- An agent identifier: device in [16:8], port in [7:0] (R11). -/
abbrev Agent := BitVec 17
/-- An endpoint: KIND in [17], device in [16:8], port or unit in [7:0] (R185). -/
abbrev Endpoint := BitVec 18
/-- A count of Karik time: ns in the upper bits, a 24-bit fraction below (R37). -/
abbrev KTime := Nat

/-- A sparse table: keys strictly rising, and no entry equal to the value an unlisted key reads as.
The reset or cleared value of the array is what an unlisted key reads as. -/
abbrev Tab (α : Type) := List (Nat × α)

end Sys2Proof
end

