-- ==== Sys2Proof/Word/Vocab.lean ====
section
/-! DEFINITION. The names the manual fixes: modes, states, messages, codes and the records that commands and State carry. -/

namespace Sys2Proof

/-- The eight modes (R6), in code order. -/
inductive Mode | dormant | rising | bare | serving | degraded | draining | quiescent | maintenance
deriving DecidableEq, Repr

/-- Why a start stopped (GLB_STATE.STOPWHY, R515). -/
inductive StopWhy | none | image | pair | firm | micro | fuse | check
deriving DecidableEq, Repr

/-- Outcome of a start step (GLB_STEP.OUTCOME, R515; Peat STEP entry, R506). -/
inductive StepOutcome | notRun | passed | failed | skipped
deriving DecidableEq, Repr

/-- A slot name: none, A or B (R515, R492). -/
inductive SlotName | none | a | b
deriving DecidableEq, Repr

/-- State of an image slot (R483). -/
inductive SlotState | empty | valid | writing
deriving DecidableEq, Repr

/-- Service classes (R243). -/
inductive Cls | t0 | t1 | t2
deriving DecidableEq, Repr

/-- The five coherence states (R55, R186). -/
inductive CohState | i | s | e | o | m
deriving DecidableEq, Repr

/-- Port roles (R344). -/
inductive Role | off | near | plain | memory | peer
deriving DecidableEq, Repr

/-- PORT_STATUS.STATE (R382). -/
inductive PortState | off | detect | train | find | service | standby | draining | isolating | retrain | failed
deriving DecidableEq, Repr

/-- Training states (R361) and their names in SDS_STATE (R597). -/
inductive TrainState | idle | detect | eq | lock | deskew | flit
deriving DecidableEq, Repr

/-- Where an orderly detach or a discovery stands (R364, R376). -/
inductive DetachStep | none | asked | acked | done
deriving DecidableEq, Repr

/-- DRAIN_ST of PORT_DISC (R382). -/
inductive DrainSt | none | done | inuse | fallback
deriving DecidableEq, Repr

/-- Virtual networks (R189, R314). -/
inductive Vn | req | snp | rsp | dat | wbk
deriving DecidableEq, Repr

/-- Every message of R189. -/
inductive Op
  | rdSh | rdOwn | ownUpg | ownNodata | rdNa | wr | wrThru | wrDur | pfHint | memRd | cfgRd | cfgWr | barrier
  | snpSh | snpOwn | snpInv | snpCur
  | rspI | rspS | rspFwd | grant | cmp | dur | compAck | wbAck | wbSuperseded | retry | err | memAck | memDur | barDone | cfgAck
  | data | sdata | memData | cfgData
  | wb | evn | memWr | memWrDur
deriving DecidableEq, Repr

/-- Error codes (R191). -/
inductive ErrCode
  | none | notServing | denied | poison | integrity | timeout | sliceFault | homeFault | unreachable | protocol
deriving DecidableEq, Repr

/-- RETRY reasons (R269). -/
inductive Reason | calendar | entries | home | watch | rate | carried | sync
deriving DecidableEq, Repr

/-- BSTATUS (R305). -/
inductive BStatus | ok | late | barrierLoss
deriving DecidableEq, Repr

/-- Void causes (GATE_VOID.CAUSE, R280, R283). -/
inductive VoidCause | none | memory | durable | near | peer | sync | promiseMiss
deriving DecidableEq, Repr

/-- The fence units of R445. -/
inductive FenceUnit
  | slice (n : Nat) | channel (n : Nat) | home (n : Nat) | router (n : Nat) | port (p : Nat) | frond (t : Nat) | key (k : Nat)
deriving DecidableEq, Repr

/-- What a DEC-TED decoder reports of a vector of CHECK (R497). -/
inductive CheckOut | clean | single | double | ue | mark | loc
deriving DecidableEq, Repr

/-- What one decoder gives for vector `vec`: its owner (none: it is shared), the outcome, and the data out (R497, R498). -/
structure CheckAns where
  owner : Option FenceUnit := none
  vec : Nat := 0
  out : CheckOut := .clean
  data : BitVec 64 := 0
deriving DecidableEq, Repr

/-- CODE of an error record (R458), in code order. -/
inductive RecCode
  | ceData | ueData | locData | ceTag | ueTag | uePres | lstep | lstest | ledger | ueDir | hdrUe | bound | payPar | drop
  | promiseMiss | breach | macFail | nodeLost | stipe | keyUe | portDead | portRej | credit | refLost | rowSpared | colSpared
  | spareOut | fence | domainStop | wbDiscard | auditBad | crozSkip | poisonWr | poisoned
deriving DecidableEq, Repr

/-- SOURCE of an error record (R458), in code order. -/
inductive RecSource | global | slice | channel | home | router | port | gate | frond | key | stipe
deriving DecidableEq, Repr

/-- Access-error causes (R560), in code order from 1. -/
inductive AccCause | narrow | align | encoding | busy | denied | unassigned | viaView
deriving DecidableEq, Repr

/-- Who makes a register access (R549, R560). -/
inductive Requester | pf0 | vf (k : Nat) | window (d : Nat) | medulla
deriving DecidableEq, Repr

/-- The four views of the register space (R547). -/
inductive View | normal | set | clr | tgl
deriving DecidableEq, Repr

/-- How a register access completes (R549, R552, R541). -/
inductive RegStatus | ok | completerAbort | unsupported | retryStatus | errProtocol | errDenied
deriving DecidableEq, Repr

/-- STATUS of an image command (R492), in code order. -/
inductive ImgStatus
  | ok | running | length | align | dma | format | signature | ownerkey | rollback | hwrev | mif | directory | domain | port
  | tenancy | near | home | service | route | fault | protect | mode | busy | base | slot | empty
deriving DecidableEq, Repr

/-- STATUS of a mailbox command (R567), in code order. -/
inductive MbxStatus
  | ok | running | badcmd | mode | length | align | dma | signature | slot | ownerkey | hwrev | format
deriving DecidableEq, Repr

/-- The line of data: byte i of the line in [8i+7:8i] (R9), codeword j in [64j+63:64j];
`marks` bit j set: codeword j is a poison mark (R435). -/
structure LineData where
  bits : BitVec 1024 := 0
  marks : BitVec 16 := 0
deriving DecidableEq, Repr

/-- A coherence message with the fields of R190, R269, R305 and R353. Fields a message does not use hold their default. -/
structure Msg where
  op : Op
  line : LineAddr := 0
  txn : BitVec 12 := 0
  requester : Endpoint := 0
  answerTo : Endpoint := 0
  sender : Endpoint := 0
  grant : CohState := .i
  newstate : CohState := .i
  count : Nat := 0
  crit : BitVec 4 := 0
  err : ErrCode := .none
  fwd : Bool := false
  evicting : Bool := false
  wt : Bool := false
  nodata : Bool := false
  cls : BitVec 2 := 0
  hold : Option Nat := none
  nodl : Bool := false
  dl : KTime := 0
  hitDl : KTime := 0
  destDev : BitVec 9 := 0
  data : LineData := {}
  mask : BitVec 128 := 0
  half : Option Bool := none
  /-- the 16 stored codewords of R400, in messages to and from a MEMORY port -/
  cw : List (BitVec 80) := []
  /-- a Gate's answer to a request that it did not admit: it completes no watch entry -/
  refused : Bool := false
  retryAt : KTime := 0
  held : Bool := false
  reason : Reason := .calendar
  bstatus : BStatus := .ok
  lostTgt : Agent := 0
  lostCnt : Nat := 0
  cfgData : BitVec 64 := 0
  cfgEight : Bool := false
  cfgOff : BitVec 26 := 0
deriving DecidableEq, Repr

/-- The sinks of a node (R314 EGR) that a unit may be addressed to. -/
inductive Sink | port (k : Nat) | slice | home
deriving DecidableEq, Repr

/-- A Hypha unit: the routing fields of the header of R314 beside the message it carries. -/
structure FUnit where
  src : Nat
  dst : Nat
  sink : Sink
  msg : Msg
  age : Nat := 0
  seq : Nat := 0
  /-- the port at which the message entered this device (R206) -/
  ent : Option Nat := none
  /-- Karik time of port ingress, of a unit that came in at a port (R42) -/
  ing : KTime := 0
  /-- the FCLK edge on which the unit entered the queue that holds it, or on which it left for the next router (R205, R313) -/
  at_ : Nat := 0
  /-- Full-mode detour under way (R337): 1 in the next row, 2 in the next column -/
  det : Nat := 0
  /-- the router ejected it into the queue that holds it (R325, R330) -/
  ej : Bool := false
  /-- its place in the order in which units entered queues of its node -/
  ord : Nat := 0
deriving DecidableEq, Repr

/-- Directions of a router's links, in the order of R321. -/
inductive Dir | px | mx | py | my
deriving DecidableEq, Repr

/-- Where UNIT_ARRIVAL takes its unit from: a link input, the node's injection (from a queue of the node), or a port's ingress. -/
inductive Arrival | link (d : Dir) | inject | port (k : Nat) (m : Msg)
deriving DecidableEq, Repr

/-- What the receiving router's checks of R320 find in a unit, and an opcode that R189 reserves. -/
inductive HdrCheck | clean | headerCe | headerUe | payloadParity | reservedOp
deriving DecidableEq, Repr

/-- What one trip of a pass through the pipeline shows: bit errors on the stored tag words (by way) and presence words (by word) of its set, and whether
the outputs of the two copies differ, with the way in which the primary copy then resolved a hit (R80 to R92). -/
structure PassTry where
  tags : List (Nat × BitVec 80) := []
  pres : List (Nat × BitVec 80) := []
  differ : Option (Option Nat) := none
deriving DecidableEq, Repr

/-- What a pass meets on its first trip and on its replay, a parity error of the replacement array (R117), an allocation that finds its ledger wrong (R139),
and the bit errors on the 16 codewords of a line that it reads to merge or to move out (R76). -/
structure PassFault where
  first : PassTry := {}
  replay : PassTry := {}
  replParity : Bool := false
  ledger : Bool := false
  tile : List (BitVec 80) := []
deriving DecidableEq, Repr

/-- What the check of a peer-directory set shows (R217): a word corrected, or a way lost, with its syndrome (R458). -/
inductive DirFault | clean | corrected (way : Nat) (syn : BitVec 15) | lost (way : Nat) (syn : BitVec 15)
deriving DecidableEq, Repr

/-- A pass of slice `n`, and what it meets. -/
structure PassAt where
  n : Nat
  x : PassFault := {}
deriving DecidableEq, Repr

/-- A check of a peer-directory set at home shard `n`, and what it shows. -/
structure DirAt where
  n : Nat
  x : DirFault := .clean
deriving DecidableEq, Repr

/-- A flit as the receiver of a port has it: its sequence number, its bits, and the largest number of symbol errors in its codewords (R347, R351). -/
structure RxFlit where
  seq : BitVec 16
  flit : BitVec 672
  symErr : Nat := 0
deriving DecidableEq, Repr

/-- The fields a partner presents in DISC_ID (R365). -/
structure DiscId where
  kind : BitVec 8 := 0
  role : BitVec 3 := 0
  width : BitVec 2 := 0
  vendor : BitVec 16 := 0
  part : BitVec 16 := 0
  rev : BitVec 8 := 0
  linkver : BitVec 8 := 0
  microcode : BitVec 16 := 0
  mif : BitVec 16 := 0
  caps : BitVec 16 := 0
  agent : Agent := 0
  sysid : BitVec 64 := 0
  uid : BitVec 64 := 0
deriving DecidableEq, Repr

/-- The fields a partner presents in DISC_CFG (R365). -/
structure DiscCfg where
  cred : List Nat := []
  carried : Nat := 0
  contract : Nat := 0
  durable : Nat := 0
  assign : Agent := 0
  timeSync : Bool := false
  timeAlone : Bool := false
  timeRoot : Bool := false
  rootIdx : Nat := 0
  rootHops : Nat := 0
deriving DecidableEq, Repr

/-- An 80-bit time stamp of a TSYNC exchange as a count of 2^-16 ns (R370). -/
abbrev Stamp := Nat

/-- One training outcome per lane and state, as a port's training reports it (R361, R362). -/
structure TrainResult where
  /-- lanes, counted from the lowest, that pass EQ -/
  eqOk : List Bool := []
  lockOk : Bool := true
  /-- the largest skew between two lanes of the port, in ns (R348, R361) -/
  skew : Nat := 0
  flitOk : Bool := true
deriving DecidableEq, Repr

/-- One partner found during LINK and FIND of a start (R493). -/
structure Found where
  port : Nat
  train : TrainResult := {}
  id : DiscId := {}
  cfg : DiscCfg := {}
  keyxOk : Bool := true
  /-- offset of the partner's Karik time in 2^-24 ns, for the step of R38 -/
  offset : Int := 0
deriving DecidableEq, Repr

/-- What the outside world and the module's own devices answer during a start (R493 to R504). -/
structure StartIn where
  /-- VIN in mV, and how long in µs the three conditions of R517 have held -/
  vin : Nat := 0
  heldUs : Nat := 0
  resetHigh : Bool := true
  pfwHigh : Bool := true
  /-- how long in µs PFW_N has been high (R513) -/
  pfwHighUs : Nat := 0
  refsel : Bool := false
  extRefPresent : Bool := false
  extRefLocks : Bool := true
  railsOk : Bool := true
  rootLocks : Bool := true
  fuse0Ok : Bool := true
  fuse1Ok : Bool := true
  /-- answers of the decoders to the vectors of CHECK; a decoder that is not named gives the table's -/
  checks : List CheckAns := []
  clearBad : List FenceUnit := []
  /-- REPAIR is stopped at its budget after this many runtime repairs -/
  repairOverrun : Option Nat := none
  /-- Peat entries whose CRC fails -/
  peatBad : List Nat := []
  fwReadyA : Bool := true
  fwReadyB : Bool := true
  serdesA : Bool := true
  serdesB : Bool := true
  found : List Found := []
  auditBad : List FenceUnit := []
  /-- elapsed µs of each step, in step order -/
  elapsed : List Nat := []
deriving DecidableEq, Repr

/-- What a full apply meets outside the controller (R488): dirty data that near owners and peer holders return in step 3 (domain, line, data),
tree nodes that their write-back reads from memory (tree, position, level, index, contents), whether every write was answered,
and the ports whose partners do not answer DETACH within 2 ms. -/
structure ApplyIn where
  dirty : List (Nat × LineAddr × LineData) := []
  nodes : List (Nat × Nat × Nat × Nat × BitVec 1024) := []
  durable : Bool := true
  silent : List Nat := []
deriving DecidableEq, Repr

/-- The readings the supervisor takes every 1 ms (R533, R537): VIN and rails in mV, currents in 10 mA, powers in mW, temperatures in °C. -/
structure Readings where
  vin : Nat := 0
  iin : Nat := 0
  vout : List Nat := []
  iout : List Nat := []
  pout : Nat := 0
  pin : Nat := 0
  die : List Int := []
  tile : List Int := []
  pstage : List Int := []
  inlet : Int := 25
  prsnt : BitVec 32 := 0
  bank : Nat := 0
deriving DecidableEq, Repr

/-- A temperature sensor (R537). -/
inductive Sensor | die (i : Nat) | tile (i : Nat) | pstage (i : Nat) | inlet
deriving DecidableEq, Repr

/-- A PCI Express configuration request that changes the endpoint's state (R543, R545). -/
inductive CfgReq | read (fn : Nat) | setBme (on : Bool) | setPower (d3hot : Bool) | setBars (fn : Nat) (on : Bool) | other (fn : Nat)
deriving DecidableEq, Repr

/-- How a Capsule dump ends (R581, R582). -/
inductive DumpResult | done | dmaError | errResponse (e : ErrCode)
deriving DecidableEq, Repr

/-- What a test-port array instruction asks (R429, R535). -/
inductive ArrayOp | readLine (node slot : Nat) | writeLine (node slot : Nat) (d : LineData) | forbidden
deriving DecidableEq, Repr

end Sys2Proof
end

