-- ==== Sys2Proof/Syntax.lean ====
section
/-! DEFINITION. The commands and events of the opcode table: one constructor per row, with the operands the outside world supplies. -/

namespace Sys2Proof

/-- One row of spec/opcode_table.json per constructor, in the table's order. Node, port, tenancy and entry numbers are plain numbers, bounded by `WellFormed`. -/
inductive Instr
  /-- START. R493. The first ACLK edge with input valid, RESET_N high and PFW_N high; `x` is what the module and its partners answer in the steps. -/
  | start (x : StartIn)
  /-- SUPPLY_RETRY. R499. 100 ms after a failed SUPPLY attempt. -/
  | supplyRetry (x : StartIn)
  /-- RESET_N. R513, R524. RESET_N low for 25 ACLK edges; `durable`: every MEM_WR_DUR of the flush was answered. -/
  | resetN (flushUs : Nat) (durable : Bool)
  /-- PFW_N. R521. PFW_N low on 3 ACLK edges. -/
  | pfwN (byPlatform : Bool) (flushUs : Nat) (durable : Bool)
  /-- INPUT_INVALID. R517. VIN in mV and the bank energy in µJ. -/
  | inputInvalid (mv : Nat) (bank : Nat)
  /-- VIN_DIP. R520. VIN falls to `mv`. -/
  | vinDip (mv : Nat)
  /-- DIP_TIMER. R520. VIN has been below 8.4 V for 200 µs. -/
  | dipTimer
  /-- E_WARN. R520. The bank energy has fallen to `bank` µJ. -/
  | eWarn (bank : Nat)
  /-- RIDE. R520. VIN returns to `mv` with `bank` µJ left. -/
  | ride (mv bank : Nat)
  /-- OVERVOLT. R516. VIN has been above 63 V for 20 µs. -/
  | overvolt (mv : Nat)
  /-- THERMAL. R537. A sensor reaches its trip value. -/
  | thermal (x : Sensor) (c : Int)
  /-- WARN. R537. A sensor reaches its warning value. -/
  | warn (x : Sensor) (c : Int)
  /-- PFW_RELEASE. R522. The conditions of R517 have held for `heldUs` µs in Dormant. -/
  | pfwRelease (mv heldUs : Nat)
  /-- PERST_N. R542. The level of PERST_N. -/
  | perstN (low : Bool)
  /-- FLR. R542. Function-level reset of PF0. -/
  | flr
  /-- FLR_VF. R542. Function-level reset of VF k. -/
  | flrVf (k : Nat)
  /-- REF_LOST. R34, R35. The monitor finds no edge for 1 µs, or a departure of `ppm` parts per million. -/
  | refLost (noEdge : Bool) (ppm : Nat)
  /-- REF_RETURN. R36. -/
  | refReturn
  /-- DRAIN. R511. GLB_MODE_CMD DRAIN. -/
  | drain
  /-- QUIESCENT. R510. The end of Draining is examined; `durable`: the PERSIST flush was answered MEM_DUR throughout. -/
  | quiescent (durable : Bool)
  /-- MAINT. R510. GLB_MODE_CMD MAINT. -/
  | maint
  /-- RESUME. R510. GLB_MODE_CMD RESUME. -/
  | resume
  /-- FORCE_PAIR. R504. GLB_MODE_CMD FORCE_PAIR; the start continues from IMAGE. -/
  | forcePair (x : StartIn)
  /-- PAIR_GOOD. R505. GLB_MODE_CMD PAIR_GOOD. -/
  | pairGood
  /-- FENCE_FORGET. R500. GLB_MODE_CMD FENCE_FORGET. -/
  | fenceForget
  /-- KNOWN_GOOD. R505. 600 s of Serving or Degraded time have accumulated. -/
  | knownGood
  /-- WRITE. R484. `bytes` are what the fetch of IMG_LEN bytes from IMG_SRC returns. -/
  | imgWrite (slotB : Bool) (bytes : List Byte) (dmaOk : Bool)
  /-- VERIFY. R480. -/
  | imgVerify (slotB : Bool)
  /-- TRIAL. R485. -/
  | imgTrial (slotB : Bool)
  /-- APPLY. R488. In Bare the start continues with LINK, FIND and SERVE, for which `y` gives the answers (R487). -/
  | imgApply (slotB : Bool) (x : ApplyIn) (y : StartIn)
  /-- CONFIRM. R486. -/
  | imgConfirm
  /-- ERASE. R484. -/
  | imgErase (slotB : Bool)
  /-- ROUTE. R491. -/
  | imgRoute (bytes : List Byte) (dmaOk : Bool)
  /-- GET_INFO. R568. -/
  | getInfo (dmaOk : Bool)
  /-- FW_WRITE. R567. -/
  | fwWrite (slotB : Bool) (bytes : List Byte) (dmaOk : Bool)
  /-- FW_VERIFY. R567. -/
  | fwVerify (slotB : Bool)
  /-- MC_WRITE. R567. -/
  | mcWrite (slotB : Bool) (bytes : List Byte) (dmaOk : Bool)
  /-- MC_VERIFY. R567. -/
  | mcVerify (slotB : Bool)
  /-- OWNER_FILL. R569. OWNER with OP 0x01. -/
  | ownerFill (bytes : List Byte) (dmaOk : Bool)
  /-- OWNER_EMPTY. R569. OWNER with OP 0x02. -/
  | ownerEmpty (bytes : List Byte) (dmaOk : Bool)
  /-- PEAT_READ. R570. -/
  | peatRead (dmaOk : Bool)
  /-- MEASUREMENTS. R564. The measurement indexes asked for. -/
  | measurements (blocks : List Nat)
  /-- CERT. R563. -/
  | cert (slot : Nat)
  /-- CHAL. R563. -/
  | chal (nonce : BitVec 256)
  /-- KEY_EX. R563. -/
  | keyEx (share : BitVec 768)
  /-- HBEAT. R563. -/
  | hbeat (session : Nat)
  /-- IDE_KM. R565. -/
  | ideKm (session : Nat) (key : BitVec 256)
  /-- IDE_CHECK_FAIL. R565. -/
  | ideCheckFail
  /-- MSIX_PENDING_SEND. R561. The 10 µs of vector `vec` of function `fn` (0: PF0, k: VF k) have passed. -/
  | msixPendingSend (fn vec : Nat)
  /-- REGISTER_WRITE. R15. A write through the normal view of BAR0 or a window. -/
  | registerWrite (who : Requester) (off : BitVec 26) (size : Nat) (val : BitVec 64)
  /-- ALIAS_WRITE. R556. A write through the SET, CLR or TGL view. -/
  | aliasWrite (who : Requester) (off : BitVec 26) (size : Nat) (val : BitVec 64)
  /-- COUNTER_WRITE. R573. `inc` is the increment of the write's edge. -/
  | counterWrite (who : Requester) (off : BitVec 26) (size : Nat) (val : BitVec 64) (inc : Nat)
  /-- SLOW_WRITE. R558. -/
  | slowWrite (who : Requester) (off : BitVec 26) (size : Nat) (val : BitVec 64)
  /-- SLOW_WRITE_DONE. R558. The posted write of sub-block `k` takes effect. -/
  | slowWriteDone (k : Nat)
  /-- SHADOW_WRITE. R390. -/
  | shadowWrite (who : Requester) (off : BitVec 26) (size : Nat) (val : BitVec 64)
  /-- SPH_MAX_WRITE. R102. -/
  | sphMaxWrite (who : Requester) (t : Nat) (val : BitVec 32)
  /-- CFG_RD. R29. -/
  | cfgRd (port : Nat) (m : Msg)
  /-- CFG_WR. R29. -/
  | cfgWr (port : Nat) (m : Msg)
  /-- QREL. R85. -/
  | qrel (n : Nat)
  /-- HOM_QREL. R217. -/
  | homQrel (n : Nat)
  /-- LSTEST. R90. Whether the comparator squashed the marked pass. -/
  | lstest (n : Nat) (squashed : Bool)
  /-- PRED_CLR. R95. -/
  | predClr (n : Nat)
  /-- PRED_CLR_DONE. R95. -/
  | predClrDone (n : Nat)
  /-- SLC_AUDIT. R177. -/
  | slcAudit (n : Nat)
  /-- SLC_AUDIT_END. R177. -/
  | slcAuditEnd (n : Nat)
  /-- FLUSH. R175. POOL_CMD FLUSH of queue `q` of node `n`. -/
  | flush (n q : Nat)
  /-- FLUSH_DONE. R174. -/
  | flushDone (n q : Nat)
  /-- HOLD_CLR. R283. -/
  | holdClr (g : Nat)
  /-- GATE_AUDIT. R283. -/
  | gateAudit (g : Nat)
  /-- GATE_AUDIT_END. R283. -/
  | gateAuditEnd (g : Nat)
  /-- RTR_AUDIT. R342. -/
  | rtrAudit (n : Nat)
  /-- RTR_AUDIT_END. R342. -/
  | rtrAuditEnd (n : Nat)
  /-- HOM_NC_AUDIT. R417. -/
  | homNcAudit (n : Nat)
  /-- HOM_NC_AUDIT_END. R417. -/
  | homNcAuditEnd (n : Nat)
  /-- LOCK. R134. GLB_LOCK_CTL GO with OP lock. -/
  | lock (ten : Nat)
  /-- UNLOCK. R134. GLB_LOCK_CTL GO with OP unlock. -/
  | unlock (ten : Nat)
  /-- LOCK_PASS. R113. -/
  | lockPass (p : PassAt) (line : LineAddr) (ten : Nat)
  /-- UNLOCK_PASS. R114. -/
  | unlockPass (p : PassAt) (line : LineAddr) (ten : Nat)
  /-- CLAIM. R390. -/
  | claim
  /-- RELEASE. R390. -/
  | release
  /-- COMMIT. R391. -/
  | commit
  /-- EPOCH_DRAINED. R394. -/
  | epochDrained
  /-- KEYGEN. R397. -/
  | keygen (k : Nat)
  /-- RETIRE. R398. -/
  | retire (k : Nat)
  /-- RETIRE_END. R398. -/
  | retireEnd (k : Nat)
  /-- RANGE_INVALIDATION. R428. INV_CTL GO for domain `d`. -/
  | rangeInvalidation (d : Nat)
  /-- REKEY. R424. -/
  | rekey (job rng newkey : Nat)
  /-- RESEED. R427. -/
  | reseed (job rng newkey : Nat)
  /-- CROZIER_PASS. R425. -/
  | crozierPass (job : Nat) (line : LineAddr)
  /-- POP. R462. -/
  | pop
  /-- UNFENCE. R445. FLT_CLR GO. -/
  | unfence (frond : Bool) (index : Nat)
  /-- ARM. R584. -/
  | arm
  /-- DISARM. R585. -/
  | disarm
  /-- SNAP. R580. -/
  | snap
  /-- ZERO. R575. The increments of that edge, by counter index. -/
  | zero (incs : List (Nat × Nat))
  /-- CAPSULE_LATCH. R579. -/
  | capsuleLatch
  /-- DUMP_END. R581. -/
  | dumpEnd (x : DumpResult)
  /-- PAGE_ZERO. R591. -/
  | pageZero (who : Requester) (t : Nat) (incs : List (Nat × Nat))
  /-- RD_SH. R265. A request of this kind completes ingress at a NEAR or PLAIN port. -/
  | rdSh (port : Nat) (m : Msg)
  /-- RD_OWN. R265. A request of this kind completes ingress at a NEAR or PLAIN port. -/
  | rdOwn (port : Nat) (m : Msg)
  /-- OWN_UPG. R265. A request of this kind completes ingress at a NEAR or PLAIN port. -/
  | ownUpg (port : Nat) (m : Msg)
  /-- OWN_NODATA. R265. A request of this kind completes ingress at a NEAR or PLAIN port. -/
  | ownNodata (port : Nat) (m : Msg)
  /-- RD_NA. R265. A request of this kind completes ingress at a NEAR or PLAIN port. -/
  | rdNa (port : Nat) (m : Msg)
  /-- WR. R265. A request of this kind completes ingress at a NEAR or PLAIN port. -/
  | wr (port : Nat) (m : Msg)
  /-- CARRIED_REQUEST. R270. A request completes ingress at a PEER port. -/
  | carriedRequest (port : Nat) (m : Msg)
  /-- HOLD_EXPIRE. R268. Hold `h` of Gate `g`. -/
  | holdExpire (g h : Nat)
  /-- RETRY_ORDER_CLOSE. R293. Retry-order entry `i` of a port slot. -/
  | retryOrderClose (g slot i : Nat)
  /-- BALANCER. R258. -/
  | balancer (d : Nat)
  /-- SLOT_ADVANCE. R259. -/
  | slotAdvance (d : Nat)
  /-- WATCH_TIMEOUT. R277. Watch entry `i` of Gate `g`. -/
  | watchTimeout (g i : Nat)
  /-- TAIL_EXPIRE. R301. Tail entry `i` of Gate `g`. -/
  | tailExpire (g i : Nat)
  /-- COMPLETION_EGRESS. R276. The message is handed to the port's FEC encoder. -/
  | completionEgress (port : Nat) (m : Msg)
  /-- BARRIER. R297. -/
  | barrier (port : Nat) (m : Msg)
  /-- BAR_DONE. R305. Barrier `i` of Gate `g`. -/
  | barDone (g i : Nat)
  /-- LOOKUP_PASS. R198. A lookup of slice `n` for the admitted request `m`. -/
  | lookupPass (n : Nat) (m : Msg) (x : PassFault)
  /-- PF_HINT. R155. -/
  | pfHint (n : Nat) (m : Msg)
  /-- RUN_AHEAD_EXPIRE. R156. -/
  | runAheadExpire (n : Nat) (line : LineAddr)
  /-- TILE_DATA. R76. A half of the read of slot `slot` returns; `flips`: the bit errors on its eight stored codewords; `used`: the pass commits this way; `m` is the answer the data is for. -/
  | tileData (n slot : Nat) (upper : Bool) (flips : List (BitVec 80)) (used : Bool) (m : Msg)
  /-- HALF_FILL. R151. -/
  | halfFill (n : Nat) (m : Msg)
  /-- SNP_SH. R202. The snoop reaches slice `n`. -/
  | snpSh (n : Nat) (m : Msg) (x : PassFault)
  /-- SNP_OWN. R202. The snoop reaches slice `n`. -/
  | snpOwn (n : Nat) (m : Msg) (x : PassFault)
  /-- SNP_INV. R202. The snoop reaches slice `n`. -/
  | snpInv (n : Nat) (m : Msg) (x : PassFault)
  /-- SNP_CUR. R202. The snoop reaches slice `n`. -/
  | snpCur (n : Nat) (m : Msg) (x : PassFault)
  /-- RSP_I. R209, R199. The answer reaches home shard `n`, or slice `n` as near-level home; `x` is what the slice's pass meets. -/
  | rspI (atHome : Bool) (n : Nat) (m : Msg) (x : PassFault)
  /-- RSP_S. R209, R199. The answer reaches home shard `n`, or slice `n` as near-level home; `x` is what the slice's pass meets. -/
  | rspS (atHome : Bool) (n : Nat) (m : Msg) (x : PassFault)
  /-- RSP_FWD. R209, R199. The answer reaches home shard `n`, or slice `n` as near-level home; `x` is what the slice's pass meets. -/
  | rspFwd (atHome : Bool) (n : Nat) (m : Msg) (x : PassFault)
  /-- SDATA. R209, R199. The answer reaches home shard `n`, or slice `n` as near-level home; `x` is what the slice's pass meets. -/
  | sdata (atHome : Bool) (n : Nat) (m : Msg) (x : PassFault)
  /-- COMP_ACK. R193. -/
  | compAck (atHome : Bool) (p : PassAt) (m : Msg)
  /-- DATA. R145. Line data reaches slice `n` as a fill pass. -/
  | data (n : Nat) (m : Msg) (x : PassFault)
  /-- GRANT. R210. -/
  | grant (p : PassAt) (m : Msg)
  /-- CMP. R210. -/
  | cmp (p : PassAt) (m : Msg)
  /-- DUR. R162. -/
  | dur (p : PassAt) (m : Msg)
  /-- ERR. R164. -/
  | err (p : PassAt) (m : Msg)
  /-- WB_ACK. R165. -/
  | wbAck (n : Nat) (m : Msg)
  /-- WB_SUPERSEDED. R166. -/
  | wbSuperseded (n : Nat) (m : Msg)
  /-- WB. R212. -/
  | wb (atHome : Bool) (p : PassAt) (m : Msg)
  /-- EVN. R212. -/
  | evn (atHome : Bool) (p : PassAt) (m : Msg)
  /-- ROLLOVER_END. R411. `key` names the node in the node cache of home shard `n`. -/
  | rolloverEnd (n key : Nat)
  /-- HOME_SEQUENCE. R205. `src` is SRC of R206. -/
  | homeSequence (n : Nat) (m : Msg) (src : Nat)
  /-- ACTIVATION. R208. The head request of the line becomes active. -/
  | activation (p : DirAt) (line : LineAddr)
  /-- MEM_DATA. R403. The message that came in on Karik time `ing`. -/
  | memData (n : Nat) (m : Msg) (ing : KTime)
  /-- MEM_ACK. R197. -/
  | memAck (n : Nat) (m : Msg)
  /-- MEM_DUR. R197. The message that came in on Karik time `ing`. -/
  | memDur (n : Nat) (m : Msg) (ing : KTime)
  /-- MEM_WR_EJECTED. R223. -/
  | memWrEjected (n : Nat) (line : LineAddr)
  /-- MSHR_TIMEOUT. R146. -/
  | mshrTimeout (n i : Nat)
  /-- NODE_CLEAN. R418. -/
  | nodeClean (n key : Nat)
  /-- EPOCH. R127. -/
  | epoch (n : Nat)
  /-- SPHAGNUM_MOVE. R127. -/
  | sphagnumMove (n : Nat)
  /-- SWEEP_MARKER. R228. -/
  | sweepMarker (n : Nat)
  /-- SWEEP_PASS. R230. -/
  | sweepPass (p : PassAt)
  /-- SWEEP_END. R233. -/
  | sweepEnd (n : Nat)
  /-- PATROL_SCRUB. R436. The bit errors on the 16 codewords the slot holds, and what the words of the set show. -/
  | patrolScrub (n : Nat) (flips : List (BitVec 80)) (x : PassFault)
  /-- DIR_SCRUB. R437. -/
  | dirScrub (n : Nat) (x : DirFault)
  /-- NC_SCRUB. R437. -/
  | ncScrub (n : Nat) (correctable uncorrectable : Bool)
  /-- STIPE_SCRUB. R437. Stipe words whose copies disagree (word, how many copies agree), key entries whose words are uncorrectable. -/
  | stipeScrub (disagree : List (Nat × Nat)) (badKeys : List Nat)
  /-- SPARE_REMAP. R441. -/
  | spareRemap (n : Nat)
  /-- SLICE_DRAIN_STEP. R447. -/
  | sliceDrainStep (n : Nat)
  /-- DRAIN_END. R449. -/
  | drainEnd (n : Nat)
  /-- HANDOVER_END. R450. -/
  | handoverEnd (n : Nat)
  /-- DETOUR. R336. -/
  | detour (d : Nat)
  /-- DETOUR_REORDER_END. R340. -/
  | detourReorderEnd (d : Nat)
  /-- UNIT_ARRIVAL. R328. -/
  | unitArrival (n : Nat) (a : Arrival) (x : HdrCheck)
  /-- DETECT. R375. `awake`: the partner has left electrical idle on the lowest lane. -/
  | detect (p : Nat) (awake : Bool)
  /-- TRAIN. R361. -/
  | train (p : Nat) (x : TrainResult)
  /-- DISC_ID. R365. -/
  | discId (p : Nat) (x : DiscId)
  /-- DISC_CFG. R366. -/
  | discCfg (p : Nat) (x : DiscCfg)
  /-- DISC_KEYX. R379. -/
  | discKeyx (p : Nat) (share : BitVec 768) (sig : BitVec 4096) (chainRoot : BitVec 512)
  /-- DISC_DONE. R368. `offset` is the partner's offset in 2^-24 ns that the first exchange measured. -/
  | discDone (p : Nat) (offset : Int)
  /-- DISC_REJ. R366. Received from the partner. -/
  | discRej (p : Nat) (reason : Nat)
  /-- DISC_TIMEOUT. R366. -/
  | discTimeout (p : Nat)
  /-- FAILED_RETURN. R366. -/
  | failedReturn (p : Nat)
  /-- TIME_STEP. R369. -/
  | timeStep (d : Nat)
  /-- TSYNC_EXCHANGE. R370. -/
  | tsyncExchange (p : Nat) (t1 : Stamp)
  /-- TSYNC_REQ. R370. -/
  | tsyncReq (p : Nat) (t1 t2 t3 : Stamp)
  /-- TSYNC_RSP. R371. -/
  | tsyncRsp (p : Nat) (t1 t2 t3 t4 : Stamp) (sync : Bool) (rootIdx rootHops : Nat)
  /-- SYNC_LOST. R371. -/
  | syncLost (d : Nat)
  /-- LACK. R356. -/
  | lack (p : Nat) (seq : BitVec 16)
  /-- LNAK. R356. -/
  | lnak (p : Nat) (seq : BitVec 16)
  /-- TAG. R378. The flits of the block that the TAG flit closes. -/
  | tag (p : Nat) (block : Nat) (flits : List (BitVec 672)) (tagBits : BitVec 128) (newKey : Bool)
  /-- LINK_KEY_EXCHANGE. R379. -/
  | linkKeyExchange (p : Nat) (share : BitVec 768) (sig : BitVec 4096) (chainRoot : BitVec 512)
  /-- RETRAIN. R363. PORT_CMD RETRAIN. -/
  | retrain (p : Nat)
  /-- FAST_RETRAIN_END. R363. -/
  | fastRetrainEnd (p : Nat) (ok : Bool)
  /-- PORT_DRAIN. R376. PORT_CMD DRAIN. -/
  | portDrain (p : Nat)
  /-- DETACH_REQ. R376. -/
  | detachReq (p : Nat)
  /-- DETACH_ACK. R376. -/
  | detachAck (p : Nat)
  /-- DETACH_DONE. R376. -/
  | detachDone (p : Nat)
  /-- DRAIN_FALLBACK. R376. -/
  | drainFallback (p : Nat)
  /-- PARTNER_DEAD. R377. -/
  | partnerDead (p : Nat)
  /-- ISOLATION_END. R377. -/
  | isolationEnd (p : Nat)
  /-- SENSOR_REFRESH. R533. -/
  | sensorRefresh (x : Readings)
  /-- PAGE. R533. -/
  | page (v : Byte) (pecOk : Bool)
  /-- CLEAR_FAULTS. R533. -/
  | clearFaults (pecOk : Bool)
  /-- CAPABILITY. R533. -/
  | capability (pecOk : Bool)
  /-- VOUT_MODE. R533. -/
  | voutMode (pecOk : Bool)
  /-- STATUS_BYTE. R533. -/
  | statusByte (pecOk : Bool)
  /-- STATUS_WORD. R533. -/
  | statusWord (pecOk : Bool)
  /-- STATUS_VOUT. R533. -/
  | statusVout (pecOk : Bool)
  /-- STATUS_IOUT. R533. -/
  | statusIout (pecOk : Bool)
  /-- STATUS_INPUT. R533. -/
  | statusInput (pecOk : Bool)
  /-- STATUS_TEMPERATURE. R533. -/
  | statusTemperature (pecOk : Bool)
  /-- STATUS_CML. R533. -/
  | statusCml (pecOk : Bool)
  /-- READ_VIN. R533. -/
  | readVin (pecOk : Bool)
  /-- READ_IIN. R533. -/
  | readIin (pecOk : Bool)
  /-- READ_VOUT. R533. -/
  | readVout (pecOk : Bool)
  /-- READ_IOUT. R533. -/
  | readIout (pecOk : Bool)
  /-- READ_TEMPERATURE_1. R533. -/
  | readTemperature1 (pecOk : Bool)
  /-- READ_TEMPERATURE_2. R533. -/
  | readTemperature2 (pecOk : Bool)
  /-- READ_TEMPERATURE_3. R533. -/
  | readTemperature3 (pecOk : Bool)
  /-- READ_POUT. R533. -/
  | readPout (pecOk : Bool)
  /-- READ_PIN. R533. -/
  | readPin (pecOk : Bool)
  /-- PMBUS_REVISION. R533. -/
  | pmbusRevision (pecOk : Bool)
  /-- MFR_ID. R533. -/
  | mfrId (pecOk : Bool)
  /-- MFR_MODEL. R533. -/
  | mfrModel (pecOk : Bool)
  /-- MFR_REVISION. R533. -/
  | mfrRevision (pecOk : Bool)
  /-- ALERT_RESPONSE. R534. -/
  | alertResponse
  /-- IDCODE. R535. -/
  | idcode
  /-- BYPASS. R535. The TDI bit shifted through. -/
  | bypass (tdi : Bool)
  /-- SAMPLE_PRELOAD. R535. -/
  | samplePreload (cells : List Bool)
  /-- EXTEST. R535. -/
  | extest (cells : List Bool)
  /-- ARRAY_INSTRUCTION. R429. -/
  | arrayInstruction (x : ArrayOp)
  /-- LINK_CHECK_FAIL. R356. The first flit that fails, by sequence number. -/
  | linkCheckFail (p : Nat) (f : RxFlit)
  /-- TRAINING_BUDGET. R362. -/
  | trainingBudget (p : Nat) (x : TrainResult)
  /-- REGISTER_READ. R552. A read through BAR `bar`. -/
  | registerRead (who : Requester) (bar : Nat) (off : BitVec 26) (size : Nat)
  /-- CONFIGURATION_REQUEST. R543. -/
  | configurationRequest (x : CfgReq)
  /-- VECTOR_UNMASK. R561. -/
  | vectorUnmask (fn vec : Nat)
  /-- ALWAYS_ON_DOMAIN_START. R574. The straps as sampled (R532). -/
  | alwaysOnDomainStart (smbAddr : BitVec 3)
  /-- RETRY_RESEND. R582. Domain `d` of the controller writer. -/
  | retryResend (d : Nat)
  /-- PMBUS_INVALID_COMMAND. R533. -/
  | pmbusInvalidCommand (code : Byte) (write : Bool)
deriving DecidableEq, Repr

end Sys2Proof
end

