-- ==== Sys2Proof/Word/Image.lean ====
section
/-! DEFINITION. The Thallus image in decoded form (R463 to R475), and the fields of range and permission entries. -/

namespace Sys2Proof

/-- A DOMAIN section (R467). `nlog` is log2 of the node count, `wlog` log2 of the ways. -/
structure ImgDomain where
  nlog : Nat := 2
  origin : Nat := 0
  wlog : Nat := 1
  seed : BitVec 6 := 0
  dist : Nat := 0
  device : BitVec 9 := 0
  capsule : Nat := 0
  roots : List (BitVec 9) := []
  thresh : Nat := 0
  sysid : BitVec 64 := 0
  cfgwin : BitVec 64 := 0
  chainRoot : BitVec 512 := 0
deriving DecidableEq, Repr

/-- A PORT entry (R468). `wlog` is log2 of the lane count. -/
structure ImgPort where
  role : Role := .off
  wlog : Nat := 0
  group : Nat := 0
  reduce : Bool := false
  encReq : Bool := false
  cred : List Nat := []
  carried : Nat := 0
  durable : Nat := 0
deriving DecidableEq, Repr

/-- A TENANCY entry with DEFINED 1 (R469). -/
structure ImgTen where
  domain : Nat := 0
  min : Nat := 0
  max : Nat := 0
deriving DecidableEq, Repr

/-- A defined NEAR entry (R470): the group's ports in list order. -/
structure ImgNear where
  domain : Nat
  group : Nat
  ports : List Nat
deriving DecidableEq, Repr

/-- A used HOMERANGE entry (R471): base and metadata base in bytes, size in GiB, and the tree number of a protected range. -/
structure ImgHome where
  domain : Nat
  base : Nat := 0
  size : Nat := 0
  port : Nat := 0
  prot : Bool := false
  persist : Bool := false
  metaBase : Nat := 0
  tree : Nat := 0
deriving DecidableEq, Repr

/-- A SERVICE section (R472). `burst` and `rate` hold nine values, injection point k and class c at 3k + c. -/
structure ImgService where
  hit : List Nat := []
  near : List Nat := []
  miss : List Nat := []
  span : Nat := 0
  t2Share : Nat := 1
  snoopShare : Nat := 1
  retryFloor : Nat := 40
  t2Limit : Nat := 1
  burst : List Nat := []
  rate : List Nat := []
deriving DecidableEq, Repr

/-- A valid ROUTE entry (R473). -/
structure RouteEnt where
  dev : Nat
  ports : List Nat := []
  loc : Bool := false
  hops : Nat := 0
  cmpx : Nat := 0
deriving DecidableEq, Repr

/-- A range-table entry (R384). BASE and LIMIT are page numbers PA[51:12]. -/
structure RngEnt where
  base : BitVec 40 := 0
  lim : BitVec 40 := 0
  valid : Bool := false
  priv : Bool := false
  record : Bool := false
  cap : BitVec 2 := 0
  ten : BitVec 4 := 0
  home : BitVec 9 := 0
  keyid : BitVec 6 := 0
deriving DecidableEq, Repr

/-- A port permission entry (R387). -/
structure PermEnt where
  valid : Bool := false
  rd : Bool := false
  wr : Bool := false
  cfg : Bool := false
  trust : Bool := false
  ten : BitVec 4 := 0
deriving DecidableEq, Repr

/-- An image, decoded. -/
structure Thallus where
  seq : Nat := 0
  hwMin : Nat := 0
  hwMax : Nat := 255
  mifMin : Nat := 0
  mifMax : Nat := 65535
  routeOnly : Bool := false
  baseSeq : Nat := 0
  doms : List (Nat × ImgDomain) := []
  ports : List (Nat × ImgPort) := []
  tens : List (Nat × ImgTen) := []
  nears : List ImgNear := []
  homes : List ImgHome := []
  svcs : List (Nat × ImgService) := []
  routes : List (Nat × List RouteEnt) := []
  scrubMs : Nat := 1250
  wins : List (Nat × Nat) := []
  keygen : BitVec 64 := 0
  sealKeys : BitVec 64 := 0
  perms : List (Nat × PermEnt) := []
  rngs : List (Nat × RngEnt) := []
  digest : BitVec 512 := 0
deriving DecidableEq, Repr

/-- An error record (R458); `seq`, `ktime`, `dtime` and the flags are set when it is raised. -/
structure ErrRec where
  sev : Nat := 0
  source : RecSource := .global
  inst : Nat := 0
  code : RecCode := .ceData
  trip : Bool := false
  fence : Bool := false
  peat : Bool := false
  domain : Nat := 0
  win : Nat := 255
  seq : Nat := 0
  ktime : BitVec 64 := 0
  dtime : Nat := 0
  addr : BitVec 48 := 0
  set : Nat := 0
  way : Nat := 0
  cw : Nat := 255
  syn : BitVec 16 := 0
  agent : Agent := 0
  count : Nat := 1
  detail : BitVec 64 := 0
deriving DecidableEq, Repr

/-- A Peat log entry (R506), without its CRC, which `Peat.crc` computes. -/
structure PeatEnt where
  typ : Byte := 0
  start : BitVec 16 := 0
  seq : BitVec 32 := 0
  dtime : BitVec 64 := 0
  body : BitVec 96 := 0
deriving DecidableEq, Repr

/-- A firmware or microcode file held in a flash slot (R502). -/
structure CodeFile where
  version : BitVec 16
  mif : BitVec 16
  hwMin : Byte
  hwMax : Byte
  partners : List (BitVec 16)
  digest : BitVec 512
deriving DecidableEq, Repr

/-- A Frond node (R408). -/
structure FNode where
  majA : BitVec 64 := 0
  majB : BitVec 64 := 0
  /-- slot j: SEL in bit 13 and MINOR in [12:0] -/
  slots : List (BitVec 14) := []
deriving DecidableEq, Repr

end Sys2Proof
end

