-- ==== Sys2Proof/Config.lean ====
section
/-! DEFINITION. What one module fixes (fuses, keys), the cryptographic functions the manual names but whose standards lie outside it, and the free values: constants without a body, so that nothing can be proved of their values. -/

namespace Sys2Proof.Config

open Sys2Proof

/-- Hardware revision from the fuse map (R540, R560). DESIGN CHOICE: a value of the module, log entry 10. -/
opaque hwRev : BitVec 4
/-- 64-bit unique number of the module (R365). Log entry 10. -/
opaque uid : BitVec 64
/-- PCI-SIG vendor number from the fuse map (R540). Log entry 10. -/
opaque vendor : BitVec 16
/-- SHA-512 digest of the Valasting key held in the fuse map (R502). Log entry 10. -/
opaque valastingKey : BitVec 512
/-- Digests of the boot ROM and of the fuse map (R564). Log entry 10. -/
opaque romDigest : BitVec 512
opaque fuseDigest : BitVec 512
/-- Factory repairs of the fuse map (R440): tile channel, column, bank, index, spare. Log entry 10. -/
opaque factoryRepairs : List (Nat × Bool × Nat × Nat × Nat)

/-- SHA-512. Log entry 11. -/
opaque sha512 : List Byte → BitVec 512
/-- AES-256 of one block (R401). Log entry 11. -/
opaque aes256 : BitVec 256 → BitVec 128 → BitVec 128
/-- The most significant 64 bits of AES-256-GMAC: key, IV block, additional data (R402). Log entry 11. -/
opaque gmac64 : BitVec 256 → BitVec 128 → List Byte → BitVec 64
/-- AES-256-GCM tag of a link block: key, salt, block number, control words and payload (R378). Log entry 11. -/
opaque gcmTag : BitVec 256 → BitVec 32 → BitVec 64 → List (BitVec 672) → BitVec 128
/-- The AES-256-GCM key stream over the payload of flit `i` of a link block: key, salt, block number, i (R378). Log entry 11. -/
opaque gcmStream : BitVec 256 → BitVec 32 → BitVec 64 → Nat → BitVec 640
/-- RSASSA-PSS verification: modulus, message digest, signature (R476). Log entry 11. -/
opaque rsaPssVerify : BitVec 4096 → BitVec 512 → BitVec 4096 → Bool
/-- Whether a DISC_KEYX share's signature and chain authenticate under a root digest (R379). Log entry 11. -/
opaque keyxVerify : BitVec 512 → BitVec 768 → BitVec 4096 → Bool
/-- ECDH and HKDF of R379: own draw, partner share, both UIDs; a key and salt per direction. Log entry 11. -/
opaque keyxDerive : BitVec 256 → BitVec 768 → BitVec 64 → BitVec 64 → BitVec 256 × BitVec 32 × BitVec 256 × BitVec 32
/-- The public share that a draw of the DRBG gives (R379). Log entry 11. -/
opaque keyxShare : BitVec 256 → BitVec 768
/-- Measurement 4 while routes of a ROUTE command are in force changes, but the manual does not say to what (R564): a function of both digests. Log entry 17. -/
opaque routeMeasure : BitVec 512 → BitVec 512 → BitVec 512
/-- An SPDM signature over a request (R563, R564). Log entry 11. -/
opaque spdmSign : List (BitVec 1024) → BitVec 4096
/-- The device certificate chain (R563), as digests of its certificates. Log entry 10. -/
opaque certChain : List (BitVec 512)

/-- The version of an encrypted line outside every protected home range, which the manual does not give (R401). Log entry 16. -/
opaque outsideMajor : BitVec 64
opaque outsideMinor : BitVec 13

/-- Draws of the CTR_DRBG (R396, R568, R586): a fresh unconstrained value per draw. Log entry 12. -/
opaque draw : Nat → BitVec 256
/-- Ciphertext, half lines and other data that the manual leaves open: a fresh unconstrained value per use. Log entry 12. -/
opaque freeLine : Nat → BitVec 1024
/-- The word of a key-table entry that fails, and its syndrome, in a record (R453, R458): the manual says that the entry is fenced and not which bits failed. Log entry 125. -/
opaque keyWord : Nat → BitVec 12
opaque keySyn : Nat → BitVec 15
/-- Captured bits that the manual leaves open, by use and place. Log entry 12. -/
opaque freeBit : Nat → Nat → Bool
/-- The LINEAR16 exponent of VOUT_MODE and the LINEAR11 mantissas are not given (R533). Log entry 13. -/
opaque voutExp : BitVec 5
opaque linear11 : Nat → BitVec 16
opaque linear16 : Nat → BitVec 16
/-- Limits of a rail's voltage in mV, low and high, and of its current in 10 mA, which the manual names and does not give (R533). Log entry 13. -/
opaque voutLow : Nat → Nat
opaque voutHigh : Nat → Nat
opaque ioutHigh : Nat → Nat
/-- SerDes readings of a lane (R597) and tap values, not given by the manual. Log entry 14. -/
opaque sdsEye : Nat → BitVec 32
opaque sdsTaps : Nat → BitVec 32
/-- The digest by which the host's and the module's rate of correction of Karik time is chosen (R371): the steering law is open. Log entry 15. -/
opaque steer : List Int → Int

end Sys2Proof.Config
end

