-- ==== Sys2Proof/Machine/Units/Node.lean ====
section
/-! DEFINITION. The records that the units of one node hold: slice, home shard, Gate, router, cushion pool, tile quarter. Defaults are the values of the CLEAR step and of reset. -/

namespace Sys2Proof.Machine

open Sys2Proof

/-! ### Slice -/

/-- A tag word (R54) in decoded form; the default is the word that CLEAR writes (R493), with OWNER 0xFF as R187 requires under I. -/
structure TagWord where
  tag : BitVec 31 := 0
  origin : BitVec 6 := 0
  state : CohState := .i
  keyid : BitVec 6 := 0
  ten : BitVec 4 := 0
  lock : Bool := false
  owner : BitVec 8 := 0xFF
  subd : BitVec 2 := 0
deriving DecidableEq, Repr

/-- A way-predictor entry that is valid (R67). -/
structure PredEnt where
  way : Nat
  ptag : BitVec 8
deriving DecidableEq, Repr

/-- A request that waits in an MSHR or write-buffer entry: requester, type, deadlines, critical codeword, tenancy and class (R140, R158). -/
structure Waiter where
  agent : Endpoint
  op : Op
  dl : KTime := 0
  nodl : Bool := false
  hitDl : KTime := 0
  crit : BitVec 4 := 0
  cls : BitVec 2 := 0
  full : Bool := false
  /-- the critical half of an early restart has been sent to it (R151) -/
  gotHalf : Bool := false
deriving DecidableEq, Repr

/-- States of an MSHR other than FREE (R141). -/
inductive MshrSt | sent | granted | orphan
deriving DecidableEq, Repr

/-- The near miss that an MSHR runs (R199): near groups whose answer is due, COMP_ACKs due less those taken, the owner asked and whether data was forwarded. -/
structure NearMiss where
  pend : List Nat := []
  acks : Int := 0
  owner : Option Nat := none
  fwd : Bool := false
  lostOwner : Bool := false
  /-- the GRANT that follows forwarded data of an ownership read has been sent (R210) -/
  grantSent : Bool := false
  /-- the requester is a near group, which acknowledges forwarded data (R193) -/
  reqNear : Bool := false
  /-- when its last snoop left the port (0: none has) -/
  snpAt : KTime := 0
deriving DecidableEq, Repr

/-- An allocated MSHR (R140). -/
structure Mshr where
  line : LineAddr
  origin : BitVec 6 := 0
  ten : BitVec 4 := 0
  keyid : BitVec 6 := 0
  req : Op
  dl : KTime := 0
  crit : BitVec 4 := 0
  waiters : List Waiter := []
  wbLink : Bool := false
  inval : Bool := false
  st : MshrSt := .sent
  near : Option NearMiss := none
  copyLost : Bool := false
  grant : Option CohState := none
  fillData : Option LineData := none
  wt : Bool := false
  preMarker : Bool := false
  record : Bool := false
  /-- near groups whose SNP_INV of R164 or of an ownership request has not been answered -/
  snpPend : List Nat := []
  /-- the error that ends a durable write once R164's snoops are answered -/
  durErr : Bool := false
  /-- the Gate whose lease holds the entry (64: none) -/
  gate : Nat := 64
  /-- the victim-buffer reservation of the missing lookup is still held (R231) -/
  vbr : Bool := false
  /-- a GRANT with NODATA has been taken: the fill pass runs without data (R210) -/
  bare : Bool := false
  /-- TXN of the home's transaction, from its answer -/
  txn : BitVec 12 := 0
  /-- the PEER port whose carried credit the request holds -/
  pport : Option Nat := none
deriving DecidableEq, Repr

/-- A tile read on its way (R69, R73 to R76): its slot and line, the data the slot held when the read was issued, the answer it is for (none: no answer
needs it), the half it names first, its deadline (none: it has none), the FCLK edge on which it was issued, whether its pass committed the way,
and the half that has arrived with whether it was corrected. -/
structure TileRead where
  slot : Nat
  line : LineAddr
  data : LineData := {}
  msg : Option Msg := none
  upper : Bool := false
  dl : Option KTime := none
  at_ : Nat := 0
  kept : Bool := false
  first : Option (Bool × LineData × Bool) := none
deriving DecidableEq, Repr

/-- A write-buffer entry (R158). -/
structure WbEnt where
  line : LineAddr
  keyid : BitVec 6 := 0
  data : BitVec 1024 := 0
  mask : BitVec 128 := 0
  writers : List Waiter := []
  gate : Nat := 64
deriving DecidableEq, Repr

/-- A victim-buffer entry (R165) with the fields of the victim's tag word: in NEAR while answers of the groups of `pend` are due, else in SENT. -/
structure VbEnt where
  line : LineAddr
  ten : BitVec 4 := 0
  keyid : BitVec 6 := 0
  state : CohState := .i
  origin : BitVec 6 := 0
  lock : Bool := false
  owner : BitVec 8 := 0xFF
  subd : BitVec 2 := 0
  data : LineData := {}
  pend : List Nat := []
  sent : Bool := false
  gate : Nat := 64
deriving DecidableEq, Repr

/-- A run-ahead stream entry (R153): tenancy, 4 KiB region, last miss, direction once confirmed, last line hinted. -/
structure Stream where
  ten : BitVec 4
  region : Nat
  last : Nat
  dir : Option Bool := none
  hinted : Nat := 0
deriving DecidableEq, Repr

/-- What a sweep covers (R229), or a group-loss sweep of R377. -/
inductive SweepJob | range (d : Nat) (lo hi : BitVec 40) (isReseed : Bool) | key (k : Nat)
deriving DecidableEq, Repr

/-- A sweep in a slice (R228 to R233, SLC_SWEEP). -/
structure SweepSt where
  active : Bool := false
  done : Bool := false
  kind : BitVec 2 := 0
  next : Nat := 0
  job : Option SweepJob := none
  /-- a key retire by a fence that waits for the running sweep (R452) -/
  waiting : Option SweepJob := none
  /-- FCLK edge from which the next pass waits at the accept stage (R60) -/
  waitAt : Nat := 0
  /-- the next pass was returned for want of a victim-buffer entry (R232) -/
  held : Bool := false
deriving DecidableEq, Repr

/-- The drain engine of a fenced slice (R447): the next slot, whether the tile channel is fenced too, and entries that wait for answers. -/
structure DrainEng where
  running : Bool := false
  next : Nat := 0
  poison : Bool := false
  startAt : Nat := 0
deriving DecidableEq, Repr

/-- A runtime or fuse spare in use (R440): column or row, bank, index, spare number. -/
structure SpareUse where
  col : Bool
  bank : Nat
  idx : Nat
  spare : Nat
  runtime : Bool
  /-- the copy of R441 has ended and the remap is in effect -/
  live : Bool := true
deriving DecidableEq, Repr

/-- A slice with its cushion-pool selection registers. -/
structure Slice where
  /-- tag words, by set x W + way -/
  tags : Tab TagWord := []
  /-- presence masks, by set x W + way -/
  pres : Tab (BitVec 32) := []
  /-- re-reference values; an unlisted way reads 3 -/
  rrv : Tab (BitVec 2) := []
  pred : Tab (Option PredEnt) := []
  predClr : Bool := false
  /-- tag-lost ways (set, way), oldest first -/
  quar : List (Nat × Nat) := []
  lstepErr : Bool := false
  tagUe : Bool := false
  presUe : Bool := false
  corr : Bool := false
  lstestOk : Bool := false
  lstestDone : Bool := false
  /-- a comparator test has been started -/
  lstestRun : Bool := false
  /-- the same command was written again while it ran (R96) -/
  predAgain : Bool := false
  lstestAgain : Bool := false
  /-- owner tenancy of each way -/
  wayOwn : List Nat := []
  /-- floor ways, one bit per way -/
  floor : BitVec 16 := 0
  /-- last move: epoch, from, to, way -/
  sphLast : Option (Nat × Nat × Nat × Nat) := none
  /-- a move decided and not yet applied -/
  sphPend : Option (Nat × Nat × Nat × Nat) := none
  /-- the last epoch ended -/
  lastEpoch : Nat := 0
  umonSel : BitVec 8 := 0
  /-- shadow stacks, by sample x 16 + tenancy -/
  shadow : Tab (List (BitVec 12)) := []
  /-- UH(t, k), by t x 16 + k -/
  uh : Tab Nat := []
  mshrs : Tab (Option Mshr) := []
  wbuf : Tab (Option WbEnt) := []
  vbuf : Tab (Option VbEnt) := []
  /-- lines that the drain engine has under way (R447), beside the 128 victim-buffer entries -/
  drainVb : Tab (Option VbEnt) := []
  reissue : List Msg := []
  heldSnoops : List Msg := []
  /-- device-level snoops forwarded to near groups that have not answered yet: the snoop, the group, whether to the owner -/
  fwdSnoops : List (Msg × Nat × Bool) := []
  /-- near snoops of a detach sweep: line, group (R376) -/
  drainSnoops : List (LineAddr × Nat) := []
  /-- near WB and EVN held beside a near miss or drain snoop (R201) -/
  heldWb : List Msg := []
  /-- groups whose EVICTING answer awaits their WB or EVN for a line (R201, R213) -/
  evictDue : List (LineAddr × Nat) := []
  /-- tile reads on their way -/
  reads : List TileRead := []
  /-- slots whose line a maintenance pass invalidates (R438) -/
  invalDue : List Nat := []
  dist : Nat := 0
  streams : List Stream := []
  audRun : Bool := false
  audDone : Bool := false
  audWindow : Bool := false
  audBad : BitVec 4 := 0
  /-- FCLK edge on which the running audit was started, and what its latch shows once it is taken (R177) -/
  audAt : Nat := 0
  audLatch : Option (Nat × BitVec 4) := none
  sweep : SweepSt := {}
  /-- tile quarter: the line held in each slot, as its 16 data words and poison marks -/
  tile : Tab LineData := []
  spares : List SpareUse := []
  /-- line slots whose scrub read-correct-write is scheduled (R76) -/
  scrubDue : List Nat := []
  scrubNext : Nat := 0
  /-- ACLK edge from which the next slot may be scrubbed (R436) -/
  scrubAt : Nat := 0
  drain : DrainEng := {}
  /-- first unit of a half fill (R151): line, upper half, data -/
  halves : List (LineAddr × Bool × LineData) := []
  tokens : List Nat := []
  tokenAt : KTime := 0
deriving DecidableEq, Repr

/-! ### Home shard -/

/-- Where a transaction's memory read stands (R208, R209). -/
inductive MemSt | none | injected | handed | cancelled | arrived
deriving DecidableEq, Repr

/-- What an active transaction is: a request, an applied write-back or notice (R223), a recall of an entry's holders (R216, R376, R398, R427),
the hold of a Crozier or rollover pass (R425), a hand-over recall (R450). -/
inductive TxKind | request | wback | evn | recall | crozier (job : Option Nat) | handover
deriving DecidableEq, Repr

/-- An active transaction of a home shard. -/
structure Tx where
  line : LineAddr
  kind : TxKind := .request
  msg : Msg
  src : Nat := 0
  txn : BitVec 12 := 0
  /-- ACTIVATION has run -/
  started : Bool := false
  /-- devices snooped whose answer has not arrived; the own device stands for the probe -/
  pend : List Nat := []
  /-- near answers still due beyond one per snoop -/
  near : Int := 0
  /-- the snoops take ownership (R212) -/
  ownSnoop : Bool := false
  sdata : Option LineData := none
  fwd : Bool := false
  keptS : List Nat := []
  keptO : Option Nat := none
  /-- the answer that ends the transaction with an error -/
  err : ErrCode := .none
  mem : MemSt := .none
  /-- stored codewords that memory returned -/
  memCw : Option (List (BitVec 80)) := none
  /-- data without a memory read: zeros of MINOR 0, or a run-ahead entry's -/
  memData : Option LineData := none
  memErr : ErrCode := .none
  /-- the fill travels as two units, this half first (R150) -/
  two : Option Bool := none
  /-- the version of the line is not known yet (R416) -/
  waitNode : Bool := false
  /-- the effective request: ownership of a RECORD line is a shared read (R211) -/
  op : Op := .rdSh
  key : BitVec 6 := 0
  record : Bool := false
  port : Nat := 0
  tree : Option Nat := none
  /-- the requester is recorded in pointer form (R210) -/
  ptrHeld : Bool := false
  answered : Bool := false
  acked : Bool := false
  /-- devices whose EVICTING answer awaits their WB or EVN (R213) -/
  evict : List Nat := []
  heldWb : List Msg := []
  /-- a MEM_WR or MEM_WR_DUR of this transaction has not been ejected; a MEM_DUR is due -/
  memWr : Bool := false
  durDue : Bool := false
  /-- the victim entry's line of R216; of a recall, the transaction's line -/
  victim : Option LineAddr := none
  parent : Option LineAddr := none
  /-- of a hand-over recall, the fenced shard's node -/
  fromNode : Nat := 0
  /-- the place whose level-1 node is pinned: node cache, tree, position, index -/
  pin : Option (Nat × Nat × Nat × Nat) := none
  memAt : KTime := 0
  /-- when its last snoop to a near group of this device left the port (0: none has) -/
  snpAt : KTime := 0
  /-- a breach has been counted for it (R282) -/
  breached : Bool := false
deriving DecidableEq, Repr

/-- Directory entry states other than free (R214). -/
inductive DirSt | shared | owned | ownedShared
deriving DecidableEq, Repr

/-- A peer-directory entry in use (R214). -/
structure DirEnt where
  tag : BitVec 32
  origin : BitVec 6
  st : DirSt
  coarse : Bool := false
  owner : BitVec 9 := 0
  sharer2 : Option (BitVec 9) := none
  groups : BitVec 8 := 0
deriving DecidableEq, Repr

/-- A run-ahead entry (R155): the slice that hinted, the read's TXN, and what has arrived. -/
structure RunAhead where
  line : LineAddr
  from_ : Endpoint := 0
  txn : BitVec 12 := 0
  cw : Option (List (BitVec 80)) := none
  data : Option LineData := none
  key : BitVec 6 := 0
  epoch : BitVec 16 := 0
  at_ : KTime := 0
deriving DecidableEq, Repr

/-- A Crozier or rollover pass that has not taken its hold (R411, R425): job (none: rollover), noted version, the read's TXN, what has arrived. -/
structure Pass where
  line : LineAddr
  job : Option Nat := none
  ver : BitVec 64 × Nat := (0, 0)
  /-- the version has been noted and the read issued -/
  noted : Bool := false
  txn : BitVec 12 := 0
  cw : Option (List (BitVec 80)) := none
  err : ErrCode := .none
deriving DecidableEq, Repr

/-- A node read under way (R416): its place, TXN and codewords; `roll`: to be written again for a rollover. -/
structure Fetch where
  tree : Nat
  pos : Nat
  level : Nat
  index : Nat
  line : LineAddr
  txn : BitVec 12 := 0
  cw : Option (List (BitVec 80)) := none
  bad : Bool := false
  roll : Bool := false
  /-- when its MEM_RD left the memory port (0: it has not) -/
  memAt : KTime := 0
deriving DecidableEq, Repr

/-- A node-cache entry (R415 to R418). -/
structure NcEnt where
  tree : Nat
  pos : Nat
  level : Nat
  index : Nat
  node : FNode := {}
  dirty : Bool := false
  dirtyAt : KTime := 0
  crown : Bool := false
  pins : Nat := 0
  /-- held in a transaction record's node slot, not in the pool (R416) -/
  slot : Bool := false
  /-- the major that a rollover moves slots away from (false: MAJOR_A) -/
  roll : Option Bool := none
  /-- the rollover's sweep has been started -/
  swept : Bool := false
  rollDue : Bool := false
deriving DecidableEq, Repr

/-- A home shard. -/
structure Home where
  ptr : BitVec 8 := 0
  txs : List Tx := []
  /-- per-line queues: requests that wait, oldest first, by line -/
  lineq : List (LineAddr × List (Msg × Nat)) := []
  dir : Tab (Option DirEnt) := []
  quar : List (Nat × Nat) := []
  dirUe : Bool := false
  dirCorr : Bool := false
  ra : List RunAhead := []
  nc : List NcEnt := []
  passes : List Pass := []
  fetches : List Fetch := []
  /-- first halves of memory reads: line, TXN, half, codewords, FCLK edge (R150) -/
  halves : List (LineAddr × BitVec 12 × Bool × List (BitVec 80) × Nat) := []
  /-- run-ahead hints that have been sequenced (R155, R205) -/
  hints : List Msg := []
  /-- messages of one arrival edge in sequencing order: queue and message (R206) -/
  order : List (Nat × Msg) := []
  /-- WB and EVN of peer devices absorbed by the fence of this shard (R600) -/
  absorbed : List Msg := []
  ncAudRun : Bool := false
  ncDone : Bool := false
  ncWindow : Bool := false
  ncBad : Bool := false
  /-- FCLK edge on which the running node-cache audit was started, and what its latch shows once it is taken (R417) -/
  ncAudAt : Nat := 0
  ncLatch : Option (Nat × Bool) := none
  dirScrubNext : Nat := 0
  ncScrubNext : Nat := 0
  /-- ACLK edges from which the next scrubs may run (R437) -/
  dirScrubAt : Nat := 0
  ncScrubAt : Nat := 0
  /-- last MEM_WR edge of each line written within 16 FCLK (R405) -/
  lastWr : List (LineAddr × Nat) := []
  /-- the hand-over of R450 runs -/
  handover : Bool := false
  nextTxn : BitVec 12 := 0
  tokens : List Nat := []
  tokenAt : KTime := 0
deriving DecidableEq, Repr

/-! ### Gate -/

/-- Resources that carry calendars (R253). -/
inductive Res | acc (n : Nat) | chan (n : Nat) | seqr (n : Nat) | egr (p : Nat)
deriving DecidableEq, Repr

/-- A unit of a calendar slot. A unit of port egress counts against the frame of 16 slots that holds its slot (R253). -/
structure CalUnit where
  res : Res
  slot : Nat
deriving DecidableEq, Repr

/-- Counted entries a request reserves (R136, R256). -/
structure EntRes where
  mshr : Bool := false
  wb : Bool := false
  vb : Bool := false
  home : Bool := false
deriving DecidableEq, Repr

/-- A watch entry (R276): an admitted request until its completion. -/
structure Watch where
  port : Nat
  req : Endpoint
  agent : Agent
  line : LineAddr
  op : Op
  cls : Cls
  ten : Nat := 0
  dom : Nat := 0
  ingress : KTime := 0
  dl : KTime := 0
  hitDl : KTime := 0
  nearDl : KTime := 0
  slice : Nat := 0
  home : Option Nat := none
  peer : Option (BitVec 9) := none
  record : Bool := false
  epoch : BitVec 16 := 0
  carried : Bool := false
  queued : Bool := false
  timeout : Bool := false
  voided : Option VoidCause := none
  units : List CalUnit := []
  ents : EntRes := {}
  bytes : Nat := 0
  /-- the PEER port whose carried credit the request holds -/
  pport : Option Nat := none
  /-- FCLK edge of its admission (R250, R266) -/
  admAt : Nat := 0
  /-- of a completion in two units, how many have reached the egress queue, and how many have left -/
  got : Nat := 0
  left : Nat := 0
  /-- the partner against which a write has been lost (R306) -/
  lost : Option Agent := none
deriving DecidableEq, Repr

/-- A tail entry (R301): work that goes on after TIMEOUT. -/
structure Tail where
  port : Nat
  agent : Agent
  line : LineAddr
  write : Bool
  dl : KTime
  req : Endpoint := 0
  ingress : KTime := 0
  slice : Nat := 0
  home : Option Nat := none
  peer : Option (BitVec 9) := none
  pport : Option Nat := none
  partner : Agent := 0
  /-- the port whose isolation has ended the work: the entry is freed when that isolation ends -/
  isol : Option Nat := none
deriving DecidableEq, Repr

/-- A hold (R267, R268). -/
structure Hold where
  num : Nat
  agent : Agent
  line : LineAddr
  op : Op
  retryAt : KTime
  units : List CalUnit
deriving DecidableEq, Repr

/-- A retry-order entry (R293). -/
structure RetryEnt where
  slot : Nat
  agent : Agent
  line : LineAddr
  retryAt : KTime
  reason : Reason
deriving DecidableEq, Repr

/-- An outstanding barrier (R297): its agent and port, covered accesses left, and what it has learned. -/
structure Barrier where
  port : Nat
  agent : Agent
  /-- covered accesses whose watch or tail entry is not yet freed: agent port, line, ingress -/
  cover : List (Nat × LineAddr × KTime)
  late : Bool := false
  lost : Nat := 0
  tgt : Agent := 0
  tgtDl : KTime := 0
  /-- its place among the outstanding barriers of its agent, which complete in order of arrival (R302) -/
  ord : Nat := 0
  req : Endpoint := 0
deriving DecidableEq, Repr

/-- GATE_BAR(k): the last barrier completed for a port slot (R311). -/
structure GateBar where
  status : BStatus := .ok
  tgt : Agent := 0
  cnt : Nat := 0
deriving DecidableEq, Repr

/-- Lease capacity moved by the balancer: units of a resource in a slot, or counted entries (R258). -/
structure LeaseMove where
  res : Res
  slot : Nat
  amount : Int
deriving DecidableEq, Repr

/-- Counted-entry resources of R256 for which leases are moved. -/
inductive ERes | mshr (n : Nat) | wb (n : Nat) | vb (n : Nat) | tx (n : Nat) | lineq (n : Nat)
deriving DecidableEq, Repr

/-- A Gate. -/
structure Gate where
  watch : List Watch := []
  /-- reserved calendar units that are not yet consumed or returned (R259) -/
  resv : List CalUnit := []
  tails : List Tail := []
  holds : List Hold := []
  retryOrd : List RetryEnt := []
  /-- rotating pointer over the port slots (R265); the last edge on which a request completed ingress, the place of its port slot from the pointer,
  whether that edge brought a tie, and the last admission edge -/
  rrPtr : Nat := 0
  inAt : Nat := 0
  inRank : Nat := 0
  inTie : Bool := false
  admAt : Nat := 0
  /-- answers to register accesses that wait for their port's encoder: port, ingress, message (R29) -/
  cfgOut : List (Nat × KTime × Msg) := []
  /-- completions for the controller writer that wait to be handed back (R30) -/
  writerOut : List Msg := []
  /-- carried accesses whose TIMEOUT has left and whose own completion may still come: requester, line, deadline (R277) -/
  timed : List (Endpoint × LineAddr × KTime) := []
  tokens : List Nat := []
  tokenAt : KTime := 0
  moves : List LeaseMove := []
  emoves : List (ERes × Int) := []
  charges : List (Res × Nat) := []
  echarges : List (ERes × Nat) := []
  barriers : List Barrier := []
  bars : List GateBar := [{}, {}, {}, {}]
  missSeen : Bool := false
  voidedSeen : Bool := false
  audRun : Bool := false
  audDone : Bool := false
  audBad : Bool := false
  /-- FCLK edge on which the running audit was started, and what its latch shows once it is taken (R283) -/
  audAt : Nat := 0
  audLatch : Option (Nat × Bool) := none
  lastVoid : VoidCause := .none
  lastAgent : Agent := 0
  spore : BitVec 32 := 0
deriving DecidableEq, Repr

/-! ### Router and cushion pool -/

/-- A router with its link queues and sink bookkeeping. -/
structure Router where
  /-- link input queues, by 5 x direction + virtual network; in Compact mode the units on the links -/
  inq : Tab (List FUnit) := []
  turn : Tab (List FUnit) := []
  hdrCe : Bool := false
  hdrUe : Bool := false
  payPar : Bool := false
  bound : Bool := false
  /-- count of REQ units sent, by destination node (SEQ of R318) -/
  seqOut : Tab Nat := []
  /-- pointer of the rotating order (R328) -/
  rot : Nat := 0
  /-- one more than the FCLK edge on which each output link last took a unit (R313); edge and number of the last ejections (R325); one more than the last edge of a
  Compact router -/
  outAt : List Nat := [0, 0, 0, 0]
  ejAt : Nat := 0
  ejCnt : Nat := 0
  edgeAt : Nat := 0
  /-- HOLD is set on the sidebands of the input links (R332), and since which edge which unit, by its place in the order of its node, has been the candidate -/
  hold : Bool := false
  cand : Option (Nat × Nat) := none
  /-- cells that left a link input, with the edge: their credits are back on the next (R323) -/
  freed : Tab (Nat × Nat) := []
  injMax : Nat := 0
  ageMax : Nat := 0
  ejSel : BitVec 14 := 0
  audRun : Bool := false
  audDone : Bool := false
  audWindow : Bool := false
  ejBad : Bool := false
  credBad : Bool := false
  /-- FCLK edge on which the running audit was started, and what its latch shows once it is taken: ejection, credits (R342) -/
  audAt : Nat := 0
  audLatch : Option (Nat × Bool × Bool) := none
deriving DecidableEq, Repr

/-- A node's cushion pool (R169): the units in each queue, how many units have entered queues, whether an enqueue found no cell (R173),
the queues being flushed, and POOL_QSEL and POOL_CMD. -/
structure Pool where
  q : Tab (List FUnit) := []
  seq : Nat := 0
  short : Bool := false
  flushing : List Nat := []
  /-- Compact reservations on their way back: source node, sink queue, cells, and the FCLK edge on which they are there (R330) -/
  rets : List (Nat × Nat × Nat × Nat) := []
  qsel : BitVec 8 := 0
  cmdq : BitVec 8 := 0
deriving DecidableEq, Repr

end Sys2Proof.Machine
end

