-- ==== Sys2Proof/Machine/Units/Device.lean ====
section
/-! DEFINITION. The records of the ports and of the units that the whole device shares. Defaults are the reset values. -/

namespace Sys2Proof.Machine

open Sys2Proof

/-! ### Ports -/

/-- How far discovery has come on a port (R364). -/
inductive DiscStage | none | id | cfg | keyx | done
deriving DecidableEq, Repr

/-- A flit in the replay buffer (R356): number, times sent, bits, the payload before encryption, and whether it begins an encrypted block (R381). -/
structure UFlit where
  seq : BitVec 16
  times : Nat := 1
  bits : BitVec 672
  plain : BitVec 640
  first : Bool := false
deriving DecidableEq, Repr

/-- A port (R382 and the link state of R356 to R381). -/
structure Port where
  state : PortState := .off
  train : TrainState := .idle
  wact : Option Nat := none
  enc : Bool := false
  authFail : Bool := false
  dead : Bool := false
  retrained : Bool := false
  force : Bool := false
  retrainRun : Bool := false
  drainRun : Bool := false
  detach : DetachStep := .none
  detachAt : Nat := 0
  /-- the peer asked for the detach (R376) -/
  asked : Bool := false
  pkind : BitVec 8 := 0
  pagent : Agent := 0
  reason : Nat := 0
  drainSt : DrainSt := .none
  plink : BitVec 8 := 0
  linkver : BitVec 8 := 0
  puid : BitVec 64 := 0
  pcaps : BitVec 16 := 0
  rej : Nat := 0
  failedAt : Nat := 0
  lastRejRec : Nat := 0
  stage : DiscStage := .none
  keyxOk : Bool := false
  flitAt : Nat := 0
  /-- credits the partner advertised and those in use toward it, per virtual network -/
  padv : List Nat := [0, 0, 0, 0, 0]
  used : List Nat := [0, 0, 0, 0, 0]
  /-- credits of ours that the partner cannot use: those of messages in the ingress queue and of returns not yet sent; and of these the returns (R358, R359) -/
  inHeld : List Nat := [0, 0, 0, 0, 0]
  ret : List Nat := [0, 0, 0, 0, 0]
  /-- carried credits the partner granted and those in use -/
  pcarried : Nat := 0
  carriedUsed : Nat := 0
  /-- carried credits of ours that the partner has in use -/
  carriedIn : Nat := 0
  pcontract : Nat := 0
  pdurable : Nat := 0
  psync : Bool := false
  prootIdx : Nat := 0
  prootHops : Nat := 0
  /-- the last offsets, newest first, in 2^-24 ns -/
  offsets : List Int := []
  lastTsync : KTime := 0
  tsyncOut : Option Stamp := none
  /-- when the last own exchange was started (0: none) -/
  tsyncAt : KTime := 0
  /-- link delay d of the last exchange, in 2^-24 ns (R370) -/
  delay : Int := 0
  txSeq : BitVec 16 := 0
  rxSeq : BitVec 16 := 0
  lnakSent : Bool := false
  /-- FCLK edge of the last flit that passed the link check (R377), and ACLK edge on which training began (R361) -/
  goodAt : Nat := 0
  trainAt : Nat := 0
  /-- ACLK edge from which the port polls DETECT every 1 ms (R361, R375), and FCLK edge on which the running fast retrain began (R363) -/
  detAt : Nat := 0
  retrainAt : Nat := 0
  /-- width at which the Gates count the port's egress capacity, from its entry into service (R362); none: the image's -/
  capW : Option Nat := none
  /-- unacknowledged flits, oldest first (R356) -/
  unacked : List UFlit := []
  /-- flits sent since training; per lane the flit bits that do not fill a codeword yet, as their number and value (R347, R348) -/
  txFlits : Nat := 0
  laneBits : List (Nat × Nat) := []
  /-- flits of the encrypted block that is open for sending (R378) -/
  encBlock : List (BitVec 672) := []
  lnakAt : List Nat := []
  authAt : List Nat := []
  encBlkTx : BitVec 64 := 0
  encBlkRx : BitVec 64 := 0
  /-- the private share of the exchange of discovery under way (R379) -/
  encPriv : BitVec 256 := 0
  encKeyTx : BitVec 256 := 0
  encSaltTx : BitVec 32 := 0
  encKeyRx : BitVec 256 := 0
  encSaltRx : BitVec 32 := 0
  /-- keys and salts of the last exchange that wait for the block whose TAG carries NEWKEY, sending and receiving (R379) -/
  nextTx : Option (BitVec 256 × BitVec 32) := none
  nextRx : Option (BitVec 256 × BitVec 32) := none
  eqPass : List Bool := []
deriving DecidableEq, Repr

/-! ### Domains -/

/-- Per-domain state: Karik time (R37 to R41), spread tables (R50, R52), allocator freeze, spore entries, detours. -/
structure Domain where
  ktime : KTime := 0
  /-- rate offset in parts per billion (GLB_KTIME_STAT.RATE_OFS) -/
  rateOfs : Int := 0
  running : Bool := false
  sync : Bool := false
  rootHops : Nat := 0
  upstream : Option Nat := none
  /-- a step of R369 waits for the watch tables to empty -/
  stepPend : Option Int := none
  /-- SLICE_POS and HOME_POS of each spread entry -/
  spread : Tab (Nat × Nat) := []
  /-- positions whose slice spread, and whose home spread, is in effect -/
  sliceSpread : List Nat := []
  homeSpread : List Nat := []
  freeze : Bool := false
  /-- first slot dealt at image apply (R257) -/
  calStart : Nat := 0
  lastSlot : Nat := 0
  lastBal : Nat := 0
  detour : Bool := false
  /-- routers fenced whose detour routes are not yet in effect (R336) -/
  detourPend : List Nat := []
  /-- FCLK edge until which Full-mode REQ ejection is ordered (R340) -/
  reorderTill : Nat := 0
deriving DecidableEq, Repr

/-- A traced transaction (R587): line, Gate, requester, and the stamps of R588. -/
structure SporeEnt where
  line : LineAddr
  gate : Nat
  req : Endpoint
  op : Op
  cls : Cls
  ingress : KTime
  edge : Nat
  dl : KTime
  stamps : List (Nat × Nat) := []
  path : BitVec 8 := 0
deriving DecidableEq, Repr

/-! ### Protection -/

/-- States of a key-table entry (R396). -/
inductive KeySt | free | active | retiring
deriving DecidableEq, Repr

/-- A key-table entry (R396). -/
structure KeyEnt where
  st : KeySt := .free
  kd : BitVec 256 := 0
  km : BitVec 256 := 0
  gen : BitVec 16 := 0
  /-- the entry is retiring because of a fence (R452) -/
  fenced : Bool := false
deriving DecidableEq, Repr

/-- A Crozier job (R423 to R427). -/
structure CrozJob where
  active : Bool := false
  done : Bool := false
  reseed : Bool := false
  rng : Nat := 0
  old : BitVec 6 := 0
  new : BitVec 6 := 0
  cl : Nat := 0
  /-- lines of the current block that are done -/
  doneLines : List Nat := []
  /-- lines whose MEM_WR_DUR has not been answered -/
  durPend : List Nat := []
  sweeping : Bool := false
deriving DecidableEq, Repr

/-- One tree's Stipe entry (R412): the tree key and the top version per home position. -/
structure StipeTree where
  kt : BitVec 256 := 0
  geom : List Nat := []
  vers : Tab Nat := []
  setUp : Bool := false
deriving DecidableEq, Repr

/-- A LOST entry (R422). -/
structure LostEnt where
  tree : Nat
  pos : Nat
  level : Nat
  index : Nat
deriving DecidableEq, Repr

/-- Owner of the protection shadows (PROT_STATUS.OWNER). -/
inductive ProtOwner | none | pf0 | medulla
deriving DecidableEq, Repr

/-- The protection block (R430). -/
structure Prot where
  epoch : BitVec 16 := 0
  drained : Bool := true
  cstat : Nat := 0
  owner : ProtOwner := .none
  permAct : Tab PermEnt := []
  permPrev : Tab PermEnt := []
  permShd : Tab PermEnt := []
  rngAct : Tab RngEnt := []
  rngPrev : Tab RngEnt := []
  rngShd : Tab RngEnt := []
  closed : List Nat := []
  invBase : BitVec 64 := 0
  invLim : BitVec 64 := 0
  invDom : Nat := 0
  invRun : Bool := false
  invStat : Nat := 0
  /-- domain, first and last page of the running range invalidation -/
  invJob : Option (Nat × Nat × Nat) := none
  keyStat : Nat := 0
  keyRun : Bool := false
  keyId : Nat := 0
  keyOp : Nat := 0
  /-- the entry that the running key command retires -/
  keyJob : Nat := 0
  keys : Tab KeyEnt := []
  crozStat : Nat := 0
  crozJobF : Nat := 0
  crozRng : Nat := 0
  crozNew : BitVec 6 := 0
  crozOp : Nat := 0
  crozSel : Nat := 0
  jobs : Tab CrozJob := []
  stipe : Tab StipeTree := []
  stipeLost : Bool := false
  /-- ACLK edge from which the next full reading of the Stipe and the key table begins (R437) -/
  stipeAt : Nat := 0
  stipeFixed : Bool := false
  stipeResumed : Bool := false
  flushing : Bool := false
  lost : Tab (Option LostEnt) := []
deriving DecidableEq, Repr

/-! ### Faults -/

/-- A resource that a fault window watches (R443, R444). -/
inductive WinRes
  | row (n bank r : Nat) | col (n bank c : Nat) | chan (n : Nat) | slice (n : Nat) | home (n : Nat)
  | link (n d : Nat) | router (n : Nat) | port (p : Nat) | frond (t : Nat) | domain (d : Nat)
deriving DecidableEq, Repr

/-- The events of one window, newest first, in device time (R443); for COL_CE with the rows they fell in. -/
structure WinEnt where
  k : Nat
  res : WinRes
  times : List (Nat × Nat) := []
deriving DecidableEq, Repr

/-- Coalescing state of a source (R459): device time of the last record, and events since. -/
structure Coal where
  source : RecSource
  inst : Nat
  code : RecCode
  at_ : Nat
  extra : Nat := 0
deriving DecidableEq, Repr

/-- The faults block (R462). -/
structure Flt where
  fifo : List ErrRec := []
  lost : Nat := 0
  lostRec : Bool := false
  intEn : BitVec 7 := 0x7C
  fslc : List Nat := []
  fhom : List Nat := []
  fchn : List Nat := []
  frtr : List Nat := []
  fport : List Nat := []
  fkey : List Nat := []
  dstop : List Nat := []
  frond : List Nat := []
  clrRun : Bool := false
  clrStat : Nat := 0
  clrKind : Nat := 0
  clrIdx : Nat := 0
  wins : List WinEnt := []
  coal : List Coal := []
  seq : Nat := 0
deriving DecidableEq, Repr

/-! ### Power, pins, PMBus, test port, clocks -/

/-- LAST_OFF of GLB_PWR_STATUS (R538). -/
inductive LastOff | none | resetN | pfwPlatform | undervolt | overvolt | thermal
deriving DecidableEq, Repr

/-- The pins and the power supervisor, in the always-on domain. -/
structure Pwr where
  resetHigh : Bool := true
  pfwHigh : Bool := true
  perstHigh : Bool := false
  refselPin : Bool := false
  inputValid : Bool := false
  vin : Nat := 0
  iin : Nat := 0
  /-- hold-up energy in µJ; a full bank holds 800,000 (R519) -/
  bank : Nat := 800000
  lastOff : LastOff := .none
  /-- cause noted when the supervisor first drove PFW_N in this running period -/
  offCause : LastOff := .none
  pfwOut : Bool := false
  faultOut : Bool := false
  refselS : Bool := false
  ride : Bool := false
  dip : Bool := false
  /-- device time, in ACLK edges, at which the dip began (R520) -/
  dipAt : Nat := 0
  /-- die, tile, power-stage and inlet readings in °C -/
  die : List Int := []
  tile : List Int := []
  pstage : List Int := []
  inlet : Option Int := none
  warn : Bool := false
  warnSeen : Bool := false
  testEn : Bool := false
  prsnt : BitVec 32 := 0
  rails : Bool := false
deriving DecidableEq, Repr

/-- The PMBus interface (R532 to R534). Status bytes are the latched bits; `out` holds the last readings. -/
structure Pmb where
  addr : BitVec 7 := 0x48
  page : Byte := 0
  stVout : List Byte := [0, 0, 0, 0, 0]
  stIout : List Byte := [0, 0, 0, 0, 0]
  stInput : Byte := 0
  stTemp : Byte := 0
  stCml : Byte := 0
  alert : Bool := false
  vout : List Nat := []
  iout : List Nat := []
  pout : Nat := 0
  pin : Nat := 0
deriving DecidableEq, Repr

/-- The instruction a test-port register holds (R535). -/
inductive TapInstr | bypass | idcode | sample | extest | array
deriving DecidableEq, Repr

/-- The test port (R535). -/
structure Tap where
  instr : TapInstr := .bypass
  bypassBit : Bool := false
  /-- an instruction was replaced when the mode left Maintenance: TDO shifts zeros until the next Update-IR -/
  zeros : Bool := false
  cells : List Bool := []
deriving DecidableEq, Repr

/-- The clock tree (R31 to R36, GLB_CLK_STATUS) and the edge counts. -/
structure Clk where
  refLost : Bool := false
  holdover : Bool := false
  relockPend : Bool := false
  aclkInternal : Bool := false
  refSrc : Nat := 0
  serdesLock : Bool := false
  rootLock : Bool := false
  fclk : Nat := 0
  aclk : Nat := 0
deriving DecidableEq, Repr

/-! ### Start, firmware, images -/

/-- A sealed key of a Stipe record (R475). -/
structure SealedKey where
  id : Nat
  kd : BitVec 256
  km : BitVec 256
deriving DecidableEq, Repr

/-- The Stipe record of one tree in MRAM (R413). -/
structure StipeRec where
  tree : Nat
  geom : List Nat
  kt : BitVec 256
  vers : Tab Nat
  keys : List SealedKey
deriving DecidableEq, Repr

/-- MRAM contents: what survives every reset. -/
structure Mram where
  owners : List (Option (BitVec 512)) := [none, none, none, none]
  floor : Nat := 0
  confirmed : SlotName := .none
  trial : SlotName := .none
  tried : Bool := false
  fwNext : SlotName := .none
  mcNext : SlotName := .none
  kgFw : SlotName := .none
  kgMc : SlotName := .none
  kgFwVer : BitVec 16 := 0
  kgMcVer : BitVec 16 := 0
  stipe : List StipeRec := []
  peat : Tab PeatEnt := []
  peatHead : Nat := 0
  peatSeq : Nat := 0
  startNo : BitVec 16 := 0
deriving DecidableEq, Repr

/-- Flash contents: firmware, microcode and image slots. -/
structure Flash where
  fwA : Option CodeFile := none
  fwB : Option CodeFile := none
  mcA : Option CodeFile := none
  mcB : Option CodeFile := none
  stA : SlotState := .empty
  stB : SlotState := .empty
  imgA : List Byte := []
  imgB : List Byte := []
deriving DecidableEq, Repr

/-- The start sequencer (R493 to R505, GLB_STATE, GLB_MODE_CMD, GLB_START_SEL, GLB_PAIR). -/
structure Start where
  mode : Mode := .dormant
  stopWhy : StopWhy := .none
  step : Nat := 0
  steps : List (StepOutcome × Nat) := []
  forced : Bool := false
  /-- FORCE_PAIR has been written, and the start goes on with the next answers -/
  forceRun : Bool := false
  cmdst : Nat := 0
  drainRun : Bool := false
  fwUse : SlotName := .none
  mcUse : SlotName := .none
  fwVer : BitVec 16 := 0
  mcVer : BitVec 16 := 0
  mif : BitVec 16 := 0
  fwDigest : BitVec 512 := 0
  mcDigest : BitVec 512 := 0
  recovery : Bool := false
  supplyTries : Nat := 0
  supplyHeld : Bool := false
  supplyWait : Bool := false
  /-- accumulated Serving or Degraded time in ACLK under the pair -/
  kgTime : Nat := 0
  /-- from the end of FIRM the Medulla answers (R495) -/
  firmDone : Bool := false
deriving DecidableEq, Repr

/-- The image control block (R492). -/
structure ImgCtl where
  src : BitVec 64 := 0
  len : BitVec 21 := 0
  op : Nat := 0
  slotB : Bool := false
  run : Bool := false
  status : ImgStatus := .ok
  sect : Nat := 0
  off : Nat := 0
  inForce : SlotName := .none
  /-- the image in force, decoded -/
  img : Option Thallus := none
  /-- route tables loaded by ROUTE (R491) -/
  routeOvr : Option (List (Nat × List RouteEnt)) := none
  /-- digest of the ROUTE_ONLY image last taken -/
  routeDigest : BitVec 512 := 0
deriving DecidableEq, Repr

/-- The Medulla mailbox (R566). -/
structure Mbx where
  op : Nat := 0
  slotB : Bool := false
  run : Bool := false
  req : BitVec 64 := 0
  reqLen : BitVec 23 := 0
  rsp : BitVec 64 := 0
  rspLen : BitVec 23 := 0
  status : MbxStatus := .ok
  rspN : Nat := 0
  done : Bool := false
  nonce : BitVec 64 := 0
deriving DecidableEq, Repr

/-- The lock command registers (R134, R135). -/
structure LockCmd where
  base : BitVec 45 := 0
  cnt : BitVec 32 := 0
  ten : Nat := 0
  op : Bool := false
  go : Bool := false
  status : Nat := 0
  done : Nat := 0
  fail : Nat := 0
  /-- FCLK edge from which the next pass waits at its slice (R60), and whether it was returned for want of an entry (R115) -/
  waitAt : Nat := 0
  held : Bool := false
deriving DecidableEq, Repr

/-! ### Counters, Capsule, spore, pages -/

/-- What a latch fixes for the header of its snapshot (R583): times in ns, epoch, mode, skipped latches; whether it serves a SNAP. -/
structure CapHdr where
  ktime : Nat
  dtime : Nat
  epoch : BitVec 16
  mode : Mode
  skipped : Nat
  snap : Bool
deriving DecidableEq, Repr

/-- The Capsule reader (R578 to R585, R593). -/
structure Cap where
  armed : Bool := false
  disarming : Bool := false
  dumping : Bool := false
  snapWait : Bool := false
  snapBusy : Bool := false
  dmaErr : Bool := false
  errcode : Nat := 0
  status : Nat := 0
  ctl : BitVec 32 := 0
  period : BitVec 20 := 0
  base : BitVec 64 := 0
  slots : Nat := 0
  head : Nat := 0
  /-- SEQ of the last header written -/
  seq : Nat := 0
  skipped : Nat := 0
  /-- the shadow store of the running dump and its header values -/
  shadow : Tab Nat := []
  hdr : Option CapHdr := none
  /-- the write of the controller writer that is under way: body lines first, the header last (R582) -/
  wnext : Nat := 0
  /-- when a write answered RETRY is sent again -/
  retryAt : Option KTime := none
  werr : Option ErrCode := none
  lastEdge : Nat := 0
deriving DecidableEq, Repr

/-- Spore tagging registers (R586 to R589). -/
structure Spore where
  enable : Bool := false
  k : Nat := 6
  int : BitVec 16 := 0
  dmaErr : Bool := false
  seq : Nat := 0
  base : BitVec 64 := 0
  slots : Nat := 0
  ents : Tab (List SporeEnt) := []
deriving DecidableEq, Repr

/-- CAP_TPAGE(t) and its threshold (R592, R593), and PG_WAYS as last refreshed. -/
structure TPage where
  map : Bool := false
  zeroOk : Bool := false
  alarmEn : Bool := false
  fired : Bool := false
  idx : Nat := 0
  thr : BitVec 32 := 0
  ways : Nat := 0
deriving DecidableEq, Repr

/-! ### Host attachment -/

/-- MSI-X state of a function (R561): unmasked vectors (a table after reset masks every vector) and pending bits; vectors with an event held for pacing; last send times. -/
structure Msix where
  unmasked : List Nat := []
  pba : List Nat := []
  held : List Nat := []
  sent : Tab Nat := []
deriving DecidableEq, Repr

/-- IDE stream states (R565). -/
inductive IdeSt | none | secure | insecure
deriving DecidableEq, Repr

/-- The PCI Express endpoint (R539 to R545, R563 to R565). -/
structure HostIf where
  bme : Bool := false
  d3hot : Bool := false
  bars : List Nat := []
  msix : Tab Msix := []
  sessions : List Nat := []
  nextSession : Nat := 1
  ide : IdeSt := .none
  /-- keys of the link IDE stream -/
  ideKey : BitVec 256 := 0
  /-- an IDE check failure has been reported under AER -/
  aerIde : Bool := false
  inReset : Bool := true
deriving DecidableEq, Repr

/-- A block's access-error field (R560). -/
structure AccErr where
  logged : Bool := false
  more : Bool := false
  cause : Option AccCause := none
  src : BitVec 5 := 0
  write : Bool := false
  off : BitVec 21 := 0
deriving DecidableEq, Repr

/-- A slow-domain sub-block (R557 to R559, R595 to R597): BUSY with the posted selection, the selection in force, and the SerDes readings of each lane. -/
structure Slow where
  busy : Bool := false
  posted : BitVec 32 := 0
  /-- offset of the posted write -/
  postOff : Nat := 0
  sel : BitVec 32 := 0
deriving DecidableEq, Repr

/-- What leaves the controller. -/
inductive Out
  | msg (port : Nat) (m : Msg)
  | hostRead (val : BitVec 64) (st : RegStatus)
  | hostDone (st : RegStatus)
  | msix (fn vec : Nat)
  | dma (addr : BitVec 64) (bytes : List Byte)
  | mgmt (port : Nat) (mtype : Nat) (arg : Nat)
  | discId (port : Nat) (x : DiscId)
  | discCfg (port : Nat) (x : DiscCfg)
  | tsyncReq (port : Nat) (t1 : Stamp)
  | tsyncRsp (port : Nat) (t1 t2 t3 : Stamp)
  | lack (port : Nat) (seq : BitVec 16)
  | lnak (port : Nat) (seq : BitVec 16)
  | resend (port : Nat) (seq : BitVec 16) (flit : BitVec 672)
  | flit (port lane : Nat) (seq : BitVec 16) (flit : BitVec 672)
  | codeword (port lane : Nat) (cw : BitVec 5440)
  | tag (port : Nat) (block : BitVec 64) (tagBits : BitVec 128) (newKey : Bool)
  | cfgRead (fn : Nat) (regs : List Nat)
  | keyx (port : Nat) (share : BitVec 768)
  | pmbus (bytes : List Byte)
  | pmbusNack
  | tdo (bits : List Bool)
  | spdm (code : Nat) (blocks : List (BitVec 1024)) (signature : Option (BitVec 4096))
  | cfgDone (st : RegStatus)
  | writerDone (line : LineAddr) (e : ErrCode)
deriving DecidableEq, Repr

end Sys2Proof.Machine
end

