-- ==== Sys2Proof/Machine/State.lean ====
section
/-! DEFINITION. The state of the controller as plain data, the reasons a step can stop, and the state after reset. -/

namespace Sys2Proof.Machine

open Sys2Proof

/-- Faults. No rule of the manual stops the controller: an event without its occasion changes nothing, and every error the manual describes is a next state. -/
inductive Fault
  /-- Raised by no command; kept so that the type has a name to report. Safe. -/
  | none
deriving DecidableEq, Repr

/-- Refusals. -/
inductive Refusal
  /-- Raised by the arm of `exec` of a command without a meaning yet. Safe: nothing is claimed of it. -/
  | notModelled (mnemonic : String)
deriving DecidableEq, Repr

/-- The whole controller. Arrays are sparse: an entry that is not listed holds its reset or cleared value. -/
structure State where
  /-- pins and power supervisor (R516 to R538) -/
  pwr : Pwr := {}
  /-- PMBus interface (R532 to R534) -/
  pmb : Pmb := {}
  /-- test port (R535) -/
  tap : Tap := {}
  /-- clock tree (R31 to R36) -/
  clk : Clk := {}
  /-- start sequencer and mode (R6, R493 to R515) -/
  start : Start := {}
  /-- MRAM (R477, R478, R483, R506, R515) -/
  mram : Mram := {}
  /-- flash slots (R483, R502) -/
  flash : Flash := {}
  /-- image control (R492) -/
  imgc : ImgCtl := {}
  /-- Medulla mailbox (R566) -/
  mbx : Mbx := {}
  /-- lock command (R134) -/
  lock : LockCmd := {}
  /-- domains, by number (R23, R37) -/
  doms : Tab Domain := []
  /-- SPH_MAX of each tenancy (R102) -/
  sphMax : Tab Nat := []
  /-- slices, by node (R17, R95) -/
  slices : Tab Slice := []
  /-- home shards, by node (R17, R218) -/
  homes : Tab Home := []
  /-- Gates, by node (R17, R283) -/
  gates : Tab Gate := []
  /-- routers, by node (R17, R343) -/
  routers : Tab Router := []
  /-- cushion pools, by node (R169) -/
  pools : Tab Pool := []
  /-- ports, by lowest lane (R19, R382) -/
  ports : Tab Port := []
  /-- protection block (R430) -/
  prot : Prot := {}
  /-- faults block (R462) -/
  flt : Flt := {}
  /-- counters, by byte offset from 0x0100_0000 divided by 8 (R577, R590) -/
  cnt : Tab Nat := []
  /-- Capsule reader (R593) -/
  cap : Cap := {}
  /-- spore tagging (R586 to R589) -/
  spore : Spore := {}
  /-- CAP_TPAGE(t) (R593) -/
  tpages : Tab TPage := []
  /-- PCI Express endpoint (R539 to R545) -/
  host : HostIf := {}
  /-- slow-domain sub-blocks (R557) -/
  slow : Tab Slow := []
  /-- access-error fields, by block base divided by 0x1000 (R560) -/
  acc : Tab AccErr := []
  /-- GLB_ACCERR_ADDR (R560) -/
  accAddr : BitVec 26 := 0
  /-- what has left the controller, oldest first (the model's own record) -/
  out : List Out := []
  /-- how many free values have been drawn (the model's own counter) -/
  free : Nat := 0
  /-- commands that wait, first in first out (the model's own queue) -/
  pending : List Instr := []
deriving DecidableEq, Repr

/-- Right after reset: Dormant, the always-on domain just started from no input, every register at its reset value (R598). -/
def State.reset : State := {}

end Sys2Proof.Machine
end

