-- ==== Sys2Proof/Machine/Ops.lean ====
section
/-! DEFINITION. Named operations over the state: sparse tables, unit accessors, counters, interrupts, error records, the Peat log, mode changes. -/

namespace Sys2Proof.Machine

open Sys2Proof

/-- What a meaning answers. -/
abbrev Ans := Host.Outcome State Fault Refusal

/-! ### Sparse tables -/

/-- The entry of key `k`; an unlisted key reads `d`. -/
def tget {α : Type} (d : α) : Tab α → Nat → α
  | [], _ => d
  | (j, v) :: t, k => if j = k then v else tget d t k

/-- `t` without key `k`. -/
def tdel {α : Type} : Tab α → Nat → Tab α
  | [], _ => []
  | (j, v) :: t, k => if j = k then tdel t k else (j, v) :: tdel t k

/-- Put `v` at key `k` of a table whose keys rise. -/
def tins {α : Type} : Tab α → Nat → α → Tab α
  | [], k, v => [(k, v)]
  | (j, w) :: t, k, v =>
    if k < j then (k, v) :: (j, w) :: t else if k = j then (k, v) :: t else (j, w) :: tins t k v

/-- Write `v` at key `k`: writing what an unlisted key reads as removes the entry, so equal arrays are equal lists. -/
def tset {α : Type} [DecidableEq α] (d : α) (t : Tab α) (k : Nat) (v : α) : Tab α :=
  if v = d then tdel t k else tins t k v

/-- Apply `f` at key `k`. -/
def tmod {α : Type} [DecidableEq α] (d : α) (t : Tab α) (k : Nat) (f : α → α) : Tab α :=
  tset d t k (f (tget d t k))

/-- A table from a list of entries; of two entries of one key the later stands. -/
def tabOf {α : Type} [DecidableEq α] (d : α) (l : List (Nat × α)) : Tab α := l.foldl (fun t e => tset d t e.1 e.2) []

/-- The canonical form of a table: keys strictly rise. -/
def tsorted {α : Type} : Tab α → Bool
  | [] => true
  | [_] => true
  | (j, _) :: (k, w) :: t => decide (j < k) && tsorted ((k, w) :: t)

/-- Canonical form: keys strictly rise and no entry equals the default. -/
def twf {α : Type} [DecidableEq α] (d : α) (t : Tab α) : Bool :=
  tsorted t && t.all (fun e => decide (e.2 ≠ d))

/-- The first free index below `n` of a table of optional entries. -/
def tfree {α : Type} (t : Tab (Option α)) (n : Nat) : Option Nat :=
  (List.range n).find? (fun i => (tget none t i).isNone)

/-- The first index whose entry satisfies `p`. -/
def tfind {α : Type} (t : Tab (Option α)) (p : α → Bool) : Option (Nat × α) :=
  t.findSome? (fun e => match e.2 with
    | some v => if p v then some (e.1, v) else none
    | none => none)

/-- Entries in use. -/
def tbusy {α : Type} (t : Tab (Option α)) : Nat := (t.filter (fun e => e.2.isSome)).length

/-- Every line pushed out of a slice: its victim-buffer entries, and from number 128 on those of the drain engine. -/
def Slice.outs (x : Slice) : List (Nat × VbEnt) :=
  x.vbuf.filterMap (fun e => e.2.map (fun v => (e.1, v))) ++ x.drainVb.filterMap (fun e => e.2.map (fun v => (128 + e.1, v)))

/-! ### Lists -/

/-- Remove the first element equal to `x`. -/
def rmFirst {α : Type} [DecidableEq α] (x : α) : List α → List α
  | [] => []
  | y :: t => if y = x then t else y :: rmFirst x t

/-- Remove the first element that satisfies `p`. -/
def rmFirstP {α : Type} (p : α → Bool) : List α → List α
  | [] => []
  | y :: t => if p y then t else y :: rmFirstP p t

/-- Replace the element at index `i`. -/
def setAt {α : Type} : List α → Nat → α → List α
  | [], _, _ => []
  | _ :: t, 0, v => v :: t
  | y :: t, i + 1, v => y :: setAt t i v

/-- Apply `f` to the first element that satisfies `p`. -/
def modFirst {α : Type} (p : α → Bool) (f : α → α) : List α → List α
  | [] => []
  | y :: t => if p y then f y :: t else y :: modFirst p f t

/-- Insert `x` into a list of numbers in rising order, once. -/
def insNat (x : Nat) : List Nat → List Nat
  | [] => [x]
  | y :: t => if x < y then x :: y :: t else if x = y then y :: t else y :: insNat x t

/-- Fold over a list with the state last. -/
def foldS {α σ : Type} (l : List α) (f : α → σ → σ) (s : σ) : σ := l.foldl (fun s x => f x s) s

/-- Bit `i` of a mask set? -/
def maskBit (m : BitVec 32) (i : Nat) : Bool := m.getLsbD i

/-- The mask with bit `i` cleared, and set. -/
def clrBit {w : Nat} (m : BitVec w) (i : Nat) : BitVec w := m &&& ~~~ (BitVec.ofNat w 1 <<< i)
def orBit {w : Nat} (m : BitVec w) (i : Nat) : BitVec w := m ||| (BitVec.ofNat w 1 <<< i)

/-- The numbers below `n` whose bit is set. -/
def bitsOf {w : Nat} (m : BitVec w) (n : Nat) : List Nat := (List.range n).filter (fun i => m.getLsbD i)

def sumL (l : List Nat) : Nat := l.foldl (· + ·) 0

/-- ⌈a / b⌉ -/
def ceilDiv (a b : Nat) : Nat := (a + b - 1) / b

/-! ### Accessors: a unit's record and its update -/

def State.slice (s : State) (n : Nat) : Slice := tget {} s.slices n
def State.home (s : State) (n : Nat) : Home := tget {} s.homes n
def State.gate (s : State) (n : Nat) : Gate := tget {} s.gates n
def State.router (s : State) (n : Nat) : Router := tget {} s.routers n
def State.pool (s : State) (n : Nat) : Pool := tget {} s.pools n
def State.port (s : State) (p : Nat) : Port := tget {} s.ports p
def State.dom (s : State) (d : Nat) : Domain := tget {} s.doms d
def State.tpage (s : State) (t : Nat) : TPage := tget {} s.tpages t
def State.slowB (s : State) (k : Nat) : Slow := tget {} s.slow k
def State.key (s : State) (k : Nat) : KeyEnt := tget {} s.prot.keys k
def State.job (s : State) (j : Nat) : CrozJob := tget {} s.prot.jobs j

def State.modSlice (s : State) (n : Nat) (f : Slice → Slice) : State := { s with slices := tmod {} s.slices n f }
def State.modHome (s : State) (n : Nat) (f : Home → Home) : State := { s with homes := tmod {} s.homes n f }
def State.modGate (s : State) (n : Nat) (f : Gate → Gate) : State := { s with gates := tmod {} s.gates n f }
def State.modRouter (s : State) (n : Nat) (f : Router → Router) : State := { s with routers := tmod {} s.routers n f }
def State.modPool (s : State) (n : Nat) (f : Pool → Pool) : State := { s with pools := tmod {} s.pools n f }
def State.modPort (s : State) (p : Nat) (f : Port → Port) : State := { s with ports := tmod {} s.ports p f }
def State.modDom (s : State) (d : Nat) (f : Domain → Domain) : State := { s with doms := tmod {} s.doms d f }
def State.modPage (s : State) (t : Nat) (f : TPage → TPage) : State := { s with tpages := tmod {} s.tpages t f }
def State.modKey (s : State) (k : Nat) (f : KeyEnt → KeyEnt) : State :=
  { s with prot := { s.prot with keys := tmod {} s.prot.keys k f } }
def State.modJob (s : State) (j : Nat) (f : CrozJob → CrozJob) : State :=
  { s with prot := { s.prot with jobs := tmod {} s.prot.jobs j f } }

/-- Record what leaves the controller. -/
def State.emit (s : State) (o : Out) : State := { s with out := s.out ++ [o] }

/-- Draw a free value's index. -/
def State.drawn (s : State) : State := { s with free := s.free + 1 }

/-! ### Time -/

/-- `n` ns of Karik time, in units of 2^-24 ns (R37). -/
def ns (n : Nat) : KTime := n * 16777216

/-- The nominal rate word, 0.416 667 ns per FCLK (R37), in units of 2^-24 ns. -/
def nominalRate : Nat := 6990512

/-- Device time in ns: the ACLK count since input became valid (R443). -/
def State.devNs (s : State) : Nat := 40 * s.clk.aclk

/-- Karik time of domain `d`. -/
def State.kt (s : State) (d : Nat) : KTime := (s.dom d).ktime

/-- Whole ns of Karik time, as registers and records show it. -/
def State.ktNs (s : State) (d : Nat) : Nat := s.kt d / 16777216

/-- The calendar slot of 1.25 ns that holds a Karik time (R253): 4 slots per 5 ns. -/
def slotOf (t : KTime) : Nat := t * 4 / (5 * 16777216)

/-- `k` FCLK as a span of Karik time, at 5/12 ns each. -/
def fclks (k : Nat) : KTime := k * 5 * 16777216 / 12

/-! ### Counters (R571, R577) -/

def cntMax : Nat := 2 ^ 48 - 1
def cGlb (i : Nat) : Nat := 0x200 + i
def cSlc (n i : Nat) : Nat := 0x400 + 0x40 * n + i
def cHom (n i : Nat) : Nat := 0x1400 + 0x40 * n + i
def cRtr (n i : Nat) : Nat := 0x2400 + 0x20 * n + i
def cGate (n i : Nat) : Nat := 0x2C00 + 0x20 * n + i
def cChn (n i : Nat) : Nat := 0x3400 + 0x10 * n + i
def cPort (p i : Nat) : Nat := 0x4000 + 0x40 * p + i
def cPage (t i : Nat) : Nat := 0x8020 + 0x200 * t + i

/-- R571: a counter takes an increment and saturates at 2^48 - 1. -/
def satAdd (v inc : Nat) : Nat := min (v + inc) cntMax

/-- Count `inc` events. -/
def State.bumpN (s : State) (key inc : Nat) : State := { s with cnt := tset 0 s.cnt key (satAdd (tget 0 s.cnt key) inc) }

/-- Count one event. -/
def State.bump (s : State) (key : Nat) : State := s.bumpN key 1

/-! ### MSI-X (R561, R562, R543) -/

def State.msix (s : State) (fn : Nat) : Msix := tget {} s.host.msix fn
def State.modMsix (s : State) (fn : Nat) (f : Msix → Msix) : State :=
  { s with host := { s.host with msix := tmod {} s.host.msix fn f } }

/-- Whether the controller may issue DMA and messages (R543). -/
def State.dmaOk (s : State) : Bool := s.host.bme && !s.host.d3hot

/-- An event of vector `vec` of function `fn`: sent at once, held 10 µs (250 ACLK) after the last message, or left in the PBA. -/
def State.irq (s : State) (fn vec : Nat) : State :=
  let m := s.msix fn
  if !s.dmaOk || !decide (vec ∈ m.unmasked) then s.modMsix fn (fun m => { m with pba := insNat vec m.pba })
  else
    let last := tget 0 m.sent vec
    if last ≠ 0 && decide (s.clk.aclk + 1 < last + 250) then s.modMsix fn (fun m => { m with held := insNat vec m.held })
    else (s.modMsix fn (fun m => { m with sent := tset 0 m.sent vec (s.clk.aclk + 1) })).emit (.msix fn vec)

/-! ### Page counters and their alarm (R590, R592) -/

/-- Count `inc` events of page counter `i` of tenancy `t`, and raise the alarm when it reaches its threshold. -/
def State.pageN (s : State) (t i inc : Nat) : State :=
  let s := s.bumpN (cPage t i) inc
  let g := s.tpage t
  if g.alarmEn && !g.fired && decide (g.idx = i) && decide (g.thr.toNat ≤ tget 0 s.cnt (cPage t i)) then
    (s.modPage t (fun g => { g with fired := true })).irq (t + 1) 2
  else s

def State.page (s : State) (t i : Nat) : State := s.pageN t i 1

/-! ### The Peat log (R506 to R509) -/

/-- The highest sequence number of a FORGET entry. -/
def lastForget (m : Mram) : Nat :=
  m.peat.foldl (fun a e => if e.2.typ = 0x0A then max a e.2.seq.toNat else a) 0

/-- The sequence number of the last known-good PAIR entry. -/
def lastKg (m : Mram) : Nat :=
  m.peat.foldl (fun a e => if e.2.typ = 0x04 ∧ e.2.body.extractLsb' 48 8 = 4 then max a e.2.seq.toNat else a) 0

/-- Whether an entry is live (R509). -/
def peatLive (m : Mram) (e : PeatEnt) : Bool :=
  e.typ = 0x05
  || (e.typ = 0x04 && decide (e.seq.toNat = lastKg m) && decide (0 < lastKg m))
  || (e.typ = 0x06 && decide (lastForget m < e.seq.toNat) && decide ((m.startNo - e.start).toNat < 3))

/-- Write one entry at the head. -/
def peatPut (m : Mram) (e : PeatEnt) : Mram :=
  { m with peat := tset {} m.peat m.peatHead { e with seq := BitVec.ofNat 32 (m.peatSeq + 1) }
           peatHead := (m.peatHead + 1) % 2048, peatSeq := m.peatSeq + 1 }

/-- Copy live entries forward from the head until the head holds none (the Medulla), or step over them (the power supervisor). -/
def peatRoom (medulla : Bool) (dt : BitVec 64) : Nat → Mram → Mram
  | 0, m => m
  | k + 1, m =>
    let e := tget {} m.peat m.peatHead
    if peatLive m e then
      peatRoom medulla dt k (if medulla then peatPut m { e with dtime := dt } else { m with peatHead := (m.peatHead + 1) % 2048 })
    else m

/-- Append an entry of the running start. While the Medulla does not run, only START, STEP and POWER are written (R509). -/
def State.peat (s : State) (typ : Byte) (body : BitVec 96) : State :=
  if !s.start.firmDone && !(typ = 1 || typ = 2 || typ = 9) then s else
  let dt := BitVec.ofNat 64 s.devNs
  let m := peatRoom s.start.firmDone dt 2048 s.mram
  { s with mram := peatPut m { typ := typ, start := m.startNo, dtime := dt, body := body } }

/-- A body from its bytes, the first lowest. -/
def bodyOf (bs : List Nat) : BitVec 96 := BitVec.ofNat 96 (bs.foldr (fun b a => b % 256 + 256 * a) 0)

/-- The `k` bytes of `v`, least significant first (R9). -/
def leBytes : Nat → Nat → List Nat
  | 0, _ => []
  | k + 1, v => v % 256 :: leBytes k (v / 256)

/-! ### Modes (R6, R510) -/

def modeCode : Mode → Nat
  | .dormant => 0 | .rising => 1 | .bare => 2 | .serving => 3 | .degraded => 4 | .draining => 5 | .quiescent => 6 | .maintenance => 7

/-- Admission is open only in Serving and Degraded (R7). -/
def State.open_ (s : State) : Bool := s.start.mode = .serving || s.start.mode = .degraded

/-- Change the mode: MODE entry while the Medulla runs (R507, R509), MODE_CHG, vector 1 of PF0 and vector 0 of the VFs; a test instruction leaves with Maintenance (R535).
`cause` is the cause byte of the MODE entry. -/
def State.setMode (s : State) (m : Mode) (cause : Nat) : State :=
  if s.start.mode = m then s else
    let old := s.start.mode
    let s := { s with start := { s.start with mode := m } }
    let s := s.bump (cGlb 16)
    let s := if s.start.firmDone then s.peat 0x03 (bodyOf [modeCode old, modeCode m, cause]) else s
    let s := if old = .maintenance ∧ (s.tap.instr = .extest ∨ s.tap.instr = .array)
      then { s with tap := { s.tap with instr := .bypass, bypassBit := false, zeros := true } } else s
    foldS (List.range 16) (fun k s => s.irq (k + 1) 0) (s.irq 0 1)

/-- Whether a fence or stop is in force (R445, R454). -/
def State.fencedAny (s : State) : Bool :=
  !(s.flt.fslc.isEmpty && s.flt.fhom.isEmpty && s.flt.fchn.isEmpty && s.flt.frtr.isEmpty && s.flt.fport.isEmpty
    && s.flt.fkey.isEmpty && s.flt.dstop.isEmpty && s.flt.frond.isEmpty)

/-- Serving, or Degraded when a fence is in force (R510). -/
def State.servingMode (s : State) : Mode := if s.fencedAny then .degraded else .serving

/-- FAULT_N follows the fences, and a SUPPLY held failed (R523, R445, R499). -/
def State.faultPin (s : State) : State := { s with pwr := { s.pwr with faultOut := s.fencedAny || s.start.supplyHeld } }

/-! ### Error records (R458 to R461, R601) -/

def codeNum : RecCode → Nat
  | .ceData => 1 | .ueData => 2 | .locData => 3 | .ceTag => 4 | .ueTag => 5 | .uePres => 6 | .lstep => 7 | .lstest => 8
  | .ledger => 9 | .ueDir => 10 | .hdrUe => 11 | .bound => 12 | .payPar => 13 | .drop => 14 | .promiseMiss => 15 | .breach => 16
  | .macFail => 17 | .nodeLost => 18 | .stipe => 19 | .keyUe => 20 | .portDead => 21 | .portRej => 22 | .credit => 23
  | .refLost => 24 | .rowSpared => 25 | .colSpared => 26 | .spareOut => 27 | .fence => 28 | .domainStop => 29 | .wbDiscard => 30
  | .auditBad => 31 | .crozSkip => 32 | .poisonWr => 33 | .poisoned => 34

/-- SEV of a code in the table of R458. -/
def codeSev : RecCode → Nat
  | .ceData | .ceTag | .uePres | .lstep | .bound => 0
  | .rowSpared | .colSpared => 1
  | .lstest | .ledger | .keyUe | .spareOut | .fence => 2
  | .ueData | .locData | .ueTag | .ueDir | .hdrUe | .payPar | .drop | .macFail | .nodeLost | .stipe | .wbDiscard | .crozSkip
  | .poisonWr | .poisoned => 3
  | .breach | .portDead | .portRej | .credit => 4
  | .promiseMiss | .domainStop | .auditBad => 5
  | .refLost => 6

def sourceNum : RecSource → Nat
  | .global => 0 | .slice => 1 | .channel => 2 | .home => 3 | .router => 4 | .port => 5 | .gate => 6 | .frond => 7 | .key => 8 | .stipe => 9

/-- R601: the SEV a record carries. -/
def sevOf (c : RecCode) (trip fence repair : Bool) (base : Nat) : Nat :=
  if fence then (if c = .domainStop then 5 else 2)
  else if trip && repair then 1
  else base

/-- R460: put a record into the FIFO of 256; a full FIFO gives up its oldest CORRECTED record to one of SEV 0x02 or above, else the new one is lost. -/
def fifoPut (f : Flt) (r : ErrRec) : Flt × Bool :=
  if f.fifo.length < 256 then ({ f with fifo := f.fifo ++ [r] }, true)
  else if 2 ≤ r.sev ∧ f.fifo.any (fun x => x.sev = 0) then
    ({ f with fifo := rmFirstP (fun x => x.sev = 0) f.fifo ++ [r] }, true)
  else ({ f with lost := min (f.lost + 1) 65535, lostRec := true }, false)

/-- Enter a record: number it, queue it, summarise it in the Peat log, and send the fault message. -/
def State.enterRec (s : State) (r : ErrRec) : State :=
  let r := { r with seq := s.flt.seq + 1, dtime := s.devNs,
                    ktime := if r.source = .global then 0 else BitVec.ofNat 64 (s.ktNs r.domain), peat := decide (1 ≤ r.sev) }
  let wasEmpty := s.flt.fifo.isEmpty
  let (f, inq) := fifoPut { s.flt with seq := s.flt.seq + 1 } r
  let s := { s with flt := f }
  let s := s.bump (cGlb 96)
  let s := if inq then s else s.bump (cGlb 97)
  let s := if 1 ≤ r.sev then
      s.peat 0x07 (bodyOf ([r.sev, sourceNum r.source, r.inst, codeNum r.code] ++ leBytes 8 r.seq))
    else s
  if inq && (s.flt.intEn.getLsbD r.sev) && (wasEmpty || decide (2 ≤ r.sev)) then s.irq 0 0 else s

def coalIs (r : ErrRec) (c : Coal) : Bool := decide (c.source = r.source) && decide (c.inst = r.inst) && decide (c.code = r.code)

/-- Raise a record (R459): at most one per 1 ms (25,000 ACLK) for each source, instance and code, unless TRIP or FENCE is set. -/
def State.raise (s : State) (r : ErrRec) : State :=
  match s.flt.coal.find? (coalIs r) with
  | some c =>
    if (r.trip || r.fence) || decide (c.at_ + 25000 ≤ s.clk.aclk) then
      let s := { s with flt := { s.flt with coal := modFirst (coalIs r) (fun c => { c with at_ := s.clk.aclk, extra := 0 }) s.flt.coal } }
      s.enterRec { r with count := 1 + c.extra }
    else { s with flt := { s.flt with coal := modFirst (coalIs r) (fun c => { c with extra := c.extra + 1 }) s.flt.coal } }
  | none =>
    let s := { s with flt := { s.flt with coal := s.flt.coal ++ [({ source := r.source, inst := r.inst, code := r.code, at_ := s.clk.aclk } : Coal)] } }
    s.enterRec r

/-- Raise a record of a code at its own severity. -/
def State.rep (s : State) (src : RecSource) (inst : Nat) (c : RecCode) (dom : Nat := 0) (line : LineAddr := 0) (agent : Agent := 0) : State :=
  s.raise { sev := codeSev c, source := src, inst := inst, code := c, domain := dom, addr := line.setWidth 48, agent := agent }

end Sys2Proof.Machine
end

