-- ==== Sys2Proof/Machine/Operands.lean ====
section
/-! DEFINITION. What commands name: domains and nodes, placement of lines, ports and near groups, ranges, routes, endpoints, virtual networks. -/

namespace Sys2Proof

/-- Columns and rows of a domain of 2^k nodes (R23). -/
def shapeW (k : Nat) : Nat := if k = 2 then 2 else if k ≤ 4 then 4 else 8
def shapeH (k : Nat) : Nat := if k ≤ 3 then 2 else if k ≤ 5 then 4 else 8
/-- Domains of 16 nodes or fewer run in Compact mode (R23). -/
def ImgDomain.compact (D : ImgDomain) : Bool := decide (D.nlog ≤ 4)
/-- Whether node `n` lies in the domain. -/
def ImgDomain.has (D : ImgDomain) (n : Nat) : Bool :=
  decide (n < 64) && decide (D.origin % 8 ≤ n % 8) && decide (n % 8 < D.origin % 8 + shapeW D.nlog)
    && decide (D.origin / 8 ≤ n / 8) && decide (n / 8 < D.origin / 8 + shapeH D.nlog)
/-- R47: the node at position `h`, and the position of a node. -/
def ImgDomain.node (D : ImgDomain) (h : Nat) : Nat := D.origin + h % shapeW D.nlog + 8 * (h / shapeW D.nlog)
def ImgDomain.pos (D : ImgDomain) (n : Nat) : Nat := (n % 8 - D.origin % 8) + shapeW D.nlog * (n / 8 - D.origin / 8)
/-- Hops on the shortest way from node `a` to node `b` (R326). -/
def ImgDomain.hops (D : ImgDomain) (a b : Nat) : Nat :=
  let x := (D.pos b % shapeW D.nlog + shapeW D.nlog - D.pos a % shapeW D.nlog) % shapeW D.nlog
  let y := (D.pos b / shapeW D.nlog + shapeH D.nlog - D.pos a / shapeW D.nlog) % shapeH D.nlog
  min x (shapeW D.nlog - x) + min y (shapeH D.nlog - y)
def ImgDomain.nodes (D : ImgDomain) : List Nat := (List.range (2 ^ D.nlog)).map D.node
def ImgDomain.ways (D : ImgDomain) : Nat := 2 ^ D.wlog
def ImgDomain.sets (D : ImgDomain) : Nat := 65536 / 2 ^ D.wlog
/-- R46: the exclusive-or of the n-bit chunks of L[44:n]. -/
def foldHash (n : Nat) (l : LineAddr) : Nat :=
  (List.range (45 / n + 1)).foldl (fun a j => a ^^^ (l.toNat / 2 ^ (n * (j + 1)) % 2 ^ n)) 0
/-- R45: the primary position of a line. -/
def ImgDomain.hash (D : ImgDomain) (l : LineAddr) : Nat :=
  (l.toNat % 2 ^ D.nlog) ^^^ foldHash D.nlog l ^^^ (D.seed.toNat % 2 ^ D.nlog)
/-- R48: set index and tag. -/
def ImgDomain.set (D : ImgDomain) (l : LineAddr) : Nat := l.toNat / 2 ^ D.nlog % D.sets
def ImgDomain.tag (D : ImgDomain) (l : LineAddr) : BitVec 31 := BitVec.ofNat 31 (l.toNat / 2 ^ D.nlog / D.sets)
/-- R50: the six lowest tag bits. -/
def ImgDomain.g (D : ImgDomain) (l : LineAddr) : Nat := l.toNat / 2 ^ D.nlog / D.sets % 64
/-- R48: position, set index and tag together recover the line address. -/
def ImgDomain.lineOf (D : ImgDomain) (h set : Nat) (tag : BitVec 31) : LineAddr :=
  let hi := (tag.toNat * D.sets + set) * 2 ^ D.nlog
  BitVec.ofNat 45 (hi + (h ^^^ foldHash D.nlog (BitVec.ofNat 45 hi) ^^^ (D.seed.toNat % 2 ^ D.nlog)))
/-- The peer-directory set and tag of a line (R214). -/
def ImgDomain.dset (D : ImgDomain) (l : LineAddr) : Nat := l.toNat / 2 ^ D.nlog % 2048
def ImgDomain.dtag (D : ImgDomain) (l : LineAddr) : BitVec 32 := BitVec.ofNat 32 (l.toNat / 2 ^ D.nlog / 2048)
def ImgDomain.dline (D : ImgDomain) (h set : Nat) (tag : BitVec 32) : LineAddr :=
  let hi := (tag.toNat * 2048 + set) * 2 ^ D.nlog
  BitVec.ofNat 45 (hi + (h ^^^ foldHash D.nlog (BitVec.ofNat 45 hi) ^^^ (D.seed.toNat % 2 ^ D.nlog)))

end Sys2Proof

namespace Sys2Proof.Machine

open Sys2Proof

/-! ### The image in force -/

/-- Look a key up in a list of pairs. -/
def alook {α : Type} (k : Nat) : List (Nat × α) → Option α
  | [] => none
  | (j, v) :: t => if j = k then some v else alook k t

def State.imgDoms (s : State) : List (Nat × ImgDomain) := match s.imgc.img with | some i => i.doms | none => []

/-- Domain `d` of the image in force. -/
def State.idom (s : State) (d : Nat) : Option ImgDomain := alook d s.imgDoms




/-- The domain of a node, if it is assigned (R27). -/
def State.nodeDom (s : State) (n : Nat) : Option (Nat × ImgDomain) := s.imgDoms.find? (fun e => e.2.has n)


/-- Ports, tenancies and services of the image in force. -/
def State.iport (s : State) (p : Nat) : ImgPort :=
  match s.imgc.img with | some i => (alook p i.ports).getD {} | none => {}
def State.isPort (s : State) (p : Nat) : Bool :=
  match s.imgc.img with | some i => (alook p i.ports).isSome | none => false
def State.iports (s : State) : List (Nat × ImgPort) := match s.imgc.img with | some i => i.ports | none => []
def State.iten (s : State) (t : Nat) : Option ImgTen := match s.imgc.img with | some i => alook t i.tens | none => none
def State.isvc (s : State) (d : Nat) : ImgService := match s.imgc.img with | some i => (alook d i.svcs).getD {} | none => {}
def State.ihomes (s : State) : List ImgHome := match s.imgc.img with | some i => i.homes | none => []

/-- R20: a port's link layer, Gate and injection point are those of the node of its lowest lane. -/
def portNode (p : Nat) : Nat := p / 4
def portSlot (p : Nat) : Nat := p % 4

/-- The domain that owns a port. -/
def State.portDom (s : State) (p : Nat) : Option (Nat × ImgDomain) := s.nodeDom (portNode p)

/-- Whether a port is in service: it has left discovery and not begun to leave (R368, R376). -/
def State.inSvc (s : State) (p : Nat) : Bool :=
  (s.port p).state = .service || (s.port p).state = .draining || (s.port p).state = .retrain

/-- Tenancies of a domain, in ascending order (R100). -/
def State.tensOf (s : State) (d : Nat) : List Nat :=
  (List.range 16).filter (fun t => match s.iten t with | some x => decide (x.domain = d) | none => false)

def State.minOf (s : State) (t : Nat) : Nat := match s.iten t with | some x => x.min | none => 0
def State.maxOf (s : State) (t : Nat) : Nat := tget 0 s.sphMax t

/-! ### Placement (R45 to R52) -/






/-- The slice position that holds a line once spreads are in effect (R50). -/
def State.slicePos (s : State) (d : Nat) (D : ImgDomain) (l : LineAddr) : Nat :=
  let h := D.hash l
  if h ∈ (s.dom d).sliceSpread then (tget (0, 0) (s.dom d).spread (D.g l)).1 else h

/-- The home position of a line (R52). -/
def State.homePos (s : State) (d : Nat) (D : ImgDomain) (l : LineAddr) : Nat :=
  let h := D.hash l
  if h ∈ (s.dom d).homeSpread then (tget (0, 0) (s.dom d).spread (D.g l)).2 else h

def State.sliceNode (s : State) (d : Nat) (D : ImgDomain) (l : LineAddr) : Nat := D.node (s.slicePos d D l)
def State.homeNode (s : State) (d : Nat) (D : ImgDomain) (l : LineAddr) : Nat := D.node (s.homePos d D l)


/-! ### Endpoints (R185) -/

def portEp (dev : BitVec 9) (p : Nat) : Endpoint := (0#1 ++ dev ++ BitVec.ofNat 8 p)
def sliceEp (dev : BitVec 9) (n : Nat) : Endpoint := (1#1 ++ dev ++ BitVec.ofNat 8 n)
def homeEp (dev : BitVec 9) (n : Nat) : Endpoint := (1#1 ++ dev ++ BitVec.ofNat 8 (64 + n))
def writerEp (dev : BitVec 9) (n : Nat) : Endpoint := (1#1 ++ dev ++ BitVec.ofNat 8 (128 + n))
def epUnit (e : Endpoint) : Bool := e.getLsbD 17
def epDev (e : Endpoint) : BitVec 9 := e.extractLsb' 8 9
def epLow (e : Endpoint) : Nat := (e.extractLsb' 0 8).toNat
def epAgent (e : Endpoint) : Agent := e.setWidth 17
/-- The unit type of a KIND 1 endpoint: 0 slice, 1 home shard, 2 controller writer, 3 reserved. -/
def epType (e : Endpoint) : Nat := epLow e / 64
def epNode (e : Endpoint) : Nat := epLow e % 64

/-- Is this endpoint a slice of device `dev`? -/
def isSliceOf (dev : BitVec 9) (e : Endpoint) : Bool := epUnit e && decide (epDev e = dev) && decide (epType e = 0)

/-! ### Near groups (R183, R184) -/

def State.nears (s : State) : List ImgNear := match s.imgc.img with | some i => i.nears | none => []

/-- The ports of near group `g` of domain `d`, in list order. -/
def State.groupPorts (s : State) (d g : Nat) : List Nat :=
  match s.nears.find? (fun e => decide (e.domain = d) && decide (e.group = g)) with | some e => e.ports | none => []

/-- The near group of a NEAR port. -/
def State.groupOf (s : State) (p : Nat) : Option Nat := if (s.iport p).role = .near then some (s.iport p).group else none

/-- The first element at or after index `k`, wrapping round, that satisfies `f`. -/
def pickFrom (ports : List Nat) (k : Nat) (f : Nat → Bool) : Option Nat :=
  (ports.drop k ++ ports.take k).find? f

/-- R184: the line's port of a near group. -/
def State.linePort (s : State) (d g : Nat) (l : LineAddr) : Option Nat :=
  let ps := s.groupPorts d g
  if ps.isEmpty then none else pickFrom ps (l.toNat % ps.length) s.inSvc

/-! ### Ranges (R384, R385, R393) -/

/-- The page of a line. -/
def pageOf (l : LineAddr) : Nat := l.toNat / 32

/-- Whether a range entry is valid in domain `d` and covers the line. -/
def State.rngHits (s : State) (d : Nat) (l : LineAddr) (e : RngEnt) : Bool :=
  e.valid && decide (e.base.toNat ≤ pageOf l) && decide (pageOf l ≤ e.lim.toNat)
    && (match s.iten e.ten.toNat with | some t => decide (t.domain = d) | none => false)

/-- The active entry that covers a line: its number and fields. -/
def State.rngOf (s : State) (d : Nat) (l : LineAddr) : Option (Nat × RngEnt) := s.prot.rngAct.find? (fun e => s.rngHits d l e.2)

/-- R393: a home looks in the current tables, then in the previous ones. -/
def State.rngHome (s : State) (d : Nat) (l : LineAddr) : Option (Nat × RngEnt) :=
  match s.rngOf d l with | some e => some e | none => s.prot.rngPrev.find? (fun e => s.rngHits d l e.2)

/-- The home range of the image that holds a line. -/
def State.homeRange (s : State) (d : Nat) (l : LineAddr) : Option ImgHome :=
  s.ihomes.find? (fun h => decide (h.domain = d) && decide (h.base ≤ 128 * l.toNat) && decide (128 * l.toNat < h.base + h.size * 1073741824))

/-! ### Routes (R372, R373) -/

/-- The route table of a domain: the one a ROUTE command loaded, else the image's. -/
def State.routesOf (s : State) (d : Nat) : List RouteEnt :=
  match s.imgc.img with
  | none => []
  | some i =>
    match s.imgc.routeOvr.bind (alook d) with
    | some r => r
    | none => (alook d i.routes).getD []

def State.route (s : State) (d : Nat) (dev : BitVec 9) : Option RouteEnt := (s.routesOf d).find? (fun r => decide (r.dev = dev.toNat))

/-- R373: the PEER port on which a message for line `l` leaves toward device `dev`. -/
def State.peerPort (s : State) (d : Nat) (dev : BitVec 9) (l : LineAddr) : Option Nat :=
  match s.route d dev with
  | none => none
  | some r => if r.ports.isEmpty then none else pickFrom r.ports (l.toNat % r.ports.length) s.inSvc

/-! ### Messages (R189, R314) -/

def vnOf : Op → Vn
  | .rdSh | .rdOwn | .ownUpg | .ownNodata | .rdNa | .wr | .wrThru | .wrDur | .pfHint | .memRd | .cfgRd | .cfgWr | .barrier => .req
  | .snpSh | .snpOwn | .snpInv | .snpCur => .snp
  | .rspI | .rspS | .rspFwd | .grant | .cmp | .dur | .compAck | .wbAck | .wbSuperseded | .retry | .err | .memAck | .memDur
  | .barDone | .cfgAck => .rsp
  | .data | .sdata | .memData | .cfgData => .dat
  | .wb | .evn | .memWr | .memWrDur => .wbk

def vnNum : Vn → Nat | .req => 0 | .snp => 1 | .rsp => 2 | .dat => 3 | .wbk => 4

/-- Cells of a message (R169, R317): two with a line or write payload, one otherwise. -/
def cellsOf (m : Msg) : Nat :=
  if m.half.isSome then 1
  else match m.op with
    | .wr | .wrThru | .wrDur | .data | .sdata | .memData | .wb | .memWr | .memWrDur => 2
    | _ => 1

/-- Calendar and link flits of a message: one for its header and one per DATA flit (R354). -/
def creditsOf (m : Msg) : Nat := if cellsOf m = 2 then 2 else 1

/-- The sink queue of a unit at its destination (R322). -/
def sinkQueue (k : Sink) (op : Op) : Nat :=
  match k, vnOf op with
  | .slice, .req => 40 | .slice, .snp => 41 | .slice, .wbk => 42 | .slice, _ => 43
  | .home, .req => 45 | .home, .wbk => 46 | .home, .rsp => 47 | .home, .dat => 48 | .home, .snp => 45
  | .port k, v => 20 + 5 * k + vnNum v

/-- Cells reserved for each queue of a node (R170). -/
def queueResv (q : Nat) : Nat :=
  if q < 40 then 16 else if q < 49 then 64 else if q < 64 then 0 else if q < 96 then 16
  else if q < 224 then 0 else if q < 236 then 16 else if q = 236 then 64 else 0

/-- The sink queues of a node (R322). -/
def sinkQueues : List Nat := (List.range 20).map (20 + ·) ++ [40, 41, 42, 43, 45, 46, 47, 48]

/-- Cells set aside for a queue: those of R170, and in a Compact domain four for each of its nodes at a sink queue (R330). -/
def State.setAside (s : State) (n q : Nat) : Nat :=
  match s.nodeDom n with
  | some (_, D) => if D.compact && decide (q ∈ sinkQueues) then max (queueResv q) (4 * 2 ^ D.nlog) else queueResv q
  | none => queueResv q

def fcells (u : FUnit) : Nat := cellsOf u.msg
def qcells (q : List FUnit) : Nat := (q.map fcells).foldl (· + ·) 0

/-- Is queue `q` one that a port slot, slice, home shard, router or Gate of R170 binds? -/
def queueBound (q : Nat) : Bool := decide (q < 50) || (decide (64 ≤ q) && decide (q < 237))

/-- Classes (R243). -/
def clsOf (c : BitVec 2) : Cls := if c = 0 then .t0 else if c = 1 then .t1 else .t2
def clsNum : Cls → Nat | .t0 => 0 | .t1 => 1 | .t2 => 2
/-- R244: the slower of two classes. -/
def slower (a b : Cls) : Cls := if clsNum a < clsNum b then b else a

def causeNum : VoidCause → Nat
  | .none => 0 | .memory => 1 | .durable => 2 | .near => 3 | .peer => 4 | .sync => 5 | .promiseMiss => 6
def reasonNum : Reason → Nat
  | .calendar => 0 | .entries => 1 | .home => 2 | .watch => 3 | .rate => 4 | .carried => 5 | .sync => 6
def errNum : ErrCode → Nat
  | .none => 0 | .notServing => 1 | .denied => 2 | .poison => 3 | .integrity => 4 | .timeout => 5 | .sliceFault => 6 | .homeFault => 7
  | .unreachable => 8 | .protocol => 9
def bstatNum : BStatus → Nat | .ok => 0 | .late => 1 | .barrierLoss => 2
def roleNum : Role → Nat | .off => 0 | .near => 1 | .plain => 2 | .memory => 3 | .peer => 4
def slotNum : SlotName → Nat | .none => 0 | .a => 1 | .b => 2
def cohNum : CohState → Nat | .i => 0 | .s => 1 | .e => 2 | .o => 3 | .m => 4

/-- Does an access write (R306)? -/
def isWrite (op : Op) : Bool := op = .wr || op = .wrThru || op = .wrDur

/-- All 16 codewords poisoned over zero data (R457). -/
def poisonLine : LineData := { bits := 0, marks := 0xFFFF }

/-- R159: lay masked bytes over a line. -/
def layBytes (base : BitVec 1024) (data : BitVec 1024) (mask : BitVec 128) : BitVec 1024 :=
  (List.range 128).foldl (fun a i =>
    if mask.getLsbD i then (a &&& ~~~ (0xFF#1024 <<< (8 * i))) ||| (data &&& (0xFF#1024 <<< (8 * i))) else a) base

/-- A mask of all 128 bytes. -/
def fullMask : BitVec 128 := BitVec.allOnes 128

/-- SUBD bits of the halves a mask touches (R54). -/
def subdOf (mask : BitVec 128) : BitVec 2 :=
  (if mask.extractLsb' 64 64 = 0 then 0#1 else 1#1) ++ (if mask.extractLsb' 0 64 = 0 then 0#1 else 1#1)

end Sys2Proof.Machine
end

