-- ==== Sys2Proof/Machine/Codec.lean ====
section
/-! DEFINITION. Codewords of the DEC-TED code (R431 to R435), the line as it rests in memory (R400 to R402), and the CRCs of R351 and R458. -/

namespace Sys2Proof.Machine

open Sys2Proof

/-! ### The code -/

/-- Check bits: the remainder of i(x) x^15 by g(x) = 0xC599, with i(x) = LOC x^64 + Σ d[k] x^k. -/
def checkBits (loc : Bool) (d : BitVec 64) : Nat :=
  (List.range 65).foldl (fun r i =>
    let b := if i = 0 then loc else d.getLsbD (64 - i)
    let r2 := 2 * r % 32768
    if b != r.testBit 14 then r2 ^^^ 0x4599 else r2) 0

/-- The 80-bit codeword: LOC, C[14:0], data (R432). -/
def encodeCw (loc : Bool) (d : BitVec 64) : BitVec 80 := BitVec.ofBool loc ++ BitVec.ofNat 15 (checkBits loc d) ++ d

/-- A poison mark of data: the correct check field exclusive-or 0x0007 (R435). -/
def markCw (loc : Bool) (d : BitVec 64) : BitVec 80 := encodeCw loc d ^^^ (7#80 <<< 64)

/-- Multiply by α in GF(2^7), on x^7 + x^3 + 1. -/
def gfX (a : Nat) : Nat := if a < 64 then 2 * a else (2 * a) ^^^ 0x89
/-- α^k. -/
def gfPow : Nat → Nat
  | 0 => 1
  | k + 1 => gfX (gfPow k)
/-- The powers of α, from 0 to 126. -/
def gfTab : List Nat := (List.range 126).foldl (fun l _ => l ++ [gfX (l.getLastD 1)]) [1]
def gfLog (t : List Nat) (a : Nat) : Option Nat := t.findIdx? (fun x => decide (x = a))

/-- Bit at code position `p` of a stored word (R432). -/
def atPos (cw : BitVec 80) (p : Nat) : Bool := if p < 15 then cw.getLsbD (64 + p) else if p < 79 then cw.getLsbD (p - 15) else cw.getLsbD 79
def flipPos (cw : BitVec 80) (p : Nat) : BitVec 80 := cw ^^^ (1#80 <<< (if p < 15 then 64 + p else if p < 79 then p - 15 else 79))

/-- S1, S3 and P (R434). -/
def syndrome (t : List Nat) (cw : BitVec 80) : Nat × Nat × Bool :=
  (List.range 80).foldl (fun a p =>
    if atPos cw p then (a.1 ^^^ t.getD p 0, a.2.1 ^^^ t.getD (3 * p % 127) 0, !a.2.2) else a) (0, 0, false)

/-- The syndrome of a stored word as a record gives it: S3, S1 and P (R458). -/
def synWord (cw : BitVec 80) : BitVec 16 := let y := syndrome gfTab cw; BitVec.ofNat 16 (256 * y.2.1 + 2 * y.1 + (if y.2.2 then 1 else 0))

/-- What the decoder finds. -/
inductive CwOut | clean | corrected (at_ : Nat) (second : Option Nat) | mark | ue | loc
deriving DecidableEq, Repr

/-- The outcome before the location check, and the corrected word. -/
def decodeRaw (cw : BitVec 80) : CwOut × BitVec 80 :=
  let t := gfTab
  let (s1, s3, p) := syndrome t cw
  if s1 = t.getD 0 0 ^^^ t.getD 1 0 ^^^ t.getD 2 0 ∧ s3 = t.getD 0 0 ^^^ t.getD 3 0 ^^^ t.getD 6 0 ∧ p = true then (.mark, cw)
  else if s1 = 0 ∧ s3 = 0 ∧ p = false then (.clean, cw)
  else if p then
    match gfLog t s1 with
    | some i => if i < 80 ∧ s3 = t.getD (3 * i % 127) 0 then (.corrected i none, flipPos cw i) else (.ue, cw)
    | none => (.ue, cw)
  else if s1 = 0 then (.ue, cw)
  else
    match (List.range 80).findSome? (fun i =>
      match gfLog t (s1 ^^^ t.getD i 0) with
      | some j => if i < j ∧ j < 80 ∧ s3 = t.getD (3 * i % 127) 0 ^^^ t.getD (3 * j % 127) 0 then some (i, j) else none
      | none => none) with
    | some (i, j) => (.corrected i (some j), flipPos (flipPos cw i) j)
    | none => (.ue, cw)

/-- Decode a stored word read from a place whose location bit is `loc`. -/
def decodeCw (loc : Bool) (cw : BitVec 80) : CwOut × BitVec 64 :=
  let (o, w) := decodeRaw cw
  match o with
  | .mark | .ue | .loc => (o, w.extractLsb' 0 64)
  | _ => if w.getLsbD 79 = loc then (o, w.extractLsb' 0 64) else (.loc, w.extractLsb' 0 64)

/-- The vectors of CHECK (R497): data, LOC, inverted positions, expected parity, outcome, and the data out where one is expected. -/
def checkVec (k : Nat) : BitVec 64 × Bool × List Nat × Bool × CheckOut × Option (BitVec 64) :=
  match k with
  | 0 => (0, false, [], false, .clean, some 0)
  | 1 => (0xFFFFFFFFFFFFFFFF, true, [], true, .clean, some 0xFFFFFFFFFFFFFFFF)
  | 2 => (0xA5A55A5AC33C0FF0, false, [15], false, .single, some 0xA5A55A5AC33C0FF0)
  | 3 => (0xA5A55A5AC33C0FF0, false, [79], false, .single, some 0xA5A55A5AC33C0FF0)
  | 4 => (0xA5A55A5AC33C0FF0, false, [0, 78], false, .double, some 0xA5A55A5AC33C0FF0)
  | 5 => (0xA5A55A5AC33C0FF0, false, [3, 40, 77], false, .ue, none)
  | 6 => (0, false, [0, 1, 2], false, .mark, none)
  | _ => (0x0123456789ABCDEF, true, [], false, .loc, none)

/-- The stored word of a vector. -/
def checkCw (k : Nat) : BitVec 80 := (checkVec k).2.2.1.foldl flipPos (encodeCw (checkVec k).2.1 (checkVec k).1)

/-- The report that an outcome of the decoder makes. -/
def checkOf : CwOut → CheckOut
  | .clean => .clean | .corrected _ none => .single | .corrected _ (some _) => .double | .mark => .mark | .ue => .ue | .loc => .loc

/-- Does an answer differ from the table (R498)? -/
def checkFails (a : CheckAns) : Bool :=
  let v := checkVec a.vec
  decide (a.out ≠ v.2.2.2.2.1) || (match v.2.2.2.2.2 with | some d => decide (a.data ≠ d) | none => false)

/-- Exclusive-or of the bits of a location value. -/
def parityOf (v : Nat) : Bool := (List.range 64).foldl (fun a i => a != v.testBit i) false
/-- Location bit of codeword `j` of a line (R433). -/
def locOf (l : LineAddr) (j : Nat) : Bool := parityOf (16 * l.toNat + j)

/-- Word j of a line. -/
def wordOf (d : BitVec 1024) (j : Nat) : BitVec 64 := d.extractLsb' (64 * j) 64

/-- The 16 codewords of a line, marks included. -/
def encodeLine (l : LineAddr) (x : LineData) : List (BitVec 80) :=
  (List.range 16).map (fun j => if x.marks.getLsbD j then markCw (locOf l j) (wordOf x.bits j) else encodeCw (locOf l j) (wordOf x.bits j))

/-- A line from its words. -/
def joinWords (ws : List (BitVec 64)) : BitVec 1024 := BitVec.ofNat 1024 ((ws.zipIdx).foldl (fun a w => a + w.1.toNat * 2 ^ (64 * w.2)) 0)

/-- The line that 16 codewords decode to; an uncorrectable or wrongly placed word is a mark. -/
def decodeLine (l : LineAddr) (cws : List (BitVec 80)) : LineData :=
  let rs := (List.range 16).map (fun j => decodeCw (locOf l j) (cws.getD j 0))
  { bits := joinWords (rs.map (·.2))
    marks := BitVec.ofNat 16 ((rs.zipIdx).foldl (fun a r => match r.1.1 with | .mark | .ue | .loc => a + 2 ^ r.2 | _ => a) 0) }

/-! ### Tag and presence words (R54 to R58) -/

/-- The code of a coherence state in a tag word (R55), and the state that a code stands for. -/
def cohBits (c : CohState) : BitVec 3 := match c with | .i => 0 | .s => 1 | .e => 2 | .o => 3 | .m => 4
def cohOf (b : BitVec 3) : Option CohState :=
  match b.toNat with | 0 => some .i | 1 => some .s | 2 => some .e | 3 => some .o | 4 => some .m | _ => none

/-- The 64-bit tag word (R54); the spare bits are written as zero. -/
def TagWord.word (t : TagWord) : BitVec 64 :=
  t.tag ++ t.origin ++ cohBits t.state ++ t.keyid ++ t.ten ++ BitVec.ofBool t.lock ++ t.owner ++ t.subd ++ 0#3

/-- The fields of a stored tag word, its spare bits ignored; none where STATE or OWNER holds a reserved value (R55 to R57). -/
def tagOfWord (w : BitVec 64) : Option TagWord :=
  let o := w.extractLsb' 5 8
  if o.toNat < 32 ∨ o = 0xFF then
    (cohOf (w.extractLsb' 24 3)).map (fun c => {
      tag := w.extractLsb' 33 31, origin := w.extractLsb' 27 6, state := c, keyid := w.extractLsb' 18 6, ten := w.extractLsb' 14 4, lock := w.getLsbD 13
      owner := o, subd := w.extractLsb' 3 2 })
  else none

/-- The 64-bit presence word of ways 2k and 2k + 1 (R58). -/
def presWord (lo hi : BitVec 32) : BitVec 64 := hi ++ lo

/-- What the check of a stored word finds, read with the bit errors `flips` at the place of location value `ix`: the outcome, the word it then holds,
and the syndrome that a record gives. -/
def readWord (ix : Nat) (w : BitVec 64) (flips : BitVec 80) : CwOut × BitVec 64 × BitVec 16 :=
  let loc := parityOf ix
  let cw := encodeCw loc w ^^^ flips
  let r := decodeCw loc cw
  (r.1, r.2, synWord cw)

/-! ### Lines under a key (R400 to R402) -/

/-- Counter block j of a line at a version. -/
def ctrBlock (l : LineAddr) (major : BitVec 64) (minor : BitVec 13) (j : Nat) : BitVec 128 := l ++ major ++ minor ++ BitVec.ofNat 3 j ++ 0#3

/-- The pad of 1,024 bits: AES of the eight counter blocks. -/
def padOf (kd : BitVec 256) (l : LineAddr) (major : BitVec 64) (minor : BitVec 13) : BitVec 1024 :=
  BitVec.ofNat 1024 ((List.range 8).foldl (fun a j => a + (Config.aes256 kd (ctrBlock l major minor j)).toNat * 2 ^ (128 * j)) 0)

/-- The bytes of a line, byte 0 first. -/
def lineBytes (d : BitVec 1024) : List Byte := (List.range 128).map (fun i => d.extractLsb' (8 * i) 8)

/-- R402: the MAC of ciphertext under a key and a last byte (the key identifier, or a node's level). -/
def macOf (km : BitVec 256) (l : LineAddr) (major : BitVec 64) (minor : BitVec 13) (c : BitVec 1024) (last : Nat) : BitVec 64 :=
  Config.gmac64 km (ctrBlock l major minor 0) (lineBytes c ++ [BitVec.ofNat 8 last])

/-- Sixteen codewords of data words with a MAC in the side words of the first four. -/
def sideWords (c : BitVec 1024) (mac : BitVec 64) : List (BitVec 80) :=
  (List.range 16).map (fun j => (if j < 4 then mac.extractLsb' (16 * j) 16 else 0#16) ++ wordOf c j)

/-- Ciphertext and MAC of 16 codewords, and whether side words 4 to 15 are zero. -/
def fromSide (cws : List (BitVec 80)) : BitVec 1024 × BitVec 64 × Bool :=
  (joinWords ((List.range 16).map (fun j => (cws.getD j 0).extractLsb' 0 64)),
   BitVec.ofNat 64 ((List.range 4).foldl (fun a j => a + ((cws.getD j 0).extractLsb' 64 16).toNat * 2 ^ (16 * j)) 0),
   (List.range 12).all (fun j => decide ((cws.getD (j + 4) 0).extractLsb' 64 16 = 0)))

/-- A protected line as written: encrypted at its version; a poisoned line has its MAC inverted (R456). -/
def sealLine (kd km : BitVec 256) (kid : Nat) (l : LineAddr) (major : BitVec 64) (minor : BitVec 13) (x : LineData) : List (BitVec 80) :=
  let c := x.bits ^^^ padOf kd l major minor
  let m := macOf km l major minor c kid
  sideWords c (if x.marks = 0 then m else ~~~ m)

/-- Verify and decrypt a protected line. -/
def openLine (kd km : BitVec 256) (kid : Nat) (l : LineAddr) (major : BitVec 64) (minor : BitVec 13) (cws : List (BitVec 80)) : Option LineData :=
  let (c, m, z) := fromSide cws
  if z && decide (m = macOf km l major minor c kid) then some { bits := c ^^^ padOf kd l major minor } else none

/-! ### CRCs -/

/-- One byte into a reflected CRC-32 of IEEE 802.3. -/
def crc32Byte (c : BitVec 32) (b : Byte) : BitVec 32 :=
  (List.range 8).foldl (fun c _ => if c.getLsbD 0 then (c >>> 1) ^^^ 0xEDB88320#32 else c >>> 1) (c ^^^ b.setWidth 32)
/-- CRC-32: initial 0xFFFF_FFFF, result inverted (R458). -/
def crc32 (bs : List Byte) : BitVec 32 := ~~~ (bs.foldl crc32Byte 0xFFFFFFFF#32)

/-- One byte into the CRC-16 of R351, most significant bit first. -/
def crc16Byte (c : BitVec 16) (b : Byte) : BitVec 16 :=
  (List.range 8).foldl (fun c _ => if c.getLsbD 15 then (c <<< 1) ^^^ 0x1021#16 else c <<< 1) (c ^^^ (b.setWidth 16 <<< 8))
def crc16 (bs : List Byte) : BitVec 16 := bs.foldl crc16Byte 0xFFFF#16

/-- Bytes of a number, least significant first. -/
def bytesLe (n v : Nat) : List Byte := (leBytes n v).map (BitVec.ofNat 8 ·)

/-- The 32 bytes of a Peat entry (R506). -/
def peatBytes (e : PeatEnt) : List Byte :=
  let b := [e.typ, 0] ++ bytesLe 2 e.start.toNat ++ bytesLe 4 e.seq.toNat ++ bytesLe 8 e.dtime.toNat ++ bytesLe 12 e.body.toNat
  if e.seq = 0 then List.replicate 32 0 else b ++ bytesLe 4 (crc32 b).toNat

/-- The 64 bytes of an error record (R458). -/
def recBytes (r : ErrRec) : List Byte :=
  let fl := (if r.trip then 128 else 0) + (if r.fence then 64 else 0) + (if r.peat then 32 else 0) + r.domain % 16
  let b := bytesLe 1 1 ++ bytesLe 1 r.sev ++ bytesLe 1 (sourceNum r.source) ++ bytesLe 1 r.inst ++ bytesLe 2 (codeNum r.code) ++ bytesLe 1 fl
    ++ bytesLe 1 r.win ++ bytesLe 8 r.seq ++ bytesLe 8 r.ktime.toNat ++ bytesLe 8 r.dtime ++ bytesLe 6 r.addr.toNat ++ bytesLe 2 r.set
    ++ bytesLe 1 r.way ++ bytesLe 1 r.cw ++ bytesLe 2 r.syn.toNat ++ bytesLe 3 r.agent.toNat ++ bytesLe 1 0 ++ bytesLe 4 r.count
    ++ bytesLe 8 r.detail.toNat
  b ++ bytesLe 4 (crc32 b).toNat

end Sys2Proof.Machine
end

