-- ==== Sys2Proof/Machine/Link.lean ====
section
/-! DEFINITION. The link layer of a Karik port: message slots and flits, the link check, lanes and their code, credits, encrypted blocks (R314, R318, R346 to R360, R364, R365, R378). -/

namespace Sys2Proof.Machine

open Sys2Proof

/-! ### Message slots (R189, R314 to R318, R352, R353) -/

/-- The opcode of a message in its class. -/
def opcNum : Op → Nat
  | .rdSh | .snpSh | .rspI | .data | .wb => 1
  | .rdOwn | .snpOwn | .rspS | .sdata | .evn => 2
  | .ownUpg | .snpInv | .rspFwd | .memData | .memWr => 3
  | .ownNodata | .snpCur | .grant | .cfgData | .memWrDur => 4
  | .rdNa | .cmp => 5
  | .wr | .dur => 6
  | .wrThru | .compAck => 7
  | .wrDur | .wbAck => 8
  | .pfHint | .wbSuperseded => 9
  | .memRd | .retry => 10
  | .cfgRd | .err => 11
  | .cfgWr | .memAck => 12
  | .barrier | .memDur => 13
  | .barDone => 14
  | .cfgAck => 15

/-- Payload forms (R317): extension, half, write, line. -/
inductive Form | ext | half | write | line
deriving DecidableEq, Repr

def formOf (m : Msg) : Form :=
  if m.half.isSome then .half
  else match m.op with
    | .wr | .wrThru | .wrDur => .write
    | .data | .sdata | .memData | .wb | .memWr | .memWrDur => .line
    | _ => .ext

def formNum : Form → Nat | .ext => 0 | .half => 1 | .write => 2 | .line => 3

/-- The half that a payload names: the half carried, or the one that goes first (R77, R317). -/
def halfOf (m : Msg) : Bool := m.half.getD m.crit.msb

/-- EP holds the requester in these messages, the sender in every other (R315). -/
def epIsReq (op : Op) : Bool :=
  match op with
  | .rdSh | .rdOwn | .ownUpg | .ownNodata | .rdNa | .wr | .snpSh | .snpOwn | .snpInv | .snpCur | .data | .grant | .cmp | .dur | .err | .wbAck
  | .wbSuperseded | .memData | .memAck | .memDur => true
  | _ => false

/-- The state that a message carries: GRANT, or NEWSTATE of a snoop answer. -/
def stateOf (m : Msg) : CohState := match m.op with | .rspI | .rspS | .rspFwd | .sdata => m.newstate | _ => m.grant

/-- The calendar slot of a deadline, modulo 65,536 (R314, R355). -/
def dlSlot (t : KTime) : BitVec 16 := BitVec.ofNat 16 (slotOf t)

/-- The LINE field: in SDATA, ANSWER_TO and COUNT; in a register access, its size and offset. -/
def lineField (m : Msg) : BitVec 45 :=
  match m.op with
  | .sdata => m.answerTo ++ BitVec.ofNat 6 m.count ++ 0#21
  | .cfgRd | .cfgWr => 0#18 ++ BitVec.ofBool m.cfgEight ++ m.cfgOff
  | _ => m.line

/-- The TXN field: in WB and EVN, DEST_DEV; in REQ messages other than MEM_RD, zero. -/
def txnField (m : Msg) : BitVec 12 :=
  match m.op with
  | .wb | .evn => m.destDev ++ 0#3
  | .rdSh | .rdOwn | .ownUpg | .ownNodata | .rdNa | .wr | .wrThru | .wrDur | .pfHint | .cfgRd | .cfgWr | .barrier => 0
  | _ => m.txn

/-- FLAGS of a line or half form. -/
def flagsField (m : Msg) : BitVec 7 :=
  match formOf m with
  | .half | .line => cohBits (stateOf m) ++ BitVec.ofBool (if m.op = .sdata then m.evicting else m.fwd) ++ BitVec.ofBool m.wt ++ BitVec.ofBool (halfOf m) ++ 0#1
  | _ => 0

/-- The header of R314. -/
def headerWith (dst egr la age : Nat) (m : Msg) : BitVec 128 :=
  BitVec.ofNat 6 dst ++ BitVec.ofNat 3 egr ++ BitVec.ofNat 3 (vnNum (vnOf m.op)) ++ BitVec.ofNat 5 (opcNum m.op) ++ BitVec.ofNat 3 la
    ++ BitVec.ofNat 2 (formNum (formOf m)) ++ BitVec.ofBool m.nodl ++ (if m.nodl then 0#16 else dlSlot m.dl) ++ BitVec.ofNat 7 age ++ lineField m ++ (if epIsReq m.op then m.requester else m.sender) ++ txnField m ++ flagsField m

/-- The header as a link carries it: DST, EGR, LA and AGE are zero (R352). -/
def headerBits (m : Msg) : BitVec 128 := headerWith 0 0 0 0 m

/-- E0 (R318); in CFG_WR and CFG_DATA, the data (R353). The endpoint that EP names is not given again. -/
def ext0 (m : Msg) : BitVec 64 :=
  match m.op with
  | .cfgWr | .cfgData => m.cfgData
  | _ => m.answerTo ++ (if epIsReq m.op then m.sender else 0#18) ++ (if epIsReq m.op then 0#18 else m.requester) ++ BitVec.ofNat 4 (errNum m.err) ++ BitVec.ofNat 6 m.count

/-- E1 (R318). -/
def ext1With (src seq : Nat) (m : Msg) : BitVec 64 :=
  (if m.nodl || decide (vnOf m.op ≠ .req) then 0#16 else dlSlot m.hitDl) ++ BitVec.ofNat 6 src ++ BitVec.ofNat 12 seq ++ m.destDev ++ cohBits (stateOf m) ++ m.crit
    ++ (if vnOf m.op = .req then m.cls else 0#2) ++ BitVec.ofBool m.evicting ++ BitVec.ofBool m.wt ++ BitVec.ofBool m.nodata ++ BitVec.ofBool m.fwd ++ 0#8

/-- E1 on a link: SRC and SEQ are zero (R352). -/
def ext1 (m : Msg) : BitVec 64 := ext1With 0 0 m

/-- Does the message carry an extension slot (R353)? Line and half forms have no extension words. -/
def hasExt (m : Msg) : Bool :=
  match m.op with
  | .retry | .barDone | .cfgWr | .cfgData => true
  | _ => match formOf m with
    | .line | .half => false
    | _ => decide (ext0 m ≠ 0) || decide (ext1 m ≠ 0)

/-- DATA flits of a message. -/
def dfNum (m : Msg) : Nat := match formOf m with | .ext => 0 | .half => 1 | .write => 2 | .line => 2

/-- The header slot of R352. -/
def headerSlot (m : Msg) : BitVec 160 :=
  headerBits m ++ (if hasExt m then 1#2 else 0#2) ++ BitVec.ofNat 2 (dfNum m) ++ m.destDev ++ (if vnOf m.op = .req then m.cls else 0#2)
    ++ BitVec.ofNat 5 (if m.op = .retry then 0 else m.hold.getD 0) ++ BitVec.ofBool (m.hold.isSome && decide (m.op ≠ .retry)) ++ 0#11

/-- RETRY_AT in whole ns, not before the time it stands for. -/
def retryNs (t : KTime) : BitVec 64 := BitVec.ofNat 64 (ceilDiv t 16777216)

/-- The extension slot of R352. -/
def extSlot (m : Msg) : BitVec 160 :=
  ext0 m ++ (if m.op = .retry then retryNs m.retryAt else ext1 m) ++ (match m.op with
    | .retry => BitVec.ofBool m.held ++ BitVec.ofNat 5 (m.hold.getD 0) ++ BitVec.ofNat 3 (reasonNum m.reason) ++ 0#23
    | .barDone => BitVec.ofNat 2 (bstatNum m.bstatus) ++ m.lostTgt ++ BitVec.ofNat 10 m.lostCnt ++ 0#3
    | _ => 0#32)

/-! ### Payloads (R77, R317, R354) -/

/-- A number of `w` bits from pieces, the first lowest. -/
def packSteps (w step : Nat) (l : List Nat) : BitVec w := BitVec.ofNat w ((l.zipIdx).foldl (fun a x => a + x.1 * 2 ^ (step * x.2)) 0)

/-- The eight codewords of one half in address order. -/
def halfWords (cws : List (BitVec 80)) (upper : Bool) : BitVec 640 := packSteps 640 80 (((cws.drop (if upper then 8 else 0)).take 8).map (·.toNat))

/-- The codewords that a line-form or half-form message carries. -/
def wordsOf (m : Msg) : List (BitVec 80) := if m.cw.isEmpty then encodeLine m.line m.data else m.cw

/-- The payloads of the DATA flits: the half named by HALF first; of a write, bytes 0 to 79 first, then bytes 80 to 127, the mask, E0 and E1. -/
def dataPayloads (m : Msg) : List (BitVec 640) :=
  match formOf m with
  | .ext => []
  | .half => [halfWords (wordsOf m) (halfOf m)]
  | .line => [halfWords (wordsOf m) (halfOf m), halfWords (wordsOf m) (!halfOf m)]
  | .write => [m.data.bits.extractLsb' 0 640, ext1 m ++ ext0 m ++ m.mask ++ m.data.bits.extractLsb' 640 384]

/-! ### Flits (R350, R351) -/

/-- Flit types. -/
def ftIdle : Nat := 0
def ftHdr : Nat := 1
def ftData : Nat := 2
def ftLink : Nat := 3
def ftMgmt : Nat := 4
def ftTag : Nat := 5

/-- A flit: the control word in its first four bytes, then the payload. -/
def rawFlit (ft cvn ccnt nslot : Nat) (crc : BitVec 16) (payload : BitVec 640) : BitVec 672 :=
  payload ++ (BitVec.ofNat 3 ft ++ BitVec.ofNat 3 cvn ++ BitVec.ofNat 4 ccnt ++ BitVec.ofNat 2 nslot ++ 0#4 ++ crc)

/-- CRC-16 over the 84 bytes of a flit, its CRC field taken as zero. -/
def flitCrc (f : BitVec 672) : BitVec 16 :=
  let z := f &&& ~~~ (0xFFFF#672)
  crc16 ((List.range 84).map (fun i => z.extractLsb' (8 * i) 8))

def mkFlit (ft cvn ccnt nslot : Nat) (payload : BitVec 640) : BitVec 672 :=
  rawFlit ft cvn ccnt nslot (flitCrc (rawFlit ft cvn ccnt nslot 0 payload)) payload

def flitFt (f : BitVec 672) : Nat := (f.extractLsb' 29 3).toNat
def flitCvn (f : BitVec 672) : Nat := (f.extractLsb' 26 3).toNat
def flitCcnt (f : BitVec 672) : Nat := (f.extractLsb' 22 4).toNat
def flitPayload (f : BitVec 672) : BitVec 640 := f.extractLsb' 32 640

/-- What the link check finds (R351), of a flit whose codewords had at most `symErr` symbol errors each (R349), numbered `seq`. LINK flits are not numbered. -/
def linkCheck (x : Port) (seq : BitVec 16) (f : BitVec 672) (symErr : Nat) : Bool :=
  decide (symErr ≤ 15) && decide (f.extractLsb' 0 16 = flitCrc f) && decide (flitFt f ≤ 5) && (decide (flitFt f = ftLink) || decide (seq = x.rxSeq))

/-! ### Lanes (R347, R348) -/

/-- Multiplication in GF(2^10) on x^10 + x^3 + 1. -/
def gf10Mul (a b : Nat) : Nat :=
  ((List.range 10).foldl (fun r i =>
    let acc := if b.testBit i then r.1 ^^^ r.2 else r.1
    (acc, if r.2 < 512 then 2 * r.2 else (2 * r.2) ^^^ 0x409)) (0, a)).1

/-- The generator of RS(544,514), lowest coefficient first and its leading one left out: the product of x + α^j for j from 0 to 29. -/
def rsGen : List Nat :=
  ((List.range 30).foldl (fun (g : List Nat × Nat) _ =>
    let sh := 0 :: g.1
    let by_ := (g.1.map (fun c => gf10Mul c g.2)) ++ [0]
    ((sh.zip by_).map (fun e => e.1 ^^^ e.2), gf10Mul g.2 2)) ([1], 1)).1.take 30

/-- The 30 parity symbols of 514 message symbols, the first symbol of the message highest. -/
def rsParity (msg : List Nat) : List Nat :=
  msg.foldl (fun r d =>
    let f := r.getD 29 0 ^^^ d
    ((0 :: r.take 29).zip rsGen).map (fun e => e.1 ^^^ gf10Mul f e.2)) (List.replicate 30 0)

/-- A codeword of a lane: 514 symbols of 10 payload bits, the first sent lowest, then the parity symbols, the highest first. -/
def laneCodeword (payload : Nat) : BitVec 5440 :=
  let msg := (List.range 514).map (fun i => payload / 2 ^ (10 * i) % 1024)
  packSteps 5440 10 (msg ++ (rsParity msg).reverse)

/-- The payload of a marker codeword: pattern, lane offset, port number, marker count. -/
def markerPayload (lane p k : Nat) : Nat := 0x5E6A0F1CC3B9 + lane % 256 * 2 ^ 48 + p % 256 * 2 ^ 56 + k % 2 ^ 32 * 2 ^ 64

/-- Codewords with flit bits that a lane of `w` has sent once the port has sent `k` flits. -/
def cwsSent (w lane k : Nat) : Nat := 672 * ((k + w - 1 - lane) / w) / 5140

/-- Put a flit on its lane: flit k travels on lane k mod W; each 5,140 bits make a codeword, and a marker codeword follows every 65,535 of them. -/
def State.toLane (s : State) (p : Nat) (seq : BitVec 16) (f : BitVec 672) : State :=
  let x := s.port p
  let w := 2 ^ x.wact.getD 0
  let lane := x.txFlits % w
  let held := x.laneBits.getD lane (0, 0)
  let n := held.1 + 672
  let v := held.2 + f.toNat * 2 ^ held.1
  let full : Bool := decide (5140 ≤ n)
  let bits : Nat × Nat := if full then (n - 5140, v / 2 ^ 5140) else (n, v)
  let s := s.modPort p (fun y => { y with
    txFlits := y.txFlits + 1, laneBits := setAt (y.laneBits ++ List.replicate (w - y.laneBits.length) (0, 0)) lane bits })
  let s := s.emit (.flit p lane seq f)
  if full then
    let s := s.emit (.codeword p lane (laneCodeword (v % 2 ^ 5140)))
    let k := cwsSent w lane (x.txFlits + 1)
    if k % 65535 = 0 then s.emit (.codeword p lane (laneCodeword (markerPayload lane p (k / 65535)))) else s
  else s

/-! ### Sending (R356 to R359, R378) -/

/-- The credit return that the next numbered flit takes with it: virtual network (7: none) and count. -/
def nextReturn (x : Port) : Nat × Nat :=
  match (List.range 5).find? (fun v => decide (0 < x.ret.getD v 0)) with
  | some v => (v, min 15 (x.ret.getD v 0))
  | none => (7, 0)

/-- Add to entry `v` of a list of counts, or take away. -/
def addAt (l : List Nat) (v k : Nat) : List Nat := setAt l v (l.getD v 0 + k)
def subAt (l : List Nat) (v k : Nat) : List Nat := setAt l v (l.getD v 0 - k)

/-- Are the payloads of flits of this type encrypted (R378)? -/
def inBlock (x : Port) (ft : Nat) : Bool := x.enc && decide (ft = ftHdr ∨ ft = ftData ∨ ft = ftMgmt)

/-- A payload as it stands in an encrypted block of number `blk`, as its flit `i`. -/
def sealPayload (x : Port) (blk : BitVec 64) (i : Nat) (plain : BitVec 640) : BitVec 640 := plain ^^^ Config.gcmStream x.encKeyTx x.encSaltTx blk i

/-- The payload of a TAG flit: tag, block number, NEWKEY. -/
def tagPayload (t : BitVec 128) (blk : BitVec 64) (new : Bool) : BitVec 640 := (BitVec.ofBool new).setWidth 448 ++ blk ++ t

/-- Send one numbered flit: it takes a credit return with it, is kept for replay and counted. -/
def State.sendFlit (s : State) (p ft nslot : Nat) (payload : BitVec 640) : State :=
  let x := s.port p
  let r := nextReturn x
  let f := mkFlit ft r.1 r.2 nslot (if inBlock x ft then sealPayload x x.encBlkTx x.encBlock.length payload else payload)
  let s := s.modPort p (fun y => { y with
    txSeq := y.txSeq + 1
    unacked := y.unacked ++ [{ seq := x.txSeq, bits := f, plain := payload, first := inBlock x ft && x.encBlock.isEmpty }]
    ret := subAt y.ret r.1 r.2, inHeld := subAt y.inHeld r.1 r.2, encBlock := if inBlock x ft then y.encBlock ++ [f] else y.encBlock })
  (s.bump (cPort p ft)).toLane p x.txSeq f

/-- Close an encrypted block with its TAG flit; NEWKEY changes the sending key after it (R379). -/
def State.closeBlock (s : State) (p : Nat) : State :=
  let x := s.port p
  if x.encBlock.isEmpty then s
  else
    let t := Config.gcmTag x.encKeyTx x.encSaltTx x.encBlkTx x.encBlock
    let s := (s.sendFlit p ftTag 0 (tagPayload t x.encBlkTx x.nextTx.isSome)).emit (.tag p x.encBlkTx t x.nextTx.isSome)
    s.modPort p (fun y => match y.nextTx with
      | some k => { y with encBlock := [], encBlkTx := 0, encKeyTx := k.1, encSaltTx := k.2, nextTx := none }
      | none => { y with encBlock := [], encBlkTx := y.encBlkTx + 1 })

/-- Send a flit that an encrypted port puts into a block; a block closes after 24. -/
def State.blockFlit (s : State) (p ft nslot : Nat) (payload : BitVec 640) : State :=
  let s := s.sendFlit p ft nslot payload
  if 24 ≤ (s.port p).encBlock.length then s.closeBlock p else s

/-- Flits of a message: its header and its DATA flits (R354). -/
def flitsOf (m : Msg) : Nat := 1 + dfNum m

/-- Credits that a message costs (R357). -/
def costOf (m : Msg) : Nat := if dfNum m = 2 then 2 else 1

/-- Does the partner's queue have the credits for a message, and the replay buffer the room (R356, R358)? No key is used for more than 2^40 blocks (R379). -/
def State.sendable (s : State) (p : Nat) (m : Msg) : Bool :=
  let x := s.port p
  let v := vnNum (vnOf m.op)
  decide (x.used.getD v 0 + costOf m ≤ x.padv.getD v 0) && decide (x.unacked.length + flitsOf m + 1 ≤ 1024) && (!x.enc || decide (x.encBlkTx.toNat < 2 ^ 40)) && s.inSvc p && decide (x.state ≠ .retrain)

/-- Hand a message to the port's FEC encoder: one HDR flit with its slots, then its DATA flits; its credits are spent. -/
def State.handOver (s : State) (p : Nat) (m : Msg) : State :=
  let v := vnNum (vnOf m.op)
  let s := (s.modPort p (fun x => { x with used := addAt x.used v (costOf m) })).emit (.msg p m)
  let hdr : BitVec 640 := if hasExt m then (0#320 ++ extSlot m ++ headerSlot m) else (0#480 ++ headerSlot m)
  let s := s.blockFlit p ftHdr (if hasExt m then 1 else 0) hdr
  let s := (dataPayloads m).foldl (fun s x => s.blockFlit p ftData 0 x) s
  s.closeBlock p

/-- Send the credits that are due in IDLE flits, where such flits return credits (R358, R378). -/
def State.returnCredits (s : State) (p : Nat) : Nat → State
  | 0 => s
  | k + 1 =>
    let x := s.port p
    if x.enc || !s.inSvc p || decide (x.state = .retrain) || x.ret.all (fun n => decide (n = 0)) || decide (1023 ≤ x.unacked.length) then s
    else State.returnCredits (s.sendFlit p ftIdle 0 0) p k

/-- Send one MGMT flit: MTYPE in byte 0, and the message's bytes after it (R364, R365). -/
def State.mgmtFlit (s : State) (p mtype : Nat) (bytes : List Nat) : State :=
  (s.blockFlit p ftMgmt 0 (packSteps 640 8 ((mtype :: bytes).take 80))).closeBlock p

/-- Send a LINK flit, which is neither numbered nor replayed: 0 for LACK or 1 for LNAK, then the number. -/
def State.linkFlit (s : State) (p : Nat) (nak : Bool) (seq : BitVec 16) : State :=
  let s := ((s.bump (cPort p ftLink)).toLane p 0 (mkFlit ftLink 7 0 0 (packSteps 640 8 [if nak then 1 else 0, seq.toNat])))
  s.emit (if nak then .lnak p seq else .lack p seq)

/-- Send an MGMT message of one argument byte. -/
def State.mgmt (s : State) (p mtype arg : Nat) : State := (s.emit (.mgmt p mtype arg)).mgmtFlit p mtype (leBytes 4 arg)

/-! ### Replay (R356, R363, R381) -/

/-- Start a fast retrain of a port in service. -/
def State.fastRetrain (s : State) (p : Nat) : State :=
  if (s.port p).state = .service ∨ (s.port p).state = .draining then
    s.modPort p (fun x => { x with state := .retrain, train := .lock, retrainRun := true, retrainAt := s.clk.fclk }) else s

/-- Sequence numbers up to and including `a`, within the window of 1,024. -/
def seqLe (x a : BitVec 16) : Bool := decide ((a - x).toNat < 1024)

/-- The flits of encrypted blocks, encrypted again under the next block numbers: the block under way is carried along with its number. -/
def resealAll (x : Port) (us : List UFlit) : List UFlit × BitVec 64 :=
  let r := us.foldl (fun (a : List UFlit × BitVec 64 × List (BitVec 672)) u =>
    let c := u.bits.extractLsb' 0 32
    let mk (pl : BitVec 640) : BitVec 672 := mkFlit (flitFt u.bits) (flitCvn u.bits) (flitCcnt u.bits) (c.extractLsb' 20 2).toNat pl
    if inBlock x (flitFt u.bits) then
      let f := mk (sealPayload x a.2.1 a.2.2.length u.plain)
      (a.1 ++ [{ u with bits := f }], a.2.1, a.2.2 ++ [f])
    else if flitFt u.bits = ftTag then
      let f := mk (tagPayload (Config.gcmTag x.encKeyTx x.encSaltTx a.2.1 a.2.2) a.2.1 (u.plain.getLsbD 192))
      (a.1 ++ [{ u with bits := f }], a.2.1 + 1, [])
    else (a.1 ++ [u], a.2.1, a.2.2)) ([], x.encBlkTx, [])
  (r.1, r.2.1)

/-- Send flits again: each is counted and travels on the next lane. -/
def State.resendAll (s : State) (p : Nat) (us : List UFlit) : State :=
  (us.foldl (fun s u => (s.toLane p u.seq u.bits).emit (.resend p u.seq u.bits)) s).bumpN (cPort p 16) us.length

/-- Send the flits from `seq` on again. Where `seq` begins an encrypted block, its flits are encrypted again (R381). A flit sent 8 times without LACK starts a fast retrain. -/
def State.resendFrom (s : State) (p : Nat) (seq : BitVec 16) : State :=
  let x := s.port p
  let again := x.unacked.filter (fun f => seqLe seq f.seq)
  let r : List UFlit × BitVec 64 := if x.enc && (match again.head? with | some u => u.first | none => false) then resealAll x again else (again, x.encBlkTx)
  let s := s.modPort p (fun y => { y with
    unacked := y.unacked.filter (fun f => !seqLe seq f.seq) ++ r.1.map (fun f => { f with times := f.times + 1 }), encBlkTx := r.2 })
  let s := s.resendAll p r.1
  if again.any (fun f => decide (8 ≤ f.times)) then s.fastRetrain p else s

/-! ### Receiving -/

/-- Flits of a message or of an MGMT message have passed the link check: they are counted, and the next number is due. -/
def State.gotFlits (s : State) (p hdr data mgmt : Nat) : State :=
  let s := s.modPort p (fun x => { x with rxSeq := x.rxSeq + BitVec.ofNat 16 (hdr + data + mgmt), lnakSent := false, goodAt := s.clk.fclk })
  let s := ((s.bumpN (cPort p 7) hdr).bumpN (cPort p 8) data).bumpN (cPort p 10) mgmt
  if 0 < hdr + data + mgmt then s.linkFlit p false ((s.port p).rxSeq - 1) else s

/-- The partner returns credits. -/
def State.gotReturn (s : State) (p : Nat) (f : BitVec 672) : State :=
  if flitCvn f < 5 then s.modPort p (fun x => { x with used := subAt x.used (flitCvn f) (flitCcnt f) }) else s

/-- Cells of a message leave the ingress queue: its credits may be returned (R358). -/
def State.leaveIngress (s : State) (p : Nat) (m : Msg) : State :=
  s.modPort p (fun x => { x with ret := addAt x.ret (vnNum (vnOf m.op)) (costOf m) })

/-- R358: a message takes ingress cells under the credits that the port granted. With none to cover it, it is dropped, counted and recorded, and the port
starts a fast retrain. Answers whether it was taken. -/
def State.takeCredit (s : State) (p : Nat) (m : Msg) : State × Bool :=
  let v := vnNum (vnOf m.op)
  let s := s.gotFlits p 1 (dfNum m) 0
  if (s.port p).inHeld.getD v 0 + costOf m ≤ (s.iport p).cred.getD v 0 then
    (s.modPort p (fun x => { x with inHeld := addAt x.inHeld v (costOf m) }), true)
  else
    (((s.bump (cPort p 18)).rep .port p .credit (match s.portDom p with | some e => e.1 | none => 0) m.line (s.port p).pagent).fastRetrain p, false)

/-- MTYPEs that R364 names. -/
def mtypeKnown (t : Nat) : Bool := (decide (1 ≤ t) && decide (t ≤ 5)) || decide (t = 0x10) || decide (t = 0x11) || decide (t = 0x20) || (decide (0x30 ≤ t) && decide (t ≤ 0x32))

/-- LINK_CHECK_FAIL: a flit arrives with sequence number `seq`, its codewords with `symErr` symbol errors. One that fails the check makes one LNAK with the
number that is due, and flits are discarded until that number arrives. One that passes returns its credits; an IDLE flit, and an MGMT flit of a reserved MTYPE,
which is dropped and counted, do nothing more, and the messages of other flits come with their own commands. -/
def execLinkCheckFail (p : Nat) (f : RxFlit) (s : State) : Ans :=
  .next (
    let x := s.port p
    if x.state = .off ∨ x.state = .detect ∨ x.state = .isolating ∨ x.state = .failed ∨ x.train = .eq ∨ x.train = .lock then s
    else
      let s := if f.symErr = 0 then s else s.bump (cPort p (if f.symErr ≤ 15 then 12 else 13))
      if linkCheck x f.seq f.flit f.symErr then
        let s := s.gotReturn p f.flit
        if flitFt f.flit = ftIdle then ((s.gotFlits p 0 0 0).modPort p (fun y => { y with rxSeq := y.rxSeq + 1 })).bump (cPort p 6)
        else if flitFt f.flit = ftMgmt ∧ x.enc = false ∧ mtypeKnown ((flitPayload f.flit).extractLsb' 0 8).toNat = false then (s.gotFlits p 0 0 1).bump (cPort p 22)
        else s
      else
        let s := if f.symErr ≤ 15 ∧ f.flit.extractLsb' 0 16 ≠ flitCrc f.flit then s.bump (cPort p 14) else s
        if x.lnakSent then s
        else (s.modPort p (fun y => { y with lnakSent := true })).linkFlit p true x.rxSeq)

/-- The ledger of a port's ingress (R359): what its partner may still use, what stands in the ingress queue, and the returns not yet sent make CRED(v). -/
def creditBalance (P : ImgPort) (x : Port) (v : Nat) : Bool := decide (x.ret.getD v 0 ≤ x.inHeld.getD v 0) && decide (x.inHeld.getD v 0 ≤ P.cred.getD v 0)

end Sys2Proof.Machine
end

