-- ==== Sys2Proof/Machine/Send.lean ====
section
/-! DEFINITION. Putting messages where the next unit finds them: queues of the cushion pool, the fabric, port egress, and the answers of a Gate. -/

namespace Sys2Proof.Machine

open Sys2Proof

/-! ### Cells (R169 to R174) -/

/-- Cells of messages. -/
def mcells (ms : List Msg) : Nat := sumL (ms.map cellsOf)

/-- Cells in each queue of a node that is not empty: its pool's queues; in a Full-mode domain the link inputs and turn queues of its router; the home shard's
per-line queues, in the order in which they were bound, and its run-ahead entries, a line each. -/
def State.cellCounts (s : State) (n : Nat) : List (Nat × Nat) :=
  let full : Bool := match s.nodeDom n with | some e => !e.2.compact | none => false
  (s.pool n).q.map (fun e => (e.1, qcells e.2))
    ++ (if full then (s.router n).inq.map (fun e => (64 + e.1, qcells e.2)) ++ (s.router n).turn.map (fun e => (89 + e.1, qcells e.2)) else [])
    ++ (s.home n).lineq.zipIdx.map (fun e => (96 + e.2, mcells (e.1.2.map (·.1)))) ++ [(236, 2 * (s.home n).ra.length)]

/-- Cells in queue `q` (POOL_QDATA). -/
def State.qCount (s : State) (n q : Nat) : Nat := sumL (((s.cellCounts n).filter (fun e => decide (e.1 = q))).map (·.2))

/-- Cells linked into the queues of a node (POOL_LEDG). -/
def State.poolUsed (s : State) (n : Nat) : Nat := sumL ((s.cellCounts n).map (·.2))

/-- Cells that the queues of a node have drawn beyond their reservations. -/
def State.poolShared (s : State) (n : Nat) : Nat := sumL ((s.cellCounts n).map (fun e => e.2 - s.setAside n e.1))

/-- Cells of a node that its queues share: 2,112, less what a Compact domain sets aside (R171, R330). -/
def State.sharedCells (s : State) (n : Nat) : Nat := 2112 - sumL (sinkQueues.map (fun q => s.setAside n q - queueResv q))

/-- Does queue `q` find no cells for `c` more? A queue takes what is set aside for it, then shared cells, up to 1,024 (R171). -/
def State.noCell (s : State) (n q c : Nat) : Bool :=
  let k := s.qCount n q
  let r := s.setAside n q
  let more := (k + c - r) - (k - r)
  decide (0 < more) && (decide (1024 < k + c - r) || decide (s.sharedCells n < s.poolShared n + more))

/-- Link a unit into queue `q` of node `n` (R169, R172). A queue under FLUSH takes nothing (R174), and neither does one that finds no cell (R173). -/
def State.qPush (s : State) (n q : Nat) (u : FUnit) : State :=
  if q ∈ (s.pool n).flushing then s.bumpN (cSlc n 33) (fcells u)
  else if s.noCell n q (fcells u) then s.modPool n (fun p => { p with short := true })
  else s.modPool n (fun p => { p with q := tmod [] p.q q (fun l => l ++ [{ u with ord := p.seq }]), seq := p.seq + 1 })

/-- The Compact reservations on their way back once the first unit with message `m` is taken out of queue `q`: one FCLK a hop (R330). -/
def State.retsWith (s : State) (n q : Nat) (m : Msg) : List (Nat × Nat × Nat × Nat) :=
  let old := (s.pool n).rets.filter (fun r => decide (s.clk.fclk < r.2.2.2))
  match s.nodeDom n, (tget [] (s.pool n).q q).find? (fun u => decide (u.msg = m)) with
  | some (_, D), some u => if u.ej && D.compact then old ++ [(u.src, q, fcells u, s.clk.fclk + D.hops n u.src)] else old
  | _, _ => old

/-- Take the first unit with message `m` out of queue `q`; nothing happens when it is not there. -/
def State.qTake (s : State) (n q : Nat) (m : Msg) : State :=
  s.modPool n (fun p => { p with q := tmod [] p.q q (rmFirstP (fun u => u.msg = m)), rets := s.retsWith n q m })

/-- The units of queue `q`. -/
def State.qOf (s : State) (n q : Nat) : List FUnit := tget [] (s.pool n).q q

/-- A unit that node `n` makes for a sink of node `dst`. -/
def mkUnit (s : State) (n dst : Nat) (k : Sink) (m : Msg) : FUnit :=
  { src := n, dst := dst, sink := k, msg := m, age := s.clk.fclk % 128, at_ := s.clk.fclk }

/-- Hand a unit to the injection queue of its virtual network (R321). -/
def State.inject (s : State) (n dst : Nat) (k : Sink) (m : Msg) : State :=
  s.qPush n (84 + vnNum (vnOf m.op)) (mkUnit s n dst k m)

/-- Hand an admitted request to the Gate injection queue of its port slot and class, from where it may be injected from its admission edge `at_` on (R170, R250, R321). -/
def State.injectGate (s : State) (n slot : Nat) (c : Cls) (dst : Nat) (k : Sink) (m : Msg) (at_ : Nat) : State :=
  s.qPush n (224 + 3 * (slot % 4) + clsNum c) { mkUnit s n dst k m with at_ := at_ }

/-- The sink of a port, with the port's node as destination. Slot 56 stands for the controller writer of the node (R30). -/
def portSink (p : Nat) : Nat × Sink := (portNode p, .port (portSlot p))

/-- Place a message in the egress queue of port `p` (R319). -/
def State.egress (s : State) (p : Nat) (m : Msg) : State :=
  s.qPush (portNode p) (20 + 5 * portSlot p + vnNum (vnOf m.op))
    { src := portNode p, dst := portNode p, sink := .port (portSlot p), msg := m, age := s.clk.fclk % 128 }

/-- What happens to a message whose destination device has no route in service (R374), sent by the slice or home shard of node `n`. -/
def State.noRoute (s : State) (d n : Nat) (fromHome : Bool) (m : Msg) : State :=
  let s := s.bump (if fromHome then cHom n 35 else cSlc n 37)
  let back (q : Nat) (k : Sink) (x : Msg) (s : State) : State :=
    s.qPush n q { src := n, dst := n, sink := k, msg := x, age := s.clk.fclk % 128 }
  match vnOf m.op with
  | .req => back (if fromHome then 47 else 43) (if fromHome then .home else .slice) { m with op := .err, err := .unreachable } s
  | .snp => back 47 .home { m with op := .rspI, err := .unreachable, sender := sliceEp m.destDev 0 } s
  | .wbk => (back (if fromHome then 47 else 43) (if fromHome then .home else .slice) { m with op := .wbAck } s).rep
      (if fromHome then .home else .slice) n .wbDiscard d m.line
  | _ => s

/-- Send a message from a unit of node `n` toward endpoint `ep`. -/
def State.sendEp (s : State) (d : Nat) (D : ImgDomain) (n : Nat) (fromHome : Bool) (ep : Endpoint) (m : Msg) : State :=
  let m := { m with destDev := epDev ep }
  if epDev ep = D.device then
    let none_ : State := (if fromHome then s.bump (cHom n 33) else s).rep (if fromHome then .home else .slice) n .drop d m.line
    if epUnit ep then
      if !D.has (epNode ep) then none_
      else if epType ep = 0 then s.inject n (epNode ep) .slice m
      else if epType ep = 1 then s.inject n (epNode ep) .home m
      else if epType ep = 2 then s.inject n (epNode ep) (.port 56) m
      else (s.bump (cHom n 33)).rep (if fromHome then .home else .slice) n .drop d m.line
    else if !(s.isPort (epLow ep) && D.has (portNode (epLow ep))) then none_
    else
      let p := epLow ep
      let p := match s.groupOf p with
        | some g => if s.inSvc p then p else (s.linePort d g m.line).getD p
        | none => p
      s.inject n (portNode p) (.port (portSlot p)) m
  else match s.peerPort d (epDev ep) m.line with
    | some p => s.inject n (portNode p) (.port (portSlot p)) m
    | none => s.noRoute d n fromHome m

/-- Send to the device-level home of a line, as the slice of node `n` (R182). -/
def State.sendHome (s : State) (d : Nat) (D : ImgDomain) (n : Nat) (homeDev : BitVec 9) (m : Msg) : State :=
  if homeDev = D.device then s.inject n (s.homeNode d D m.line) .home { m with destDev := homeDev }
  else match s.peerPort d homeDev m.line with
    | some p => s.inject n (portNode p) (.port (portSlot p)) { m with destDev := homeDev }
    | none => s.noRoute d n false { m with destDev := homeDev }

/-- Send a snoop from the slice of node `n` to near group `g` on the line's port (R184, R194). With no port of the group in service,
the snoop is absorbed and its report comes back as an answer (R377). -/
def State.sendNear (s : State) (d : Nat) (D : ImgDomain) (n g : Nat) (m : Msg) : State :=
  match s.linePort d g m.line with
  | some p => s.inject n (portNode p) (.port (portSlot p)) { m with destDev := D.device }
  | none => s.qPush n 43 { src := n, dst := n, sink := .slice, age := s.clk.fclk % 128,
                           msg := { m with op := .rspI, err := .unreachable, sender := portEp D.device ((s.groupPorts d g).headD 0) } }

/-! ### Ranking (R316) -/

/-- The deadline key of a message in domain `d`: NODL after every deadline, a passed deadline first. -/
def State.dlKey (s : State) (d : Nat) (m : Msg) : Nat :=
  if m.nodl then 65536
  else
    let k := (slotOf m.dl + 65536 - slotOf (s.kt d) % 65536) % 65536
    if 32000 < k then 0 else k

/-! ### Answers of a Gate -/

/-- The completion a Gate makes itself for an admitted or refused request: it goes straight to the port's egress queue (R319);
for the controller writer, to the Gate that hands it back (R30). -/
def State.gateAnswer (s : State) (p : Nat) (m : Msg) : State :=
  if p < 256 then s.egress p m
  else s.modGate ((s.idom (p - 256)).getD {}).capsule (fun G => { G with writerOut := G.writerOut ++ [m] })

/-- ERR with a code, for a request. -/
def errFor (m : Msg) (e : ErrCode) : Msg :=
  { op := .err, line := m.line, txn := m.txn, requester := m.requester, err := e, dl := m.dl, nodl := m.nodl, destDev := epDev m.requester, cls := m.cls }

/-- ERR for a request that the Gate does not admit: no watch entry stands for it. -/
def refusal (m : Msg) (e : ErrCode) : Msg := { errFor m e with refused := true }

/-- ERR for a watch entry. -/
def errWatch (w : Watch) (e : ErrCode) : Msg :=
  { op := .err, line := w.line, requester := w.req, err := e, dl := w.dl, destDev := epDev w.req }

def watchIs (w x : Watch) : Bool := x = w

/-- Complete a watch entry of Gate `g` with an error: the answer is queued and the entry marked (R277, R446, R377). -/
def State.completeErr (s : State) (g : Nat) (w : Watch) (e : ErrCode) : State :=
  let s := s.modGate g (fun G => { G with watch := modFirst (watchIs w) (fun x => { x with queued := true }) G.watch })
  s.gateAnswer w.port (errWatch w e)

end Sys2Proof.Machine
end

