-- ==== Sys2Proof/Machine/Flags.lean ====
section
/-! DEFINITION. Access-error fields, fault windows, and the same-cycle rules of register fields. -/

namespace Sys2Proof.Machine

open Sys2Proof

/-! ### Access errors (R560) -/

def requesterNum : Requester → Nat | .pf0 => 0 | .vf k => k | .window _ => 0x11 | .medulla => 0x12
def accNum : AccCause → Nat
  | .narrow => 1 | .align => 2 | .encoding => 3 | .busy => 4 | .denied => 5 | .unassigned => 6 | .viaView => 7

/-- The access-error field of the block at `base`. -/
def State.accOf (s : State) (base : Nat) : AccErr := tget {} s.acc (base / 0x1000)

/-- R560: capture the first error while LOGGED reads 0; a further one sets MORE. `full` is the whole register-space offset. -/
def accCapture (a : AccErr) (c : AccCause) (src : Nat) (wr : Bool) (off : Nat) : AccErr :=
  if a.logged then { a with more := true }
  else { a with logged := true, cause := some c, src := BitVec.ofNat 5 src, write := wr, off := BitVec.ofNat 21 off }

/-- Change an access-error field. -/
def State.modAcc (s : State) (k : Nat) (f : AccErr → AccErr) : State := { s with acc := tmod {} s.acc k f }

/-- Change a sub-block of the slow domain. -/
def State.modSlow (s : State) (k : Nat) (f : Slow → Slow) : State := { s with slow := tmod {} s.slow k f }

/-- Log an access error in the block at `base`; GLB_ACCERR keeps the full offset too. -/
def State.logAcc (s : State) (base : Nat) (who : Requester) (c : AccCause) (wr : Bool) (off full : Nat) : State :=
  let first := !(s.accOf base).logged
  let s := s.modAcc (base / 0x1000) (fun a => accCapture a c (requesterNum who) wr off)
  if base = 0 ∧ first then { s with accAddr := BitVec.ofNat 26 full } else s

/-- The register view of an access-error field. -/
def accWord (a : AccErr) : BitVec 32 :=
  (BitVec.ofBool a.logged) ++ (BitVec.ofBool a.more) ++ (BitVec.ofNat 3 (match a.cause with | some c => accNum c | none => 0))
    ++ a.src ++ (BitVec.ofBool a.write) ++ a.off

/-- R560: writing 1 to LOGGED clears the capture, writing 1 to MORE clears MORE. -/
def accClear (a : AccErr) (v : BitVec 32) : AccErr :=
  let a := if v.getLsbD 31 then { a with logged := false, cause := none, src := 0, write := false, off := 0 } else a
  if v.getLsbD 30 then { a with more := false } else a

/-! ### Fields (R15) -/

/-- W1C: a written 1 clears the bit, unless hardware sets it in the same cycle. -/
def w1c (old : Bool) (wr hw : Bool) : Bool := hw || (old && !wr)

/-- CNT: the written value plus that cycle's increment (R15, R573). -/
def cntWrite (v inc : Nat) : Nat := satAdd (v % 2 ^ 48) inc

/-! ### Fault windows (R443, R444) -/

/-- Threshold and length in ms of window `k`: the image's, or the builder's defaults while no image is in force. -/
def winDefault (k : Nat) : Nat × Nat :=
  match k with
  | 0 => (4, 600000) | 1 => (1, 0) | 2 => (3, 600000) | 3 => (1, 0) | 4 => (16, 600000) | 5 => (3, 1000) | 6 => (1, 0)
  | 7 => (4, 600000) | 8 => (1, 0) | 9 => (3, 1000) | 10 => (3, 1000) | 11 => (4, 10000) | 12 => (8, 1000) | 13 => (3, 1000)
  | _ => (0, 0)

def State.winPar (s : State) (k : Nat) : Nat × Nat :=
  match s.imgc.img with | some i => i.wins.getD k (winDefault k) | none => winDefault k

def winIs (k : Nat) (r : WinRes) (w : WinEnt) : Bool := decide (w.k = k) && decide (w.res = r)

def State.winOf (s : State) (k : Nat) (r : WinRes) : List (Nat × Nat) :=
  match s.flt.wins.find? (winIs k r) with | some w => w.times | none => []

def State.setWin (s : State) (k : Nat) (r : WinRes) (ts : List (Nat × Nat)) : State :=
  let ws := rmFirstP (winIs k r) s.flt.wins
  { s with flt := { s.flt with wins := if ts.isEmpty then ws else ws ++ [({ k := k, res := r, times := ts } : WinEnt)] } }

/-- R443: does a window whose newest event is first trip? Times are ACLK counts. -/
def winTrips (thr lenMs : Nat) (ts : List (Nat × Nat)) : Bool :=
  if thr = 0 then false
  else if thr = 1 then !ts.isEmpty
  else match ts.head?, ts[thr - 1]? with
    | some a, some b => decide (a.1 - b.1 < lenMs * 25000)
    | _, _ => false

/-- Count an event against a window; answers whether it trips, and then the window is emptied. `row` makes the events of COL_CE distinct by row. -/
def State.winHit (s : State) (k : Nat) (r : WinRes) (row : Nat := 0) : State × Bool :=
  let old := s.winOf k r
  let old := if k = 2 then old.filter (fun t => t.2 ≠ row) else old
  let ts := ((s.clk.aclk, row) :: old).take 16
  let (thr, len) := s.winPar k
  if winTrips thr len ts then ((s.setWin k r []).bump (cGlb 98), true) else (s.setWin k r ts, false)

/-- Lockstep mismatches within the slice's current window (SLC_LSTEP.WINDOW_CNT). -/
def State.winCnt (s : State) (k : Nat) (r : WinRes) : Nat :=
  ((s.winOf k r).filter (fun t => decide (s.clk.aclk - t.1 < (s.winPar k).2 * 25000))).length

end Sys2Proof.Machine
end

