-- ==== Sys2Proof/Machine/Dir.lean ====
section
/-! DEFINITION. The peer directory of a home shard, and the queue of work on its lines (R172, R205 to R207, R212 to R217). -/

namespace Sys2Proof.Machine

open Sys2Proof

/-! ### Entries -/

/-- The devices of a coarse entry's groups that the route table reaches (R215). -/
def State.groupDevs (s : State) (d : Nat) (D : ImgDomain) (g : BitVec 8) : List Nat :=
  ((s.routesOf d).map (·.dev)).filter (fun v => decide (v ≠ D.device.toNat) && g.getLsbD (v / 64))

/-- The owner that an entry records. -/
def DirEnt.own (e : DirEnt) : Option Nat := if e.st = .shared then none else some e.owner.toNat

/-- The sharers that an entry records. -/
def State.dirSharers (s : State) (d : Nat) (D : ImgDomain) (e : DirEnt) : List Nat :=
  if e.st = .owned then []
  else if e.coarse then (s.groupDevs d D e.groups).filter (fun v => decide (e.own ≠ some v))
  else (if e.st = .shared then [e.owner.toNat] else []) ++ (match e.sharer2 with | some v => [v.toNat] | none => [])

/-- Every holder that an entry records. -/
def State.dirHolders (s : State) (d : Nat) (D : ImgDomain) (e : DirEnt) : List Nat :=
  (match e.own with | some v => [v] | none => []) ++ s.dirSharers d D e

/-- Does a pointer of the entry name device `v`? -/
def DirEnt.points (e : DirEnt) (v : Nat) : Bool := !e.coarse && (decide (e.owner.toNat = v) || (match e.sharer2 with | some x => decide (x.toNat = v) | none => false))

/-- The entry for an owner and sharers: pointer form while it holds at most two devices and `was` is false, else coarse form. -/
def dirMake (tag : BitVec 32) (origin : BitVec 6) (was : Bool) (groups : BitVec 8) (owner : Option Nat) (sh : List Nat) : Option DirEnt :=
  let sh := sh.filter (fun v => decide (owner ≠ some v))
  let mask := sh.foldl (fun g v => orBit g (v / 64)) groups
  match owner, sh with
  | none, [] => if was ∧ groups ≠ 0 then some { tag := tag, origin := origin, st := .shared, coarse := true, groups := groups } else none
  | some o, [] =>
    if was ∧ groups ≠ 0 then some { tag := tag, origin := origin, st := .ownedShared, coarse := true, owner := BitVec.ofNat 9 o, groups := groups }
    else some { tag := tag, origin := origin, st := .owned, coarse := was, owner := BitVec.ofNat 9 o }
  | none, v :: r =>
    if was ∨ 2 ≤ r.length then some { tag := tag, origin := origin, st := .shared, coarse := true, groups := mask }
    else some { tag := tag, origin := origin, st := .shared, owner := BitVec.ofNat 9 v, sharer2 := r.head?.map (BitVec.ofNat 9 ·) }
  | some o, v :: r =>
    if was ∨ 1 ≤ r.length then some { tag := tag, origin := origin, st := .ownedShared, coarse := true, owner := BitVec.ofNat 9 o, groups := mask }
    else some { tag := tag, origin := origin, st := .ownedShared, owner := BitVec.ofNat 9 o, sharer2 := some (BitVec.ofNat 9 v) }

/-- The entry once device `v` holds no copy. In coarse form an owner's group stays marked, and a sharer's leaving is not seen (R215). -/
def dirWithout (e : DirEnt) (v : Nat) : Option DirEnt :=
  if e.coarse then
    (if e.own = some v then some { e with st := .shared, owner := 0, groups := orBit e.groups (v / 64) } else some e)
  else if e.owner.toNat = v then
    (match e.st, e.sharer2 with
     | .owned, _ => none
     | _, some w => some { e with st := .shared, owner := w, sharer2 := none }
     | _, none => none)
  else match e.sharer2 with
    | some w => if w.toNat = v then some { e with sharer2 := none, st := if e.st = .ownedShared then .owned else e.st } else some e
    | none => some e

/-! ### The array (R214, R217) -/

/-- Way and entry of a line, among the readable ways. -/
def State.dirFind (s : State) (n : Nat) (D : ImgDomain) (l : LineAddr) : Option (Nat × DirEnt) :=
  (List.range 16).findSome? (fun w =>
    match tget none (s.home n).dir (16 * D.dset l + w) with
    | some e => if e.tag = D.dtag l ∧ e.origin.toNat = D.hash l ∧ (D.dset l, w) ∉ (s.home n).quar then some (w, e) else none
    | none => none)

/-- Does the line's directory set hold a lost way? -/
def State.dirLost (s : State) (n : Nat) (D : ImgDomain) (l : LineAddr) : Bool := (s.home n).quar.any (fun q => decide (q.1 = D.dset l))

def State.dirPut (s : State) (n : Nat) (D : ImgDomain) (l : LineAddr) (w : Nat) (e : Option DirEnt) : State :=
  s.modHome n (fun x => { x with dir := tset none x.dir (16 * D.dset l + w) e })

/-- Remove a device from the line's entry. -/
def State.dirDrop (s : State) (n : Nat) (D : ImgDomain) (l : LineAddr) (v : Nat) : State :=
  match s.dirFind n D l with
  | some (w, e) => s.dirPut n D l w (dirWithout e v)
  | none => s

/-- Where a new entry goes: a free way, a victim's way, or nowhere for now (R216). -/
inductive DirRoom | free (w : Nat) | victim (w : Nat) (e : DirEnt) | wait
deriving DecidableEq, Repr

def State.dirRoom (s : State) (n : Nat) (D : ImgDomain) (l : LineAddr) : DirRoom :=
  let x := s.home n
  let ok (w : Nat) : Bool := !decide ((D.dset l, w) ∈ x.quar)
  let at_ (w : Nat) : Option DirEnt := tget none x.dir (16 * D.dset l + w)
  match (List.range 16).find? (fun w => ok w && (at_ w).isNone) with
  | some w => .free w
  | none =>
    let idle (w : Nat) : Option (Nat × DirEnt) :=
      match at_ w with
      | some e => if ok w && !x.txs.any (fun t => decide (t.line = D.dline e.origin.toNat (D.dset l) e.tag)) then some (w, e) else none
      | none => none
    let ws := (List.range 16).filterMap idle
    match ws.find? (fun e => decide (e.2.st = .shared)), ws.head? with
    | some e, _ => .victim e.1 e.2
    | none, some e => .victim e.1 e.2
    | none, none => .wait

/-! ### Active transactions and per-line queues (R207) -/

def State.txOf (s : State) (n : Nat) (l : LineAddr) : Option Tx := (s.home n).txs.find? (fun t => decide (t.line = l))

def State.modTx (s : State) (n : Nat) (l : LineAddr) (f : Tx → Tx) : State :=
  s.modHome n (fun x => { x with txs := modFirst (fun t => decide (t.line = l)) f x.txs })

/-- A TXN value of a shard or slice: below 0x800 (R447). -/
def State.newTxn (s : State) (n : Nat) : State × BitVec 12 :=
  let k := ((s.home n).nextTxn + 1) &&& 0x7FF
  (s.modHome n (fun x => { x with nextTxn := k }), k)

/-- Requests waiting for a line. -/
def State.lineQ (s : State) (n : Nat) (l : LineAddr) : List (Msg × Nat) :=
  match (s.home n).lineq.find? (fun e => decide (e.1 = l)) with | some e => e.2 | none => []

def State.setLineQ (s : State) (n : Nat) (l : LineAddr) (q : List (Msg × Nat)) : State :=
  s.modHome n (fun x =>
    let others := x.lineq.filter (fun e => decide (e.1 ≠ l))
    { x with lineq := if q.isEmpty then others else if x.lineq.any (fun e => decide (e.1 = l)) then x.lineq.map (fun e => if e.1 = l then (l, q) else e)
        else x.lineq ++ [(l, q)] })

/-- A message becomes its line's active transaction, or waits in the line's queue. -/
def State.enqHome (s : State) (n : Nat) (m : Msg) (src : Nat) (k : TxKind) : State :=
  if (s.txOf n m.line).isSome then s.setLineQ n m.line (s.lineQ n m.line ++ [(m, src)])
  else
    let (s, t) := s.newTxn n
    s.modHome n (fun x => { x with txs := x.txs ++ [{ line := m.line, kind := k, msg := m, src := src, txn := t }] })

/-- A recall of a line's holders, as a request of the home itself: of device `only`, or of every holder. -/
def recallMsg (D : ImgDomain) (n : Nat) (l : LineAddr) (only : Option Nat) (nodata : Bool) : Msg :=
  { op := .snpInv, line := l, requester := homeEp D.device n, answerTo := homeEp D.device n, sender := homeEp D.device n, nodata := nodata, nodl := true, cls := 2
    destDev := match only with | some v => BitVec.ofNat 9 v | none => D.device }

end Sys2Proof.Machine
end

