-- ==== Sys2Proof/Machine/Fence.lean ====
section
/-! DEFINITION. Absorbing units, isolating ports, fencing units and stopping domains (R339, R377, R445 to R454). -/

namespace Sys2Proof.Machine

open Sys2Proof

/-! ### Spread tables (R50, R52) -/

/-- Positions of the domain whose unit is not in `fenced`. -/
def liveAt (D : ImgDomain) (fenced : List Nat) : List Nat :=
  (List.range (2 ^ D.nlog)).filter (fun h => decide (D.node h ∉ fenced))

/-- Entry k names the unfenced positions in turn, so that each appears ⌊64/M⌋ or ⌈64/M⌉ times. -/
def spreadEntry (livePos : List Nat) (k : Nat) : Nat := if livePos.isEmpty then 0 else livePos.getD (k % livePos.length) 0

/-- The Medulla writes the spread tables when it fences or unfences a unit (R52); with nothing fenced they read zero. While a unit of either kind is fenced,
the entries of both kinds name the unfenced positions of their kind. -/
def State.writeSpread (s : State) (d : Nat) (D : ImgDomain) : State :=
  let sl := liveAt D s.flt.fslc
  let ho := liveAt D s.flt.fhom
  let any := decide (sl.length < 2 ^ D.nlog) || decide (ho.length < 2 ^ D.nlog)
  s.modDom d (fun x => { x with
    spread := if any then (List.range 64).foldl (fun t k => tset (0, 0) t k (spreadEntry sl k, spreadEntry ho k)) [] else [] })

/-- The guardian of a home position: HOME_POS of spread entry 0 (R419, R450). -/
def State.guardian (s : State) (d : Nat) (D : ImgDomain) : Nat := D.node (tget (0, 0) (s.dom d).spread 0).2

/-! ### Absorbed units (R339, R377) -/

/-- The holder that a snoop unit was for: a near group's port, a slice of this device, or the slices of a peer device. -/
def State.asked (s : State) (u : FUnit) : Endpoint :=
  let dev : BitVec 9 := match s.nodeDom u.dst with | some x => x.2.device | none => 0
  match u.sink with
  | .port k => if (s.iport (4 * u.dst + k)).role = .near then portEp dev (4 * u.dst + k) else sliceEp u.msg.destDev 0
  | _ => sliceEp dev u.dst

/-- An answer for a home of another device, in place of a snoop that this device absorbs: poisoned where the snoop asked an owner (R374, R377). -/
def State.farAnswer (s : State) (d : Nat) (D : ImgDomain) (n : Nat) (m : Msg) : State :=
  let toOwner : Bool := !(m.op = .snpInv && m.nodata)
  s.sendEp d D n false m.answerTo {
    op := if toOwner then .sdata else .rspI, line := m.line, txn := m.txn, requester := m.requester, answerTo := m.answerTo
    sender := sliceEp m.destDev 0, data := if toOwner then poisonLine else {}, dl := m.dl, nodl := m.nodl }

/-- A request absorbed on its way from a Gate: its watch entry completes. -/
def State.failWatch (s : State) (g : Nat) (m : Msg) (e : ErrCode) : State :=
  match (s.gate g).watch.find? (fun w => decide (w.line = m.line) && decide (w.req = m.requester) && !w.queued) with
  | some w => s.completeErr g w e
  | none => s

/-- Report an absorbed unit to the unit that tracks its transaction. The report stands in that unit's input queue as an answer marked UNREACHABLE
(with NODATA when the absorbed snoop asked a sharer). A sink itself never answers a requester. -/
def State.report (s : State) (u : FUnit) (e : ErrCode) : State :=
  let m := u.msg
  let put_ (n q : Nat) (k : Sink) (x : Msg) : State := s.qPush n q { src := n, dst := n, sink := k, msg := x, age := s.clk.fclk % 128 }
  let unitOf (ep : Endpoint) (x : Msg) : State :=
    if epUnit ep then (if epType ep = 0 then put_ (epNode ep) 43 .slice x else if epType ep = 1 then put_ (epNode ep) 47 .home x else s) else s
  match vnOf m.op with
  | .snp =>
    match s.nodeDom u.dst with
    | some (d, D) =>
      if epUnit m.answerTo && decide (epDev m.answerTo ≠ D.device) then s.farAnswer d D u.dst m
      else unitOf m.answerTo { m with op := .rspI, err := .unreachable, evicting := false, count := 0, sender := s.asked u }
    | none => s
  | .req =>
    match m.op with
    | .memRd => unitOf m.sender { m with op := .err, err := .unreachable }
    | _ => if epUnit m.sender then unitOf m.sender { m with op := .err, err := e } else s.failWatch u.src m e
  | .wbk =>
    match m.op with
    | .memWr | .memWrDur => unitOf m.sender { m with op := .err, err := .unreachable }
    | _ =>
      if e = .unreachable then unitOf m.sender { m with op := .wbAck, err := .unreachable }
      else if u.sink = .home ∧ s.asked u ≠ sliceEp (epDev m.sender) u.dst then s.modHome u.dst (fun x => { x with absorbed := x.absorbed ++ [m] })
      else s
  | _ => s

/-- Absorb a unit in the sink of node `n`. -/
def State.absorb (s : State) (n : Nat) (u : FUnit) (e : ErrCode) : State := (s.bump (cRtr n 25)).report u e

/-- Set FLUSH of queue `q` of node `n` and splice its list onto the free list (R174). -/
def State.splice (s : State) (n q : Nat) : State :=
  (s.modPool n (fun p => { p with q := tset [] p.q q [], flushing := insNat q p.flushing })).bumpN (cSlc n 33) (qcells (s.qOf n q))

/-- Flush queue `q` of node `n`: each unit is reported to what tracks its transaction (R174, R377). -/
def State.flushQ (s : State) (n q : Nat) (e : ErrCode) : State :=
  (s.qOf n q).foldl (fun s u => s.report u e) (s.splice n q)

/-- The queues of a fenced router are flushed (R336). -/
def State.flushRouter (s : State) (n : Nat) : State :=
  let us := (s.router n).inq.flatMap (·.2) ++ (s.router n).turn.flatMap (·.2)
  let s := (s.modRouter n (fun r => { r with inq := [], turn := [] })).bumpN (cSlc n 33) (qcells us)
  let s := us.foldl (fun s u => s.report u .unreachable) s
  ((List.range 5).map (84 + ·) ++ [49, 89] ++ (List.range 12).map (224 + ·)).foldl (fun s q => s.flushQ n q .unreachable) s

/-! ### Poison by isolation (R457) -/

/-- Poison the line in a slot: 16 marks over zero data, STATE M, OWNER 0xFF, and the group's presence bit clear. -/
def State.poisonSlot (s : State) (n d slot g : Nat) (l : LineAddr) : State :=
  (s.modSlice n (fun x => { x with
    tags := tmod {} x.tags slot (fun t => { t with state := .m, owner := 0xFF, subd := 3 })
    pres := tmod 0 x.pres slot (fun p => clrBit p g)
    tile := tset {} x.tile slot poisonLine })).rep .slice n .poisoned d l

/-- The group-loss sweep of a slice: the group leaves every presence mask, and lines it owned are poisoned (R377). -/
def State.groupLoss (s : State) (d : Nat) (D : ImgDomain) (n g : Nat) : State :=
  (s.slice n).tags.foldl (fun s e =>
    let slot := e.1
    if e.2.owner.toNat = g then s.poisonSlot n d slot g (D.lineOf e.2.origin.toNat (slot / D.ways) e.2.tag)
    else s.modSlice n (fun x => { x with pres := tmod 0 x.pres slot (fun p => clrBit p g) })) s

/-- The answer of a lost group to a device-level snoop: a report to a unit of this device, or an answer to a peer home, poisoned for an owner. -/
def State.lostAnswer (s : State) (d : Nat) (D : ImgDomain) (n : Nat) (m : Msg) (g : Nat) (toOwner : Bool) : State :=
  let r : Msg := {
    op := .rspI, line := m.line, txn := m.txn, requester := m.requester, answerTo := m.answerTo, err := .unreachable, nodata := !toOwner
    sender := portEp D.device ((s.groupPorts d g).headD 0), nodl := true }
  let ep := m.answerTo
  if epUnit ep && decide (epDev ep = D.device) then
    (if epType ep = 1 then s.qPush (epNode ep) 47 { src := n, dst := epNode ep, sink := .home, msg := r } else s)
  else s.sendEp d D n false ep (if toOwner then { r with op := .sdata, err := .none, nodata := false, data := poisonLine } else { r with err := .none })

/-- Reports for the snoops whose answer a lost group still owes: to the slice's near misses and victims, and to the homes. -/
def State.groupReports (s : State) (d : Nat) (D : ImgDomain) (n g : Nat) : State :=
  let x := s.slice n
  let rsp (l : LineAddr) (toOwner : Bool) : Msg :=
    { op := .rspI, line := l, err := .unreachable, nodata := !toOwner, sender := portEp D.device ((s.groupPorts d g).headD 0) }
  let push (s : State) (m : Msg) : State := s.qPush n 43 { src := n, dst := n, sink := .slice, msg := m }
  let s := x.mshrs.foldl (fun s e => match e.2 with
    | some m => match m.near with
      | some nm => if g ∈ nm.pend then push s (rsp m.line (nm.owner = some g)) else s
      | none => if g ∈ m.snpPend then push s (rsp m.line false) else s
    | none => s) s
  let s := x.outs.foldl (fun s e => if g ∈ e.2.pend then push s (rsp e.2.line false) else s) s
  x.fwdSnoops.foldl (fun s f => if f.2.1 = g then s.lostAnswer d D n f.1 g f.2.2 else s)
    (s.modSlice n (fun y => { y with fwdSnoops := y.fwdSnoops.filter (fun f => decide (f.2.1 ≠ g)) }))

/-! ### Isolation (R377) -/

/-- The barriers that cover an access lose it from their cover; a lost write is counted against the partner (R301, R305, R306). -/
def barDrop (port : Nat) (l : LineAddr) (ing : KTime) (late lost : Bool) (tgt : Agent) (dl : KTime) (b : Barrier) : Barrier :=
  if (port, l, ing) ∈ b.cover then
    { b with cover := rmFirst (port, l, ing) b.cover, late := b.late || late,
             lost := if lost then b.lost + 1 else b.lost,
             tgt := if lost ∧ (b.lost = 0 ∨ dl < b.tgtDl) then tgt else b.tgt,
             tgtDl := if lost ∧ (b.lost = 0 ∨ dl < b.tgtDl) then dl else b.tgtDl }
  else b

/-- Does a tail entry stand for the access of a watch entry, and the other way round? -/
def tailOf (w : Watch) (t : Tail) : Bool := decide (t.port = w.port) && decide (t.line = w.line) && decide (t.ingress = w.ingress)

/-- Apply `f` to the barriers of every Gate. -/
def State.modBarriers (s : State) (f : Barrier → Barrier) : State :=
  (List.range 64).foldl (fun s n => s.modGate n (fun G => { G with barriers := G.barriers.map f })) s

/-- A tail entry is freed (R301). While the TIMEOUT of its access still waits to leave, the watch entry stands for the access and keeps what was lost. -/
def State.freeTail (s : State) (g : Nat) (t : Tail) (lost : Bool) : State :=
  let s := s.modGate g (fun G => { G with tails := rmFirst t G.tails })
  let s := if lost then s.bump (cGate g 27) else s
  if (s.gate g).watch.any (fun w => tailOf w t) then
    s.modGate g (fun G => { G with watch := modFirst (fun w => tailOf w t) (fun w => { w with lost := if lost then some t.partner else none }) G.watch })
  else s.modBarriers (barDrop t.port t.line t.ingress true lost t.partner t.dl)

/-- Free a watch entry. Its counted entries return with it; its calendar units stay reserved until they are consumed (R259). -/
def State.freeWatch (s : State) (g : Nat) (w : Watch) : State :=
  s.modGate g (fun G => { G with watch := rmFirstP (watchIs w) G.watch })

/-- The vector of a node's lane group: a port enters or leaves service, is rejected or dies (R561). -/
def State.laneIrq (s : State) (p : Nat) : State := s.irq 0 (64 + portNode p)

/-- The ports of a near group that are in service, by their places in the group's list, without those in `but`. -/
def State.groupSvcMask (s : State) (d g : Nat) (but : List Nat) : Nat :=
  sumL ((s.groupPorts d g).zipIdx.map (fun e => if s.inSvc e.1 ∧ e.1 ∉ but then 2 ^ e.2 else 0))

/-- The remaining ports of a near group are told of the new set (R368, R376). -/
def State.groupChg (s : State) (d g : Nat) : State :=
  (s.groupPorts d g).foldl (fun s p => if s.inSvc p then s.mgmt p 0x20 (s.groupSvcMask d g []) else s) s

/-- The next PEER port that the domain follows (R369): lowest root index, then lower ROOT_HOPS, then lower number. -/
def State.pickUpstream (s : State) (d : Nat) : Option Nat :=
  let ps := s.iports.filter (fun e => decide (e.2.role = .peer) && s.inSvc e.1
    && (match s.portDom e.1 with | some x => decide (x.1 = d) | none => false))
  (ps.map (·.1)).foldl (fun b p => match b with
    | none => some p
    | some q =>
      let a := s.port p
      let c := s.port q
      if a.prootIdx < c.prootIdx ∨ (a.prootIdx = c.prootIdx ∧ a.prootHops < c.prootHops) then some p else some q) none

/-- Whether a near group has a port in service. -/
def State.groupUp (s : State) (d g : Nat) : Bool := (s.groupPorts d g).any s.inSvc

/-- Whether the route entry of a device names port `p`. -/
def State.routeHas (s : State) (d : Nat) (dev : BitVec 9) (p : Nat) : Bool :=
  match s.route d dev with | some r => decide (p ∈ r.ports) | none => false

/-- Does what is sent for line `l` to device `dev` leave by port `p` while `p` is in service (R373)? -/
def State.through (s : State) (d : Nat) (dev : BitVec 9) (l : LineAddr) (p : Nat) : Bool :=
  match s.route d dev with
  | some r => !r.ports.isEmpty && decide (pickFrom r.ports (l.toNat % r.ports.length) (fun q => decide (q = p) || s.inSvc q) = some p)
  | none => false

/-- Near groups whose answer is awaited for a line in slice `n`, an owner before sharers. -/
def State.nearAwaited (s : State) (n : Nat) (l : LineAddr) : List Nat :=
  let x := s.slice n
  let miss : List Nat := match tfind x.mshrs (fun m => decide (m.line = l)) with
    | some (_, m) => (match m.near with
        | some y => y.pend.filter (fun g => decide (y.owner = some g)) ++ y.pend.filter (fun g => decide (y.owner ≠ some g))
        | none => []) ++ m.snpPend
    | none => []
  let fwd := x.fwdSnoops.filter (fun f => decide (f.1.line = l))
  (fwd.filter (fun f => f.2.2)).map (fun f => f.2.1) ++ miss ++ (fwd.filter (fun f => !f.2.2)).map (fun f => f.2.1)

/-- The ports whose partners the work of an access waits on, in the order in which R306 takes them: near agents, the memory device on the line's MEMORY port,
the partner of the PEER port toward the home; and the partners that the home awaits. The transaction that is under way on the line is looked at,
be it that of the access or the one ahead of it. -/
def State.waitPorts (s : State) (d : Nat) (D : ImgDomain) (slice : Nat) (home : Option Nat) (peer : Option (BitVec 9)) (pport : Option Nat) (l : LineAddr) : List Nat :=
  let nearP := (s.nearAwaited slice l ++ (match home with | some _ => s.nearAwaited (s.sliceNode d D l) l | none => [])).filterMap
    (fun g => (s.linePort d g l).or ((s.groupPorts d g).head?))
  let t := home.bind (fun h => s.txOf h l)
  let memP : List Nat := match t with | some t => if t.mem = .injected ∨ t.mem = .handed ∨ t.memWr = true ∨ t.durDue = true then [t.port] else [] | none => []
  let peerP : List Nat := match peer, pport with
    | some _, some q => [q]
    | some dev, none => (match s.route d dev with | some r => r.ports.take 1 | none => [])
    | none, _ => []
  let held : List Nat := match t with
    | some t => (t.pend.filter (fun v => decide (v ≠ D.device.toNat))).filterMap (fun v => (s.route d (BitVec.ofNat 9 v)).bind (fun r =>
        if r.ports.isEmpty then none else (pickFrom r.ports (l.toNat % r.ports.length) s.inSvc).or r.ports.head?))
    | none => []
  nearP ++ memP ++ peerP ++ held

/-- The ports that the work of a tail entry waits on. -/
def State.tailWaits (s : State) (t : Tail) (d : Nat) (D : ImgDomain) : List Nat := s.waitPorts d D t.slice t.home t.peer t.pport t.line

/-- Is the partner of port `p` lost once `p` is isolated? A near group stays while another of its ports is in service. -/
def State.partnerGone (s : State) (p d : Nat) : Bool :=
  match s.groupOf p with | some g => (s.groupPorts d g).all (fun q => decide (q = p) || !s.inSvc q) | none => true

/-- R301, R306: tail entries whose work waits on the partner of port `p` end with its isolation, and keep it as their target. -/
def State.markTails (s : State) (p d : Nat) (D : ImgDomain) : State :=
  if s.partnerGone p d then
    D.nodes.foldl (fun s g => s.modGate g (fun G => { G with tails := G.tails.map (fun t =>
      if t.isol.isNone && decide (p ∈ s.tailWaits t d D) then { t with isol := some p, partner := (s.port p).pagent } else t) })) s
  else s

/-- The partner against which an UNREACHABLE write counts when no isolation ended it (R306): that of an isolated port toward its home or of the entry's PORT(0);
for a home of this device, that of the line's MEMORY port. -/
def State.lostTo (s : State) (d : Nat) (peer : Option (BitVec 9)) (pport : Option Nat) (l : LineAddr) : Agent :=
  match peer with
  | some dev =>
    let ps := (match pport with | some q => [q] | none => []) ++ (match s.route d dev with | some r => r.ports | none => [])
    (match ps.find? (fun q => decide ((s.port q).state = .isolating)), (match s.route d dev with | some r => r.ports.head? | none => none) with
      | some q, _ => (s.port q).pagent
      | none, some q => (s.port q).pagent
      | none, none => 0)
  | none => match s.homeRange d l with | some h => (s.port h.port).pagent | none => 0

/-- What isolation does for the port's role (R377). -/
def State.isolRole (s : State) (p d : Nat) (D : ImgDomain) : State :=
  match (s.iport p).role with
  | .near =>
    let g := (s.iport p).group
    if s.groupUp d g then s.groupChg d g
    else D.nodes.foldl (fun s n => (s.groupReports d D n g).groupLoss d D n g) s
  | .memory =>
    let on (l : LineAddr) : Bool := s.ihomes.any (fun h => decide (h.domain = d) && decide (h.port = p) &&
      decide (h.base ≤ 128 * l.toNat) && decide (128 * l.toNat < h.base + h.size * 1073741824))
    let gone (n : Nat) (l : LineAddr) (x : BitVec 12) (s : State) : State :=
      s.qPush n 47 { src := n, dst := n, sink := .home, msg := { op := .err, line := l, txn := x, err := .unreachable } }
    D.nodes.foldl (fun s n =>
      let x := s.home n
      let s := x.txs.foldl (fun s t =>
        if t.port = p ∧ (t.mem = .injected ∨ t.mem = .handed ∨ t.memWr = true ∨ t.durDue = true) then gone n t.line t.txn s else s) s
      let s := x.ra.foldl (fun s r => if r.cw.isNone && r.data.isNone && on r.line then gone n r.line r.txn s else s) s
      let s := x.passes.foldl (fun s r => if r.noted && r.cw.isNone && on r.line then gone n r.line r.txn s else s) s
      x.fetches.foldl (fun s r => if r.cw.isNone && s.ihomes.any (fun h => h.prot && decide (h.tree = r.tree) && decide (h.port = p))
        then gone n r.line r.txn s else s) s) s
  | .peer =>
    let s := (List.range 64).foldl (fun s g => (s.gate g).watch.foldl (fun s w =>
      match w.peer with
      | some dev => if w.dom = d ∧ !w.queued ∧ (w.pport = some p ∨ (w.pport = none ∧ s.through d dev w.line p = true))
          then (s.modGate g (fun G => { G with watch := modFirst (watchIs w) (fun x => { x with lost := some (s.port p).pagent }) G.watch })).completeErr g
            { w with lost := some (s.port p).pagent } .unreachable else s
      | none => s) s) s
    let s := D.nodes.foldl (fun s n => (s.slice n).mshrs.foldl (fun s e => match e.2 with
      | some m => match s.rngOf d m.line with
        | some r => if r.2.home ≠ D.device ∧ s.through d r.2.home m.line p = true
            then s.qPush n 43 { src := n, dst := n, sink := .slice, msg := { op := .err, line := m.line, err := .unreachable } } else s
        | none => s
      | none => s) s) s
    let s := D.nodes.foldl (fun s n => (s.home n).txs.foldl (fun s t =>
      (t.pend.filter (fun v => decide (v ≠ D.device.toNat) &&
        s.through d (BitVec.ofNat 9 v) t.line p)).foldl
        (fun s v => s.qPush n 47 {
          src := n, dst := n, sink := .home
          msg := { op := .rspI, line := t.line, txn := t.txn, err := .unreachable, sender := sliceEp (BitVec.ofNat 9 v) 0 } }) s) s) s
    let s := s.modPort p (fun x => { x with carriedUsed := 0, carriedIn := 0 })
    if (s.dom d).upstream = some p then
      let u := s.pickUpstream d
      s.modDom d (fun x => { x with upstream := u })
    else s
  | _ => s

/-- Isolate port `p`. -/
def State.isolate (s : State) (p : Nat) : State :=
  match s.portDom p with
  | none => s
  | some (d, D) =>
    let n := portNode p
    let s := s.markTails p d D
    let s := s.modPort p (fun x => { x with state := .isolating, train := .idle, used := [0, 0, 0, 0, 0], inHeld := [0, 0, 0, 0, 0], ret := [0, 0, 0, 0, 0]
                                            unacked := [], encBlock := [], detach := .none, drainRun := false, retrainRun := false, enc := false })
    let s := (List.range 5).foldl (fun s v => s.flushQ n (20 + 5 * portSlot p + v) .unreachable) s
    let ids := ((s.gate n).watch.filter (fun w => decide (w.port = p))).map (fun w => (w.line, w.ingress))
      ++ ((s.gate n).tails.filter (fun t => decide (t.port = p))).map (fun t => (t.line, t.ingress))
      ++ ((s.gate n).cfgOut.filter (fun c => decide (c.1 = p))).map (fun c => ((0 : LineAddr), c.2.1))
    let s := ids.foldl (fun s i => s.modBarriers (barDrop p i.1 i.2 false false 0 0)) s
    let s := s.modGate n (fun G => { G with
      watch := G.watch.filter (fun w => decide (w.port ≠ p)), tails := G.tails.filter (fun t => decide (t.port ≠ p))
      cfgOut := G.cfgOut.filter (fun c => decide (c.1 ≠ p))
      barriers := G.barriers.filter (fun b => decide (b.port ≠ p)), retryOrd := G.retryOrd.filter (fun r => decide (r.slot ≠ portSlot p)) })
    let s := s.isolRole p d D
    s.laneIrq p

/-- Declare a partner dead: DEAD, a record, and isolation. -/
def State.partnerDied (s : State) (p : Nat) : State :=
  let s := s.modPort p (fun x => { x with dead := true })
  let s := s.rep .port p .portDead (match s.portDom p with | some x => x.1 | none => 0) 0 (s.port p).pagent
  s.isolate p

/-! ### Fences -/

def fenceSource : FenceUnit → RecSource × Nat
  | .slice n => (.slice, n) | .channel n => (.channel, n) | .home n => (.home, n) | .router n => (.router, n)
  | .port p => (.port, p) | .frond t => (.frond, t) | .key k => (.key, k)

/-- The domain a fence unit belongs to. -/
def State.fenceDom (s : State) (u : FenceUnit) : Option (Nat × ImgDomain) :=
  match u with
  | .slice n | .channel n | .home n | .router n => s.nodeDom n
  | .port p => s.portDom p
  | .frond t => match s.ihomes.find? (fun h => h.prot && decide (h.tree = t)) with
    | some h => (s.idom h.domain).map (fun D => (h.domain, D))
    | none => none
  | .key _ => none

/-- Is the unit fenced? -/
def State.isFenced (s : State) (u : FenceUnit) : Bool :=
  match u with
  | .slice n => decide (n ∈ s.flt.fslc) | .channel n => decide (n ∈ s.flt.fchn) | .home n => decide (n ∈ s.flt.fhom)
  | .router n => decide (n ∈ s.flt.frtr) | .port p => decide (p ∈ s.flt.fport) | .frond t => decide (t ∈ s.flt.frond)
  | .key k => decide (k ∈ s.flt.fkey)

/-- Set the unit's bit in its fence map (R445). -/
def fenceBit (u : FenceUnit) (f : Flt) : Flt :=
  match u with
  | .slice n => { f with fslc := insNat n f.fslc } | .channel n => { f with fchn := insNat n f.fchn }
  | .home n => { f with fhom := insNat n f.fhom } | .router n => { f with frtr := insNat n f.frtr }
  | .port p => { f with fport := insNat p f.fport } | .frond t => { f with frond := insNat t f.frond }
  | .key k => { f with fkey := insNat k f.fkey }

/-- Kind byte of a FENCE entry (R506); other units write none. -/
def fenceKind : FenceUnit → Option Nat
  | .slice _ => some 1 | .channel _ => some 2 | .home _ => some 3 | .router _ => some 4 | _ => none

/-- The map of units of a kind that are fenced, as 8 bytes. -/
def State.fenceMap (s : State) (k : Nat) : Nat :=
  (if k = 1 then s.flt.fslc else if k = 2 then s.flt.fchn else if k = 3 then s.flt.fhom else s.flt.frtr).foldl (fun a n => a + 2 ^ n) 0

/-- R338: detours are defined for these fenced routers of a domain. -/
def routersOk (D : ImgDomain) (fr : List Nat) : Bool :=
  let mine := fr.filter D.has
  if D.compact then decide (mine.length ≤ 1)
  else mine.all (fun a => mine.all (fun b =>
    decide (a = b) || (decide (a % 8 ≠ b % 8) && decide (a / 8 ≠ b / 8) &&
      !(let dx := (a % 8 + 8 - b % 8) % 8
        let H := shapeH D.nlog
        let dy := (a / 8 + H - b / 8 % H) % H
        (decide (dx = 1) || decide (dx = 7)) && (decide (dy = 1) || decide (dy = H - 1))))))

/-- Would the fence leave the domain without a slice, a home shard or valid detours (R454)? -/
def stopsDomain (D : ImgDomain) (f : Flt) : Bool :=
  (liveAt D f.fslc).isEmpty || (liveAt D f.fhom).isEmpty || !(routersOk D f.frtr)

/-- The effects a fence always has (R445): map, record, Peat entry, mode, FAULT_N, vectors. `win` is the window that tripped. -/
def State.fenceMark (s : State) (u : FenceUnit) (code : RecCode) (win : Option Nat) : State :=
  let s := { s with flt := fenceBit u s.flt }
  let (src, inst) := fenceSource u
  let d := match s.fenceDom u with | some x => x.1 | none => 0
  let q := s.flt.seq + 1
  let bad : Bool := decide (code = .keyUe)
  let s := s.raise { sev := 2, source := src, inst := inst, code := code, fence := true, trip := win.isSome, win := win.getD 255, domain := d,
                     addr := if bad then (Config.keyWord q).setWidth 48 else 0, syn := if bad then (Config.keySyn q).setWidth 16 else 0 }
  let s := s.bump (cGlb 99)
  let s := match fenceKind u with
    | some k => s.peat 0x06 (bodyOf ([k] ++ leBytes 2 s.mram.startNo.toNat ++ leBytes 8 (s.fenceMap k)))
    | none => s
  let s := if s.start.mode = .serving then s.setMode .degraded 2 else s
  let s := s.faultPin
  (List.range 16).foldl (fun s t => match s.iten t with
    | some x => if x.domain = d then s.irq (t + 1) 1 else s
    | none => s) s

/-- R446: every Gate withdraws its leases on the calendars and counted entries of a fenced unit. -/
def State.withdraw (s : State) (r : List Res) (e : List ERes) : State :=
  (List.range 64).foldl (fun s g => s.modGate g (fun G => { G with
    moves := G.moves.filter (fun m => decide (m.res ∉ r)), emoves := G.emoves.filter (fun m => decide (m.1 ∉ e)) })) s

/-- R446: watch entries whose target is the fenced unit are completed. -/
def State.fenceWatches (s : State) (isHome : Bool) (n : Nat) : State :=
  (List.range 64).foldl (fun s g => (s.gate g).watch.foldl (fun s w =>
    if !w.queued && (if isHome then decide (w.home = some n) else decide (w.slice = n)) then
      s.completeErr g w (if isHome then .homeFault else .sliceFault)
    else s) s) s

/-- R112: the locks of a fenced slice are lost and counted. -/
def State.locksLost (s : State) (n : Nat) : State :=
  let k := ((s.slice n).tags.filter (fun e => e.2.lock)).length
  s.bumpN (cSlc n 22) k

/-- Fence a slice, with its tile channel when `chn`: watch entries, locks, spread tables, drain engine (R446, R447, R448). -/
def State.fenceSlice (s : State) (n : Nat) (code : RecCode) (win : Option Nat) (chn : Bool) : State :=
  if s.isFenced (.slice n) then s else
    let s := s.fenceMark (.slice n) code win
    let s := (s.fenceWatches false n).withdraw [.acc n, .chan n] [.mshr n, .wb n, .vb n]
    let s := s.locksLost n
    let s := s.modSlice n (fun x => { x with
      drain := { running := true, next := 0, poison := chn, startAt := s.clk.fclk }, reissue := [], reads := []
      mshrs := x.mshrs.map (fun e => (e.1, e.2.map (fun m => { m with inval := true, waiters := [] }))), wbuf := [] })
    let s := (s.splice n 40).splice n 44
    match s.nodeDom n with
    | some (d, D) => s.writeSpread d D
    | none => s

/-- Recall every holder of one entry of a fenced shard, for the guardian (R450 step 3). -/
def State.handoverRecall (s : State) (d : Nat) (D : ImgDomain) (n g : Nat) (l : LineAddr) (e : DirEnt) : State :=
  let m := recallMsg D g l none false
  let hs := s.dirHolders d D e
  let s := (s.enqHome g m 0 .handover).modTx g l (fun t => { t with started := true, op := .snpInv, ownSnoop := true, pend := hs, fromNode := n })
  let txn := match s.txOf g l with | some t => t.txn | none => 0
  hs.foldl (fun s v => (s.bump (cHom g 4)).sendEp d D g true (sliceEp (BitVec.ofNat 9 v) 0)
    { m with txn := txn, destDev := BitVec.ofNat 9 v, nodata := decide (e.own ≠ some v) }) s

/-- Start the hand-over of a fenced shard: crown and dirty nodes go to the guardian, which recalls what peers hold (R419, R450). -/
def State.handoverStart (s : State) (d : Nat) (D : ImgDomain) (n : Nat) : State :=
  let g := s.guardian d D
  let keep := ((s.home n).nc.filter (fun e => e.crown || e.dirty)).map (fun e => { e with pins := 0, slot := false })
  let s := (s.modHome g (fun x => { x with nc := x.nc ++ keep })).modHome n (fun x => { x with nc := [] })
  (s.home n).dir.foldl (fun s e => match e.2 with
    | some x => s.handoverRecall d D n g (D.dline x.origin.toNat (e.1 / 16) x.tag) x
    | none => s) s

/-- Fence a home shard: its requests end with HOME_FAULT, WB and EVN that peers sent are kept for the guardian, run-ahead entries go,
the hand-over starts (R446, R450, R600). -/
def State.fenceHome (s : State) (n : Nat) (code : RecCode) (win : Option Nat) : State :=
  if s.isFenced (.home n) then s else
    let s := s.fenceMark (.home n) code win
    let s := (s.fenceWatches true n).withdraw [.seqr n] [.tx n, .lineq n]
    match s.nodeDom n with
    | none => s
    | some (d, D) =>
      let x := s.home n
      let queued := x.lineq.flatMap (fun e => e.2.map (·.1)) ++ (s.qOf n 45).map (·.msg) ++ (s.qOf n 46).map (·.msg)
      let ended := (x.txs.filter (fun t => decide (t.kind = .request) && !t.answered)).map (·.msg)
        ++ queued.filter (fun m => decide (vnOf m.op = .req) && decide (m.op ≠ .pfHint))
      let wbs := (x.txs.filter (fun t => decide (t.kind = .wback) || decide (t.kind = .evn))).map (·.msg) ++ x.txs.flatMap (·.heldWb)
        ++ queued.filter (fun m => decide (vnOf m.op = .wbk))
      let s := ended.foldl (fun s m => (s.sendEp d D n true m.requester (errFor m .homeFault)).bump (cHom n 32)) s
      let s := (((s.splice n 45).splice n 46).bumpN (cSlc n 33) (sumL (x.lineq.map (fun e => mcells (e.2.map (·.1)))) + 2 * x.ra.length)).bumpN (cHom n 19) x.ra.length
      let s := s.modHome n (fun x => { x with
        txs := [], lineq := [], ra := [], passes := [], fetches := [], order := [], handover := true
        absorbed := wbs.filter (fun m => decide (epDev m.sender ≠ D.device)) })
      (s.writeSpread d D).handoverStart d D n

/-- Stop a domain (R454): its ports are isolated, its units held as fenced, its slices discarded. -/
def State.stopDomain (s : State) (d : Nat) (D : ImgDomain) : State :=
  let s := { s with flt := { s.flt with dstop := insNat d s.flt.dstop } }
  let s := s.raise { sev := 5, source := .global, inst := d, code := .domainStop, fence := true, domain := d }
  let s := if s.start.mode = .serving then s.setMode .degraded 2 else s
  let s := s.faultPin
  let s := s.iports.foldl (fun s e => match s.portDom e.1 with
    | some x => if x.1 = d ∧ (s.port e.1).state ≠ .off then s.isolate e.1 else s
    | none => s) s
  D.nodes.foldl (fun s n =>
    let s := { s with flt := { s.flt with fslc := insNat n s.flt.fslc, fchn := insNat n s.flt.fchn, fhom := insNat n s.flt.fhom, frtr := insNat n s.flt.frtr } }
    { s with slices := tset {} s.slices n { quar := (s.slice n).quar }, homes := tset {} s.homes n { quar := (s.home n).quar } }) s

/-- Whether the domain of a node is stopped. -/
def State.stopped (s : State) (d : Nat) : Bool := decide (d ∈ s.flt.dstop)

/-- Steps 2 and 3 of R398: sweeps in every active slice (after a running one), and at every home the end of run-ahead entries under the key and
recalls of the lines whose range entry names it. -/
def State.keyRetire (s : State) (k : Nat) : State :=
  s.imgDoms.foldl (fun s e =>
    let d := e.1
    let D := e.2
    D.nodes.foldl (fun s n =>
      let s := if s.isFenced (.slice n) then s else s.modSlice n (fun y => { y with
        sweep := if y.sweep.job.isNone then { y.sweep with job := some (.key k) } else { y.sweep with waiting := some (.key k) } })
      if s.isFenced (.home n) then s
      else
        let gone := ((s.home n).ra.filter (fun r => decide (r.key.toNat = k))).length
        let s := (s.bumpN (cHom n 19) gone).modHome n (fun x => { x with ra := x.ra.filter (fun r => decide (r.key.toNat ≠ k)) })
        (s.home n).dir.foldl (fun s x => match x.2 with
          | some y =>
            let l := D.dline y.origin.toNat (x.1 / 16) y.tag
            if (match s.rngHome d l with | some r => decide (r.2.keyid.toNat = k) | none => false)
            then s.enqHome n (recallMsg D n l none false) (4 * n) .recall else s
          | none => s) s) s) s

/-- Fence a unit, or stop its domain (R445, R452, R454). -/
def State.fence (s : State) (u : FenceUnit) (code : RecCode) (win : Option Nat) : State :=
  if s.isFenced u then s else
    match s.fenceDom u with
    | none =>
      match u with
      | .key k =>
        let s := s.fenceMark u code win
        let s := s.modKey k (fun e => { e with st := .retiring, fenced := true })
        let s := s.keyRetire k
        { s with prot := { s.prot with
            jobs := s.prot.jobs.map (fun j => (j.1, if j.2.active ∧ (j.2.old.toNat = k ∨ j.2.new.toNat = k) then { j.2 with active := false } else j.2)),
            closed := s.prot.jobs.foldl (fun c j => if j.2.active ∧ (j.2.old.toNat = k ∨ j.2.new.toNat = k) then insNat j.2.rng c else c) s.prot.closed } }
      | _ => s.fenceMark u code win
    | some (d, D) =>
      let f := fenceBit u s.flt
      let f := match u with
        | .channel n => fenceBit (.slice n) f
        | .router n => fenceBit (.home n) (fenceBit (.slice n) f)
        | _ => f
      if s.stopped d then { s with flt := f }
      else if stopsDomain D f then s.stopDomain d D
      else match u with
        | .slice n => s.fenceSlice n code win false
        | .channel n => (s.fenceMark u code win).fenceSlice n .fence none true
        | .home n => s.fenceHome n code win
        | .router n =>
          let s := s.fenceMark u code win
          let s := (List.range 4).foldl (fun s k => if s.isPort (4 * n + k) ∧ (s.port (4 * n + k)).state ≠ .off then s.isolate (4 * n + k) else s) s
          let s := (s.fenceSlice n .fence none false).fenceHome n .fence none
          (s.flushRouter n).modDom d (fun x => { x with detourPend := insNat n x.detourPend })
        | .port p => (s.fenceMark u code win).isolate p
        | _ => s.fenceMark u code win

/-- R173: an enqueue of node `n` has found no cell. The ledger event is recorded and counted, and the node's router is fenced. -/
def State.cellFence (s : State) (n : Nat) : State :=
  if (s.pool n).short then
    let s := ((s.modPool n (fun p => { p with short := false })).bump (cRtr n 31)).rep .router n .ledger (match s.nodeDom n with | some x => x.1 | none => 0)
    let (s, trip) := s.winHit 10 (.router n)
    s.fence (.router n) .fence (if trip then some 10 else none)
  else s

/-- Every node's pool. -/
def State.cellFences (s : State) : State := (s.pools.map (·.1)).foldl (fun s n => s.cellFence n) s

/-- R445: GLB_MODE returns to Serving, and FAULT_N is released, once every map is zero. -/
def State.unfenced (s : State) : State :=
  let s := s.faultPin
  if !s.fencedAny && s.start.mode = .degraded then s.setMode .serving 2 else s

end Sys2Proof.Machine
end

