-- ==== Sys2Proof/Machine/Image.lean ====
section
/-! DEFINITION. Reading and checking a Thallus image (R464 to R481): from bytes to the decoded image, or the first check that fails. -/

namespace Sys2Proof.Machine

open Sys2Proof

/-! ### Bytes -/

/-- The `n` bytes from offset `o`, least significant first (R9). -/
def leNat : List Byte → Nat
  | [] => 0
  | b :: t => b.toNat + 256 * leNat t
def rdN (bs : List Byte) (o n : Nat) : Nat := leNat ((bs.drop o).take n)
def rdB (bs : List Byte) (o : Nat) : Nat := rdN bs o 1
/-- All bytes from `o` up to but not `e` are zero. -/
def zeroB (bs : List Byte) (o e : Nat) : Bool := ((bs.drop o).take (e - o)).all (fun b => decide (b = 0))
/-- Bits [hi:lo] of a number. -/
def bitsN (v lo n : Nat) : Nat := v / 2 ^ lo % 2 ^ n

/-- A check: whether it holds, and the offset of the field it looks at. -/
abbrev Chk := Bool × Nat
/-- The offset of the first check that fails. -/
def firstBad (l : List Chk) : Option Nat := (l.find? (fun c => !c.1)).map (·.2)

/-- Why an image is refused: STATUS, SECTION, OFFSET (R492). -/
structure ImgBad where
  st : ImgStatus
  sect : Nat := 0
  off : Nat := 0
deriving DecidableEq, Repr

/-- Run checks; the first failure refuses with `st`. -/
def need (st : ImgStatus) (sect : Nat) (l : List Chk) : Except ImgBad Unit :=
  match firstBad l with | some o => .error { st := st, sect := sect, off := o } | none => .ok ()

/-! ### Directory (R466) -/

/-- A directory entry: number in the directory, type, domain or 0xFFFF, offset, length. -/
structure Sect where
  idx : Nat
  typ : Nat
  inst : Nat
  off : Nat
  len : Nat
deriving DecidableEq, Repr

def sectOf (bs : List Byte) (i : Nat) : Sect :=
  let o := 256 + 16 * i
  { idx := i, typ := rdN bs o 2, inst := rdN bs (o + 2) 2, off := rdN bs (o + 4) 4, len := rdN bs (o + 8) 4 }

/-- The LENGTH of each type; 0 for a reserved one. -/
def sectLen (t : Nat) : Nat :=
  match t with
  | 1 => 128 | 2 => 4096 | 3 => 64 | 4 => 256 | 5 => 512 | 6 => 128 | 7 => 4096 | 8 => 128 | 9 => 9232 | _ => 0
def perDomain (t : Nat) : Bool := t = 1 || t = 4 || t = 5 || t = 6 || t = 7

/-- Checks of one directory entry. -/
def sectChk (bs : List Byte) (nsect sigofs : Nat) (routeOnly : Bool) (x : Sect) : List Chk :=
  let o := 256 + 16 * x.idx
  [(decide (sectLen x.typ ≠ 0) && (!routeOnly || decide (x.typ = 7)), o),
   (if perDomain x.typ then decide (x.inst < 16) else decide (x.inst = 0xFFFF), o + 2),
   (decide (x.off % 64 = 0) && decide (256 + 16 * nsect ≤ x.off) && decide (x.off + x.len ≤ sigofs), o + 4),
   (decide (x.len = sectLen x.typ), o + 8),
   (decide (rdN bs (o + 12) 2 = 1), o + 12),
   (zeroB bs (o + 14) (o + 16), o + 14)]

/-- No two sections overlap, and no two share a type and domain. -/
def sectPairs : List Sect → List Chk
  | [] => []
  | x :: t => (t.map (fun y => (!(decide (x.typ = y.typ) && decide (x.inst = y.inst)), 256 + 16 * y.idx)))
      ++ (t.map (fun y => (decide (x.off + x.len ≤ y.off) || decide (y.off + y.len ≤ x.off), 256 + 16 * y.idx + 4))) ++ sectPairs t

/-- The nearest section start at or after `p`, or the signature block. -/
def nextStart (ss : List Sect) (sigofs p : Nat) : Nat :=
  ss.foldl (fun a x => if p ≤ x.off ∧ x.off < a then x.off else a) sigofs

/-- Bytes between the parts are zero: after the directory, and after each section. -/
def gapChk (bs : List Byte) (ss : List Sect) (nsect sigofs : Nat) : List Chk :=
  ((256 + 16 * nsect) :: ss.map (fun x => x.off + x.len)).map (fun p => (zeroB bs p (nextStart ss sigofs p), p))

def secs (ss : List Sect) (t : Nat) : List Sect := ss.filter (fun x => decide (x.typ = t))
def secOf (ss : List Sect) (t d : Nat) : Option Sect := ss.find? (fun x => decide (x.typ = t) && decide (x.inst = d))

/-- Counts of R466, and per-domain sections that name a DOMAIN section. -/
def countChk (ss : List Sect) (hasNear : Nat → Bool) : List Chk :=
  let doms := (secs ss 1).map (·.inst)
  [(decide (1 ≤ doms.length) && decide (doms.length ≤ 16), 27), (decide ((secs ss 2).length = 1), 27),
   (decide ((secs ss 3).length = 1), 27), (decide ((secs ss 8).length = 1), 27), (decide ((secs ss 9).length ≤ 1), 27)]
  ++ (doms.map (fun d => ((secOf ss 6 d).isSome && (secOf ss 7 d).isSome && decide ((secOf ss 4 d).isSome = hasNear d), 27)))
  ++ (ss.filter (fun x => perDomain x.typ)).map (fun x => (decide (x.inst ∈ doms), 256 + 16 * x.idx + 2))

/-! ### Sections: contents -/

/-- DOMAIN (R467). -/
def readDomain (bs : List Byte) (o : Nat) : ImgDomain :=
  { nlog := rdB bs (o + 1) + 2, origin := rdB bs (o + 2), wlog := rdB bs (o + 3), seed := BitVec.ofNat 6 (rdB bs (o + 4))
    dist := rdB bs (o + 5), device := BitVec.ofNat 9 (rdN bs (o + 6) 2), capsule := rdB bs (o + 8)
    thresh := rdN bs (o + 10) 2, sysid := BitVec.ofNat 64 (rdN bs (o + 12) 8), cfgwin := BitVec.ofNat 64 (rdN bs (o + 20) 8)
    roots := (List.range (rdB bs (o + 9))).map (fun i => BitVec.ofNat 9 (rdN bs (o + 28 + 2 * i) 2))
    chainRoot := BitVec.ofNat 512 (rdN bs (o + 64) 64) }

def domainChk (bs : List Byte) (x : Sect) : List Chk :=
  let o := x.off
  let D := readDomain bs o
  let nr := rdB bs (o + 9)
  [(decide (rdB bs o = x.inst), o), (decide (rdB bs (o + 1) ≤ 4), o + 1),
   (decide (D.origin < 64) && decide (D.origin % 8 % shapeW D.nlog = 0) && decide (D.origin / 8 % shapeH D.nlog = 0), o + 2),
   (decide (1 ≤ D.wlog) && decide (D.wlog ≤ 4), o + 3), (decide (rdB bs (o + 4) < 64), o + 4), (decide (D.dist ≤ 8), o + 5),
   (decide (rdN bs (o + 6) 2 < 512), o + 6), (D.has D.capsule, o + 8), (decide (nr ≤ 4), o + 9),
   (decide (rdN bs (o + 20) 8 % 2 ^ 26 = 0) && decide (rdN bs (o + 20) 8 < 2 ^ 52), o + 20)]
  ++ (List.range 4).map (fun i => (decide (rdN bs (o + 28 + 2 * i) 2 < 512) && (decide (i < nr) || decide (rdN bs (o + 28 + 2 * i) 2 = 0)), o + 28 + 2 * i))
  ++ [(zeroB bs (o + 36) (o + 64), o + 36)]

/-- Domains do not share a node; equal SYSID needs different DEVICE (R481). -/
def domPairs (offs : Nat → Nat) : List (Nat × ImgDomain) → List Chk
  | [] => []
  | x :: t => t.map (fun y => (y.2.nodes.all (fun n => !x.2.has n), offs y.1 + 2))
      ++ t.map (fun y => (!(decide (x.2.sysid = y.2.sysid) && decide (x.2.device = y.2.device)), offs y.1 + 6)) ++ domPairs offs t

def roleOf (v : Nat) : Role := match v with | 1 => .near | 2 => .plain | 3 => .memory | 4 => .peer | _ => .off

/-- PORT entry of lane `p` (R468); WIDTH 1 to 4 is x1 to x8. -/
def readPort (bs : List Byte) (o p : Nat) : ImgPort :=
  let e := o + 16 * p
  { role := roleOf (rdB bs e % 8), wlog := bitsN (rdB bs e) 4 3 - 1, group := rdB bs (e + 1) % 32
    reduce := decide (bitsN (rdB bs (e + 1)) 5 1 = 1), encReq := decide (bitsN (rdB bs (e + 1)) 6 1 = 1)
    cred := (List.range 5).map (fun v => rdB bs (e + 2 + v)), carried := rdN bs (e + 8) 2, durable := rdN bs (e + 10) 2 }

/-- The domain of a node among a list of domains. -/
def domOfNode (ds : List (Nat × ImgDomain)) (n : Nat) : Option (Nat × ImgDomain) := ds.find? (fun e => e.2.has n)

/-- Lanes whose entry is not zero. -/
def portLanes (bs : List Byte) (o : Nat) : List Nat := (List.range 256).filter (fun p => !zeroB bs (o + 16 * p) (o + 16 * p + 16))

def portChk (bs : List Byte) (ds : List (Nat × ImgDomain)) (o p : Nat) : List Chk :=
  let e := o + 16 * p
  let P := readPort bs o p
  let w := 2 ^ P.wlog
  let b0 := rdB bs e
  let b1 := rdB bs (e + 1)
  [(decide (1 ≤ b0 % 8) && decide (b0 % 8 ≤ 4) && decide (bitsN b0 3 1 = 0) && decide (1 ≤ bitsN b0 4 3) && decide (bitsN b0 4 3 ≤ 4)
      && decide (bitsN b0 7 1 = 0), e),
   (decide (p % w = 0) && (domOfNode ds (p / 4)).isSome
      && (List.range (w - 1)).all (fun i => zeroB bs (e + 16 * (i + 1)) (e + 16 * (i + 2))), e),
   (decide (b1 < 128) && (decide (P.role = .near) || decide (P.group = 0)) && (!P.encReq || (decide (P.role = .peer) && decide (P.wlog < 3))), e + 1)]
  ++ (List.range 5).map (fun v => (decide (16 ≤ rdB bs (e + 2 + v)), e + 2 + v))
  ++ [(decide (rdB bs (e + 7) = 0), e + 7), (decide (P.role = .peer) || decide (P.carried = 0), e + 8),
      (if P.role = .memory then decide (110 ≤ P.durable) && decide (P.durable ≤ 10000) else decide (P.durable = 0), e + 10),
      (zeroB bs (e + 12) (e + 16), e + 12)]

/-- Sums of R468 (carried credits per domain) and R345 (credits above 16 per node); domains with a PEER port list a root (R467). -/
def portSums (ds : List (Nat × ImgDomain)) (ps : List (Nat × ImgPort)) (o : Nat) : List Chk :=
  (ds.map (fun d => (decide (sumL ((ps.filter (fun p => d.2.has (p.1 / 4))).map (·.2.carried)) ≤ 16 * 2 ^ d.2.nlog), o)))
  ++ (List.range 64).map (fun n =>
    (decide (sumL ((ps.filter (fun p => decide (p.1 / 4 = n))).map (fun p => sumL (p.2.cred.map (· - 16)))) ≤ 768), o + 64 * n))

/-- TENANCY entry (R469). -/
def readTen (bs : List Byte) (o t : Nat) : Option ImgTen :=
  let e := o + 4 * t
  if bitsN (rdB bs e) 7 1 = 1 then some { domain := rdB bs e % 16, min := rdB bs (e + 1), max := rdB bs (e + 2) } else none

/-- R101 and R469. `perms` are the valid permission entries of the PROTECT section. -/
def tenChk (bs : List Byte) (o : Nat) (ds : List (Nat × ImgDomain)) (ts : List (Nat × ImgTen)) (ps : List (Nat × ImgPort))
    (perms : List (Nat × PermEnt)) : List Chk :=
  (List.range 16).map (fun t =>
    (match readTen bs o t with
     | none => zeroB bs (o + 4 * t) (o + 4 * t + 4)
     | some x => decide (bitsN (rdB bs (o + 4 * t)) 4 3 = 0) && decide (rdB bs (o + 4 * t + 3) = 0) && (alook x.domain ds).isSome, o + 4 * t))
  ++ (ts.map (fun t => (match alook t.2.domain ds with
      | some D => decide (t.2.min ≤ t.2.max) && decide (t.2.max ≤ D.ways) | none => false, o + 4 * t.1 + 1)))
  ++ (ds.map (fun d =>
      let mine := ts.filter (fun t => decide (t.2.domain = d.1))
      (decide (sumL (mine.map (·.2.min)) ≤ d.2.ways) && decide (d.2.ways ≤ sumL (mine.map (·.2.max))), o)))
  ++ (perms.map (fun e => (match alook e.1 ps with
      | some P => !(decide (P.role = .near) || decide (P.role = .peer))
          || (match alook e.2.ten.toNat ts with | some t => decide (1 ≤ t.min) | none => true)
      | none => true, o + 4 * e.2.ten.toNat + 1)))

/-- NEAR entry (R470): count of ports by NPORT. -/
def nport (c : Nat) : Nat := match c with | 0 => 1 | 1 => 2 | 2 => 4 | _ => 0
def readNear (bs : List Byte) (o d g : Nat) : Option ImgNear :=
  let e := o + 8 * g
  let b := rdB bs (e + 4)
  if bitsN b 7 1 = 1 then some { domain := d, group := g, ports := (List.range (nport (b % 4))).map (fun k => rdB bs (e + k)) } else none

def nearChk (bs : List Byte) (o d : Nat) (D : ImgDomain) (ps : List (Nat × ImgPort)) (g : Nat) : List Chk :=
  let e := o + 8 * g
  let b := rdB bs (e + 4)
  let want := (ps.filter (fun p => D.has (p.1 / 4) && decide (p.2.role = .near) && decide (p.2.group = g))).map (·.1)
  match readNear bs o d g with
  | none => [(zeroB bs e (e + 8), e), (want.isEmpty, e)]
  | some x =>
    [(x.ports.all (fun p => decide (p ∈ want)) && want.all (fun p => decide (p ∈ x.ports)) && decide (x.ports.length = want.length)
        && (List.range 4).all (fun k => decide (k < x.ports.length) || decide (rdB bs (e + k) = 0)), e),
     (decide (b % 4 ≠ 3) && decide (bitsN b 2 5 = 0), e + 4), (zeroB bs (e + 5) (e + 8), e + 5)]

/-! ### Home ranges and trees (R406, R407, R415, R471) -/

/-- P of R406 and the height T of R407. -/
def treeP (D : ImgDomain) (h : ImgHome) : Nat := h.size * 1073741824 / (128 * 2 ^ D.nlog)
def treeT (D : ImgDomain) (h : ImgHome) : Nat := ((List.range 6).find? (fun k => decide (treeP D h ≤ 64 ^ (k + 1)))).getD 5 + 1
/-- N(k), OFF(k) and M of R407. -/
def treeN (D : ImgDomain) (h : ImgHome) (k : Nat) : Nat := ceilDiv (treeP D h) (64 ^ k)
def treeOff (D : ImgDomain) (h : ImgHome) (k : Nat) : Nat := sumL ((List.range (k - 1)).map (fun j => treeN D h (j + 1)))
def treeM (D : ImgDomain) (h : ImgHome) : Nat := ceilDiv (treeOff D h (treeT D h + 1)) 64 * 64
/-- Crown nodes of one subtree (R415): the top, and levels 4 and above. -/
def treeCrown (D : ImgDomain) (h : ImgHome) : Nat :=
  sumL ((List.range (treeT D h)).map (fun j => if j + 1 = treeT D h ∨ 4 ≤ j + 1 then treeN D h (j + 1) else 0))

def readHome (bs : List Byte) (o d e : Nat) : Option ImgHome :=
  let a := o + 32 * e
  if rdN bs (a + 8) 4 = 0 then none
  else some { domain := d, base := rdN bs a 8, size := rdN bs (a + 8) 4, port := rdB bs (a + 12), prot := decide (bitsN (rdB bs (a + 13)) 0 1 = 1),
              persist := decide (bitsN (rdB bs (a + 13)) 1 1 = 1), metaBase := rdN bs (a + 16) 8 }

def homeChk (bs : List Byte) (o d : Nat) (D : ImgDomain) (ps : List (Nat × ImgPort)) (e : Nat) : List Chk :=
  let a := o + 32 * e
  match readHome bs o d e with
  | none => [(zeroB bs a (a + 32), a)]
  | some h =>
    [(decide (h.base % 1073741824 = 0) && decide (h.base + h.size * 1073741824 ≤ 2 ^ 52), a),
     (match alook h.port ps with | some P => decide (P.role = .memory) && D.has (h.port / 4) | none => false, a + 12),
     (decide (bitsN (rdB bs (a + 13)) 2 6 = 0), a + 13), (zeroB bs (a + 14) (a + 16), a + 14),
     (if h.prot then decide (h.metaBase % 1073741824 = 0) && decide (h.metaBase + 128 * 2 ^ D.nlog * treeM D h ≤ 2 ^ 52) else decide (h.metaBase = 0), a + 16),
     (zeroB bs (a + 24) (a + 32), a + 24)]

/-- Spans in bytes of a home range and its metadata region. -/
def homeSpans (ds : List (Nat × ImgDomain)) (h : ImgHome) : List (Nat × Nat) :=
  (h.base, h.base + h.size * 1073741824) ::
    (if h.prot then (match alook h.domain ds with | some D => [(h.metaBase, h.metaBase + 128 * 2 ^ D.nlog * treeM D h)] | none => []) else [])

def disjoint : List (Nat × Nat) → Bool
  | [] => true
  | x :: t => t.all (fun y => decide (x.2 ≤ y.1) || decide (y.2 ≤ x.1)) && disjoint t

/-- Number the protected ranges as trees (R471). -/
def numberTrees (k : Nat) : List ImgHome → List ImgHome
  | [] => []
  | h :: t => if h.prot then { h with tree := k } :: numberTrees (k + 1) t else h :: numberTrees k t

def homesChk (ds : List (Nat × ImgDomain)) (hs : List ImgHome) (o : Nat) : List Chk :=
  [(decide ((hs.filter (·.prot)).length ≤ 8), o), (decide (sumL (hs.map (·.size)) ≤ 16384), o),
   (disjoint (hs.flatMap (homeSpans ds)), o)]
  ++ ds.map (fun d => (decide (sumL ((hs.filter (fun h => h.prot && decide (h.domain = d.1))).map (treeCrown d.2)) ≤ 160), o))

/-! ### Routes (R473) -/

def readRoute (bs : List Byte) (o e : Nat) : Option RouteEnt :=
  let lo := rdN bs (o + 8 * e) 4
  let hi := rdN bs (o + 8 * e + 4) 4
  if bitsN hi 31 1 = 1 then
    some { dev := e, loc := decide (bitsN hi 30 1 = 1), hops := bitsN hi 24 4, cmpx := bitsN hi 20 4
           ports := if bitsN hi 30 1 = 1 then [] else (List.range (nport (bitsN hi 28 2))).map (fun k => bitsN lo (8 * k) 8) }
  else none

def distinct : List Nat → Bool
  | [] => true
  | x :: t => decide (x ∉ t) && distinct t

/-- The checks of a ROUTE entry. A LOCAL entry whose CMPX is not 0 is refused (DESIGN CHOICE, log entry 131). -/
def routeChk (bs : List Byte) (o : Nat) (D : ImgDomain) (ps : List (Nat × ImgPort)) (span e : Nat) : List Chk :=
  let a := o + 8 * e
  let hi := rdN bs (a + 4) 4
  match readRoute bs o e with
  | none => [(zeroB bs a (a + 8), a), (decide (e ≠ D.device.toNat), a)]
  | some r =>
    if e = D.device.toNat then [(r.loc && decide (r.hops = 0) && decide (r.cmpx = 0) && zeroB bs a (a + 4) && decide (hi % 2 ^ 24 = 0)
      && decide (bitsN hi 28 2 = 0), a)]
    else
      [(r.ports.all (fun p => match alook p ps with | some P => decide (P.role = .peer) && D.has (p / 4) | none => false) && distinct r.ports
          && (List.range 4).all (fun k => decide (k < r.ports.length) || decide (rdB bs (a + k) = 0)), a),
       (!r.loc && decide (bitsN hi 28 2 ≠ 3) && decide (hi % 2 ^ 20 = 0) && decide (1 ≤ r.hops) && decide (r.hops ≤ span), a + 4)]

/-! ### Service (R246 to R249, R380, R472) -/

def readSvc (bs : List Byte) (o : Nat) : ImgService :=
  let three (f : Nat → Nat) := (List.range 3).map f
  { hit := three (fun c => rdN bs (o + 8 * c) 2), near := three (fun c => rdN bs (o + 8 * c + 2) 2), miss := three (fun c => rdN bs (o + 8 * c + 4) 4)
    span := rdB bs (o + 24), t2Share := rdB bs (o + 25), snoopShare := rdB bs (o + 26), retryFloor := rdN bs (o + 28) 2, t2Limit := rdN bs (o + 30) 2
    burst := (List.range 9).map (fun i => rdN bs (o + 32 + 4 * i) 2), rate := (List.range 9).map (fun i => rdN bs (o + 34 + 4 * i) 2) }

/-- Base bounds of R246. -/
def baseHit (c : Nat) : Nat := match c with | 0 => 44 | 1 => 120 | _ => 25000
def baseNear (c : Nat) : Nat := match c with | 0 => 150 | 1 => 520 | _ => 25000
def baseMiss (c : Nat) : Nat := match c with | 0 => 210 | 1 => 520 | _ => 25000

/-- The extension of R248 for a route. -/
def peerExt (span : Nat) (r : RouteEnt) : Nat := 48 * (r.hops + span) + 20 * r.cmpx
/-- DUR_EXTRA of a MEMORY port (R249). -/
def durExtra (P : ImgPort) : Nat := P.durable - 110
/-- The latest footprint slot of a miss completion, before adjustment (R260). -/
def lastSlot (c : Nat) : Nat := if c = 0 then 150 else 396
/-- R262: would a durable write with this DUR_EXTRA leave the horizon? -/
def durFits (compact : Bool) (c extra : Nat) : Bool := decide (lastSlot c + (if compact then 16 else 0) + ceilDiv (extra * 4) 5 ≤ 4096)

/-- Flit time that a block of R380 adds on an encrypted port. -/
def encTime (wlog : Nat) : Nat := if wlog = 0 then 160 else if wlog = 1 then 80 else 40

/-- The checks of a SERVICE section, order 14. R380 gives no term that a Gate adds to a deadline on an encrypted port, so the limit of 40,000 ns has none
(DESIGN CHOICE, log entry 131). -/
def svcChk (bs : List Byte) (o : Nat) (D : ImgDomain) (ps : List (Nat × ImgPort)) (hs : List ImgHome) (rs : List RouteEnt) : List Chk :=
  let v := readSvc bs o
  let g (l : List Nat) (i : Nat) := l.getD i 0
  let comp := if D.compact then 20 else 0
  let enc := (ps.filter (fun p => D.has (p.1 / 4) && decide (p.2.role = .peer) && p.2.encReq)).map (fun p => encTime p.2.wlog)
  let encMax := enc.foldl max 0
  let durs := hs.map (fun h => match alook h.port ps with | some P => durExtra P | none => 0)
  ((List.range 3).flatMap (fun c => [(decide (baseHit c ≤ g v.hit c), o + 8 * c), (decide (baseNear c ≤ g v.near c), o + 8 * c + 2),
      (decide (baseMiss c ≤ g v.miss c) && decide (g v.miss c < 2 ^ 24), o + 8 * c + 4)]))
  ++ [(decide (g v.near 1 = g v.miss 1), o + 10),
      (decide (g v.hit 2 = g v.near 2) && decide (g v.near 2 = g v.miss 2) && decide (25000 ≤ g v.hit 2) && decide (g v.hit 2 ≤ 40000), o + 16),
      (decide (v.span ≤ 15), o + 24), (decide (1 ≤ v.t2Share) && decide (v.t2Share ≤ 8), o + 25),
      (decide (1 ≤ v.snoopShare) && decide (v.snoopShare ≤ 8), o + 26), (decide (rdB bs (o + 27) = 0), o + 27),
      (decide (v.retryFloor ≤ 1000), o + 28), (decide (1 ≤ v.t2Limit) && decide (v.t2Limit ≤ 1024), o + 30)]
  ++ (List.range 9).flatMap (fun i => [(decide (1 ≤ g v.burst i), o + 32 + 4 * i), (decide (1 ≤ g v.rate i), o + 34 + 4 * i)])
  ++ [(zeroB bs (o + 68) (o + 128), o + 68)]
  ++ (List.range 2).flatMap (fun c =>
      [(decide (g v.hit c + comp ≤ 40000) && decide (g v.near c + comp ≤ 40000), o + 8 * c),
       (decide (g v.miss c + comp ≤ 40000) && rs.all (fun r => r.loc || decide (g v.miss c + comp + peerExt v.span r ≤ 40000))
          && durs.all (fun x => !durFits D.compact c x || decide (g v.miss c + comp + x ≤ 40000)), o + 8 * c + 4),
       (enc.isEmpty || decide (baseMiss c + 2 * encMax ≤ g v.miss c), o + 8 * c + 4)])

/-! ### Fault windows and protection (R474, R475) -/

def faultChk (bs : List Byte) (o : Nat) : List Chk :=
  [(decide (1 ≤ rdN bs o 2) && decide (rdN bs o 2 ≤ 1250), o), (zeroB bs (o + 2) (o + 4), o + 2)]
  ++ (List.range 14).map (fun k =>
      let a := o + 4 + 4 * k
      let t := rdB bs a
      (decide (1 ≤ t) && decide (t ≤ 16) && (if t = 1 then decide (rdN bs (a + 1) 3 = 0) else decide (1 ≤ rdN bs (a + 1) 3)), a))
  ++ [(zeroB bs (o + 60) (o + 128), o + 60)]

/-- Fields of PERM_SHD and RNG_SHD (R430). -/
def permOf (w : Nat) : PermEnt :=
  { valid := decide (bitsN w 31 1 = 1), rd := decide (bitsN w 30 1 = 1), wr := decide (bitsN w 29 1 = 1), cfg := decide (bitsN w 28 1 = 1)
    trust := decide (bitsN w 27 1 = 1), ten := BitVec.ofNat 4 (bitsN w 4 4) }
def rngOfWords (base lim attr : Nat) : RngEnt :=
  { base := BitVec.ofNat 40 base, lim := BitVec.ofNat 40 lim, valid := decide (bitsN attr 31 1 = 1), priv := decide (bitsN attr 30 1 = 1)
    record := decide (bitsN attr 29 1 = 1), cap := BitVec.ofNat 2 (bitsN attr 24 2), ten := BitVec.ofNat 4 (bitsN attr 20 4)
    home := BitVec.ofNat 9 (bitsN attr 6 9), keyid := BitVec.ofNat 6 (attr % 64) }
/-- Range entry r of the PROTECT section: BASE pair, LIMIT pair, attributes. -/
def readRng (bs : List Byte) (o r : Nat) : RngEnt :=
  let a := o + 1040 + 32 * r
  rngOfWords (rdN bs a 8 % 2 ^ 40) (rdN bs (a + 8) 8 % 2 ^ 40) (rdN bs (a + 16) 4)
def readPerm (bs : List Byte) (o p : Nat) : PermEnt := permOf (rdN bs (o + 16 + 4 * p) 4)

/-- The domain of a range entry, through its tenancy (R384). -/
def rngDom (ts : List (Nat × ImgTen)) (e : RngEnt) : Option Nat := (alook e.ten.toNat ts).map (·.domain)

/-- Do two entries share a page? -/
def rngMeet (a b : RngEnt) : Bool := decide (a.base.toNat ≤ b.lim.toNat) && decide (b.base.toNat ≤ a.lim.toNat)

/-- R391 step 3, ORDER. -/
def rngOrder (es : List (Nat × RngEnt)) : Bool := es.all (fun e => !e.2.valid || decide (e.2.base.toNat ≤ e.2.lim.toNat))

/-- R391 step 3, OVERLAP: with no other valid entry of the domain, and with no metadata region of it. -/
def rngOverlap (ds : List (Nat × ImgDomain)) (ts : List (Nat × ImgTen)) (hs : List ImgHome) : List (Nat × RngEnt) → Bool
  | [] => true
  | e :: t =>
    (!e.2.valid ||
      (t.all (fun x => !x.2.valid || decide (rngDom ts x.2 ≠ rngDom ts e.2) || !rngMeet e.2 x.2)
       && hs.all (fun h => !h.prot || decide (rngDom ts e.2 ≠ some h.domain) ||
            (match alook h.domain ds with
             | some D => decide (h.metaBase + 128 * 2 ^ D.nlog * treeM D h ≤ 4096 * e.2.base.toNat) || decide (4096 * (e.2.lim.toNat + 1) ≤ h.metaBase)
             | none => true))))
    && rngOverlap ds ts hs t

/-- R391 step 4 for a range entry. -/
def rngInside (ds : List (Nat × ImgDomain)) (ts : List (Nat × ImgTen)) (hs : List ImgHome) (e : RngEnt) : Bool :=
  !e.valid ||
    (match rngDom ts e with
     | none => false
     | some d => match alook d ds with
       | none => false
       | some D => decide (e.home ≠ D.device) ||
           hs.any (fun h => decide (h.domain = d) && decide (h.base ≤ 4096 * e.base.toNat)
             && decide (4096 * (e.lim.toNat + 1) ≤ h.base + h.size * 1073741824)))

/-- R391 step 4 for a permission entry: its tenancy is defined and belongs to the domain of its port. -/
def permInside (ds : List (Nat × ImgDomain)) (ts : List (Nat × ImgTen)) (p : Nat) (e : PermEnt) : Bool :=
  !e.valid || (match alook e.ten.toNat ts with
    | some t => (match alook t.domain ds with | some D => D.has (p / 4) | none => false)
    | none => false)

def protChk (bs : List Byte) (o : Nat) (ds : List (Nat × ImgDomain)) (ts : List (Nat × ImgTen)) (hs : List ImgHome) : List Chk :=
  let kg := rdN bs o 8
  let se := rdN bs (o + 8) 8
  let rngs := (List.range 256).map (fun r => (r, readRng bs o r))
  [(decide (kg % 2 = 0), o), (decide (se % 2 = 0) && (List.range 64).all (fun k => !decide (bitsN se k 1 = 1) || decide (bitsN kg k 1 = 1)), o + 8)]
  ++ (List.range 256).map (fun p => (permInside ds ts p (readPerm bs o p), o + 16 + 4 * p))
  ++ rngs.map (fun e => (decide (rdN bs (o + 1040 + 32 * e.1) 8 < 2 ^ 40) && decide (rdN bs (o + 1048 + 32 * e.1) 8 < 2 ^ 40)
      && decide (bitsN (rdN bs (o + 1056 + 32 * e.1) 4) 27 2 = 0) && decide (e.2.cap ≠ 3) && zeroB bs (o + 1060 + 32 * e.1) (o + 1072 + 32 * e.1),
      o + 1040 + 32 * e.1))
  ++ [(rngOrder rngs, o + 1040), (rngOverlap ds ts hs rngs, o + 1040)]
  ++ rngs.map (fun e => (rngInside ds ts hs e.2
      && (!e.2.valid || decide (e.2.keyid = 0) || decide (bitsN kg e.2.keyid.toNat 1 = 1)), o + 1040 + 32 * e.1))

/-! ### The whole check (R480) -/

/-- What a check needs beside the bytes. -/
structure ImgEnv where
  /-- IMG_LEN, for a fetched image -/
  len : Option Nat := none
  owners : List (Option (BitVec 512)) := []
  floor : Nat := 0
  hwRev : Nat := 0
  mif : Nat := 0
  /-- the image in force -/
  base : Option Thallus := none
  /-- for ROUTE: the image must be ROUTE_ONLY; for a slot it must not be -/
  route : Bool := false

/-- Header checks, order 2. A ROUTE_ONLY image in a slot, and a full image given to ROUTE, end with FORMAT (DESIGN CHOICE, log entry 131). -/
def headerChk (bs : List Byte) (env : ImgEnv) : List Chk :=
  let total := rdN bs 8 4
  let fl := rdB bs 27
  [(decide (rdN bs 0 4 = 0x534C4854), 0), (decide (rdN bs 4 2 = 1), 4), (decide (rdN bs 6 2 = 256), 6),
   (decide (1344 ≤ total) && decide (total ≤ 1048576) && decide (total ≤ bs.length)
      && (match env.len with | some l => decide (total = l) | none => true), 8),
   (decide (rdN bs 12 4 + 1088 = total) && decide (rdN bs 12 4 % 64 = 0), 12),
   (decide (rdB bs 20 ≤ rdB bs 21), 20), (decide (rdN bs 22 2 ≤ rdN bs 24 2), 22),
   (decide (fl < 2) && decide (decide (fl = 1) = env.route), 27), (decide (fl = 1) || decide (rdN bs 28 4 = 0), 28),
   (zeroB bs 136 256, 136)]

/-- The header fields of an image, as a value with no sections. -/
def readHeader (bs : List Byte) : Thallus :=
  { seq := rdN bs 16 4, hwMin := rdB bs 20, hwMax := rdB bs 21, mifMin := rdN bs 22 2, mifMax := rdN bs 24 2
    routeOnly := decide (rdB bs 27 = 1), baseSeq := rdN bs 28 4, digest := Config.sha512 (bs.take (rdN bs 12 4 + 516)) }

/-- The signature block verifies (R476). -/
def sigChk (bs : List Byte) : List Chk :=
  let o := rdN bs 12 4
  [(decide (rdN bs (o + 512) 4 = 65537), o + 512), (zeroB bs (o + 516) (o + 576), o + 516),
   (Config.rsaPssVerify (BitVec.ofNat 4096 (rdN bs o 512)) (Config.sha512 (bs.take (o + 516))) (BitVec.ofNat 4096 (rdN bs (o + 576) 512)), o + 576)]

/-- The key digest of R477. -/
def keyDigest (bs : List Byte) : BitVec 512 := Config.sha512 ((bs.drop (rdN bs 12 4)).take 516)

/-- Decode the sections of a full image. -/
def readSections (bs : List Byte) (ss : List Sect) : Thallus :=
  let ds := (secs ss 1).map (fun x => (x.inst, readDomain bs x.off))
  let at1 (t : Nat) : Nat := ((secs ss t).head?.map (·.off)).getD 0
  let hs := numberTrees 0 ((List.range 16).flatMap (fun d => match secOf ss 5 d with
    | some x => (List.range 16).filterMap (fun e => readHome bs x.off d e) | none => []))
  let fo := at1 8
  { readHeader bs with
    doms := (List.range 16).filterMap (fun d => (alook d ds).map (fun D => (d, D)))
    ports := (portLanes bs (at1 2)).map (fun p => (p, readPort bs (at1 2) p))
    tens := (List.range 16).filterMap (fun t => (readTen bs (at1 3) t).map (fun x => (t, x)))
    nears := (secs ss 4).flatMap (fun x => (List.range 32).filterMap (fun g => readNear bs x.off x.inst g))
    homes := hs
    svcs := (secs ss 6).map (fun x => (x.inst, readSvc bs x.off))
    routes := (secs ss 7).map (fun x => (x.inst, (List.range 512).filterMap (fun e => readRoute bs x.off e)))
    scrubMs := rdN bs fo 2
    wins := (List.range 14).map (fun k => (rdB bs (fo + 4 + 4 * k), rdN bs (fo + 5 + 4 * k) 3))
    keygen := if (secs ss 9).isEmpty then 0 else BitVec.ofNat 64 (rdN bs (at1 9) 8)
    sealKeys := if (secs ss 9).isEmpty then 0 else BitVec.ofNat 64 (rdN bs (at1 9 + 8) 8)
    perms := if (secs ss 9).isEmpty then [] else
      ((List.range 256).map (fun p => (p, readPerm bs (at1 9) p))).filter (fun e => decide (e.2 ≠ {}))
    rngs := if (secs ss 9).isEmpty then [] else
      ((List.range 256).map (fun r => (r, readRng bs (at1 9) r))).filter (fun e => decide (e.2 ≠ {})) }

/-- Route tables of a ROUTE_ONLY image. -/
def readRoutes (bs : List Byte) (ss : List Sect) : Thallus :=
  { readHeader bs with routes := (secs ss 7).map (fun x => (x.inst, (List.range 512).filterMap (fun e => readRoute bs x.off e))) }

def andThen (a : Except ImgBad Unit) (b : Except ImgBad Unit) : Except ImgBad Unit := match a with | .ok _ => b | .error e => .error e
/-- Run each check in order. -/
def needAll : List (Except ImgBad Unit) → Except ImgBad Unit
  | [] => .ok ()
  | a :: t => andThen a (needAll t)

/-- Orders 9 to 17 for a full image. -/
def bodyChk (bs : List Byte) (ss : List Sect) : Except ImgBad Unit :=
  let T := readSections bs ss
  let offD (d : Nat) : Nat := match secOf ss 1 d with | some x => x.off | none => 0
  let each (st : ImgStatus) (t : Nat) (f : Sect → List Chk) : Except ImgBad Unit := needAll ((secs ss t).map (fun x => need st x.idx (f x)))
  needAll [
    each .domain 1 (domainChk bs),
    (match (secs ss 1).head? with | some x => need .domain x.idx (domPairs offD T.doms) | none => .ok ()),
    each .domain 1 (fun x => [(match alook x.inst T.doms with
      | some D => !D.roots.isEmpty || T.ports.all (fun p => !(decide (p.2.role = .peer) && D.has (p.1 / 4))) | none => true, x.off + 9)]),
    each .port 2 (fun x => T.ports.flatMap (fun p => portChk bs T.doms x.off p.1) ++ portSums T.doms T.ports x.off),
    each .tenancy 3 (fun x => tenChk bs x.off T.doms T.tens T.ports (T.perms.filter (fun e => e.2.valid))),
    each .near 4 (fun x => match alook x.inst T.doms with | some D => (List.range 32).flatMap (nearChk bs x.off x.inst D T.ports) | none => []),
    each .home 5 (fun x => match alook x.inst T.doms with | some D => (List.range 16).flatMap (homeChk bs x.off x.inst D T.ports) | none => []),
    (match (secs ss 5).head? with | some x => need .home x.idx (homesChk T.doms T.homes x.off) | none => .ok ()),
    each .service 6 (fun x => match alook x.inst T.doms with
      | some D => svcChk bs x.off D T.ports (T.homes.filter (fun h => decide (h.domain = x.inst))) ((alook x.inst T.routes).getD []) | none => []),
    each .route 7 (fun x => match alook x.inst T.doms with
      | some D => (List.range 512).flatMap (routeChk bs x.off D T.ports ((alook x.inst T.svcs).getD {}).span) | none => []),
    each .fault 8 (fun x => faultChk bs x.off),
    each .protect 9 (fun x => protChk bs x.off T.doms T.tens T.homes)]

/-- Orders 15 and 18 for a ROUTE_ONLY image, against the image in force. -/
def routeBody (bs : List Byte) (ss : List Sect) (base : Option Thallus) : Except ImgBad Unit :=
  let B := base.getD {}
  needAll [
    needAll ((secs ss 7).map (fun x => need .route x.idx (match alook x.inst B.doms with
      | some D => (List.range 512).flatMap (routeChk bs x.off D B.ports ((alook x.inst B.svcs).getD {}).span) | none => []))),
    need .base 62 [(base.isSome && decide (rdN bs 28 4 = B.seq), 28)],
    needAll ((secs ss 7).map (fun x => need .base x.idx [((alook x.inst B.doms).isSome, x.off)]))]

/-- Check an image from order 2 on; answers the decoded image or the first failure. -/
def checkImage (env : ImgEnv) (bs : List Byte) : Except ImgBad Thallus :=
  let H := readHeader bs
  let nsect := rdB bs 26
  let sigofs := rdN bs 12 4
  let ss := (List.range nsect).map (sectOf bs)
  let lanes := match (secs ss 2).head? with | some x => (portLanes bs x.off).map (fun p => (p, readPort bs x.off p)) | none => []
  let hasNear (d : Nat) : Bool := match secOf ss 1 d with
    | some x => lanes.any (fun p => decide (p.2.role = .near) && (readDomain bs x.off).has (p.1 / 4)) | none => false
  match needAll [
    need .format 62 (headerChk bs env),
    need .signature 63 (sigChk bs),
    need .ownerkey 63 [(decide (some (keyDigest bs) ∈ env.owners), sigofs)],
    need .rollback 62 [(decide (env.floor ≤ H.seq), 16)],
    need .hwrev 62 [(decide (H.hwMin ≤ env.hwRev) && decide (env.hwRev ≤ H.hwMax), 20)],
    need .mif 62 [(decide (H.mifMin ≤ env.mif) && decide (env.mif ≤ H.mifMax), 22)],
    need .directory 62 [(decide (1 ≤ nsect) && decide (nsect ≤ 32) && decide (256 + 16 * nsect ≤ sigofs), 26)],
    needAll (ss.map (fun x => need .directory x.idx (sectChk bs nsect sigofs H.routeOnly x))),
    need .directory 62 (sectPairs ss),
    need .directory 62 (if H.routeOnly then [] else countChk ss hasNear),
    need .directory 62 (gapChk bs ss nsect sigofs),
    if H.routeOnly then routeBody bs ss env.base else bodyChk bs ss] with
  | .error e => .error e
  | .ok _ => .ok (if H.routeOnly then readRoutes bs ss else readSections bs ss)

/-- The environment of the module. -/
def State.imgEnv (s : State) (len : Option Nat) (route : Bool) : ImgEnv :=
  { len := len, owners := s.mram.owners, floor := s.mram.floor, hwRev := Config.hwRev.toNat, mif := s.start.mif.toNat, base := s.imgc.img, route := route }

end Sys2Proof.Machine
end

