-- ==== Sys2Proof/Machine/Ports.lean ====
section
/-! DEFINITION. Karik ports: training, discovery, time exchange, replay, encryption, detach and isolation (R356 to R381). -/

namespace Sys2Proof.Machine

open Sys2Proof

/-! ### Void promises (R280, R282) -/

/-- Record a void cause against a watch entry of Gate `g`; `agent` broke its contract. An entry already voided keeps its cause. -/
def State.voidWatch (s : State) (g : Nat) (w : Watch) (c : VoidCause) (agent : Agent) : State :=
  if w.voided.isSome then s else
    (s.modGate g (fun G => { G with
      watch := modFirst (watchIs w) (fun x => { x with voided := some c }) G.watch
      voidedSeen := true, lastVoid := c, lastAgent := agent })).bump (cGate g (18 + causeNum c))

/-- Void every watch entry that satisfies `p`. -/
def State.voidAll (s : State) (p : Watch → Bool) (c : VoidCause) (agent : Agent) : State :=
  (List.range 64).foldl (fun s g => ((s.gate g).watch.filter p).foldl (fun s w => s.voidWatch g w c agent) s) s

/-- A breach by the partner of port `p`: counted, and a record at most once per 1 ms (R282). -/
def State.breach (s : State) (p d : Nat) (c : VoidCause) (l : LineAddr) : State :=
  (s.bump (cPort p (33 + causeNum c))).rep .port p .breach d l (s.port p).pagent

/-- The domain loses SYNC: peer-home transactions in flight are voided (R280). -/
def State.syncLoss (s : State) (d : Nat) : State :=
  if (s.dom d).sync then
    let agent : Agent := match (s.dom d).upstream with | some p => (s.port p).pagent | none => 0
    (s.modDom d (fun x => { x with sync := false })).voidAll (fun w => decide (w.dom = d) && w.peer.isSome) .sync agent
  else s

/-! ### Training (R361, R362) -/

/-- Do the lowest 2^k lanes all pass? -/
def lanesPass (eq : List Bool) (k : Nat) : Bool := (List.range (2 ^ k)).all (fun i => eq.getD i false)

/-- The width a port trains at, given the lanes that pass EQ: full, or under REDUCE the widest of half, quarter and one lane. -/
def trainWidth (P : ImgPort) (eq : List Bool) : Option Nat :=
  if lanesPass eq P.wlog then some P.wlog
  else if P.reduce then [P.wlog - 1, P.wlog - 2, 0].find? (fun k => decide (k < P.wlog) && lanesPass eq k)
  else none

/-- The device number of the domain that owns a port. -/
def State.portDev (s : State) (p : Nat) : BitVec 9 := match s.portDom p with | some x => x.2.device | none => 0

/-- KIND that the partner of each role reports (R344). -/
def kindOf : Role → Nat | .near => 1 | .plain => 2 | .memory => 3 | .peer => 4 | .off => 0

/-- The DISC_ID the controller sends (R365). -/
def State.ownId (s : State) (p : Nat) : DiscId :=
  let P := s.iport p
  { kind := if P.role = .peer then 0x04 else 0x10, role := BitVec.ofNat 3 (roleNum P.role), width := BitVec.ofNat 2 ((s.port p).wact.getD 0)
    vendor := 0x56A1, part := 0x9256, rev := Config.hwRev.setWidth 8, linkver := 0x11, microcode := s.start.mcVer, mif := s.start.mif
    caps := 2, agent := epAgent (portEp (s.portDev p) p)
    sysid := match s.portDom p with | some x => x.2.sysid | none => 0
    uid := Config.uid }

/-- Position of the domain's own device in its root list. -/
def ownRoot (D : ImgDomain) : Option Nat := D.roots.findIdx? (fun r => decide (r = D.device))

/-- Whether the domain acts as time root: no PEER partner in service reports a lower index (R369). -/
def State.isRoot (s : State) (d : Nat) (D : ImgDomain) : Bool :=
  match ownRoot D with
  | none => false
  | some i => (s.iports.filter (fun e => decide (e.2.role = .peer) && s.inSvc e.1 && D.has (portNode e.1))).all
      (fun e => !(s.port e.1).psync || decide (i ≤ (s.port e.1).prootIdx)) && decide ((s.idom d).isSome)

/-- The bytes of DISC_ID after byte 0 (R365). -/
def idBytes (x : DiscId) : List Nat :=
  [x.kind.toNat, x.role.toNat, x.width.toNat] ++ leBytes 2 x.vendor.toNat ++ leBytes 2 x.part.toNat ++ [x.rev.toNat, x.linkver.toNat]
    ++ leBytes 2 x.microcode.toNat ++ leBytes 2 x.mif.toNat ++ leBytes 2 x.caps.toNat ++ leBytes 3 x.agent.toNat ++ leBytes 8 x.sysid.toNat ++ leBytes 8 x.uid.toNat

/-- The bytes of DISC_CFG after byte 0 (R365). -/
def cfgBytes (x : DiscCfg) : List Nat :=
  [0] ++ (List.range 5).map (fun v => x.cred.getD v 0) ++ leBytes 2 x.carried ++ leBytes 2 x.contract ++ leBytes 4 x.durable ++ leBytes 3 x.assign.toNat
    ++ [(if x.timeSync then 1 else 0) + (if x.timeAlone then 2 else 0) + (if x.timeRoot then 4 else 0), x.rootIdx % 4 + 16 * (x.rootHops % 16)]

/-- The DISC_CFG the controller sends. -/
def State.ownCfg (s : State) (p : Nat) : DiscCfg :=
  let P := s.iport p
  match s.portDom p with
  | none => {}
  | some (d, D) =>
    let alone := !(s.iports.any (fun e => decide (e.2.role = .peer) && D.has (portNode e.1)))
    { cred := P.cred, carried := if P.role = .peer then P.carried else 0
      assign := if P.role = .peer then 0 else epAgent (portEp D.device p)
      timeSync := (s.dom d).sync, timeAlone := alone, timeRoot := s.isRoot d D
      rootIdx := if s.isRoot d D then (ownRoot D).getD 0 else (match (s.dom d).upstream with | some u => (s.port u).prootIdx | none => 0)
      rootHops := (s.dom d).rootHops }

/-- Whether a port may train now: its role is not OFF, nothing fences it, and partners may attach (R375, R493). -/
def State.mayTrain (s : State) (p : Nat) : Bool :=
  decide ((s.iport p).role ≠ .off) && !decide (p ∈ s.flt.fport) && !decide (portNode p ∈ s.flt.frtr)
    && (match s.portDom p with | some x => !s.stopped x.1 | none => false)
    && (s.start.mode = .rising || s.open_ || s.start.mode = .quiescent || s.start.mode = .maintenance)

/-- The end of FLIT: discovery begins with DISC_ID. -/
def State.toFind (s : State) (p k : Nat) : State :=
  let s := s.modPort p (fun x => { x with
    state := .find, train := .flit, wact := some k, stage := .none, keyxOk := false, flitAt := s.clk.aclk, txSeq := 0, rxSeq := 0
    unacked := [], lnakAt := [], lnakSent := false, padv := [0, 0, 0, 0, 0], used := [0, 0, 0, 0, 0], inHeld := [0, 0, 0, 0, 0], ret := [0, 0, 0, 0, 0]
    txFlits := 0, laneBits := [], encBlock := [], goodAt := s.clk.fclk, offsets := [], tsyncOut := none, enc := false })
  (s.emit (.discId p (s.ownId p))).mgmtFlit p 1 (idBytes (s.ownId p))

def State.toDetect (s : State) (p : Nat) : State :=
  s.modPort p (fun x => { x with state := .detect, train := .detect, wact := none, stage := .none, detAt := s.clk.aclk })

/-- Train a port through EQ, LOCK, DESKEW and FLIT. -/
def State.trainPort (s : State) (p : Nat) (x : TrainResult) : State :=
  let s := s.modPort p (fun y => { y with eqPass := x.eqOk })
  match trainWidth (s.iport p) x.eqOk with
  | none => s.toDetect p
  | some k => if x.lockOk && decide (x.skew ≤ 64) && x.flitOk then s.toFind p k else s.toDetect p

/-- An edge on which a port polls DETECT: every 1 ms, 25,000 ACLK edges (R375). -/
def State.polls (s : State) (p : Nat) : Bool := decide ((s.port p).state = .detect) && decide ((s.clk.aclk - (s.port p).detAt) % 25000 = 0)

/-- DETECT: between two polls a partner is not seen. -/
def execDetect (p : Nat) (awake : Bool) (s : State) : Ans :=
  .next (if s.polls p && awake && s.mayTrain p then
    s.modPort p (fun x => { x with state := .train, train := .eq, trainAt := s.clk.aclk }) else s)

/-- TRAIN: the states end inside their budgets, 10 ms together; past those the port returns to DETECT. -/
def execTrain (p : Nat) (x : TrainResult) (s : State) : Ans :=
  .next (if (s.port p).state = .train then (if s.clk.aclk ≤ (s.port p).trainAt + 250000 then s.trainPort p x else s.toDetect p) else s)

/-- The budget in ACLK of the first state that does not end (R361). -/
def trainBudget (P : ImgPort) (x : TrainResult) : Nat :=
  if !lanesPass x.eqOk P.wlog then 200000 else if !x.lockOk then 12500 else if 64 < x.skew then 12500 else 25000

/-- TRAINING_BUDGET: a lane is not ready when the state's budget runs out. EQ retrains at the width the passing lanes allow; any other state ends in DETECT. -/
def execTrainingBudget (p : Nat) (x : TrainResult) (s : State) : Ans :=
  .next (if (s.port p).state = .train ∧ (s.port p).trainAt + trainBudget (s.iport p) x ≤ s.clk.aclk then
    (if (s.iport p).reduce && (trainWidth (s.iport p) x.eqOk).isSome && x.lockOk && decide (x.skew ≤ 64) && x.flitOk then s.trainPort p x
     else (s.modPort p (fun y => { y with eqPass := x.eqOk })).toDetect p) else s)

/-! ### Discovery (R364 to R368) -/

/-- Reject the partner: DISC_REJ, FAILED, a record at most once per second. -/
def State.reject (s : State) (p r : Nat) : State :=
  let x := s.port p
  let again := x.lastRejRec ≠ 0 && decide (s.clk.aclk + 1 < x.lastRejRec + 25000000)
  let s := s.modPort p (fun x => { x with
    state := .failed, train := .idle, reason := r, rej := min (x.rej + 1) 255, failedAt := s.clk.aclk
    lastRejRec := if again then x.lastRejRec else s.clk.aclk + 1 })
  let s := (s.bump (cPort p (22 + r))).mgmt p 0x05 r
  let s := if again then s else
    s.raise { sev := 4, source := .port, inst := p, code := .portRej, agent := x.pagent, detail := BitVec.ofNat 64 r
              domain := match s.portDom p with | some e => e.1 | none => 0 }
  s.laneIrq p

/-- Checks of R366 on DISC_ID: the first REASON that fails, 0 when none does. -/
def State.idChecks (s : State) (p : Nat) (x : DiscId) : Nat :=
  let P := s.iport p
  match s.portDom p with
  | none => 1
  | some (_, D) =>
    if x.kind.toNat ≠ kindOf P.role then 1
    else if x.linkver.toNat / 16 ≠ 1 then 2
    else if some x.width.toNat ≠ (s.port p).wact then 3
    else if P.role = .peer ∧ x.sysid ≠ D.sysid then 4
    else if P.role = .peer ∧ (x.agent.extractLsb' 8 9 = D.device ∨
        (match s.portDom p with | some e => (s.routesOf e.1).any (fun r => r.loc && decide (r.dev = (x.agent.extractLsb' 8 9).toNat)) | none => false) = true) then 5
    else 0

/-- Whether a RECORD range lies behind a MEMORY port. -/
def State.recordBehind (s : State) (p : Nat) : Bool :=
  s.prot.rngAct.any (fun e => e.2.valid && e.2.record && s.ihomes.any (fun h => decide (h.port = p) &&
    decide (h.base ≤ 4096 * e.2.base.toNat) && decide (4096 * e.2.base.toNat < h.base + h.size * 1073741824)
    && (match s.iten e.2.ten.toNat, s.idom h.domain with
        | some t, some D => decide (t.domain = h.domain) && decide (e.2.home = D.device) | _, _ => false)))

/-- Checks of R366 on DISC_CFG. -/
def State.cfgChecks (s : State) (p : Nat) (x : DiscCfg) : Nat :=
  let P := s.iport p
  let caps := (s.port p).pcaps
  if P.role = .memory ∧ ¬ (x.contract ≤ 110 ∧ x.durable ≤ P.durable ∧ (s.recordBehind p = true → caps.getLsbD 2 = true)) then 6
  else if P.role = .near ∧ 60 < x.contract then 6
  else if P.encReq && !caps.getLsbD 1 then 7
  else if (List.range 5).any (fun v => decide (x.cred.getD v 0 < 2)) then 8
  else 0

/-- DISC_ID from the partner. -/
def State.discIdIn (s : State) (p : Nat) (x : DiscId) : State :=
  let peer : Bool := (s.iport p).role = .peer
  let s := s.modPort p (fun y => { y with
    pkind := x.kind, plink := x.linkver, linkver := 0x10#8 + BitVec.ofNat 8 (min 1 (x.linkver.toNat % 16)), puid := x.uid, pcaps := x.caps
    pagent := if peer then x.agent else epAgent (portEp (s.portDev p) p) })
  let r := s.idChecks p x
  if r ≠ 0 then s.reject p r
  else ((s.modPort p (fun y => { y with stage := .id })).emit (.discCfg p (s.ownCfg p))).mgmtFlit p 2 (cfgBytes (s.ownCfg p))

def execDiscId (p : Nat) (x : DiscId) (s : State) : Ans :=
  .next (if (s.port p).state = .find ∧ (s.port p).stage = .none then (s.gotFlits p 0 0 1).discIdIn p x else s)

/-- Send a public share as a sequence of DISC_KEYX flits (R364, R379). -/
def State.sendShare (s : State) (p : Nat) (share : BitVec 768) : State :=
  ((s.emit (.keyx p share)).mgmtFlit p 3 (leBytes 79 share.toNat)).mgmtFlit p 3 (leBytes 17 (share.toNat / 2 ^ 632))

/-- Draw a private share and send its public one (R379). -/
def State.ownShare (s : State) (p : Nat) : State :=
  ((s.modPort p (fun y => { y with encPriv := Config.draw s.free })).sendShare p (Config.keyxShare (Config.draw s.free))).drawn

/-- DISC_CFG from the partner. -/
def State.discCfgIn (s : State) (p : Nat) (x : DiscCfg) : State :=
  let s := s.modPort p (fun y => { y with
    padv := (List.range 5).map (fun v => x.cred.getD v 0), pcarried := if (s.iport p).role = .peer then x.carried else 0
    pcontract := x.contract, pdurable := x.durable, psync := x.timeSync, prootIdx := x.rootIdx, prootHops := x.rootHops })
  let r := s.cfgChecks p x
  if r ≠ 0 then s.reject p r
  else
    let s := s.modPort p (fun y => { y with stage := .cfg })
    if (s.iport p).encReq then
      s.ownShare p
    else s

def execDiscCfg (p : Nat) (x : DiscCfg) (s : State) : Ans :=
  .next (if (s.port p).state = .find ∧ (s.port p).stage = .id then (s.gotFlits p 0 0 1).discCfgIn p x else s)

/-- Does a share authenticate under the root that the image names (R379, R467)? -/
def State.keyxAuth (s : State) (p : Nat) (share : BitVec 768) (sig : BitVec 4096) (root : BitVec 512) : Bool :=
  match s.portDom p with
  | some (_, D) => decide (D.chainRoot ≠ 0) && decide (root = D.chainRoot) && Config.keyxVerify root share sig
  | none => false

/-- The keys that the own and the partner's share give: sending key and salt, receiving key and salt. -/
def State.keyxKeys (s : State) (p : Nat) (own : BitVec 256) (share : BitVec 768) : BitVec 256 × BitVec 32 × BitVec 256 × BitVec 32 :=
  Config.keyxDerive own share Config.uid (s.port p).puid

/-- DISC_KEYX: during discovery it makes the link's first keys, or fails with KEYX. -/
def execDiscKeyx (p : Nat) (share : BitVec 768) (sig : BitVec 4096) (root : BitVec 512) (s : State) : Ans :=
  .next (if (s.port p).state = .find ∧ (s.port p).stage = .cfg then
    (if s.keyxAuth p share sig root then
      let s := s.gotFlits p 0 0 2
      let s := if (s.iport p).encReq then s else s.ownShare p
      let k := s.keyxKeys p (s.port p).encPriv share
      (s.modPort p (fun x => { x with
        stage := .keyx, keyxOk := true, enc := x.pcaps.getLsbD 1, encKeyTx := k.1, encSaltTx := k.2.1, encKeyRx := k.2.2.1, encSaltRx := k.2.2.2
        encBlkTx := 0, encBlkRx := 0, nextTx := none, nextRx := none }))
     else s.reject p 0xA) else s)

/-- LINK_KEY_EXCHANGE: a new exchange on a link in service; the new keys wait for the block whose TAG carries NEWKEY. -/
def execLinkKeyExchange (p : Nat) (share : BitVec 768) (sig : BitVec 4096) (root : BitVec 512) (s : State) : Ans :=
  .next (if s.inSvc p && (s.port p).enc && s.keyxAuth p share sig root then
    let k := s.keyxKeys p (Config.draw s.free) share
    (((s.gotFlits p 0 0 2).modPort p (fun x => { x with nextTx := some (k.1, k.2.1), nextRx := some (k.2.2.1, k.2.2.2) })).sendShare p (Config.keyxShare (Config.draw s.free))).drawn
   else s)

/-- R362: the Gates count the port's egress capacity at the width it trained at; when that width changes, its lease is divided again. -/
def State.setWidth (s : State) (d p : Nat) : State :=
  let w := (s.port p).wact
  if (s.port p).capW.getD (s.iport p).wlog = w.getD (s.iport p).wlog then s
  else
    let s := s.modPort p (fun x => { x with capW := w })
    match s.idom d with
    | some D => D.nodes.foldl (fun s n => s.modGate n (fun G => { G with moves := G.moves.filter (fun m => decide (m.res ≠ .egr p)) })) s
    | none => s

/-- Let a port that finished discovery into service (R368). -/
def State.enterService (s : State) (p : Nat) : State :=
  let P := s.iport p
  match s.portDom p with
  | none => s
  | some (d, _) =>
    let had := s.groupUp d P.group
    if P.role = .near && had && (s.open_ || s.start.mode = .draining) then
      s.modPort p (fun x => { x with state := .standby, stage := .done, train := .idle })
    else
      let s := s.modPort p (fun x => { x with state := .service, stage := .done, train := .idle, carriedUsed := 0, carriedIn := 0, lastTsync := s.kt d })
      let s := s.setWidth d p
      let s := if P.role = .near && had then s.groupChg d P.group else s
      let s := if P.role = .peer then s.modDom d (fun x => { x with upstream := s.pickUpstream d }) else s
      s.laneIrq p

/-- R368: STANDBY ports enter service on entry to Quiescent or Maintenance. -/
def State.standbyIn (s : State) : State :=
  s.iports.foldl (fun s e => if (s.port e.1).state = .standby then s.enterService e.1 else s) s

/-- Whether another PEER port of the domain is in service. -/
def State.otherPeer (s : State) (p : Nat) (D : ImgDomain) : Bool :=
  s.iports.any (fun e => decide (e.1 ≠ p) && decide (e.2.role = .peer) && D.has (portNode e.1) && s.inSvc e.1)

/-- DISC_DONE is sent, and the port enters service or STANDBY (R368). -/
def State.doneDisc (s : State) (p : Nat) : State := (s.mgmt p 0x04 0).enterService p

/-- The end of discovery: Karik time is stepped where R38 and R369 allow it; a forward step that must wait holds DISC_DONE back. -/
def State.discFinish (s : State) (p : Nat) (offset : Int) : State :=
  match s.portDom p with
  | none => s
  | some (d, D) =>
    if (s.iport p).role ≠ .peer ∨ s.otherPeer p D ∨ s.isRoot d D then s.doneDisc p
    else if s.start.mode = .rising then
      (s.modDom d (fun x => { x with ktime := (Int.ofNat x.ktime + offset).toNat, running := true, sync := false })).doneDisc p
    else if offset < 0 then s.reject p 0xB
    else if offset = 0 then s.doneDisc p
    else (s.modDom d (fun x => { x with stepPend := some offset })).modPort p (fun x => { x with stage := .done })

/-- Time from FLIT to the end of discovery in ACLK edges: 2 ms, or 20 ms when DISC_KEYX runs (R366). -/
def State.discLimit (s : State) (p : Nat) : Nat := if (s.iport p).encReq || decide ((s.port p).stage = .keyx) then 500000 else 50000

def execDiscDone (p : Nat) (offset : Int) (s : State) : Ans :=
  let x := s.port p
  .next (if x.state = .find ∧ (x.stage = .keyx ∨ (x.stage = .cfg ∧ (s.iport p).encReq = false)) then
    (if x.flitAt + s.discLimit p ≤ s.clk.aclk then (s.gotFlits p 0 0 1).reject p 9 else (s.gotFlits p 0 0 1).discFinish p offset) else s)

/-- DISC_REJ from the partner: discovery ends in FAILED. It writes REASON and adds to REJ as an own rejection does (DESIGN CHOICE, log entry 102). -/
def execDiscRej (p r : Nat) (s : State) : Ans :=
  .next (if (s.port p).state = .find then
    ((s.gotFlits p 0 0 1).modPort p (fun x => { x with state := .failed, train := .idle, reason := r % 16, rej := min (x.rej + 1) 255, failedAt := s.clk.aclk })).laneIrq p
   else s)

/-- DISC_TIMEOUT. -/
def execDiscTimeout (p : Nat) (s : State) : Ans :=
  .next (if (s.port p).state = .find ∧ (s.port p).flitAt + s.discLimit p ≤ s.clk.aclk then s.reject p 9 else s)

/-- FAILED_RETURN. -/
def execFailedReturn (p : Nat) (s : State) : Ans :=
  .next (if (s.port p).state = .failed ∧ (s.port p).failedAt + 2500000 ≤ s.clk.aclk then s.toDetect p else s)

/-! ### Karik time across devices (R369 to R371) -/

/-- No Gate of the domain holds a watch entry. -/
def State.watchesEmpty (s : State) (D : ImgDomain) : Bool := D.nodes.all (fun n => (s.gate n).watch.isEmpty)

/-- TIME_STEP: the forward step is applied, and the ports that waited for it enter service. -/
def State.timeStepIn (s : State) (d : Nat) (D : ImgDomain) : State :=
  match (s.dom d).stepPend with
  | none => s
  | some off =>
    if s.watchesEmpty D then
      let s := s.modDom d (fun x => { x with ktime := (Int.ofNat x.ktime + off).toNat, stepPend := none, sync := false })
      s.iports.foldl (fun s e => if (s.port e.1).state = .find && (s.port e.1).stage = .done && D.has (portNode e.1) then s.doneDisc e.1 else s) s
    else s

def execTimeStep (d : Nat) (s : State) : Ans :=
  .next (match s.idom d with | some D => s.timeStepIn d D | none => s)

def State.peerUp (s : State) (p : Nat) : Bool := decide ((s.iport p).role = .peer) && s.inSvc p

/-- Karik time of the domain that owns a port. -/
def State.portKt (s : State) (p : Nat) : KTime := match s.portDom p with | some x => s.kt x.1 | none => 0

/-- TSYNC_EXCHANGE: every 10 µs TSYNC_REQ leaves with T1. -/
def execTsyncExchange (p : Nat) (t1 : Stamp) (s : State) : Ans :=
  .next (if s.peerUp p && (decide ((s.port p).tsyncAt = 0) || decide ((s.port p).tsyncAt + ns 10000 ≤ s.portKt p)) then
    ((s.modPort p (fun x => { x with tsyncOut := some t1, tsyncAt := s.portKt p })).emit (.tsyncReq p t1)).mgmtFlit p 0x10 (leBytes 10 t1) else s)

/-- TSYNC_REQ: the response echoes T1 and carries T2 and T3. -/
def execTsyncReq (p : Nat) (t1 t2 t3 : Stamp) (s : State) : Ans :=
  .next (if s.peerUp p then ((s.gotFlits p 0 0 1).emit (.tsyncRsp p t1 t2 t3)).mgmtFlit p 0x11 (leBytes 10 t1 ++ leBytes 10 t2 ++ leBytes 10 t3) else s)

/-- d = ((T4 − T1) − (T3 − T2)) / 2. -/
def linkDelay (t1 t2 t3 t4 : Stamp) : Int := ((Int.ofNat t4 - Int.ofNat t1) - (Int.ofNat t3 - Int.ofNat t2)) * 256 / 2

/-- θ = ((T2 − T1) − (T4 − T3)) / 2, from 2^-16 ns stamps to 2^-24 ns. -/
def theta (t1 t2 t3 t4 : Stamp) : Int := ((Int.ofNat t2 - Int.ofNat t1) - (Int.ofNat t4 - Int.ofNat t3)) * 256 / 2

/-- Mean of a list of offsets. -/
def meanOf (l : List Int) : Int := if l.isEmpty then 0 else l.foldl (· + ·) 0 / Int.ofNat l.length

/-- ±200 ppm (R38). -/
def clampRate (r : Int) : Int := max (-200000) (min 200000 r)

/-- The upstream's report: steer, and declare or lose SYNC (R371). ±0.125 ns is 2,097,152 and ±0.25 ns 4,194,304 of 2^-24 ns. -/
def State.steerDom (s : State) (d : Nat) (D : ImgDomain) (p : Nat) : State :=
  let x := s.port p
  if s.isRoot d D then s.modDom d (fun y => { y with sync := true, rootHops := 0, rateOfs := 0 })
  else if (s.dom d).upstream ≠ some p then s
  else
    let m := meanOf x.offsets
    let hops := x.prootHops + 1
    let s := s.modDom d (fun y => { y with rateOfs := clampRate (Config.steer x.offsets), rootHops := hops })
    if m.natAbs > 4194304 ∨ !x.psync ∨ 8 < hops then s.syncLoss d
    else if x.offsets.length = 8 ∧ m.natAbs ≤ 2097152 then s.modDom d (fun y => { y with sync := true })
    else s

def State.tsyncIn (s : State) (p : Nat) (off : Int) (sync : Bool) (idx hops : Nat) : State :=
  match s.portDom p with
  | none => s
  | some (d, D) =>
    let s := s.modPort p (fun x => { x with
      offsets := (off :: x.offsets).take 8, psync := sync, prootIdx := idx, prootHops := hops, tsyncOut := none, lastTsync := s.kt d })
    let s := s.bump (cPort p 19)
    let s := s.modDom d (fun x => { x with upstream := s.pickUpstream d })
    s.steerDom d D p

/-- TSYNC_RSP: it counts only as the answer to the request that is outstanding. -/
def execTsyncRsp (p : Nat) (t1 t2 t3 t4 : Stamp) (sync : Bool) (idx hops : Nat) (s : State) : Ans :=
  .next (if s.peerUp p && decide ((s.port p).tsyncOut = some t1) then ((s.gotFlits p 0 0 1).modPort p (fun x => { x with delay := linkDelay t1 t2 t3 t4 })).tsyncIn p (theta t1 t2 t3 t4) sync idx hops else s)

/-- No exchange with the upstream has ended for 100 µs; when no upstream is left, none on any PEER port of the domain (R371). -/
def State.syncOver (s : State) (d : Nat) (D : ImgDomain) : Bool :=
  let old (p : Nat) : Bool := decide ((s.port p).lastTsync + ns 100000 ≤ s.kt d)
  match (s.dom d).upstream with
  | some p => old p
  | none =>
    let ps := s.iports.filter (fun e => decide (e.2.role = .peer) && D.has (portNode e.1))
    !ps.isEmpty && ps.all (fun e => old e.1)

/-- SYNC_LOST. A root or a standalone domain has no upstream to lose. -/
def execSyncLost (d : Nat) (s : State) : Ans :=
  .next (match s.idom d with
    | some D => if s.syncOver d D && !s.isRoot d D then s.syncLoss d else s
    | none => s)

/-! ### Replay (R356, R363) -/

/-- LACK: flits up to the number named leave the replay buffer. -/
def execLack (p : Nat) (seq : BitVec 16) (s : State) : Ans :=
  .next (if s.inSvc p || decide ((s.port p).state = .find) || decide ((s.port p).state = .standby) then
    (s.modPort p (fun x => { x with unacked := x.unacked.filter (fun f => !seqLe f.seq seq), goodAt := s.clk.fclk })).bump (cPort p 9) else s)

/-- LNAK: replay, and a fast retrain when 64 arrive within 1 ms. -/
def execLnak (p : Nat) (seq : BitVec 16) (s : State) : Ans :=
  .next (if s.inSvc p || decide ((s.port p).state = .find) || decide ((s.port p).state = .standby) then
    let s := ((s.modPort p (fun x => { x with lnakAt := (s.clk.aclk :: x.lnakAt).take 64, goodAt := s.clk.fclk })).bump (cPort p 15)).bump (cPort p 9)
    let s := s.resendFrom p seq
    let ts := (s.port p).lnakAt
    if ts.length = 64 ∧ s.clk.aclk - ts.getD 63 0 < 25000 then s.fastRetrain p else s
   else s)

/-- RETRAIN of PORT_CMD: outside SERVICE it has no effect. -/
def State.doRetrain (s : State) (p : Nat) : State := if (s.port p).state = .service then s.fastRetrain p else s

/-- RETRAIN: outside SERVICE the bit has no effect. -/
def execRetrain (p : Nat) (s : State) : Ans := .next (s.doRetrain p)

/-- FAST_RETRAIN_END: held flits are sent again, or the partner is dead; one that has not ended within 20 µs has failed. The retrain counts against window 11 (R444). -/
def State.retrainEnd (s : State) (p : Nat) (ok : Bool) : State :=
  let ok : Bool := ok && decide (s.clk.fclk ≤ (s.port p).retrainAt + 48000)
  let s := s.modPort p (fun x => { x with retrained := true, retrainRun := false, train := .idle, state := if x.drainRun ∨ x.asked then .draining else .service })
  let s := s.bump (cPort p 17)
  let (s, trip) := s.winHit 11 (.port p)
  if trip then s.fence (.port p) .fence (some 11)
  else if ok then
    let fl := (s.port p).unacked
    ((s.modPort p (fun x => { x with unacked := x.unacked.map (fun f => { f with times := 1 }), lnakAt := [], goodAt := s.clk.fclk })).resendAll p fl)
  else s.partnerDied p

def execFastRetrainEnd (p : Nat) (ok : Bool) (s : State) : Ans :=
  .next (if (s.port p).state = .retrain then s.retrainEnd p ok else s)

/-! ### Encrypted blocks (R378, R381) -/

/-- A block whose tag verifies: its flits may be used, and NEWKEY changes the receiving key. -/
def State.tagGood (s : State) (p : Nat) (newKey : Bool) : State :=
  (s.modPort p (fun x => match newKey, x.nextRx with
    | true, some k => { x with encKeyRx := k.1, encSaltRx := k.2, encBlkRx := 0, nextRx := none, rxSeq := x.rxSeq + 1, goodAt := s.clk.fclk }
    | _, _ => { x with encBlkRx := x.encBlkRx + 1, rxSeq := x.rxSeq + 1, goodAt := s.clk.fclk })).bump (cPort p 11)

/-- A block whose tag fails: discarded, LNAK for its first flit; four within 1 s end the partner. -/
def State.tagBad (s : State) (p : Nat) : State :=
  let s := (s.modPort p (fun x => { x with authAt := (s.clk.aclk :: x.authAt).take 4 })).bump (cPort p 20)
  let s := s.linkFlit p true (s.port p).rxSeq
  let ts := (s.port p).authAt
  if ts.length = 4 ∧ s.clk.aclk - ts.getD 3 0 < 25000000 then
    (s.modPort p (fun x => { x with authFail := true, authAt := [] })).partnerDied p else s

def execTag (p block : Nat) (flits : List (BitVec 672)) (tagBits : BitVec 128) (newKey : Bool) (s : State) : Ans :=
  .next (if s.inSvc p && (s.port p).enc then
    (if BitVec.ofNat 64 block = (s.port p).encBlkRx ∧ Config.gcmTag (s.port p).encKeyRx (s.port p).encSaltRx (BitVec.ofNat 64 block) flits = tagBits
     then s.tagGood p newKey else s.tagBad p) else s)

/-! ### Detach (R376) -/

/-- Whether a drain of this port is refused with INUSE. -/
def State.drainInUse (s : State) (p : Nat) : Bool :=
  match s.portDom p with
  | none => false
  | some (d, _) =>
    match (s.iport p).role with
    | .memory => s.ihomes.any (fun h => decide (h.port = p))
    | .peer => !(s.port p).force &&
        (s.routesOf d).any (fun r => decide (p ∈ r.ports) && s.inSvc p && !(r.ports.any (fun q => decide (q ≠ p) && s.inSvc q)))
    | _ => false

/-- The sweep of a detaching near group in one slice: SNP_INV for every line whose presence mask names it, with NODATA clear only for the owner. -/
def State.detachSweep (s : State) (d : Nat) (D : ImgDomain) (g n : Nat) : State :=
  (s.slice n).pres.foldl (fun s e =>
    if e.2.getLsbD g then
      let t := tget {} (s.slice n).tags e.1
      if t.state = .i then s else
        let l := D.lineOf t.origin.toNat (e.1 / D.ways) t.tag
        let m : Msg := { op := .snpInv, line := l, nodata := decide (t.owner.toNat ≠ g), answerTo := sliceEp D.device n, requester := sliceEp D.device n,
                         sender := sliceEp D.device n, nodl := true }
        (s.modSlice n (fun x => { x with drainSnoops := x.drainSnoops ++ [(l, g)] })).sendNear d D n g m
    else s) s

/-- With FORCE, a home recalls what devices about to become unreachable hold (R376). -/
def State.forceRecall (s : State) (d : Nat) (D : ImgDomain) (p n : Nat) : State :=
  (s.home n).dir.foldl (fun s e => match e.2 with
    | none => s
    | some x =>
      let l := D.dline x.origin.toNat (e.1 / 16) x.tag
      let devs := (s.routesOf d).filter (fun r => decide (p ∈ r.ports) && !(r.ports.any (fun q => decide (q ≠ p) && s.inSvc q)))
      let held := devs.filter (fun r => decide (x.owner.toNat = r.dev) || decide (x.sharer2 = some (BitVec.ofNat 9 r.dev))
        || (x.coarse && x.groups.getLsbD (r.dev / 64)))
      held.foldl (fun s r => s.enqHome n (recallMsg D n l (some r.dev) false) (4 * n) .recall) s) s

/-- Step 2 of R376: the work of the port's role. -/
def State.detachWork (s : State) (p : Nat) : State :=
  match s.portDom p with
  | none => s
  | some (d, D) =>
    match (s.iport p).role with
    | .near =>
      let g := (s.iport p).group
      if (s.groupPorts d g).any (fun q => decide (q ≠ p) && s.inSvc q) then
        (s.groupPorts d g).foldl (fun s q => if q ≠ p ∧ s.inSvc q then s.mgmt q 0x20 (s.groupSvcMask d g [p]) else s) s
      else D.nodes.foldl (fun s n => s.detachSweep d D g n) s
    | .peer => if (s.port p).force then D.nodes.foldl (fun s n => s.forceRecall d D p n) s else s
    | _ => s

/-- DRAIN of PORT_CMD. -/
def State.doPortDrain (s : State) (p : Nat) : State :=
  if (s.port p).drainRun then s
  else if s.drainInUse p then s.modPort p (fun x => { x with drainSt := .inuse })
  else if (s.port p).state = .service then
    (s.modPort p (fun x => { x with state := .draining, drainRun := true, drainSt := .none, detach := .asked, detachAt := s.clk.aclk, asked := false })).mgmt
      p 0x30 0
  else s

/-- PORT_DRAIN. -/
def execPortDrain (p : Nat) (s : State) : Ans := .next (s.doPortDrain p)

/-- DETACH_REQ from the partner: acknowledged, and the role's work runs. One that crosses the port's own request is acknowledged too. Where a drain would be
refused, DRAIN_ST says INUSE and no answer goes out (DESIGN CHOICE, log entry 104). -/
def execDetachReq (p : Nat) (s : State) : Ans :=
  .next (if (s.port p).state = .service then
    (let s := s.gotFlits p 0 0 1
     if s.drainInUse p then s.modPort p (fun x => { x with drainSt := .inuse })
     else ((s.modPort p (fun x => { x with state := .draining, detach := .acked, detachAt := s.clk.aclk, asked := true })).mgmt p 0x31 0).detachWork p)
   else if (s.port p).state = .draining ∧ (s.port p).detach = .asked ∧ (s.port p).asked = false then
    ((s.gotFlits p 0 0 1).modPort p (fun x => { x with asked := true })).mgmt p 0x31 0
   else s)

/-- DETACH_ACK from the partner we asked. -/
def execDetachAck (p : Nat) (s : State) : Ans :=
  .next (if (s.port p).state = .draining ∧ (s.port p).detach = .asked then
    ((s.gotFlits p 0 0 1).modPort p (fun x => { x with detach := .acked })).detachWork p else s)

/-- Step 3 of R376: every transaction with a unit on the port is complete, and every port credit is back (R359). On an encrypted link, where no IDLE flit carries
credits, those that are due go out with DETACH_DONE. -/
def State.detachQuiet (s : State) (p : Nat) : Bool :=
  (s.port p).used.all (fun n => decide (n = 0)) && (s.port p).inHeld.all (fun n => decide (n = 0))
    && ((s.port p).enc || (s.port p).ret.all (fun n => decide (n = 0))) &&
  decide ((s.port p).carriedUsed = 0) && decide ((s.port p).carriedIn = 0) &&
  (s.gate (portNode p)).cfgOut.all (fun c => decide (c.1 ≠ p)) &&
  (s.gate (portNode p)).watch.all (fun w => decide (w.port ≠ p)) && (s.gate (portNode p)).tails.all (fun t => decide (t.port ≠ p))
    && (List.range 5).all (fun v => (s.qOf (portNode p) (20 + 5 * portSlot p + v)).isEmpty)
    && (match s.portDom p with
        | some (d, D) => D.nodes.all (fun n =>
            (decide ((s.iport p).role ≠ .near) || (s.slice n).drainSnoops.all (fun x => decide (x.2 ≠ (s.iport p).group)))
            && (decide ((s.iport p).role ≠ .memory) || (s.home n).txs.all (fun t => decide (t.port ≠ p) || decide (t.mem = .none) && !t.memWr))
            && (decide ((s.iport p).role ≠ .peer) || (s.home n).txs.all (fun t => t.pend.all (fun v =>
                  decide (v = D.device.toNat) || decide (s.peerPort d (BitVec.ofNat 9 v) t.line ≠ some p)))))
        | none => true)

/-- The port leaves service in order (R376 step 4). -/
def State.leaveService (s : State) (p : Nat) : State :=
  match s.portDom p with
  | none => s
  | some (d, _) =>
    let s := (s.mgmt p 0x32 0).modPort p (fun x => { x with
      state := .detect, train := .detect, wact := none, stage := .none, detAt := s.clk.aclk, enc := false, drainRun := false, detach := .done, asked := false
      drainSt := if x.drainRun then .done else x.drainSt, carriedUsed := 0, carriedIn := 0 })
    let s := if (s.iport p).role = .peer ∧ (s.dom d).upstream = some p then
        let u := s.pickUpstream d
        s.modDom d (fun x => { x with upstream := u }) else s
    s.laneIrq p

/-- DETACH_DONE. -/
def execDetachDone (p : Nat) (s : State) : Ans :=
  .next (if (s.port p).state = .draining ∧ (s.port p).detach = .acked ∧ s.detachQuiet p then s.leaveService p else s)

/-- DRAIN_FALLBACK. -/
def execDrainFallback (p : Nat) (s : State) : Ans :=
  .next (if (s.port p).state = .draining ∧ (s.port p).detachAt + 50000 ≤ s.clk.aclk then
    (s.modPort p (fun x => { x with drainSt := .fallback })).isolate p else s)

/-- PARTNER_DEAD: no flit passes the link check for 1 µs outside a fast retrain. -/
def execPartnerDead (p : Nat) (s : State) : Ans :=
  .next (if ((s.port p).state = .service ∨ (s.port p).state = .draining ∨ (s.port p).state = .standby ∨ (s.port p).state = .find)
      ∧ (s.port p).goodAt + 2400 ≤ s.clk.fclk
    then s.partnerDied p else s)

/-- R301, R306: the tail entries that waited for the isolated partner are freed, and a write among them is lost. -/
def State.isolTails (s : State) (p : Nat) : State :=
  (List.range 64).foldl (fun s g => ((s.gate g).tails.filter (fun t => decide (t.isol = some p))).foldl (fun s t => s.freeTail g t t.write) s) s

/-- ISOLATION_END: the port's queues are no longer under FLUSH, and it polls DETECT, unless a fence holds it. -/
def State.isolEnd (s : State) (p : Nat) : State :=
  let mine (q : Nat) : Bool := decide (20 + 5 * portSlot p ≤ q) && decide (q < 25 + 5 * portSlot p)
  let t := (s.modPool (portNode p) (fun x => { x with flushing := x.flushing.filter (fun q => !mine q) })).isolTails p
  if p ∈ s.flt.fport ∨ portNode p ∈ s.flt.frtr then t.modPort p (fun x => { x with state := .off, train := .idle, wact := none }) else t.toDetect p

def execIsolationEnd (p : Nat) (s : State) : Ans :=
  .next (if (s.port p).state = .isolating then s.isolEnd p else s)

end Sys2Proof.Machine
end

