-- ==== Sys2Proof/Machine/Calendar.lean ====
section
/-! DEFINITION. Calendars: capacities, standing reserves, leases, footprints, counted entries and regulators (R253 to R263, R275). -/

namespace Sys2Proof.Machine

open Sys2Proof

/-! ### Capacity and standing reserves (R253, R254) -/

/-- Units of slot `j` of a frame of 16, after the units R253 keeps. Port egress is counted per frame. -/
def capIn : Res → Nat → Nat
  | .acc _, j => if j = 0 then 2 else 3
  | .chan _, j => if j % 4 = 3 then 0 else 1
  | .seqr _, _ => 2
  | .egr _, _ => 0

/-- Flits per frame of a port of 2^k lanes. -/
def egrCap (k : Nat) : Nat := [3, 6, 12, 25].getD k 25

/-- Take one unit from the first slot at or after `j` that holds one. -/
def takeUnit : List Nat → Nat → List Nat
  | [], _ => []
  | u :: t, 0 => if u = 0 then u :: takeUnit t 0 else (u - 1) :: t
  | u :: t, j + 1 => u :: takeUnit t j

/-- The leasable units of each slot of a frame once T2_SHARE of `x` sixteenths is withheld. -/
def frameUnits (x : Nat) (r : Res) : List Nat :=
  let c := (List.range 16).map (capIn r)
  let u := ceilDiv (x * sumL c) 16
  (List.range u).foldl (fun l k => takeUnit l (16 * k / u)) c

/-- Leasable flits of a port's frame: T2_SHARE, and SNOOP_SHARE on NEAR and PEER ports, are withheld. -/
def State.egrUnits (s : State) (d p : Nat) : Nat :=
  let c := egrCap ((s.port p).capW.getD (s.iport p).wlog)
  let v := s.isvc d
  let sn : Nat := if (s.iport p).role = .near ∨ (s.iport p).role = .peer then ceilDiv (v.snoopShare * c) 16 else 0
  c - ceilDiv (v.t2Share * c) 16 - sn

/-! ### Leases (R255 to R257) -/

/-- The Gates of a domain that serve a port, in ascending node order. -/
def State.gatesOf (s : State) (D : ImgDomain) : List Nat :=
  (List.range 64).filter (fun n => D.has n && s.iports.any (fun e => decide (portNode e.1 = n) && decide (e.2.role ≠ .off)))

/-- How many of the units numbered from `base`, `len` of them, fall to turn `i` of `g`. -/
def dealt (base len i g : Nat) : Nat := if g = 0 then 0 else (base + len + g - 1 - i) / g - (base + g - 1 - i) / g

/-- Units in the slots before `t`. -/
def unitsBefore (fr : List Nat) (t : Nat) : Nat := t / 16 * sumL fr + sumL (fr.take (t % 16))

/-- The units of a resource in a slot (for port egress: in its frame) that were dealt to the `i`-th of `g` Gates. -/
def State.leaseUnits (s : State) (d i g : Nat) (r : Res) (slot : Nat) : Nat :=
  let st := (s.dom d).calStart + 1
  match r with
  | .egr p =>
    let e := s.egrUnits d p
    dealt ((slot / 16 - st / 16) * e) e i g
  | _ =>
    let fr := frameUnits (s.isvc d).t2Share r
    dealt (unitsBefore fr slot - unitsBefore fr st) (fr.getD (slot % 16) 0) i g

/-- Do two slots of a resource share capacity? -/
def sameCell (r : Res) (a b : Nat) : Bool := match r with | .egr _ => decide (a / 16 = b / 16) | _ => decide (a = b)

def unitIn (r : Res) (slot : Nat) (u : CalUnit) : Bool := decide (u.res = r) && sameCell r u.slot slot

/-- Units of a Gate that are reserved or held in a cell, those of `extra` included. -/
def Gate.used (G : Gate) (r : Res) (slot : Nat) (extra : List CalUnit) : Nat :=
  ((G.resv ++ G.holds.flatMap (·.units) ++ extra).filter (unitIn r slot)).length

/-- What the balancer has moved to a Gate in a cell. -/
def Gate.moved (G : Gate) (r : Res) (slot : Nat) : Int :=
  G.moves.foldl (fun a m => if m.res = r ∧ sameCell r m.slot slot = true then a + m.amount else a) 0

/-- Free units of Gate `n` in a cell. -/
def State.unitFree (s : State) (d : Nat) (D : ImgDomain) (n : Nat) (r : Res) (slot : Nat) (extra : List CalUnit) : Nat :=
  let gs := s.gatesOf D
  let G := s.gate n
  match gs.findIdx? (fun g => decide (g = n)) with
  | none => 0
  | some i => (Int.ofNat (s.leaseUnits d i gs.length r slot) + G.moved r slot - Int.ofNat (G.used r slot extra)).toNat

/-! ### Footprints (R260, R261) -/

/-- A line of a footprint: resource, units, and its window after the admission slot. -/
abbrev FpLine := Res × Nat × Nat × Nat

/-- The footprint of a T0 or T1 request. `ext` is how many slots later lines 6 to 8 lie; a peer home has one line for its PEER port.
`late` is how many slots later the windows of lines 4 and 5 end (R452). -/
def footprint (t0 compact : Bool) (slice home mem ingress : Nat) (peer : Option Nat) (ext late : Nat) : List FpLine :=
  let c := if compact then 16 else 0
  let hi (a b : Nat) : Nat := (if t0 then a else b) + c
  let mid : List FpLine := match peer with
    | some q => [(.egr q, 1, 8, hi 24 200 + late)]
    | none => [(.seqr home, 1, 4, hi 14 80 + late), (.egr mem, 1, 8, hi 24 200 + late)]
  [(.acc slice, 1, 1, hi 8 48), (.chan slice, 1, 2, hi 10 52), (.egr ingress, 2, 8, hi 25 82)] ++ mid ++
    [(.acc slice, 1, 96 + ext, hi 128 304 + ext), (.chan slice, 1, 98 + ext, hi 132 308 + ext), (.egr ingress, 2, 104 + ext, hi 150 396 + ext)]

/-- `cnt` units of a resource, each in the first slot of the window that holds a free one. -/
def State.pickLine (s : State) (d : Nat) (D : ImgDomain) (n : Nat) (taken : List CalUnit) (r : Res) (lo hi : Nat) : Nat → Option (List CalUnit)
  | 0 => some []
  | cnt + 1 =>
    match ((List.range (hi + 1 - lo)).map (lo + ·)).find? (fun t => decide (0 < s.unitFree d D n r t taken)) with
    | some t => (pickLine s d D n (taken ++ [{ res := r, slot := t }]) r lo hi cnt).map ([({ res := r, slot := t } : CalUnit)] ++ ·)
    | none => none

/-- One unit on every line, its window shifted by `a`, narrowed from below by `w`, and cut at the last slot `last` of the horizon (R253).
Answers the units, and the resources whose line failed. -/
def State.pickAll (s : State) (d : Nat) (D : ImgDomain) (n a w last : Nat) (fp : List FpLine) : List CalUnit × List Res :=
  fp.foldl (fun acc l =>
    match s.pickLine d D n acc.1 l.1 (a + w + l.2.2.1) (min (a + l.2.2.2) last) l.2.1 with
    | some us => (acc.1 ++ us, acc.2)
    | none => (acc.1, acc.2 ++ [l.1])) ([], [])

/-- R267: the smallest shift at or above `k` at which every line finds, inside the horizon, a unit that lies within its window for four shifts in a row. -/
def State.findShift (s : State) (d : Nat) (D : ImgDomain) (n a : Nat) (fp : List FpLine) : Nat → Nat → Option (Nat × List CalUnit)
  | 0, _ => none
  | f + 1, k =>
    if fp.any (fun l => decide (4096 < k + 3 + l.2.2.1)) then none
    else
      let r := s.pickAll d D n (a + k) 3 (a + 4096) fp
      if r.2.isEmpty then some (k, r.1) else findShift s d D n a fp f (k + 1)

/-! ### Counted entries (R136, R256) -/

/-- Entries of a counted resource that Gates may lease. -/
def eresCap : ERes → Nat | .mshr _ => 192 | .wb _ => 256 | .vb _ => 124 | .tx _ => 256 | .lineq _ => 128

/-- Carried credits granted at the PEER ports of the Gates for which `f` holds (R270, R271). -/
def State.carriedSum (s : State) (f : Nat → Bool) : Nat :=
  sumL ((s.iports.filter (fun e => decide (e.2.role = .peer) && f (portNode e.1))).map (·.2.carried))

/-- Entries of a home shard's resource that are leased with the carried reservations of the domain: each shard holds its part of the sets (R270, R468). -/
def State.carriedEnts (s : State) (D : ImgDomain) (r : ERes) : Nat :=
  match r with
  | .tx _ | .lineq _ => min 64 (ceilDiv (s.carriedSum D.has) (2 ^ D.nlog))
  | _ => 0

/-- Requests that a home shard holds and that entered at a port for which `f` holds. -/
def Home.ofPorts (x : Home) (f : Nat → Bool) : Nat :=
  (x.txs.filter (fun t => decide (t.kind = .request) && f t.src)).length
    + sumL (x.lineq.map (fun e => (e.2.filter (fun m => f m.2 && decide (vnOf m.1.op = .req))).length))

/-- Entries of a resource that Gate `g` has reserved or that its requests hold. -/
def State.eresUsed (s : State) (g : Nat) (r : ERes) : Nat :=
  let ws (f : Watch → Bool) : Nat := ((s.gate g).watch.filter f).length
  match r with
  | .mshr n => ws (fun w => w.ents.mshr && decide (w.slice = n)) + ((s.slice n).mshrs.filter (fun e => match e.2 with | some m => decide (m.gate = g) | none => false)).length
  | .wb n => ws (fun w => w.ents.wb && decide (w.slice = n)) + ((s.slice n).wbuf.filter (fun e => match e.2 with | some m => decide (m.gate = g) | none => false)).length
  | .vb n => ws (fun w => w.ents.vb && decide (w.slice = n))
      + ((s.slice n).mshrs.filter (fun e => match e.2 with | some m => m.vbr && decide (m.gate = g) | none => false)).length + ((s.slice n).vbuf.filter (fun e => match e.2 with | some m => decide (m.gate = g) | none => false)).length
  | .tx n | .lineq n => ws (fun w => w.ents.home && !w.carried && decide (w.home = some n)) 
      + (s.home n).ofPorts (fun p => decide (portNode p = g) && decide ((s.iport p).role ≠ .peer))

/-- A Gate's share of a counted resource. -/
def State.eresShare (s : State) (D : ImgDomain) (g : Nat) (r : ERes) : Int :=
  let gs := s.gatesOf D
  match gs.findIdx? (fun x => decide (x = g)) with
  | none => 0
  | some i =>
    let c := eresCap r - s.carriedEnts D r
    Int.ofNat (c / gs.length + (if i = 0 then c % gs.length else 0))
      + (s.gate g).emoves.foldl (fun a m => if m.1 = r then a + m.2 else a) 0

def State.eresFree (s : State) (D : ImgDomain) (g : Nat) (r : ERes) : Int := s.eresShare D g r - Int.ofNat (s.eresUsed g r)

/-- Entries a request reserves in its slice and at a home of this device. -/
def entsFor (op : Op) (record localHome : Bool) : EntRes :=
  match op with
  | .rdNa => { mshr := true, home := localHome }
  | .wr => { mshr := true, wb := true, vb := !record, home := localHome }
  | _ => { mshr := true, vb := true, home := localHome }

/-- The counted resources that a request needs at its slice and home and that the Gate's lease cannot give, in the order of the test. -/
def State.entsLack (s : State) (D : ImgDomain) (g slice home : Nat) (e : EntRes) : List ERes :=
  ([(e.mshr, ERes.mshr slice), (e.wb, .wb slice), (e.vb, .vb slice), (e.home, .tx home), (e.home, .lineq home)].filter
    (fun x => x.1 && decide (s.eresFree D g x.2 ≤ 0))).map (·.2)

/-- The REASON of a RETRY for want of a counted resource (R269). -/
def lackReason (r : ERes) : Reason := match r with | .tx _ | .lineq _ => .home | _ => .entries

/-- A Gate's share of the carried credits of a PEER port. -/
def State.carriedShare (s : State) (D : ImgDomain) (g q : Nat) : Nat :=
  let gs := s.gatesOf D
  match gs.findIdx? (fun x => decide (x = g)) with
  | none => 0
  | some i => (s.port q).pcarried / gs.length + (if i = 0 then (s.port q).pcarried % gs.length else 0)

def State.carriedOk (s : State) (D : ImgDomain) (g q : Nat) : Bool :=
  decide ((s.port q).carriedUsed < (s.port q).pcarried)
    && decide (((s.gate g).watch.filter (fun w => decide (w.pport = some q))).length < s.carriedShare D g q)

/-! ### Regulators (R275). A token is 1000 x 2^24 parts, so that RATE tokens per µs are RATE parts per unit of Karik time. -/

def oneToken : Nat := 16777216000

/-- Tokens now held, by class: an unset bucket is full. -/
def refill (v : ImgService) (k : Nat) (tokens : List Nat) (since now : KTime) : List Nat :=
  (List.range 3).map (fun c =>
    let full := v.burst.getD (3 * k + c) 0 * oneToken
    min full (tokens.getD c full + v.rate.getD (3 * k + c) 0 * (now - since)))

def hasToken (ts : List Nat) (c : Nat) : Bool := decide (oneToken ≤ ts.getD c 0)
def takeToken (ts : List Nat) (c : Nat) : List Nat := setAt ts c (ts.getD c 0 - oneToken)

/-- When the bucket will next hold a token. -/
def nextToken (v : ImgService) (k c : Nat) (ts : List Nat) (now : KTime) : KTime :=
  let r := v.rate.getD (3 * k + c) 0
  if r = 0 then now else now + ceilDiv (oneToken - ts.getD c 0) r

/-- Take a token at a slice (`k` = 2) or home shard (`k` = 1) for an injection; answers whether there was one. -/
def State.injToken (s : State) (d n k c : Nat) : State × Bool :=
  let v := s.isvc d
  let now := s.kt d
  if k = 1 then
    let x := s.home n
    let ts := refill v 1 x.tokens x.tokenAt now
    if hasToken ts c then (s.modHome n (fun y => { y with tokens := takeToken ts c, tokenAt := now }), true)
    else (s.modHome n (fun y => { y with tokens := ts, tokenAt := now }), false)
  else
    let x := s.slice n
    let ts := refill v 2 x.tokens x.tokenAt now
    if hasToken ts c then (s.modSlice n (fun y => { y with tokens := takeToken ts c, tokenAt := now }), true)
    else (s.modSlice n (fun y => { y with tokens := ts, tokenAt := now }), false)

end Sys2Proof.Machine
end

