-- ==== Sys2Proof/Machine/Spore.lean ====
section
/-! DEFINITION. Spore tagging: sampling, stage stamps and records (R586 to R589). -/

namespace Sys2Proof.Machine

open Sys2Proof

/-- The opcode of a request (R189). -/
def reqCode : Op → Nat
  | .rdSh => 1 | .rdOwn => 2 | .ownUpg => 3 | .ownNodata => 4 | .rdNa => 5 | .wr => 6 | .wrThru => 7 | .wrDur => 8 | .pfHint => 9
  | .memRd => 0xA | .cfgRd => 0xB | .cfgWr => 0xC | .barrier => 0xD | _ => 0

/-- One step of a Gate's generator: polynomial x^32 + x^22 + x^2 + x + 1. -/
def lfsr (v : BitVec 32) : BitVec 32 :=
  let b := (v.getLsbD 31 != v.getLsbD 21) != (v.getLsbD 1 != v.getLsbD 0)
  (v <<< 1) ||| (if b then 1 else 0)

/-- Replace the traces of a domain. -/
def State.setTraces (s : State) (d : Nat) (es : List SporeEnt) : State :=
  { s with spore := { s.spore with ents := tset [] s.spore.ents d es } }

/-- Stamp a stage on the first edge on which it handles the traced line. `who` is the agent, for stages that see one. -/
def State.stamp (s : State) (d : Nat) (l : LineAddr) (who : Option Endpoint) (k : Nat) : State :=
  let es := tget [] s.spore.ents d
  if es.isEmpty then s else
    let hit (e : SporeEnt) : Bool := decide (e.line = l) && (match who with | some r => decide (e.req = r) | none => true) && !(e.stamps.any (fun t => decide (t.1 = k)))
    s.setTraces d (es.map (fun e => if hit e then { e with stamps := e.stamps ++ [(k, s.clk.fclk - e.edge)] } else e))

/-- Set a PATH bit of the traces of a line. -/
def State.tracePath (s : State) (d : Nat) (l : LineAddr) (bit : Nat) : State :=
  let es := tget [] s.spore.ents d
  if es.isEmpty then s else
    s.setTraces d (es.map (fun e => if e.line = l then { e with path := orBit e.path bit } else e))

/-- A Gate draws a number on an admission edge, and the admission is traced when its low K bits are zero and an entry is free. -/
def State.sample (s : State) (d g : Nat) (e : SporeEnt) : State :=
  if !s.spore.enable then s else
    let v := lfsr (s.gate g).spore
    let s := s.modGate g (fun G => { G with spore := v })
    if v.toNat % 2 ^ s.spore.k ≠ 0 then s
    else if 16 ≤ (tget [] s.spore.ents d).length then s.bump (cGlb 104)
    else (s.setTraces d (tget [] s.spore.ents d ++ [e])).bump (cGlb 103)

/-- The 64 bytes of a record. -/
def sporeBytes (d : Nat) (e : SporeEnt) (err seq : Nat) : List Byte :=
  let st := sumL ((List.range 12).map (fun i => (match e.stamps.find? (fun t => decide (t.1 = i)) with | some t => min t.2 0xFFFFF | none => 0xFFFFF) * 2 ^ (20 * i)))
  let b := bytesLe 8 (e.ingress / 16777216) ++ bytesLe 6 e.line.toNat ++ bytesLe 3 (epAgent e.req).toNat
    ++ bytesLe 1 (reqCode e.op + 32 * clsNum e.cls) ++ bytesLe 1 e.gate ++ bytesLe 1 (d % 16 + 16 * err) ++ bytesLe 1 e.path.toNat ++ bytesLe 1 0
    ++ bytesLe 2 seq ++ bytesLe 30 st ++ bytesLe 4 ((e.dl - e.ingress) / 16777216) ++ bytesLe 2 0
  b ++ bytesLe 4 (crc32 b).toNat

/-- The record of a traced transaction is written and its entry freed. -/
def State.traceEnd (s : State) (d : Nat) (l : LineAddr) (req : Endpoint) (err : ErrCode) : State :=
  let es := tget [] s.spore.ents d
  match es.find? (fun e => decide (e.line = l) && decide (e.req = req)) with
  | none => s
  | some e =>
    let s := s.setTraces d (rmFirst e es)
    if s.spore.slots = 0 then s
    else if !s.dmaOk then { s with spore := { s.spore with enable := false, dmaErr := true } }.irq 0 20
    else
      let q := s.spore.seq + 1
      let s := { s with spore := { s.spore with seq := q } }
      let s := (s.emit (.dma (s.spore.base + BitVec.ofNat 64 (64 * ((q - 1) % s.spore.slots))) (sporeBytes d e (errNum err) q))).bump (cGlb 105)
      if s.spore.int ≠ 0 ∧ q % s.spore.int.toNat = 0 then s.irq 0 19 else s

end Sys2Proof.Machine
end

