-- ==== Sys2Proof/Machine/Gate.lean ====
section
/-! DEFINITION. The Gate: permission and range check, admission, RETRY, holds, carried requests (R243 to R272, R284 to R295, R388). -/

namespace Sys2Proof.Machine

open Sys2Proof

/-- A request at a Gate: its port (256 + d for the controller writer of domain d), domain, Gate node, Karik time of its ingress, and the FCLK edge of its admission. -/
structure Adm where
  p : Nat
  d : Nat
  D : ImgDomain
  g : Nat
  m : Msg
  now : KTime
  adm : Nat
deriving DecidableEq, Repr

def Adm.writer (a : Adm) : Bool := decide (256 ≤ a.p)
def Adm.agent (a : Adm) : Agent := epAgent a.m.requester
def Adm.slot (a : Adm) : Nat := portSlot a.p

/-- The agent's ports: those of a near group together (R284). -/
def State.agentPorts (s : State) (d p : Nat) : List Nat := match s.groupOf p with | some g => s.groupPorts d g | none => [p]

/-! ### Permission and range (R388, R389) -/

/-- The permission entry in force for a port. -/
def State.permOfPort (s : State) (p : Nat) : PermEnt := tget {} s.prot.permAct p

def readsOp (op : Op) : Bool := op = .rdSh || op = .rdNa || op = .rdOwn || op = .ownUpg
def writesOp (op : Op) : Bool := op = .wr || op = .rdOwn || op = .ownUpg || op = .ownNodata || op = .wrThru || op = .wrDur

/-- The first step of R388 that refuses a request. `passing`: a carried request for another device (R389). The controller writer takes steps 3, 7 and 8 (R30). -/
def State.permFail (s : State) (a : Adm) (passing : Bool) : Option Nat :=
  let P := s.permOfPort a.p
  let R := s.rngOf a.d a.m.line
  let role := (s.iport a.p).role
  let w := a.writer
  let priv (e : RngEnt) : Bool := e.priv && (decide (role = .plain) || (decide (P.ten ≠ e.ten) && !(decide (role = .peer) && P.trust)))
  if !w && !P.valid then some 1
  else if passing then
    (if readsOp a.m.op && !P.rd then some 5 else if writesOp a.m.op && !P.wr then some 6 else none)
  else match R with
    | none => some 3
    | some (r, e) =>
      if !w && priv e then some 4
      else if !w && readsOp a.m.op && !P.rd then some 5
      else if !w && writesOp a.m.op && !P.wr then some 6
      else if e.keyid ≠ 0 ∧ (s.key e.keyid.toNat).st ≠ .active then some 7
      else if r ∈ s.prot.closed then some 8
      else none

/-! ### Answers -/

/-- Answer a request with an error and count it. -/
def State.refuse (s : State) (a : Adm) (e : ErrCode) (k : Nat) : State := (s.gateAnswer a.p (refusal a.m e)).bump (cGate a.g k)

/-- The RETRY message. -/
def retryMsg (a : Adm) (r : Reason) (at_ : KTime) (h : Option Nat) : Msg :=
  { op := .retry, line := a.m.line, txn := a.m.txn, requester := a.m.requester, destDev := epDev a.m.requester
    retryAt := at_, held := h.isSome, hold := h, reason := r }

/-- Send a RETRY and count it. -/
def State.sendRetry (s : State) (a : Adm) (r : Reason) (at_ : KTime) (h : Option Nat) : State :=
  let s := (s.gateAnswer a.p (retryMsg a r at_ h)).bump (cGate a.g (3 + reasonNum r))
  if a.writer then s else s.page (s.permOfPort a.p).ten.toNat 6

/-- The entry of a request's agent and line at its port slot. The controller writer has none. -/
def retryIs (a : Adm) (e : RetryEnt) : Bool := !a.writer && decide (e.slot = a.slot) && decide (e.agent = a.agent) && decide (e.line = a.m.line)

/-- R293: a RETRY opens a retry-order entry for its agent and line, or updates the open one. A port slot has 8. -/
def State.retryNew (s : State) (a : Adm) (r : Reason) (at_ : KTime) (h : Option Nat) : State :=
  let s := if a.writer then s else s.modGate a.g (fun G =>
    if G.retryOrd.any (retryIs a) then { G with retryOrd := modFirst (retryIs a) (fun e => { e with retryAt := at_, reason := r }) G.retryOrd }
    else if 8 ≤ (G.retryOrd.filter (fun e => decide (e.slot = a.slot))).length then G
    else { G with retryOrd := G.retryOrd ++ [{ slot := a.slot, agent := a.agent, line := a.m.line, retryAt := at_, reason := r }] })
  s.sendRetry a r at_ h

/-- The open entry of a port slot that closes first. -/
def firstToClose (es : List RetryEnt) : Option RetryEnt :=
  es.foldl (fun b e => match b with | some x => if e.retryAt < x.retryAt then some e else some x | none => some e) none

/-! ### Promises (R246 to R250) -/

/-- Bounds of a class in force, in ns: hit, near owner, local-home miss, with R247's 20 ns. -/
def State.bound (s : State) (d : Nat) (D : ImgDomain) (c : Cls) : Nat × Nat × Nat :=
  let v := s.isvc d
  let k := clsNum c
  let x := if D.compact && decide (c ≠ .t2) then 20 else 0
  (v.hit.getD k (baseHit k) + x, v.near.getD k (baseNear k) + x, v.miss.getD k (baseMiss k) + x)

/-- What a request's target makes of it: slice, home of this device or peer device and its port, RECORD write, class and extensions in ns. -/
structure Target where
  slice : Nat
  home : Option Nat
  peer : Option (BitVec 9)
  pport : Option Nat
  mem : Nat
  record : Bool
  cls : Cls
  ext : Nat
deriving DecidableEq, Repr

/-- Target and effective class (R244, R248, R249, R262). -/
def State.targetOf (s : State) (a : Adm) (e : RngEnt) : Target :=
  let local_ : Bool := e.home = a.D.device
  let c0 := if a.writer then Cls.t2 else slower (clsOf a.m.cls) (clsOf e.cap)
  let rec_ := e.record && decide (a.m.op = .wr)
  let hr := s.homeRange a.d a.m.line
  let mem := match hr with | some h => h.port | none => 0
  let durE := if rec_ then durExtra (s.iport mem) else 0
  let peerE := match s.route a.d e.home with | some r => peerExt (s.isvc a.d).span r | none => 0
  let fits := durFits a.D.compact (clsNum c0) durE
  let c := if rec_ && (!local_ || !fits) then Cls.t2 else c0
  { slice := s.sliceNode a.d a.D a.m.line, home := if local_ then some (s.homeNode a.d a.D a.m.line) else none
    peer := if local_ then none else some e.home, pport := if local_ then none else s.peerPort a.d e.home a.m.line
    mem := mem, record := rec_, cls := c, ext := if local_ then durE else peerE }

/-- Deadlines (R250): hit, near and miss. A T2 bound is flat. -/
def State.deadlines (s : State) (a : Adm) (t : Target) : KTime × KTime × KTime :=
  let (h, n, m) := s.bound a.d a.D t.cls
  if t.cls = .t2 then (a.now + ns m, a.now + ns m, a.now + ns m)
  else (a.now + ns h, a.now + ns n, a.now + ns (m + t.ext))

/-- Number of bytes a write carries. -/
def maskBytes (m : Msg) : Nat := if m.op = .wr then ((List.range 128).filter (fun i => m.mask.getLsbD i)).length else 0

/-- Take a watch entry, count the admission, sample it, and inject the request toward its slice. -/
def State.takeIn (s : State) (a : Adm) (t : Target) (us : List CalUnit) (onHold : Bool) : State :=
  let ten := if a.writer then (match s.rngOf a.d a.m.line with | some e => e.2.ten.toNat | none => 0) else (s.permOfPort a.p).ten.toNat
  let (hd, nd, dl) := s.deadlines a t
  let v := s.isvc a.d
  let w : Watch := {
    port := a.p, req := a.m.requester, agent := a.agent, line := a.m.line, op := a.m.op, cls := t.cls, ten := ten, dom := a.d
    ingress := a.now, dl := dl, hitDl := hd, nearDl := nd, slice := t.slice, home := t.home, peer := t.peer, record := t.record
    epoch := s.prot.epoch, units := us, ents := entsFor a.m.op t.record t.home.isSome, bytes := maskBytes a.m, pport := t.pport, admAt := a.adm }
  let s := s.modGate a.g (fun G => { G with
    watch := G.watch ++ [w], resv := G.resv ++ us
    retryOrd := G.retryOrd.filter (fun e => !(retryIs a e))
    tokens := takeToken (refill v 0 G.tokens G.tokenAt a.now) (clsNum t.cls), tokenAt := a.now })
  let s := match t.pport with | some q => s.modPort q (fun x => { x with carriedUsed := x.carriedUsed + 1 }) | none => s
  let s := (s.bump (cGate a.g (clsNum t.cls))).page ten (clsNum t.cls)
  let s := s.sample a.d a.g { line := a.m.line, gate := a.g, req := a.m.requester, op := a.m.op, cls := t.cls, ingress := a.now
                              edge := s.clk.fclk, dl := dl, stamps := [(0, 6)], path := if onHold then 32 else 0 }
  let m := { a.m with cls := BitVec.ofNat 2 (clsNum t.cls), dl := dl, hitDl := hd, nodl := false, hold := none, destDev := a.D.device }
  s.injectGate a.g (if a.writer then 0 else a.slot) t.cls t.slice .slice m a.adm

/-! ### Admission of a local request (R265) -/

/-- A hold that this request matches (R268). -/
def holdMatch (a : Adm) (h : Hold) : Bool :=
  decide (a.m.hold = some h.num) && decide (h.agent = a.agent) && decide (h.line = a.m.line) && decide (h.op = a.m.op)
    && decide (h.retryAt ≤ a.now) && decide (a.now ≤ h.retryAt + ns 5)

/-- A hold in force for agent and line whose tag the request carries before its interval. -/
def holdEarly (a : Adm) (h : Hold) : Bool :=
  decide (a.m.hold = some h.num) && decide (h.agent = a.agent) && decide (h.line = a.m.line) && decide (a.now < h.retryAt)

/-- Does the line's primary slice position drain (R449); is its primary home position handed over (R450)? -/
def State.sliceDrains (s : State) (d : Nat) (D : ImgDomain) (l : LineAddr) : Bool :=
  let h := D.hash l
  decide (D.node h ∈ s.flt.fslc) && !decide (h ∈ (s.dom d).sliceSpread)
def State.homeHands (s : State) (d : Nat) (D : ImgDomain) (l : LineAddr) : Bool :=
  let h := D.hash l
  decide (D.node h ∈ s.flt.fhom) && !decide (h ∈ (s.dom d).homeSpread)

/-- T2 requests of a Gate in flight. -/
def Gate.t2 (G : Gate) : Nat := (G.watch.filter (fun w => decide (w.cls = .t2) && !w.carried)).length

/-- R452: while a slice or home shard of the domain is fenced, lines 4 and 5 end 12 slots later when slice and home lie in different nodes. -/
def State.fenceLate (s : State) (a : Adm) (t : Target) : Nat :=
  if (s.flt.fslc.any a.D.has || s.flt.fhom.any a.D.has) && decide (t.home ≠ some t.slice) then 12 else 0

/-- Footprint lines, in slots. -/
def Adm.foot (a : Adm) (t : Target) (late : Nat) : List FpLine :=
  footprint (decide (t.cls = .t0)) a.D.compact t.slice (t.home.getD 0) t.mem a.p t.pport (ceilDiv (t.ext * 4) 5) late

/-- The calendar step: units at shift 0, or a hold and RETRY CALENDAR (R267). A new hold takes the lowest number that is free (DESIGN CHOICE, log entry 156). -/
def State.admitCal (s : State) (a : Adm) (t : Target) : State :=
  let sl := slotOf (s.kt a.d + fclks (a.adm - s.clk.fclk))
  let fp := a.foot t (s.fenceLate a t)
  let r := s.pickAll a.d a.D a.g sl 0 (sl + 4096) fp
  if r.2.isEmpty then s.takeIn a t r.1 false
  else
    let fl := (s.isvc a.d).retryFloor
    let k0 := ceilDiv (fl * 4) 5
    let s := s.modGate a.g (fun G => { G with charges := G.charges ++ r.2.eraseDups.map (fun x => (x, 1)) })
    let at_ (k : Nat) : KTime := a.now + k * (5 * 16777216 / 4)
    match s.findShift a.d a.D a.g sl fp 4096 k0 with
    | some (k, us) =>
      match (List.range 32).find? (fun h => !((s.gate a.g).holds.any (fun x => decide (x.num = h)))) with
      | some h =>
        let s := s.modGate a.g (fun G => { G with
          holds := G.holds ++ [{ num := h, agent := a.agent, line := a.m.line, op := a.m.op, retryAt := at_ k, units := us }] })
        (s.bump (cGate a.g 10)).retryNew a .calendar (at_ k) (some h)
      | none => s.retryNew a .calendar (max (at_ k) (a.now + ns fl)) none
    | none => s.retryNew a .calendar (max (at_ 4096) (a.now + ns fl)) none

/-- Does the request need a carried credit that the Gate's lease cannot give (R261, R271)? -/
def State.noCredit (s : State) (a : Adm) (t : Target) : Bool := match t.pport with | some q => !s.carriedOk a.D a.g q | none => false

/-- The last steps of the test: counted entries and the carried credit, then calendars, unless a hold already has the units. A request that its hold admits
but that lacks either is answered RETRY, and the hold is freed. -/
def State.admitEntries (s : State) (a : Adm) (t : Target) (hm : Option Hold) : State :=
  let v := s.isvc a.d
  let floorAt := a.now + ns v.retryFloor
  let s := match hm with
    | some h => s.modGate a.g (fun G => { G with holds := G.holds.filter (fun x => decide (x.num ≠ h.num)) })
    | none => s
  match s.entsLack a.D a.g t.slice (t.home.getD 0) (entsFor a.m.op t.record t.home.isSome) with
  | r :: rs =>
    (s.modGate a.g (fun G => { G with
      echarges := G.echarges ++ ((r :: rs).filter (fun x => decide (lackReason x = lackReason r))).map (fun x => (x, 1)) })).retryNew a (lackReason r) floorAt none
  | [] =>
    if s.noCredit a t then s.retryNew a .carried floorAt none
    else match hm with
      | some h => (s.bump (cGate a.g 11)).takeIn a t h.units true
      | none =>
        if t.cls = .t2 then
          (if v.t2Limit ≤ (s.gate a.g).t2 then s.retryNew a .rate floorAt none else s.takeIn a t [] false)
        else s.admitCal a t

/-- Watch entries of a Gate, and tail entries, that requests of its own agents hold; those of its PEER ports are reserved with their carried credits (R270). -/
def Gate.ownWatches (G : Gate) : Nat := (G.watch.filter (fun w => !w.carried)).length
def State.ownTails (s : State) (g : Nat) : Nat := ((s.gate g).tails.filter (fun t => decide ((s.iport t.port).role ≠ .peer))).length

/-- Is the watch table of Gate `g` full, or no tail entry free (R276, R301)? -/
def State.watchFull (s : State) (g : Nat) : Bool :=
  let k := 1024 - s.carriedSum (fun n => decide (n = g))
  decide (k ≤ (s.gate g).ownWatches) || decide (k ≤ s.ownTails g)

/-- The middle steps: drains and hand-overs, time, tokens, watch entries. -/
def State.admitRoom (s : State) (a : Adm) (t : Target) (hm : Option Hold) : State :=
  let G := s.gate a.g
  let v := s.isvc a.d
  let floorAt := a.now + ns v.retryFloor
  let ts := refill v 0 G.tokens G.tokenAt a.now
  if s.sliceDrains a.d a.D a.m.line then s.retryNew a .entries floorAt none
  else if t.home.isSome && s.homeHands a.d a.D a.m.line then s.retryNew a .home floorAt none
  else if (s.dom a.d).stepPend.isSome || (t.peer.isSome && !(s.dom a.d).sync) then s.retryNew a .sync floorAt none
  else if !hasToken ts (clsNum t.cls) then s.retryNew a .rate (max floorAt (nextToken v 0 (clsNum t.cls) ts a.now)) none
  else if s.watchFull a.g then s.retryNew a .watch floorAt none
  else s.admitEntries a t hm

/-- From the hold tag to the stamp. The answers of R268 come before those of R293 and R294. -/
def State.admitLocal (s : State) (a : Adm) (e : RngEnt) : State :=
  let G := s.gate a.g
  let mine := G.retryOrd.filter (fun x => decide (x.slot = a.slot))
  let hm := if a.writer then none else G.holds.find? (holdMatch a)
  match G.holds.find? (holdEarly a), mine.find? (fun x => retryIs a x && decide (a.now < x.retryAt)) with
  | some h, _ => s.retryNew a .calendar h.retryAt (some h.num)
  | none, some x =>
    if hm.isSome then s.admitRoom a (s.targetOf a e) hm else (s.bump (cGate a.g 30)).sendRetry a x.reason x.retryAt none
  | none, none =>
    if !a.writer && decide (8 ≤ mine.length) && hm.isNone then
      (match firstToClose mine with | some x => (s.bump (cGate a.g 31)).sendRetry a x.reason x.retryAt none | none => s)
    else s.admitRoom a (s.targetOf a e) hm

/-! ### Carried requests (R270 to R272, R374) -/

/-- The class of a carried request (R244, R262, R265): for a home of this device the slower of its class and the range's cap, and T2 where a durable write's
footprint passes the horizon; the request keeps its deadlines. A request that is passed on keeps its class. -/
def State.carriedCls (s : State) (a : Adm) (own : Bool) : Cls :=
  if own then
    match s.rngOf a.d a.m.line with
    | some (_, e) =>
      let c := slower (clsOf a.m.cls) (clsOf e.cap)
      let mem := match s.homeRange a.d a.m.line with | some h => h.port | none => 0
      if a.m.op = .wrDur ∧ durFits a.D.compact (clsNum c) (durExtra (s.iport mem)) = false then .t2 else c
    | none => clsOf a.m.cls
  else clsOf a.m.cls

/-- Take a carried request: it keeps its deadlines and uses the port's carried reservation. `onward`: the port on which it is passed on; else its home is here.
One that is admitted while the domain is out of sync falls under the SYNC cause (R270, R280). -/
def State.takeCarried (s : State) (a : Adm) (onward : Option Nat) : State :=
  let ten := (s.permOfPort a.p).ten.toNat
  let home := s.homeNode a.d a.D a.m.line
  let cls := s.carriedCls a onward.isNone
  let w : Watch := {
    port := a.p, req := a.m.requester, agent := a.agent, line := a.m.line, op := a.m.op, cls := cls, ten := ten, dom := a.d, ingress := a.now
    dl := a.m.dl, hitDl := a.m.hitDl, nearDl := a.m.hitDl, slice := 64, home := if onward.isSome then none else some home
    peer := if onward.isSome then some a.m.destDev else none, record := decide (a.m.op = .wrDur), epoch := s.prot.epoch, carried := true
    ents := { home := onward.isNone }
    bytes := ((List.range 128).filter (fun i => a.m.mask.getLsbD i)).length, pport := onward, admAt := a.adm }
  let s := s.modGate a.g (fun G => { G with watch := G.watch ++ [w] })
  let s := s.modPort a.p (fun x => { x with carriedIn := x.carriedIn + 1 })
  let s := if (s.dom a.d).sync then s else s.voidWatch a.g w .sync 0
  let s := (s.bump (cGate a.g (clsNum cls))).page ten (clsNum cls)
  let s := s.sample a.d a.g { line := a.m.line, gate := a.g, req := a.m.requester, op := a.m.op, cls := cls, ingress := a.now
                              edge := s.clk.fclk, dl := a.m.dl, stamps := [(0, 6)] }
  let m := { a.m with cls := BitVec.ofNat 2 (clsNum cls) }
  match onward with
  | some q => (s.modPort q (fun x => { x with carriedUsed := x.carriedUsed + 1 })).injectGate a.g a.slot cls (portNode q) (.port (portSlot q)) m a.adm
  | none => s.injectGate a.g a.slot cls home .home m a.adm

/-- What a carried request may ask for: a request that slices send to homes (R189). -/
def carriedOp (op : Op) : Bool :=
  op = .rdSh || op = .rdOwn || op = .ownUpg || op = .ownNodata || op = .rdNa || op = .wrThru || op = .wrDur

/-- A carried request that fails a step. Where it held a credit, the credit returns with the answer. -/
def State.admitCarried (s : State) (a : Adm) : State :=
  let P := s.iport a.p
  let own : Bool := a.m.destDev = a.D.device
  if !s.open_ || s.stopped a.d then s.refuse a .notServing 14
  else if !carriedOp a.m.op then s.refuse a .protocol 15
  else if a.m.cls = 3 then s.refuse a .protocol 15
  else if P.carried ≤ (s.port a.p).carriedIn then (s.refuse a .protocol 15).rep .port a.p .credit a.d a.m.line (s.port a.p).pagent
  else if a.m.nodl then (s.refuse a .protocol 15).rep .port a.p .drop a.d a.m.line (s.port a.p).pagent
  else match s.permFail a (!own) with
    | some k => (s.refuse a .denied 13).bump (cGlb (16 + k))
    | none =>
      if own then
        (if s.homeHands a.d a.D a.m.line then (s.gateAnswer a.p (refusal a.m .homeFault)).bump (cHom (s.homeNode a.d a.D a.m.line) 32) else s.takeCarried a none)
      else match s.peerPort a.d a.m.destDev a.m.line with
        | some q =>
          if (s.port q).pcarried ≤ (s.port q).carriedUsed then (s.refuse a .protocol 15).rep .port q .credit a.d a.m.line (s.port q).pagent
          else (s.takeCarried a (some q)).bump (cPort a.p 21)
        | none => (s.gateAnswer a.p (refusal a.m .unreachable)).bump (match (s.route a.d a.m.destDev).bind (fun r => r.ports.head?) with
            | some q => cPort q 38 | none => cPort a.p 38)

/-! ### The admission test -/

/-- What a role may send as requests (R195). -/
def roleAllows (r : Role) (op : Op) : Bool :=
  match r with
  | .near => op = .rdSh || op = .rdOwn || op = .ownUpg || op = .ownNodata || op = .rdNa || op = .wr
  | .plain => op = .rdNa || op = .wr
  | _ => false

/-- R184: a group's request for a line comes on the line's port. -/
def State.onLinePort (s : State) (a : Adm) : Bool :=
  match s.groupOf a.p with | some g => decide (s.linePort a.d g a.m.line = some a.p) | none => true

/-- The PEER port that R374 charges when a device has no route in service: PORT(0) of its entry. -/
def State.port0 (s : State) (d : Nat) (dev : BitVec 9) : Option Nat := match s.route d dev with | some r => r.ports.head? | none => none

/-- The test of R265 for a NEAR or PLAIN port, or the controller writer. -/
def State.admitNear (s : State) (a : Adm) : State :=
  if !s.open_ || s.stopped a.d then s.refuse a .notServing 14
  else if !a.writer && !(roleAllows (s.iport a.p).role a.m.op && s.onLinePort a) then s.refuse a .protocol 15
  else if a.m.cls = 3 then s.refuse a .protocol 15
  else match s.permFail a false, s.rngOf a.d a.m.line with
    | some k, _ => (s.refuse a .denied 13).bump (cGlb (16 + k))
    | none, none => s
    | none, some (_, e) =>
      if e.home ≠ a.D.device ∧ (s.peerPort a.d e.home a.m.line).isNone then
        let s := s.gateAnswer a.p (refusal a.m .unreachable)
        (match s.port0 a.d e.home with | some q => s.bump (cPort q 38) | none => s)
      else s.admitLocal a e

/-- R265: the edge on which a request of port slot `k` completes ingress at Gate `g`. Requests of one edge are taken in port-slot order from the rotating
pointer, which moves on after an edge that brings such a tie; a request that comes out of that order completes ingress on the next edge. -/
def State.ingressEdge (s : State) (g k : Nat) : State × Nat :=
  let G := s.gate g
  let step (e : Nat) : State × Nat :=
    let r := if G.inTie then (G.rrPtr + 1) % 4 else G.rrPtr
    (s.modGate g (fun G => { G with rrPtr := r, inAt := e, inRank := (k + 4 - r) % 4, inTie := false }), e)
  let rank := (k + 4 - G.rrPtr) % 4
  if G.inAt < s.clk.fclk then step s.clk.fclk
  else if G.inRank < rank then (s.modGate g (fun G => { G with inRank := rank, inTie := true }), G.inAt)
  else step (G.inAt + 1)

/-- The admission edge: 6 FCLK after ingress, and at most one request in an FCLK. -/
def State.admEdge (s : State) (g e : Nat) : State × Nat :=
  let k := max (e + 6) ((s.gate g).admAt + 1)
  (s.modGate g (fun G => { G with admAt := k }), k)

/-- A request of the controller writer of domain `d`. -/
def State.writerReq (s : State) (d : Nat) (m : Msg) : State :=
  match s.idom d with
  | some D =>
    let r := s.admEdge D.capsule s.clk.fclk
    r.1.admitNear { p := 256 + d, d := d, D := D, g := D.capsule, now := s.kt d, adm := r.2, m := { m with cls := 2, requester := writerEp D.device D.capsule } }
  | none => s

/-- A request completes ingress at port `p` of Gate `portNode p`. Outside Serving and Degraded every request is NOT_SERVING (R7); after DETACH_ACK a request
from the port is UNREACHABLE (R376). -/
def State.request (s : State) (p : Nat) (m : Msg) : State :=
  match s.portDom p with
  | none => s
  | some (d, D) =>
    let i := s.ingressEdge (portNode p) (portSlot p)
    let r := i.1.admEdge (portNode p) i.2
    let a : Adm := { p := p, d := d, D := D, g := portNode p, m := m, now := s.kt d + fclks (i.2 - s.clk.fclk), adm := r.2 }
    if !s.open_ then r.1.refuse a .notServing 14
    else if (s.port p).state = .draining ∧ (s.port p).detach = .acked then (r.1.gateAnswer p (refusal m .unreachable)).bump (cPort p 38)
    else match (s.iport p).role with
      | .near | .plain => r.1.admitNear { a with m := { m with requester := portEp D.device p } }
      | .peer => r.1.admitCarried a
      | _ => r.1.refuse a .protocol 15

/-- A message arrives at port `p`: it needs a credit, and its cells leave the ingress queue when `f` takes it (R358). -/
def State.atPort (s : State) (p : Nat) (m : Msg) (f : State → State) : State :=
  if s.inSvc p then
    let r := s.takeCredit p m
    if r.2 then f (r.1.leaveIngress p m) else r.1
  else s

/-- A request of kind `op`. -/
def State.requestAs (s : State) (op : Op) (p : Nat) (m : Msg) : State :=
  let m := { m with op := op }
  if 256 ≤ p then s.writerReq (p - 256) m else s.atPort p m (fun s => s.request p m)

/-- RD_SH. -/
def execRdSh (port : Nat) (m : Msg) (s : State) : Ans := .next (s.requestAs .rdSh port m)
/-- RD_OWN. -/
def execRdOwn (port : Nat) (m : Msg) (s : State) : Ans := .next (s.requestAs .rdOwn port m)
/-- OWN_UPG. -/
def execOwnUpg (port : Nat) (m : Msg) (s : State) : Ans := .next (s.requestAs .ownUpg port m)
/-- OWN_NODATA. -/
def execOwnNodata (port : Nat) (m : Msg) (s : State) : Ans := .next (s.requestAs .ownNodata port m)
/-- RD_NA. -/
def execRdNa (port : Nat) (m : Msg) (s : State) : Ans := .next (s.requestAs .rdNa port m)
/-- WR. -/
def execWr (port : Nat) (m : Msg) (s : State) : Ans := .next (s.requestAs .wr port m)
/-- CARRIED_REQUEST. -/
def execCarriedRequest (port : Nat) (m : Msg) (s : State) : Ans :=
  .next (if (s.iport port).role = .peer ∧ port < 256 then s.atPort port m (fun s => s.request port m) else s)

end Sys2Proof.Machine
end

