-- ==== Sys2Proof/Machine/Tree.lean ====
section
/-! DEFINITION. Frond trees: nodes, versions, the node cache, lost nodes, the Stipe and its MRAM record (R406 to R422). -/

namespace Sys2Proof.Machine

open Sys2Proof

/-! ### Places in a tree -/

/-- The home range of tree `t`. -/
def State.treeHome (s : State) (t : Nat) : Option ImgHome := s.ihomes.find? (fun h => h.prot && decide (h.tree = t))

/-- The protected home range of a line. -/
def State.lineTree (s : State) (d : Nat) (l : LineAddr) : Option ImgHome :=
  match s.homeRange d l with | some h => if h.prot then some h else none | none => none

/-- u of R406. -/
def lineU (D : ImgDomain) (h : ImgHome) (l : LineAddr) : Nat := (l.toNat - h.base / 128) / 2 ^ D.nlog

/-- The metadata line of node i of level k of subtree `pos` (R407). -/
def nodeLine (D : ImgDomain) (h : ImgHome) (pos k i : Nat) : LineAddr :=
  BitVec.ofNat 45 (h.metaBase / 128 + pos * treeM D h + treeOff D h k + i)

/-- The place of a metadata line: level and index, for a subtree. -/
def nodePlace (D : ImgDomain) (h : ImgHome) (l : LineAddr) : Nat × Nat × Nat :=
  let r := l.toNat - h.metaBase / 128
  let pos := r / treeM D h
  let o := r % treeM D h
  let k := ((List.range (treeT D h)).reverse.find? (fun j => decide (treeOff D h (j + 1) ≤ o))).getD 0 + 1
  (pos, k, o - treeOff D h k)

/-- Crown nodes: the top, and every node of level 4 or above (R415). -/
def isCrown (D : ImgDomain) (h : ImgHome) (k : Nat) : Bool := decide (k = treeT D h) || decide (4 ≤ k)

/-! ### Nodes -/

end Sys2Proof.Machine

namespace Sys2Proof

/-- Slot j of a node. -/
def FNode.slot (x : FNode) (j : Nat) : BitVec 14 := x.slots.getD j 0
/-- SEL and MINOR of a slot. -/
def slotSel (v : BitVec 14) : Bool := v.getLsbD 13
def slotMinor (v : BitVec 14) : Nat := v.toNat % 8192
/-- The version a slot gives: the major it selects and its MINOR. -/
def FNode.ver (x : FNode) (j : Nat) : BitVec 64 × Nat := (if slotSel (x.slot j) then x.majB else x.majA, slotMinor (x.slot j))
/-- A node with all 64 slots written out. -/
def FNode.full (x : FNode) : List (BitVec 14) := (List.range 64).map x.slot
def FNode.setSlot (x : FNode) (j : Nat) (sel : Bool) (minor : Nat) : FNode :=
  { x with slots := Machine.setAt x.full j ((if sel then 8192#14 else 0#14) + BitVec.ofNat 14 minor) }

/-- The 128 B of a node (R408). -/
def FNode.bits (x : FNode) : BitVec 1024 :=
  BitVec.ofNat 1024 (x.majA.toNat + x.majB.toNat * 2 ^ 64 + (x.full.zipIdx).foldl (fun a v => a + v.1.toNat * 2 ^ (128 + 14 * v.2)) 0)
def nodeOf (b : BitVec 1024) : FNode :=
  { majA := b.extractLsb' 0 64, majB := b.extractLsb' 64 64, slots := (List.range 64).map (fun j => b.extractLsb' (128 + 14 * j) 14) }

/-- Whether every slot with a non-zero MINOR selects major `X`. -/
def FNode.allOn (x : FNode) (X : Bool) : Bool := x.full.all (fun v => decide (slotMinor v = 0) || slotSel v == X)

end Sys2Proof

namespace Sys2Proof.Machine

open Sys2Proof

/-- The entry a write leaves, with slot `j` at its next version. A slot on the major being rolled away moves to the other with MINOR 1;
a MINOR that reaches 4,096 starts a rollover, or makes one due (R410, R411). -/
def ncBump (e : NcEnt) (j : Nat) (at_ : KTime) : NcEnt :=
  let v := e.node.slot j
  match e.roll with
  | some X =>
    if slotSel v = X then { e with node := e.node.setSlot j (!X) 1, dirty := true, dirtyAt := if e.dirty then e.dirtyAt else at_ }
    else
      let m := min (slotMinor v + 1) 8191
      { e with node := e.node.setSlot j (slotSel v) m, dirty := true, dirtyAt := if e.dirty then e.dirtyAt else at_, rollDue := e.rollDue || decide (m = 4096) }
  | none =>
    let m := min (slotMinor v + 1) 8191
    let nd := e.node.setSlot j (slotSel v) m
    if m = 4096 ∧ nd.allOn (slotSel v) then
      let top := BitVec.ofNat 64 (max nd.majA.toNat nd.majB.toNat + 1)
      let nd := if slotSel v then { nd with majA := top } else { nd with majB := top }
      { e with node := nd, dirty := true, dirtyAt := if e.dirty then e.dirtyAt else at_, roll := some (slotSel v) }
    else { e with node := nd, dirty := true, dirtyAt := if e.dirty then e.dirtyAt else at_ }

/-! ### The node cache of a shard -/

def ncIs (t pos k i : Nat) (e : NcEnt) : Bool := decide (e.tree = t) && decide (e.pos = pos) && decide (e.level = k) && decide (e.index = i)

def State.ncFind (s : State) (n t pos k i : Nat) : Option NcEnt := (s.home n).nc.find? (ncIs t pos k i)

/-- The Stipe entry of a tree, and a top version. -/
def State.stipeOf (s : State) (t : Nat) : StipeTree := tget {} s.prot.stipe t
def State.topVer (s : State) (t pos : Nat) : Nat := tget 0 (s.stipeOf t).vers pos

/-- A node's contents as shard `n` knows them: cached, or zero because its version has MINOR 0 (R409). `fuel` counts levels above. -/
def State.nodeVal (s : State) (D : ImgDomain) (h : ImgHome) (n pos : Nat) : Nat → Nat → Nat → Option FNode
  | 0, _, _ => none
  | fuel + 1, k, i =>
    match s.ncFind n h.tree pos k i with
    | some e => some e.node
    | none =>
      if treeT D h < k then none
      else if k = treeT D h then (if s.topVer h.tree pos = 0 then some {} else none)
      else match s.nodeVal D h n pos fuel (k + 1) (i / 64) with
        | some p => if slotMinor (p.slot (i % 64)) = 0 then some {} else none
        | none => none

/-- The version of node (k, i): from its parent, or from the Stipe for the top. -/
def State.nodeVer (s : State) (D : ImgDomain) (h : ImgHome) (n pos k i : Nat) : Option (BitVec 64 × Nat) :=
  if k = treeT D h then let v := s.topVer h.tree pos; some (BitVec.ofNat 64 (v / 8192), v % 8192)
  else (s.nodeVal D h n pos 8 (k + 1) (i / 64)).map (fun p => p.ver (i % 64))

/-- The version of a protected line, when its level-1 node is known. -/
def State.lineVer (s : State) (D : ImgDomain) (h : ImgHome) (n : Nat) (l : LineAddr) : Option (BitVec 64 × Nat) :=
  let u := lineU D h l
  (s.nodeVal D h n (D.hash l) 8 1 (u / 64)).map (fun p => p.ver (u % 64))

/-- Levels of a line's path that must be fetched: from level 1 up to the first that is known. -/
def State.absentLevels (s : State) (D : ImgDomain) (h : ImgHome) (n : Nat) (l : LineAddr) : List Nat :=
  let u := lineU D h l
  ((List.range (treeT D h)).map (· + 1)).takeWhile (fun k => (s.nodeVal D h n (D.hash l) 8 k (u / 64 ^ k)).isNone)

/-- Crown size of a shard's position (R415). -/
def State.crownSize (s : State) (d : Nat) (D : ImgDomain) : Nat :=
  sumL ((s.ihomes.filter (fun h => h.prot && decide (h.domain = d))).map (treeCrown D))

/-- Pool entries in use. -/
def ncPool (nc : List NcEnt) : List NcEnt := nc.filter (fun e => !e.crown && !e.slot)

/-- A clean unpinned pool entry, which replacement may take. -/
def ncIdle (y : NcEnt) : Bool := !y.crown && !y.slot && !y.dirty && decide (y.pins = 0)

/-- Put a node into the cache: a free entry, then the first clean unpinned one (R418), else a node slot of a transaction record (R416). -/
def State.ncPut (s : State) (d : Nat) (D : ImgDomain) (n : Nat) (e : NcEnt) : State :=
  s.modHome n (fun x =>
    if x.nc.any (ncIs e.tree e.pos e.level e.index) then { x with nc := modFirst (ncIs e.tree e.pos e.level e.index) (fun _ => e) x.nc }
    else if e.crown || e.slot || decide ((ncPool x.nc).length < 512 - s.crownSize d D) then { x with nc := x.nc ++ [e] }
    else if x.nc.any ncIdle then { x with nc := rmFirstP ncIdle x.nc ++ [e] }
    else { x with nc := x.nc ++ [{ e with slot := true }] })

/-- Offer the nodes of record slots to the pool: a free or clean unpinned entry takes one; a clean one that finds none goes (R416). -/
def State.ncOffer (s : State) (d : Nat) (D : ImgDomain) (n : Nat) : State :=
  ((s.home n).nc.filter (fun e => e.slot && decide (e.pins = 0))).foldl (fun s e =>
    let s' := s.modHome n (fun x => { x with nc := rmFirst e x.nc })
    let x := s'.home n
    if (ncPool x.nc).length < 512 - s.crownSize d D ∨ x.nc.any ncIdle = true then s'.ncPut d D n { e with slot := false }
    else if e.dirty then s else s') s

/-- The entry that a change needs: the cached one, or a fresh zero node. -/
def State.ncGet (s : State) (D : ImgDomain) (h : ImgHome) (n pos k i : Nat) : Option NcEnt :=
  match s.ncFind n h.tree pos k i with
  | some e => some e
  | none => (s.nodeVal D h n pos 8 k i).map (fun nd => { tree := h.tree, pos := pos, level := k, index := i, node := nd, crown := isCrown D h k })

/-- Raise a line's version in its level-1 node (R410). -/
def State.bumpLine (s : State) (d : Nat) (D : ImgDomain) (h : ImgHome) (n : Nat) (l : LineAddr) : State :=
  let u := lineU D h l
  match s.ncGet D h n (D.hash l) 1 (u / 64) with
  | some e =>
    let e' := ncBump e (u % 64) (s.kt d)
    let s := s.ncPut d D n e'
    if e.roll.isNone && e'.roll.isSome then s.bump (cHom n 27) else s
  | none => s

/-- A level-1 slot that returns to MINOR 0 (R427). -/
def State.zeroLine (s : State) (d : Nat) (D : ImgDomain) (h : ImgHome) (n : Nat) (l : LineAddr) : State :=
  let u := lineU D h l
  match s.ncGet D h n (D.hash l) 1 (u / 64) with
  | some e => s.ncPut d D n { e with node := e.node.setSlot (u % 64) (slotSel (e.node.slot (u % 64))) 0, dirty := true, dirtyAt := s.kt d }
  | none => s

/-- Raise a node's own version, in its parent or in the Stipe. -/
def State.bumpNode (s : State) (d : Nat) (D : ImgDomain) (h : ImgHome) (n pos k i : Nat) : State :=
  if k = treeT D h then
    { s with prot := { s.prot with stipe := tmod {} s.prot.stipe h.tree (fun x => { x with vers := tmod 0 x.vers pos (· + 1) }) } }
  else match s.ncGet D h n pos (k + 1) (i / 64) with
    | some e => s.ncPut d D n (ncBump e (i % 64) (s.kt d))
    | none => s

/-- The stored form of a node at its version: plain, with a MAC under the tree key (R409). -/
def sealNode (kt : BitVec 256) (l : LineAddr) (level : Nat) (v : BitVec 64 × Nat) (nd : FNode) : List (BitVec 80) :=
  sideWords nd.bits (macOf kt l v.1 (BitVec.ofNat 13 v.2) nd.bits level)

/-- Verify a node read from memory. -/
def openNode (kt : BitVec 256) (l : LineAddr) (level : Nat) (v : BitVec 64 × Nat) (cws : List (BitVec 80)) : Option FNode :=
  let (c, m, z) := fromSide cws
  if z && decide (m = macOf kt l v.1 (BitVec.ofNat 13 v.2) c level) then some (nodeOf c) else none

/-! ### Memory messages of a home -/

/-- A message from home shard `n` to memory port `p`. -/
def State.toMem (s : State) (D : ImgDomain) (n p : Nat) (m : Msg) : State :=
  let m := { m with sender := homeEp D.device n, answerTo := homeEp D.device n, requester := homeEp D.device n, destDev := D.device, nodl := decide (m.dl = 0) }
  let s := match m.op with
    | .memRd => s.bump (cHom n 6) | .memWr => s.bump (cHom n 9) | .memWrDur => s.bump (cHom n 10) | _ => s
  s.inject n (portNode p) (.port (portSlot p)) m

/-- The write of a node to memory (R410, R418): its version rises, its parent becomes dirty. -/
def State.writeNode (s : State) (d : Nat) (D : ImgDomain) (h : ImgHome) (n : Nat) (e : NcEnt) (durable : Bool) : State :=
  let s := s.bumpNode d D h n e.pos e.level e.index
  match s.nodeVer D h n e.pos e.level e.index with
  | none => s
  | some v =>
    let l := nodeLine D h e.pos e.level e.index
    let s := (s.ncPut d D n { e with dirty := false }).bump (cHom n 24)
    s.toMem D n h.port { op := if durable then .memWrDur else .memWr, line := l, cw := sealNode (s.stipeOf h.tree).kt l e.level v e.node }

/-! ### Lost nodes (R420 to R422) -/

/-- Whether a line is integrity-lost. -/
def lostHas (D : ImgDomain) (h : ImgHome) (l : LineAddr) (x : LostEnt) : Bool :=
  decide (x.tree = h.tree) && decide (x.level ≤ 6) && decide (x.pos = D.hash l) && decide (lineU D h l / 64 ^ x.level = x.index)

def State.lineLost (s : State) (D : ImgDomain) (h : ImgHome) (l : LineAddr) : Bool :=
  (tget none s.prot.lost (248 + h.tree)).isSome
  || s.prot.lost.any (fun e => decide (e.1 < 248) && (match e.2 with
      | some x => lostHas D h l x || (decide (x.level = 7) && decide (x.tree = h.tree) && decide (x.pos = D.hash l)) | none => false))

/-- Fill entry `e` of the table of losses. -/
def State.noteLost (s : State) (e : Nat) (x : LostEnt) : State := { s with prot := { s.prot with lost := tset none s.prot.lost e (some x) } }

/-- The line in which a node rests in memory; none for a whole tree. -/
def State.lostLine (s : State) (x : LostEnt) : LineAddr :=
  match s.treeHome x.tree with
  | some h => (match s.idom h.domain with | some D => if x.level < 7 then nodeLine D h x.pos x.level x.index else 0 | none => 0)
  | none => 0

/-- Record a loss: entries 0 to 247, or the whole tree when they are all in use; a record and window 12 (R421, R422). -/
def State.loseNode (s : State) (d n : Nat) (x : LostEnt) : State :=
  let e := match tfree s.prot.lost 248 with | some i => i | none => 248 + x.tree
  let v := if e < 248 then x else { tree := x.tree, pos := 0, level := 7, index := 0 }
  let s := s.noteLost e v
  let s := s.modHome n (fun y => { y with nc := rmFirstP (ncIs x.tree x.pos x.level x.index) y.nc })
  let s := s.bump (cHom n 26)
  let (s, trip) := s.winHit 12 (.frond x.tree)
  let s := s.raise { sev := 3, source := .frond, inst := x.tree, code := .nodeLost, domain := d, trip := trip, win := if trip then 12 else 255
                     addr := (s.lostLine v).setWidth 48, detail := BitVec.ofNat 64 x.index }
  if trip then s.fence (.frond x.tree) .fence (some 12) else s

/-- A line verification failure: a record, and window 12 (R403). -/
def State.macFail (s : State) (d n t : Nat) (l : LineAddr) : State :=
  let s := s.bump (cHom n 22)
  let (s, trip) := s.winHit 12 (.frond t)
  let s := s.raise { sev := 3, source := .frond, inst := t, code := .macFail, domain := d, trip := trip, win := if trip then 12 else 255, addr := l.setWidth 48 }
  if trip then s.fence (.frond t) .fence (some 12) else s

/-! ### Persistence (R413, R414) -/

/-- What identifies a tree's geometry. -/
def State.geomOf (s : State) (h : ImgHome) : List Nat :=
  match s.idom h.domain with
  | some D => [h.base, h.size, h.metaBase, D.nlog, D.seed.toNat]
  | none => []

/-- Read one absent node of a path for the flush (R410). What the memory device holds is outside the model: a free value (log entry 113). -/
def State.flushRead (s : State) (d : Nat) (D : ImgDomain) (h : ImgHome) (n pos k i : Nat) : State :=
  if (s.nodeVal D h n pos 8 k i).isSome
    || s.prot.lost.any (fun e => decide (e.2 = some { tree := h.tree, pos := pos, level := k, index := i })) then s
  else ((s.ncPut d D n { tree := h.tree, pos := pos, level := k, index := i, node := nodeOf (Config.freeLine s.free), crown := isCrown D h k }).drawn).bump (cHom n 23)

/-- Read the absent ancestors of a node, from the top down. -/
def State.flushPath (s : State) (d : Nat) (D : ImgDomain) (h : ImgHome) (n : Nat) (e : NcEnt) : State :=
  ((List.range (treeT D h)).reverse.filter (fun k => decide (e.level ≤ k))).foldl (fun s k =>
    s.flushRead d D h n e.pos (k + 1) (e.index / 64 ^ (k + 1 - e.level))) s

/-- Write back every dirty node of a tree in one shard, lowest level first; an absent parent is read first. -/
def State.flushNodes (s : State) (d : Nat) (D : ImgDomain) (h : ImgHome) (n : Nat) : State :=
  (List.range (treeT D h)).foldl (fun s k =>
    ((s.home n).nc.filter (fun e => e.dirty && decide (e.tree = h.tree) && decide (e.level = k + 1))).foldl (fun s e =>
      (s.flushPath d D h n e).writeNode d D h n e true) s) s

/-- Keys of SEAL that belong to a tree: the ACTIVE keys its ranges name (R475). -/
def State.sealedOf (s : State) (h : ImgHome) : List SealedKey :=
  match s.imgc.img with
  | none => []
  | some i => (List.range 64).filterMap (fun k =>
      if i.sealKeys.getLsbD k && decide ((s.key k).st = .active) && s.prot.rngAct.any (fun e => e.2.valid && decide (e.2.keyid.toNat = k)
          && decide (h.base ≤ 4096 * e.2.base.toNat) && decide (4096 * e.2.base.toNat < h.base + h.size * 1073741824))
      then some { id := k, kd := (s.key k).kd, km := (s.key k).km } else none)

/-- The Stipe record of a tree in MRAM. -/
def State.saveStipe (s : State) (h : ImgHome) : State :=
  let x := s.stipeOf h.tree
  let r : StipeRec := { tree := h.tree, geom := s.geomOf h, kt := x.kt, vers := x.vers, keys := s.sealedOf h }
  { s with mram := { s.mram with stipe := r :: s.mram.stipe.filter (fun y => decide (y.tree ≠ h.tree)) } }

/-- The flush of R413 over every PERSIST tree. With `durable` false some MEM_WR_DUR was not answered in time and MRAM keeps its old records. -/
def State.persistFlush (s : State) (durable : Bool) : State :=
  (s.ihomes.filter (fun h => h.prot && h.persist)).foldl (fun s h =>
    match s.idom h.domain with
    | none => s
    | some D =>
      let s := D.nodes.foldl (fun s n => s.flushNodes h.domain D h n) s
      if durable then s.saveStipe h else s) s

/-- Set a tree up (R414): resume, lost whole, or seed. Sealed keys return with a record that resumes. -/
def State.setupTree (s : State) (h : ImgHome) : State :=
  let g := s.geomOf h
  let kt := Config.draw s.free
  match if h.persist then s.mram.stipe.find? (fun r => decide (r.tree = h.tree) && decide (r.geom = g)) else none with
  | some r =>
    let s := { s with prot := { s.prot with
      stipe := tset {} s.prot.stipe h.tree { kt := r.kt, geom := g, vers := r.vers, setUp := true }
      lost := tdel s.prot.lost (248 + h.tree), stipeResumed := true } }
    r.keys.foldl (fun s k => s.modKey k.id (fun e => if e.st = .free then { e with st := .active, kd := k.kd, km := k.km } else e)) s
  | none =>
    let s := s.drawn
    { s with prot := { s.prot with
      stipe := tset {} s.prot.stipe h.tree { kt := kt, geom := g, vers := [], setUp := true }
      lost := if h.persist then tset none s.prot.lost (248 + h.tree) (some { tree := h.tree, pos := 0, level := 7, index := 0 }) else tdel s.prot.lost (248 + h.tree) } }

/-- Set up every tree of the image in force; losses of nodes recorded before end with the trees they were in. -/
def State.setupTrees (s : State) : State :=
  let s := { s with prot := { s.prot with lost := s.prot.lost.filter (fun e => decide (248 ≤ e.1)), stipe := [], stipeResumed := false } }
  (s.ihomes.filter (·.prot)).foldl (fun s h => s.setupTree h) s

end Sys2Proof.Machine
end

