-- ==== Sys2Proof/Machine/Load.lean ====
section
/-! DEFINITION. Putting an image in force (R488 steps 5 and 6, and the IMAGE start step), the commit edge (R392), keys (R397), and entry into Dormant. -/

namespace Sys2Proof.Machine

open Sys2Proof

/-! ### Initial way ownership (R103) -/

/-- Deal one float way: the next tenancy from position `k` of the list that has not reached its maximum. -/
def dealWay (ts : List (Nat × Nat)) (have_ : Nat → Nat) (k : Nat) : Option Nat :=
  ((List.range ts.length).map (fun i => (k + i) % ts.length)).find? (fun j => match ts[j]? with
    | some t => decide (have_ t.1 < t.2) | none => false)

/-- Deal the remaining ways round-robin. -/
def dealFloat (ts : List (Nat × Nat)) : Nat → Nat → List Nat → List Nat
  | 0, _, own => own
  | n + 1, k, own =>
    match dealWay ts (fun t => (own.filter (fun o => decide (o = t))).length) k with
    | some j => dealFloat ts n (j + 1) (own ++ [(ts.getD j (0, 0)).1])
    | none => dealFloat ts n k (own ++ [0])

/-- Owners of the ways, and how many of them are floor ways. -/
def initialWays (w : Nat) (ts : List (Nat × ImgTen)) : List Nat × Nat :=
  let fl := (ts.flatMap (fun t => List.replicate t.2.min t.1)).take w
  (if ts.isEmpty then List.replicate w 0 else dealFloat (ts.map (fun t => (t.1, t.2.max))) (w - fl.length) 0 fl, fl.length)

/-! ### Protection: commit edge and keys -/

/-- The commit edge (R392): the shadows become active, EPOCH advances, and EPOCH_DRAINED reads 0 while older requests are watched. -/
def State.commitEdge (s : State) : State :=
  let busy := (List.range 64).any (fun n => !(s.gate n).watch.isEmpty)
  { s with prot := { s.prot with
      permPrev := s.prot.permAct, permAct := s.prot.permShd, rngPrev := s.prot.rngAct, rngAct := s.prot.rngShd
      epoch := s.prot.epoch + 1, drained := !busy } }

/-- KEYGEN (R397): both keys drawn, ACTIVE, GEN up by one. -/
def State.keyGen (s : State) (k : Nat) : State :=
  let a := Config.draw s.free
  let b := Config.draw (s.free + 1)
  ((s.modKey k (fun e => { e with st := .active, kd := a, km := b, gen := e.gen + 1, fenced := false })).drawn.drawn).bump (cGlb 27)

/-- Generate every FREE key that KEYGEN of the image names. -/
def State.keyGenAll (s : State) (i : Thallus) : State :=
  (List.range 64).foldl (fun s k => if k ≠ 0 ∧ i.keygen.getLsbD k = true ∧ (s.key k).st = .free then s.keyGen k else s) s

/-! ### The image in force -/

/-- A slice of the new structure: cleared, with the image's distance and way owners, in epoch `ep`; spares and RW fields stay (R127, R128, R440, R463). -/
def newSlice (D : ImgDomain) (own : List Nat) (fl ep : Nat) (old : Slice) : Slice :=
  { lastEpoch := ep, dist := D.dist, wayOwn := own, floor := BitVec.ofNat 16 (2 ^ fl - 1), spares := old.spares, lstestOk := old.lstestOk, lstestDone := old.lstestDone
    umonSel := old.umonSel }

/-- Reset every node's units (R488 step 5); RW fields stay as software last wrote them (R463). -/
def State.clearNodes (s : State) : State :=
  { s with
    slices := tabOf {} (s.slices.map (fun e => (e.1, ({ spares := e.2.spares, lstestOk := e.2.lstestOk, lstestDone := e.2.lstestDone, umonSel := e.2.umonSel } : Slice))))
    homes := [], gates := [], sphMax := []
    routers := tabOf {} (s.routers.map (fun e => (e.1, ({ ejSel := e.2.ejSel } : Router))))
    pools := tabOf {} (s.pools.map (fun e => (e.1, ({ qsel := e.2.qsel, cmdq := e.2.cmdq } : Pool))))
    spore := { s.spore with ents := [] }
    prot := { s.prot with permAct := [], permPrev := [], permShd := [], rngAct := [], rngPrev := [], rngShd := [], closed := [], jobs := [], drained := true } }

/-- A domain of the new structure: its Karik time goes on, at nominal rate when it has no PEER port (R39). -/
def newDomain (peers : Bool) (old : Domain) : Domain :=
  { ktime := old.ktime, rateOfs := if peers then old.rateOfs else 0, running := true, calStart := slotOf old.ktime, lastSlot := slotOf old.ktime }

/-- A port of the new structure: one whose role is not OFF polls DETECT. -/
def newPort (P : ImgPort) (fenced : Bool) (now : Nat) (old : Port) : Port :=
  let dark : Bool := decide (P.role = .off) || fenced
  { state := if dark then .off else .detect, train := if dark then .idle else .detect, detAt := now, eqPass := old.eqPass
    authFail := old.authFail, dead := old.dead, retrained := old.retrained, force := old.force }

/-- Load the structure of an image: domains, slices, tenancies, ports. -/
def State.loadStructure (s : State) (i : Thallus) (slot : SlotName) : State :=
  let s := { s with imgc := { s.imgc with img := some i, inForce := slot, routeOvr := none, routeDigest := 0 } }
  let ds : List (Nat × Domain) := List.map (fun (e : Nat × ImgDomain) => (e.1, newDomain (i.ports.any (fun p => decide (p.2.role = .peer) && e.2.has (portNode p.1))) (s.dom e.1))) i.doms
  let ms : List (Nat × Nat) := List.map (fun (t : Nat × ImgTen) => (t.1, t.2.max)) i.tens
  let ps : List (Nat × Port) := List.map (fun (e : Nat × ImgPort) => (e.1, newPort e.2 (decide (e.1 ∈ s.flt.fport)) s.clk.aclk (s.port e.1))) i.ports
  let s := { s with doms := tabOf {} ds, sphMax := tabOf 0 ms, ports := tabOf {} ps }
  i.doms.foldl (fun s e =>
    let (own, fl) := initialWays e.2.ways (i.tens.filter (fun t => decide (t.2.domain = e.1)))
    e.2.nodes.foldl (fun s n => s.modSlice n (newSlice e.2 own fl (s.kt e.1 / ns 1000000))) s) s

/-- The PROTECT entries, written to the shadows and committed by the Medulla, after sealed keys and KEYGEN. -/
def State.loadProtect (s : State) (i : Thallus) : State :=
  let s := s.setupTrees.keyGenAll i
  let s := { s with prot := { s.prot with permShd := i.perms, rngShd := i.rngs } }
  let s := s.commitEdge
  { s with prot := { s.prot with owner := .none, permPrev := [], rngPrev := [] } }

/-- Fences that stand meet the new structure (R489): spreads take effect at once; a domain left as R454 describes starts stopped. -/
def State.loadFences (s : State) : State :=
  s.imgDoms.foldl (fun s e =>
    let (d, D) := e
    if stopsDomain D s.flt then s.stopDomain d D
    else
      let s := s.writeSpread d D
      s.modDom d (fun x => { x with
        sliceSpread := (List.range (2 ^ D.nlog)).filter (fun h => decide (D.node h ∈ s.flt.fslc))
        homeSpread := (List.range (2 ^ D.nlog)).filter (fun h => decide (D.node h ∈ s.flt.fhom))
        detour := s.flt.frtr.any D.has })) s

/-- Put an image in force. -/
def State.loadImage (s : State) (i : Thallus) (slot : SlotName) : State :=
  ((s.clearNodes.loadStructure i slot).loadProtect i).loadFences

/-! ### Slots -/

def slotOfB (b : Bool) : SlotName := if b then .b else .a
def State.slotBytes (s : State) (x : SlotName) : List Byte := match x with | .a => s.flash.imgA | .b => s.flash.imgB | .none => []
def State.slotState (s : State) (x : SlotName) : SlotState := match x with | .a => s.flash.stA | .b => s.flash.stB | .none => .empty
def State.setSlot (s : State) (x : SlotName) (st : SlotState) (bs : List Byte) : State :=
  match x with
  | .a => { s with flash := { s.flash with stA := st, imgA := bs } }
  | .b => { s with flash := { s.flash with stB := st, imgB := bs } }
  | .none => s

/-- Whether the image in force is the trial (R486, IMG_STATUS.TRIAL_RUN). -/
def State.trialRun (s : State) : Bool := s.imgc.inForce ≠ .none && decide (s.mram.trial = s.imgc.inForce)

/-- Check the image a slot holds. -/
def State.checkSlot (s : State) (x : SlotName) : Except ImgBad Thallus := checkImage (s.imgEnv none false) (s.slotBytes x)

/-! ### Dormant (R513, R522) -/

/-- Always-on counters: global 0 to 16 and 67 to 95 (R574). -/
def alwaysOnCnt (k : Nat) : Bool := (decide (cGlb 0 ≤ k) && decide (k ≤ cGlb 16)) || (decide (cGlb 67 ≤ k) && decide (k ≤ cGlb 95))

/-- Everything outside the always-on domain, MRAM and flash returns to its reset value; the lanes that last passed EQ are remembered (R499). -/
def State.lostPower (s : State) : State :=
  { State.reset with
    pwr := { s.pwr with faultOut := false, rails := false, refselS := s.pwr.refselS }
    pmb := s.pmb, mram := s.mram, flash := s.flash
    clk := { fclk := s.clk.fclk, aclk := s.clk.aclk, aclkInternal := s.clk.aclkInternal }
    cnt := s.cnt.filter (fun e => alwaysOnCnt e.1)
    ports := tabOf {} (s.ports.map (fun e => (e.1, ({ eqPass := e.2.eqPass } : Port))))
    start := { mode := s.start.mode, firmDone := s.start.firmDone }
    host := { inReset := true }
    out := s.out, free := s.free, pending := s.pending }

/-- Memory writes and write-backs that wait at their shards leave on their ports: the flush runs to its end before power goes. -/
def State.shipWrites (s : State) (only : Op → Bool) : State :=
  (List.range 64).foldl (fun s n =>
    let go (u : FUnit) : Bool := only u.msg.op && (match u.sink with | .port k => decide (k < 4) | _ => false)
    let us := (s.qOf n 88).filter go
    let s := us.foldl (fun s u => match u.sink with | .port k => s.emit (.msg (4 * u.dst + k) u.msg) | _ => s) s
    s.modPool n (fun p => { p with q := tmod [] p.q 88 (fun l => l.filter (fun u => !go u)) })) s

/-- The flush of R413, then Dormant with a POWER entry. `ev` is 1 for PFW_N, 2 for RESET_N. -/
def State.toDormant (s : State) (ev : Nat) (cause : Nat) (flushUs : Nat) (durable : Bool) (off : LastOff) : State :=
  let rising : Bool := s.start.mode = .rising
  let s := if rising then s else ((s.persistFlush durable).shipWrites (fun o => o = .memWrDur)).setMode .dormant cause
  let s := if rising then { s with start := { s.start with mode := .dormant } }.bump (cGlb 16) else s
  let s := { s with start := { s.start with firmDone := false } }
  let s := s.lostPower
  let s := s.peat 0x09 (bodyOf ([ev, if durable then 0 else 1] ++ leBytes 4 flushUs))
  { s with pwr := { s.pwr with lastOff := off } }

end Sys2Proof.Machine
end

