-- ==== Sys2Proof/Machine/Capsule.lean ====
section
/-! DEFINITION. Counter snapshots and tenancy pages: the Capsule reader, its rings and its controller writer (R575, R578 to R585, R591). -/

namespace Sys2Proof.Machine

open Sys2Proof

/-- First counter and number of counters of each group, in the order of R577. -/
def capGroups : List (Nat × Nat) :=
  [(0x200, 256), (0x400, 4096), (0x1400, 4096), (0x2400, 2048), (0x2C00, 2048), (0x3400, 1024), (0x4000, 16384)]

/-- Counters of group `k`: the pages of the tenancies are group 7. -/
def groupKeys (k : Nat) : List Nat :=
  if k = 7 then (List.range 16).flatMap (fun t => (List.range 32).map (cPage t)) else
    let g := capGroups.getD k (0, 0)
    (List.range g.2).map (g.1 + ·)

/-- Is a counter in group `k`? -/
def inGroup (k key : Nat) : Bool :=
  if k = 7 then decide (0x8020 ≤ key) && decide (key < 0x8020 + 0x200 * 16) else
    let g := capGroups.getD k (0, 0)
    decide (g.1 ≤ key) && decide (key < g.1 + g.2)

def capGroupsOf (c : Cap) : List Nat := (List.range 8).filter (fun k => c.ctl.getLsbD (16 + k))
def capDest (c : Cap) : Bool := c.ctl.getLsbD 0
def capKdom (c : Cap) : Nat := (c.ctl.extractLsb' 8 4).toNat
def capCdom (c : Cap) : Nat := (c.ctl.extractLsb' 12 4).toNat
def capEvery (c : Cap) : Nat := (c.ctl.extractLsb' 24 8).toNat
/-- Snapshot length and slot stride in bytes (R583). -/
def capLen (c : Cap) : Nat := 64 + 8 * sumL ((capGroupsOf c).map (fun k => if k = 7 then 512 else (capGroups.getD k (0, 0)).2))
def capStride (c : Cap) : Nat := ceilDiv (capLen c) 4096 * 4096

/-- Counter words of the running snapshot. -/
def capBody (c : Cap) : List Byte := (capGroupsOf c).flatMap (fun k => (groupKeys k).flatMap (fun i => bytesLe 8 (tget 0 c.shadow i)))

/-- The header (R583). -/
def capHeader (c : Cap) (h : CapHdr) : List Byte :=
  let b := bytesLe 4 0x53504143 ++ bytesLe 2 1 ++ bytesLe 1 (c.ctl.extractLsb' 16 8).toNat ++ bytesLe 1 (capKdom c) ++ bytesLe 8 (c.seq + 1)
    ++ bytesLe 8 h.ktime ++ bytesLe 8 h.dtime ++ bytesLe 4 (capLen c) ++ bytesLe 4 h.skipped ++ bytesLe 2 h.epoch.toNat ++ bytesLe 1 (modeCode h.mode)
    ++ List.replicate 17 0
  b ++ bytesLe 4 (crc32 b).toNat

def State.modCap (s : State) (f : Cap → Cap) : State := { s with cap := f s.cap }

/-- The time that paces latches, in ns: Karik time of KDOM, else device time. -/
def State.capTime (s : State) : Nat := if (s.idom (capKdom s.cap)).isSome then s.ktNs (capKdom s.cap) else s.devNs

/-! ### The controller writer (R582) -/

/-- Byte offset of the running snapshot's slot. -/
def capSlotAt (c : Cap) : Nat := c.head * capStride c

/-- Lines of a snapshot, the header's own line being line 0. -/
def capLines (c : Cap) : Nat := ceilDiv (capLen c) 128

/-- A line's data from bytes. -/
def lineOfBytes (bs : List Byte) : BitVec 1024 := BitVec.ofNat 1024 (leNat (bs.take 128))

/-- Write `j` of a snapshot: its line and payload; the last write is the header. -/
def capWrite (c : Cap) (h : CapHdr) (j : Nat) : Msg :=
  let n := capLines c
  let l0 := (c.base.toNat + capSlotAt c) / 128
  if j < n then
    let bs := (List.replicate 64 0 ++ capBody c).drop (128 * j)
    let k := min 128 (capLen c - 128 * j)
    let m : BitVec 128 := BitVec.ofNat 128 (2 ^ k - 1)
    { op := .wr, line := BitVec.ofNat 45 (l0 + j), cls := 2, data := { bits := lineOfBytes bs }
      mask := if j = 0 then m &&& ~~~ (BitVec.ofNat 128 (2 ^ 64 - 1)) else m }
  else { op := .wr, line := BitVec.ofNat 45 l0, cls := 2, data := { bits := lineOfBytes (capHeader c h) }, mask := BitVec.ofNat 128 (2 ^ 64 - 1) }

/-- The first write: a snapshot without counters has no body. -/
def capFirst (c : Cap) : Nat := if capLen c ≤ 64 then capLines c else 0

/-- Hand the current write to the Gate of the Capsule node. -/
def State.writerSend (s : State) : State :=
  match s.cap.hdr with
  | some h => if s.cap.wnext ≤ capLines s.cap then s.request (256 + capCdom s.cap) (capWrite s.cap h s.cap.wnext) else s
  | none => s

/-- What the controller writer does with an answer. -/
def State.writerGot (s : State) (m : Msg) : State :=
  if !s.cap.dumping then s
  else match m.op with
    | .retry => s.modCap (fun c => { c with retryAt := some m.retryAt })
    | .err => s.modCap (fun c => { c with werr := some m.err })
    | _ => (s.modCap (fun c => { c with wnext := c.wnext + 1 })).writerSend

/-! ### Latches (R578 to R580) -/

/-- Take a latch. -/
def State.latch (s : State) : State :=
  let s := s.bump (cGlb 100)
  let c := s.cap
  let gs := capGroupsOf c
  let h : CapHdr := { ktime := s.capTime, dtime := s.devNs, epoch := s.prot.epoch, mode := s.start.mode, skipped := c.skipped, snap := c.snapBusy }
  let s := s.modCap (fun c => { c with
    dumping := true, snapWait := false, skipped := 0, hdr := some h, wnext := capFirst c, retryAt := none, werr := none
    shadow := s.cnt.filter (fun e => gs.any (fun k => inGroup k e.1)) })
  if capDest c then s.writerSend else s

/-- A waiting SNAP latches on the first edge on which a dump may start. -/
def State.snapNext (s : State) : State := if s.cap.snapWait && s.cap.armed && !s.cap.dumping then s.latch else s

/-- A dump ends: DISARM takes effect, and a waiting SNAP latches. -/
def State.dumpOver (s : State) : State :=
  (s.modCap (fun c => { c with dumping := false, hdr := none, shadow := [], armed := c.armed && !c.disarming, disarming := false })).snapNext

/-- A DMA error ends the dump: ARMED is cleared and DMAERR set (R581). -/
def State.dumpDmaErr (s : State) : State :=
  if s.cap.dumping && !capDest s.cap then
    (((s.modCap (fun c => { c with armed := false, disarming := false, dmaErr := true })).bump (cGlb 102)).irq 0 18).dumpOver
  else s

/-- A header has been written. -/
def State.headerOut (s : State) : State :=
  let snap : Bool := match s.cap.hdr with | some h => h.snap | none => false
  let s := s.modCap (fun c => { c with seq := c.seq + 1, head := if c.slots = 0 then 0 else (c.head + 1) % c.slots, snapBusy := c.snapBusy && !snap })
  let s := if capEvery s.cap ≠ 0 ∧ s.cap.seq % capEvery s.cap = 0 then s.irq 0 16 else s
  s.dumpOver

/-! ### Commands -/

/-- ARM: STATUS 0 OK, 1 LENGTH, 2 ALIGN, 3 NODOMAIN. -/
def State.doArm (s : State) : State :=
  let c := s.cap
  let st := if c.slots = 0 then 1 else if c.base.toNat % 4096 ≠ 0 then 2
    else if capDest c ∧ (s.idom (capCdom c)).isNone then 3 else 0
  let s := s.modCap (fun c => { c with status := st })
  if st = 0 then
    (s.modCap (fun c => { c with armed := true, disarming := false, seq := 0, head := 0, skipped := 0
                                 lastEdge := if c.period = 0 then 0 else s.capTime / (1000 * c.period.toNat) })).snapNext
  else s
def execArm (s : State) : Ans := .next s.doArm

/-- DISARM. -/
def State.doDisarm (s : State) : State :=
  s.modCap (fun c => if c.dumping then { c with disarming := true } else { c with armed := false })
def execDisarm (s : State) : Ans := .next s.doDisarm

/-- SNAP. -/
def State.doSnap (s : State) : State :=
  if s.cap.snapWait then s
  else (s.modCap (fun c => { c with snapBusy := true, snapWait := true })).snapNext
def execSnap (s : State) : Ans := .next s.doSnap

/-- ZERO: every counter outside the always-on domain reads the increment of that edge. -/
def State.doZero (s : State) (incs : List (Nat × Nat)) : State :=
  let s := { s with cnt := s.cnt.filter (fun e => alwaysOnCnt e.1) }
  incs.foldl (fun s i => if alwaysOnCnt i.1 then s else s.bumpN i.1 (i.2 % 4096)) s
def execZero (incs : List (Nat × Nat)) (s : State) : Ans := .next (s.doZero incs)

/-- CAPSULE_LATCH: the periodic edge. Between edges nothing happens. -/
def execCapsuleLatch (s : State) : Ans :=
  .next (
    let c := s.cap
    if !c.armed || c.disarming || decide (c.period = 0) then s
    else
      let k := s.capTime / (1000 * c.period.toNat)
      if k ≤ c.lastEdge then s
      else
        let s := s.modCap (fun c => { c with lastEdge := k })
        if c.dumping then ((s.modCap (fun c => { c with skipped := c.skipped + 1 })).bump (cGlb 101)).irq 0 17
        else s.latch)

/-- DUMP_END. -/
def execDumpEnd (x : DumpResult) (s : State) : Ans :=
  .next (
    let c := s.cap
    if !c.dumping then s
    else match x, c.hdr with
      | .done, some h =>
        if capDest c then (if capLines c < c.wnext then s.headerOut else s)
        else if !s.dmaOk then s.dumpDmaErr
        else
          let at_ := c.base + BitVec.ofNat 64 (capSlotAt c)
          ((s.emit (.dma (at_ + 64) (capBody c))).emit (.dma at_ (capHeader c h))).headerOut
      | .dmaError, _ => s.dumpDmaErr
      | .errResponse e, _ =>
        if capDest c && decide (c.werr = some e) then
          (((s.modCap (fun c => { c with errcode := errNum e, skipped := c.skipped + (match c.hdr with | some h => h.skipped | none => 0) })).bump (cGlb 102)).irq 0 18).dumpOver
        else s
      | _, none => s)

/-- RETRY_RESEND. -/
def execRetryResend (d : Nat) (s : State) : Ans :=
  .next (match s.cap.retryAt with
    | some t =>
      if s.cap.dumping && capDest s.cap && decide (capCdom s.cap = d) && decide (t ≤ s.kt d) then (s.modCap (fun c => { c with retryAt := none })).writerSend
      else s
    | none => s)

/-- ZERO of a tenancy page. -/
def State.pageZero (s : State) (t : Nat) (incs : List (Nat × Nat)) : State :=
  let s := { s with cnt := s.cnt.filter (fun e => !(decide (cPage t 0 ≤ e.1) && decide (e.1 < cPage t 32))) }
  incs.foldl (fun s i => if i.1 < 32 then s.pageN t i.1 (i.2 % 4096) else s) s

/-- Log in CAP_ACCERR. -/
def State.capDenied (s : State) (who : Requester) (wr : Bool) (off : Nat) : State := s.logAcc 0x1000000 who .denied wr off (0x1000000 + off)

/-- PAGE_ZERO: PF0 always; a VF through BAR2 under MAP and ZEROOK (R591); anyone else is refused (R549). -/
def execPageZero (who : Requester) (t : Nat) (incs : List (Nat × Nat)) (s : State) : Ans :=
  .next (
    let off := 0x40000 + 0x1000 * t + 8
    match who with
    | .pf0 => if t < 16 then s.pageZero t incs else s
    | .vf k => if k = t + 1 ∧ t < 16 ∧ (s.tpage t).map ∧ (s.tpage t).zeroOk then s.pageZero t incs else s.capDenied who true off
    | .window d =>
      (match s.iten t with
        | some x => if x.domain = d then s.pageZero t incs else s.capDenied who true off
        | none => s.capDenied who true off)
    | .medulla => if t < 16 then s.pageZero t incs else s)

end Sys2Proof.Machine
end

