-- ==== Sys2Proof/Machine/Egress.lean ====
section
/-! DEFINITION. Port egress, the deadline watch, tail entries and completion barriers (R194, R274, R276 to R281, R297 to R307). -/

namespace Sys2Proof.Machine

open Sys2Proof

/-! ### Completions and their watch entries -/

/-- Is a message a completion of its requester's transaction (R276)? -/
def completes (m : Msg) : Bool := m.op = .data || m.op = .grant || m.op = .cmp || m.op = .dur || m.op = .err

/-- A completion in two units: an early half, or a grant beside forwarded data (R150, R210). -/
def inTwo (w : Watch) (m : Msg) : Bool :=
  m.half.isSome || ((w.op = .rdOwn || w.op = .ownUpg) && ((m.op = .data && m.fwd) || (m.op = .grant && !m.nodata)))

/-- The Gate of a port, or of the controller writer. -/
def State.gateOf (s : State) (p : Nat) : Nat := if p < 256 then portNode p else match s.idom (p - 256) with | some D => D.capsule | none => 0

/-- Is a completion for the access of a watch entry, by requester and line; and by its deadline, which it carries? -/
def forWatch (m : Msg) (w : Watch) : Bool := decide (w.req = m.requester) && decide (w.line = m.line)
def forExactly (m : Msg) (w : Watch) : Bool :=
  forWatch m w && !m.nodl && (decide (m.dl = w.dl) || decide (m.dl = w.hitDl) || decide (m.dl = w.nearDl))

/-- The watch entry, with its Gate, that a completion on port `p` is for: of the accesses of its requester to its line, the one whose deadline it carries,
else one that no completion has reached yet. The entry of a carried request, or of a near group's other port, may be at another Gate. The answer of a Gate
to a request that it did not admit is for none. -/
def State.watchFor (s : State) (p : Nat) (m : Msg) : Option (Nat × Watch) :=
  if m.refused then none
  else
    let g := s.gateOf p
    let near := (s.gate g).watch.map (fun w => (g, w))
    let far := ((List.range 64).filter (fun n => decide (n ≠ g))).flatMap (fun n => (s.gate n).watch.map (fun w => (n, w)))
    let all := near ++ far
    (all.find? (fun e => forExactly m e.2 && !e.2.queued)).or ((all.find? (fun e => forExactly m e.2)).or
      ((all.find? (fun e => forWatch m e.2 && !e.2.queued)).or (all.find? (fun e => forWatch m e.2))))

/-- Change the watch entry `w` of Gate `g`. -/
def State.modWatch (s : State) (g : Nat) (w : Watch) (f : Watch → Watch) : State :=
  s.modGate g (fun G => { G with watch := modFirst (watchIs w) f G.watch })

/-! ### Timeouts (R277 to R281, R301) -/

/-- The partner that an access's work waits for (R306): the first of those it waits on. -/
def State.waitedFor (s : State) (w : Watch) : Agent :=
  match s.idom w.dom with
  | some D => (match (s.waitPorts w.dom D w.slice w.home w.peer w.pport w.line).head? with | some p => (s.port p).pagent | none => 0)
  | none => 0

/-- The breach under way that explains a TIMEOUT, and its partner: an answer or read that is overdue when the watch fires (R280, R281). -/
def State.explain (s : State) (w : Watch) : VoidCause × Agent :=
  let now := s.kt w.dom
  let agentOf (p : Option Nat) : Agent := match p with | some p => (s.port p).pagent | none => 0
  let x := s.slice w.slice
  let nearBy : Option (VoidCause × Agent) :=
    match (tfind x.mshrs (fun m => decide (m.line = w.line))).bind (fun e => e.2.near) with
    | some nm => (match nm.pend with
        | g :: _ => if nm.snpAt ≠ 0 ∧ nm.snpAt + ns 60 < now then some (.near, agentOf (s.linePort w.dom g w.line)) else none
        | [] => none)
    | none => none
  let dev : Nat := match s.idom w.dom with | some D => D.device.toNat | none => 512
  let homeBy : Option (VoidCause × Agent) :=
    match w.home.bind (fun h => s.txOf h w.line) with
    | none => none
    | some t =>
      if t.mem = .handed ∧ t.memAt + ns 110 < now then some (.memory, (s.port t.port).pagent)
      else if t.durDue ∧ t.memAt + ns (s.iport t.port).durable < now then some (.durable, (s.port t.port).pagent)
      else if (t.near ≠ 0 ∨ dev ∈ t.pend) ∧ t.snpAt ≠ 0 ∧ t.snpAt + ns 60 < now then
        some (.near, agentOf ((x.fwdSnoops.find? (fun f => decide (f.1.line = w.line))).bind (fun f => s.linePort w.dom f.2.1 w.line)))
      else match t.pend.find? (fun v => decide (v ≠ dev)) with
        | some v => some (.peer, agentOf (s.peerPort w.dom (BitVec.ofNat 9 v) w.line))
        | none => none
  let peerBy : Option (VoidCause × Agent) :=
    if w.peer.isSome && (w.carried || x.mshrs.any (fun e => match e.2 with
        | some m => decide (m.line = w.line) && m.near.isNone && decide (m.st = .sent) | none => false)) then some (.peer, agentOf w.pport) else none
  (nearBy <|> homeBy <|> peerBy).getD (.none, 0)

/-- Void an entry with the cause that explains its TIMEOUT; the breach itself is counted when the late message arrives (R282). -/
def State.explained (s : State) (g : Nat) (w : Watch) : State :=
  if w.voided.isSome then s
  else
    let c := s.explain w
    if c.1 = .none then s else s.voidWatch g w c.1 c.2

/-- Does the work of an access still go on: does its request wait at the Gate, in the fabric or at its slice, does the slice hold an entry for its line;
of a carried access, does the home of this device hold it, or has another device not answered it? -/
def State.hasWork (s : State) (D : ImgDomain) (slice : Nat) (home : Option Nat) (l : LineAddr) (req : Endpoint) : Bool :=
  let mine (u : FUnit) : Bool := decide (u.msg.line = l) && decide (u.msg.requester = req) && decide (vnOf u.msg.op = .req)
  let x := s.slice slice
  D.nodes.any (fun k => (s.pool k).q.any (fun e => e.2.any mine) || (s.router k).inq.any (fun e => e.2.any mine) || (s.router k).turn.any (fun e => e.2.any mine))
    || (if slice < 64 then
          x.reissue.any (fun m => decide (m.line = l) && decide (m.requester = req))
            || x.mshrs.any (fun e => match e.2 with | some m => decide (m.line = l) | none => false)
            || x.wbuf.any (fun e => match e.2 with | some b => decide (b.line = l) | none => false)
        else match home with
          | some h => (s.home h).txs.any (fun t => decide (t.line = l) && decide (t.msg.requester = req))
              || (s.home h).lineq.any (fun q => q.2.any (fun m => decide (m.1.line = l) && decide (m.1.requester = req)))
          | none => true)

/-- A deadline is missed without a void cause: a promise miss (R281). -/
def State.missed (s : State) (g : Nat) (w : Watch) : State :=
  let s := s.modGate g (fun G => { G with missSeen := true, lastVoid := .promiseMiss, lastAgent := 0 })
  let (s, trip) := s.winHit 13 (.domain w.dom)
  (s.bump (cGate g 18)).raise {
    sev := 5, source := .gate, inst := g, code := .promiseMiss, trip := trip, win := if trip then 13 else 255, domain := w.dom, addr := w.line.setWidth 48
    agent := w.agent }

/-- Does the work of an access go on in a slice or home shard? -/
def State.worksOn (s : State) (w : Watch) : Bool := match s.idom w.dom with | some D => s.hasWork D w.slice w.home w.line w.req | none => false

/-- TIMEOUT is queued for an entry whose causes are known: a tail entry follows its work while it goes on, and without a void cause it is a promise miss. A write
whose work would go on with no tail entry free is counted lost at once. -/
def State.timeOut (s : State) (g : Nat) (w : Watch) : State :=
  let work := s.worksOn w
  let room : Bool := decide ((s.gate g).tails.length < 1024)
  let lost : Bool := work && !room && isWrite w.op
  let s := s.modWatch g w (fun x => { x with queued := true, timeout := true, lost := if lost then some (s.waitedFor w) else none })
  let t : Tail := {
    port := w.port, agent := w.agent, line := w.line, write := isWrite w.op, dl := w.dl, req := w.req, ingress := w.ingress, slice := w.slice, home := w.home
    peer := w.peer, pport := w.pport, partner := s.waitedFor w }
  let s := if work && room then (s.modGate g (fun G => { G with tails := G.tails ++ [t] })).bump (cGate g 28) else s
  let s := if lost then s.bump (cGate g 27) else s
  let s := (s.bump (cGate g 16)).tracePath w.dom w.line 6
  if w.voided.isSome then s else s.missed g w

/-- TIMEOUT is queued for an entry, after the void causes that explain it have been found. -/
def State.timedOut (s : State) (g : Nat) (w : Watch) : State :=
  let s := s.explained g w
  s.timeOut g (if w.voided.isNone && decide ((s.explain w).1 ≠ .none) then { w with voided := some (s.explain w).1 } else w)

/-- WATCH_TIMEOUT: the deadline less 29 FCLK is reached without a queued completion. -/
def execWatchTimeout (g i : Nat) (s : State) : Ans :=
  .next (match (s.gate g).watch[i]? with
    | some w =>
      if !w.queued && decide (w.dl ≤ s.kt w.dom + fclks 29) then ((s.timedOut g w).gateAnswer w.port (errWatch w .timeout)) else s
    | none => s)

/-- TAIL_EXPIRE: 20 µs past the deadline; a write is lost, against the partner that its work still waits for (R306). -/
def execTailExpire (g i : Nat) (s : State) : Ans :=
  .next (match (s.gate g).tails[i]?, s.nodeDom g with
    | some t, some (d, D) =>
      if t.dl + ns 20000 ≤ s.kt d then
        let now : Agent := match (s.tailWaits t d D).head? with | some p => (s.port p).pagent | none => t.partner
        let t' : Tail := { t with partner := now }
        ((s.modGate g (fun G => { G with tails := modFirst (fun x => decide (x = t)) (fun _ => t') G.tails })).bump (cGate g 29)).freeTail g t' t.write
      else s
    | _, _ => s)

/-- Tail entries of line `l` at slice `n`, or at home `h`, whose work has ended at its ordering point are freed (R301). One whose work an isolation ended waits
for the end of that isolation. -/
def State.workEnd (s : State) (n : Nat) (l : LineAddr) : State :=
  (List.range 64).foldl (fun s g =>
    ((s.gate g).tails.filter (fun t => (decide (t.slice = n) || decide (t.home = some n)) && decide (t.line = l) && t.isol.isNone)).foldl (fun s t =>
      let busy : Bool := match s.nodeDom g with | some (_, D) => s.hasWork D t.slice t.home t.line t.req | none => false
      if busy then s else s.freeTail g t false) s) s

/-! ### Egress queues -/

/-- The egress queue of a message on a port. -/
def egressQ (p : Nat) (m : Msg) : Nat := 20 + 5 * portSlot p + vnNum (vnOf m.op)

/-- The egress queues of a port. -/
def egressQs (p : Nat) : List Nat := (List.range 5).map (fun v => 20 + 5 * portSlot p + v)

/-- The units that wait at a port, in the order in which they came. -/
def State.egressUnits (s : State) (p : Nat) : List FUnit :=
  let us := (egressQs p).flatMap (fun q => s.qOf (portNode p) q)
  us.foldl (fun l u => l.takeWhile (fun x => decide (x.ord ≤ u.ord)) ++ [u] ++ l.dropWhile (fun x => decide (x.ord ≤ u.ord))) []

/-- May unit `u` leave port `p` before the units `us` that wait there? No message overtakes one of its line (R274, R224); a snoop waits behind every answer and
all data that its slice sent earlier to the port, and behind the data that its slice still reads for it (R194). -/
def State.leaves (s : State) (p : Nat) (us : List FUnit) (u : FUnit) : Bool :=
  s.sendable p u.msg
    && us.all (fun x => decide (u.ord ≤ x.ord) || (decide (x.msg.line ≠ u.msg.line)
          && !(decide (vnOf u.msg.op = .snp) && decide (x.src = u.src) && (decide (vnOf x.msg.op = .rsp) || decide (vnOf x.msg.op = .dat)))))

/-- The unit that port `p` serves next (R273): of those that may leave, the one with the earliest deadline; of equals, the one that came first. -/
def State.nextOut (s : State) (p : Nat) : Option FUnit :=
  let d := match s.portDom p with | some x => x.1 | none => 0
  let us := s.egressUnits p
  (us.filter (s.leaves p us)).foldl (fun b u => match b with
    | some x => if s.dlKey d u.msg < s.dlKey d x.msg then some u else some x
    | none => some u) none

/-- A MEM_RD leaves the memory port: the contract time starts (R197, R280). -/
def State.memHanded (s : State) (m : Msg) : State :=
  let n := epNode m.sender
  let d := match s.nodeDom n with | some e => e.1 | none => 0
  (s.stamp d m.line none 7).modHome n (fun x =>
    { x with
      txs := modFirst (fun t => decide (t.line = m.line) && decide (t.txn = m.txn))
        (fun t => { t with mem := if t.mem = .injected then .handed else t.mem, memAt := s.kt d }) x.txs
      fetches := x.fetches.map (fun f => if f.line = m.line ∧ f.txn = m.txn then { f with memAt := s.kt d } else f) })

/-- A near snoop leaves its port: the near contract's time starts for the unit that waits for the answer (R196, R280). -/
def State.snpHanded (s : State) (p : Nat) (m : Msg) : State :=
  match s.portDom p with
  | none => s
  | some (d, D) =>
    let n := epNode m.answerTo
    if (s.iport p).role ≠ .near ∨ epUnit m.answerTo = false ∨ epDev m.answerTo ≠ D.device then s
    else if epType m.answerTo = 0 then s.modSlice n (fun x => { x with mshrs := x.mshrs.map (fun e => (e.1, e.2.map (fun q =>
      if q.line = m.line then { q with near := q.near.map (fun y => { y with snpAt := s.kt d }) } else q))) })
    else s.modTx n m.line (fun t => { t with snpAt := s.kt d })

/-- A message leaves port `p`. -/
def State.leave (s : State) (p : Nat) (m : Msg) : State :=
  let s := s.handOver p m
  match vnOf m.op with
  | .snp => s.snpHanded p m
  | .req =>
    if m.op = .memRd then s.memHanded m
    else (match s.portDom p with | some (d, _) => s.stamp d m.line none 4 | none => s)
  | _ => if m.op = .memWrDur then s.memHanded m else s

/-- Requests, snoops and write-backs leave as soon as the port serves them. Answers and data wait for COMPLETION_EGRESS. -/
def State.drainOut (s : State) (p : Nat) : Nat → State
  | 0 => s
  | k + 1 =>
    match s.nextOut p with
    | some u =>
      (match vnOf u.msg.op with
       | .rsp | .dat => s
       | _ => ((s.qTake (portNode p) (egressQ p u.msg) u.msg).leave p u.msg).drainOut p k)
    | none => s

/-- Let leave what can leave port `p` now. -/
def State.portOut (s : State) (p : Nat) : State := s.drainOut p (s.egressUnits p).length

/-- R277: has the TIMEOUT of the access of this completion left, so that the completion is late? -/
def State.lateFor (s : State) (m : Msg) : Option (Nat × (Endpoint × LineAddr × KTime)) :=
  if m.nodl || m.refused then none
  else (List.range 64).findSome? (fun g => ((s.gate g).timed.find? (fun t => decide (t = (m.requester, m.line, m.dl)))).map (fun t => (g, t)))

/-- A unit enters the egress queue of port `p`. A completion marks its watch entry; one that finds TIMEOUT queued, or whose access TIMEOUT has ended, is dropped (R277). -/
def State.toEgress (s : State) (p : Nat) (u : FUnit) : State :=
  let n := portNode p
  let m := u.msg
  let local_ : Bool := (s.iport p).role = .near || (s.iport p).role = .plain
  let put_ (s : State) : State := (s.qPush n (egressQ p m) u).portOut p
  if !completes m || m.refused then put_ s
  else match s.watchFor p m with
    | none =>
      if local_ then s.bump (cGate n 17)
      else match s.lateFor m with
        | some (g, t) => (s.modGate g (fun G => { G with timed := rmFirst t G.timed })).bump (cGate g 17)
        | none => put_ s
    | some (g, w) =>
      if w.queued then s.bump (cGate g 17)
      else if m.op = .err ∧ m.err = .timeout then put_ (s.timedOut g w)
      else if inTwo w m then put_ (s.modWatch g w (fun x => { x with got := x.got + 1, queued := decide (1 ≤ x.got) }))
      else put_ (s.modWatch g w (fun x => { x with queued := true }))

/-! ### COMPLETION_EGRESS (R276, R590) -/

/-- The latency bucket of R590. -/
def latBucket (L : Nat) : Nat := if L < 32 then 0 else min 15 (Nat.log2 L - 4)

/-- Page counters of a completion. -/
def State.pageDone (s : State) (w : Watch) (m : Msg) : State :=
  let L := (s.kt w.dom - w.ingress) / 16777216
  let s := if m.op = .err then (if m.err = .timeout then s.page w.ten 7 else s.page w.ten 8) else s
  let s := if m.op = .data then s.page w.ten 9 else s
  let s := if isWrite w.op ∧ m.op ≠ .err then s.pageN w.ten 10 w.bytes else s
  (s.pageN w.ten 14 L).page w.ten (16 + latBucket L)

/-- The completion of an access has left: its entry is freed. The barriers that cover it lose it, unless a tail entry goes on. A carried access that ended with
TIMEOUT is remembered until its own completion comes. -/
def State.doneWatch (s : State) (g : Nat) (w : Watch) (m : Msg) : State :=
  let s := s.pageDone w m
  let s := s.modGate g (fun G => { G with watch := rmFirst w G.watch, timed := if w.carried && w.timeout then G.timed ++ [(w.req, w.line, w.dl)] else G.timed })
  let s := if w.carried then s.modPort w.port (fun x => { x with carriedIn := x.carriedIn - 1 }) else s
  let s := (s.stamp w.dom w.line (some w.req) 11).traceEnd w.dom w.line w.req (if m.op = .err then m.err else .none)
  if w.timeout then
    (if (s.gate g).tails.any (tailOf w) then s
     else s.modBarriers (barDrop w.port w.line w.ingress true w.lost.isSome (w.lost.getD 0) w.dl))
  else
    let lost : Bool := m.op = .err && m.err = .unreachable && isWrite w.op
    let s := if lost then s.bump (cGate g 27) else s
    s.modBarriers (barDrop w.port w.line w.ingress false lost (w.lost.getD (s.lostTo w.dom w.peer w.pport w.line)) w.dl)

/-- A completion leaves port `p`. -/
def State.completed (s : State) (p : Nat) (m : Msg) : State :=
  match s.watchFor p m with
  | none => s
  | some (g, w) =>
    if inTwo w m then
      (if w.left = 0 then s.modWatch g w (fun x => { x with left := 1 }) else s.doneWatch g w m)
    else s.doneWatch g w m

/-- An answer to a register access leaves after every message that waits in the port's queues and can leave (R29). -/
def State.cfgLeaves (s : State) (port : Nat) (m : Msg) : State :=
  match (s.gate (portNode port)).cfgOut.find? (fun c => decide (c.1 = port)) with
  | some c =>
    if c.2.2 = m ∧ s.sendable port m = true then
      ((s.modGate (portNode port) (fun G => { G with cfgOut := rmFirst c G.cfgOut })).handOver port m).modBarriers (barDrop port 0 c.2.1 false false 0 0)
    else s
  | none => s

/-- The controller writer takes the oldest message of its line (R30). -/
def State.writerTakes (s : State) (port : Nat) (m : Msg) : State :=
  let g := s.gateOf port
  match (s.gate g).writerOut.find? (fun x => decide (x.line = m.line)) with
  | some x =>
    if x = m then
      let s := s.modGate g (fun G => { G with writerOut := rmFirst m G.writerOut })
      let s := if completes m then s.completed port m else s
      (s.emit (.writerDone m.line (if m.op = .err then m.err else .none))).writerGot m
    else s
  | none => s

/-- COMPLETION_EGRESS. The message is the one that the port serves next; for port 256 + d the controller writer takes it. -/
def execCompletionEgress (port : Nat) (m : Msg) (s : State) : Ans :=
  .next (
    if 256 ≤ port then s.writerTakes port m
    else match s.nextOut port with
      | some u =>
        if u.msg = m then
          let s := (s.qTake (portNode port) (egressQ port m) m).leave port m
          let s := if completes m then s.completed port m else s
          s.portOut port
        else s
      | none => s.cfgLeaves port m)

/-! ### Leaving Serving and Degraded (R266) -/

/-- Take back one count. -/
def State.uncount (s : State) (key : Nat) : State := { s with cnt := tset 0 s.cnt key (tget 0 s.cnt key - 1) }

/-- A request whose admission edge has not passed is answered with error `c` after all, counted in `k`, and leaves no reservation. -/
def State.revoke (s : State) (g : Nat) (w : Watch) (c : ErrCode) (k : Nat) : State :=
  let mine (u : FUnit) : Bool := decide (u.msg.line = w.line) && decide (u.msg.requester = w.req) && decide (u.at_ = w.admAt)
  let q := 224 + 3 * ((if 256 ≤ w.port then 0 else portSlot w.port) % 4) + clsNum w.cls
  match (s.qOf g q).find? mine with
  | none => s
  | some u =>
    let s := (s.qTake g q u.msg).modGate g (fun G => { G with
      watch := rmFirst w G.watch, resv := w.units.foldl (fun r x => rmFirst x r) G.resv
      tokens := if w.carried then G.tokens else setAt G.tokens (clsNum w.cls) (G.tokens.getD (clsNum w.cls) 0 + oneToken) })
    let s := if w.carried then s.modPort w.port (fun x => { x with carriedIn := x.carriedIn - 1 }) else s
    let s := match w.pport with | some p => s.modPort p (fun x => { x with carriedUsed := x.carriedUsed - 1 }) | none => s
    let s := (s.uncount (cGate g (clsNum w.cls))).uncount (cPage w.ten (clsNum w.cls))
    let s := s.setTraces w.dom ((tget [] s.spore.ents w.dom).filter (fun e => !(decide (e.req = w.req) && decide (e.line = w.line) && decide (e.ingress = w.ingress))))
    (s.gateAnswer w.port (refusal u.msg c)).bump (cGate g k)

/-- The controller leaves Serving or Degraded on this edge: requests whose admission edge falls on it or after it. -/
def State.revokeAll (s : State) : State :=
  (List.range 64).foldl (fun s g => ((s.gate g).watch.filter (fun w => decide (s.clk.fclk ≤ w.admAt))).foldl (fun s w => s.revoke g w .notServing 14) s) s

/-- The range and permission check meets new tables or keys (R392, R398, R427): requests whose admission edge falls on this edge or after it are checked under
them, and one that stays belongs to the current epoch. -/
def State.recheck (s : State) (g : Nat) (w : Watch) : State :=
  match s.idom w.dom with
  | none => s
  | some D =>
    let a : Adm := { p := w.port, d := w.dom, D := D, g := g, m := { op := w.op, line := w.line, requester := w.req }, now := w.ingress, adm := w.admAt }
    match s.permFail a (w.carried && w.home.isNone) with
    | some k => (s.revoke g w .denied 13).bump (cGlb (16 + k))
    | none => s.modWatch g w (fun x => { x with epoch := s.prot.epoch })

def State.recheckAll (s : State) : State :=
  (List.range 64).foldl (fun s g => ((s.gate g).watch.filter (fun w => decide (s.clk.fclk ≤ w.admAt))).foldl (fun s w => s.recheck g w) s) s

/-! ### Holds and retry-order entries -/

/-- HOLD_EXPIRE: the first edge more than 6 FCLK after RETRY_AT + 5 ns. -/
def execHoldExpire (g h : Nat) (s : State) : Ans :=
  .next (match (s.gate g).holds.find? (fun x => decide (x.num = h)), s.nodeDom g with
    | some x, some (d, _) =>
      if x.retryAt + ns 5 + fclks 6 < s.kt d then
        (s.modGate g (fun G => { G with holds := G.holds.filter (fun y => decide (y.num ≠ h)) })).bump (cGate g 12)
      else s
    | _, _ => s)

/-- RETRY_ORDER_CLOSE: entry `i` of a port slot, in the order in which they opened. -/
def execRetryOrderClose (g slot i : Nat) (s : State) : Ans :=
  .next (match ((s.gate g).retryOrd.filter (fun e => decide (e.slot = slot)))[i]?, s.nodeDom g with
    | some e, some (d, _) =>
      if e.retryAt + ns 5 < s.kt d then s.modGate g (fun G => { G with retryOrd := rmFirst e G.retryOrd }) else s
    | _, _ => s)

/-! ### Barriers (R297 to R305) -/

/-- Outstanding barriers of an agent. -/
def State.barriersOf (s : State) (ps : List Nat) : List Barrier :=
  (List.range 64).flatMap (fun g => (s.gate g).barriers.filter (fun b => decide (b.port ∈ ps)))

/-- The accesses of an agent that were admitted on edge `e` or before and are under way: port, line, and ingress. An access that stands in the watch table and
as a tail entry counts once; a register access, which has no line, stands under line 0 until its answer has left (R310). -/
def State.underWay (s : State) (ps : List Nat) (e : Nat) : List (Nat × LineAddr × KTime) :=
  (List.range 64).flatMap (fun g =>
    ((s.gate g).watch.filter (fun w => decide (w.port ∈ ps) && decide (w.admAt ≤ e))).map (fun w => (w.port, w.line, w.ingress))
      ++ ((s.gate g).tails.filter (fun t => decide (t.port ∈ ps) && !((s.gate g).watch.any (fun w => tailOf w t)))).map (fun t => (t.port, t.line, t.ingress))
      ++ ((s.gate g).cfgOut.filter (fun c => decide (c.1 ∈ ps) && !c.2.2.refused)).map (fun c => (c.1, 0, c.2.1)))

/-- A BARRIER completes ingress (R297 to R304). After DETACH_ACK a request from the port is UNREACHABLE (R376). -/
def State.barrierIn (s : State) (port : Nat) (m : Msg) : State :=
  match s.portDom port with
  | none => s
  | some (d, D) =>
    let g := portNode port
    let i := s.ingressEdge g (portSlot port)
    let s := i.1
    let role := (s.iport port).role
    let m := { m with op := .barrier, requester := if role = .peer then m.requester else portEp D.device port }
    if !s.open_ || s.stopped d then (s.gateAnswer port (refusal m .notServing)).bump (cGate g 14)
    else if (s.port port).state = .draining ∧ (s.port port).detach = .acked then (s.gateAnswer port (refusal m .unreachable)).bump (cPort port 38)
    else if role = .memory ∨ role = .off then (s.gateAnswer port (refusal m .protocol)).bump (cGate g 15)
    else
      let ps := s.agentPorts d port
      let bs := s.barriersOf ps
      if 4 ≤ bs.length then (s.gateAnswer port (refusal m .protocol)).bump (cGate g 15)
      else
        let cover := (s.underWay ps i.2).filter (fun c => !(bs.any (fun b => decide (c ∈ b.cover))))
        (s.modGate g (fun G => { G with barriers := G.barriers ++ [{
          port := port, agent := epAgent m.requester, cover := cover, req := m.requester, ord := bs.foldl (fun k b => max k (b.ord + 1)) 0 }] })).bump (cGate g 24)

/-- BARRIER. -/
def execBarrier (port : Nat) (m : Msg) (s : State) : Ans := .next (s.atPort port { m with op := .barrier } (fun s => s.barrierIn port m))

/-- Status of a barrier. -/
def barStatus (b : Barrier) : BStatus := if 0 < b.lost then .barrierLoss else if b.late then .late else .ok

/-- BAR_DONE: barrier `i` of Gate `g` covers nothing any more and is the agent's oldest. -/
def execBarDone (g i : Nat) (s : State) : Ans :=
  .next (match (s.gate g).barriers[i]?, s.nodeDom g with
    | some b, some (d, _) =>
      let ps := s.agentPorts d b.port
      if !b.cover.isEmpty || (s.barriersOf ps).any (fun x => decide (x.ord < b.ord)) then s
      else
        let st := barStatus b
        let cnt := min b.lost 1023
        let tgt : Agent := if 0 < b.lost then b.tgt else 0
        let s := s.modGate g (fun G => { G with
          barriers := rmFirst b G.barriers, bars := setAt G.bars (portSlot b.port) { status := st, tgt := tgt, cnt := cnt } })
        let s := if st = .late then s.bump (cGate g 25) else if st = .barrierLoss then (s.bump (cGate g 26)).page (s.permOfPort b.port).ten.toNat 13 else s
        s.egress b.port { op := .barDone, requester := b.req, bstatus := st, lostTgt := tgt, lostCnt := cnt, destDev := epDev b.req, nodl := true }
    | _, _ => s)

/-! ### Calendars in time (R258, R259) -/

/-- SLOT_ADVANCE: units of slots that have become current are consumed. -/
def execSlotAdvance (d : Nat) (s : State) : Ans :=
  .next (match s.idom d with
    | none => s
    | some D =>
      let cur := slotOf (s.kt d)
      let keep (r : Res) (t : Nat) : Bool := match r with | .egr _ => decide (cur / 16 ≤ t / 16) | _ => decide (cur < t)
      let s := s.modDom d (fun x => { x with lastSlot := cur })
      D.nodes.foldl (fun s n => s.modGate n (fun G => { G with
        resv := G.resv.filter (fun u => keep u.res u.slot), moves := G.moves.filter (fun m => keep m.res m.slot) })) s)

/-- Total charges of a key. -/
def chargeOf {α : Type} [DecidableEq α] (l : List (α × Nat)) (k : α) : Nat := sumL ((l.filter (fun e => decide (e.1 = k))).map (·.2))

/-- The Gate with the most by `f`; ties to the lowest-numbered. -/
def mostOf (gs : List Nat) (f : Nat → Int) : Option Nat :=
  gs.foldl (fun b g => match b with | some x => if f x < f g then some g else some x | none => some g) none

/-- Move one free unit of a resource to the recipient in a slot (for port egress, in the frame it begins). -/
def State.moveUnit (s : State) (d : Nat) (D : ImgDomain) (gs : List Nat) (r : Res) (to_ slot : Nat) : State :=
  match mostOf gs (fun g => Int.ofNat (s.unitFree d D g r slot [])) with
  | some from_ =>
    if from_ = to_ ∨ s.unitFree d D from_ r slot [] = 0 then s
    else (s.modGate from_ (fun G => { G with moves := G.moves ++ [{ res := r, slot := slot, amount := -1 }] })).modGate to_
      (fun G => { G with moves := G.moves ++ [{ res := r, slot := slot, amount := 1 }] })
  | none => s

/-- BALANCER: the period's charges decide which Gate gains. -/
def State.balance (s : State) (d : Nat) (D : ImgDomain) : State :=
  let gs := s.gatesOf D
  let cur := slotOf (s.kt d)
  let rs := (gs.flatMap (fun g => (s.gate g).charges.map (·.1))).eraseDups
  let s := rs.foldl (fun s r =>
    match mostOf gs (fun g => Int.ofNat (chargeOf (s.gate g).charges r)) with
    | some to_ =>
      let cells : List Nat := match r with
        | .egr _ => (List.range 240).map (fun k => 16 * (ceilDiv (cur + 256) 16 + k))
        | _ => (List.range (4096 - 255)).map (fun k => cur + 256 + k)
      cells.foldl (fun s t => s.moveUnit d D gs r to_ t) s
    | none => s) s
  let es := (gs.flatMap (fun g => (s.gate g).echarges.map (·.1))).eraseDups
  let s := es.foldl (fun s r =>
    match mostOf gs (fun g => Int.ofNat (chargeOf (s.gate g).echarges r)), mostOf gs (fun g => s.eresFree D g r) with
    | some to_, some from_ =>
      if from_ = to_ ∨ s.eresFree D from_ r ≤ 0 then s
      else (s.modGate from_ (fun G => { G with emoves := G.emoves ++ [(r, -1)] })).modGate to_ (fun G => { G with emoves := G.emoves ++ [(r, 1)] })
    | _, _ => s) s
  gs.foldl (fun s g => s.modGate g (fun G => { G with charges := [], echarges := [] })) s

def execBalancer (d : Nat) (s : State) : Ans :=
  .next (match s.idom d with
    | none => s
    | some D =>
      let k := s.kt d / ns 1000
      if k ≤ (s.dom d).lastBal then s else (s.modDom d (fun x => { x with lastBal := k })).balance d D)

/-! ### GATE_CMD (R283) -/

/-- HOLD_CLR. -/
def State.doHoldClr (s : State) (g : Nat) : State := s.modGate g (fun G => { G with holds := [] })
/-- Does Gate `g` serve a port? -/
def State.gateServes (s : State) (g : Nat) : Bool := match s.nodeDom g with | some (_, D) => decide (g ∈ s.gatesOf D) | none => false
/-- A command of a Gate whose node is unassigned, or that serves no port, is dropped and logged (R27, R283). -/
def State.gateCmd (s : State) (g : Nat) (who : Requester) (f : State → State) : State :=
  if s.gateServes g then f s
  else s.logAcc (0x200000 + 0x8000 * g) who .unassigned true 4 (0x200000 + 0x8000 * g + 4)

def execHoldClr (g : Nat) (s : State) : Ans := .next (s.gateCmd g .pf0 (fun s => s.doHoldClr g))

/-- The balancer's Gate is that of the origin node. -/
def State.isBalancer (s : State) (g : Nat) : Bool := match s.nodeDom g with | some (_, D) => decide (D.origin = g) | none => false

end Sys2Proof.Machine
end

