-- ==== Sys2Proof/Machine/Tile.lean ====
section
/-! DEFINITION. The tile channel: reads on their way, what a half shows, spares, and the data units that leave (R69 to R79, R436 to R442, R455). -/

namespace Sys2Proof.Machine

open Sys2Proof

/-! ### Commands of the channel (R72) -/

/-- A command of the tile channel; a read names the half it returns first (R74), a half command its half. -/
inductive TileCmd | readLine (upper : Bool) | readHalf (upper : Bool) | writeLine | writeHalf (upper : Bool) | scrub
deriving DecidableEq, Repr

/-- DCLK edges that a command occupies. -/
def TileCmd.dclk : TileCmd → Nat | .readLine _ | .writeLine => 2 | .readHalf _ | .writeHalf _ => 1 | .scrub => 4

/-- The channel's counter of a command (R577). -/
def TileCmd.ctr : TileCmd → Nat | .readLine _ => 0 | .readHalf _ => 1 | .writeLine | .writeHalf _ => 2 | .scrub => 3

/-- The channel of node `n` executes a command. -/
def State.chan (s : State) (n : Nat) (c : TileCmd) : State := s.bump (cChn n c.ctr)

/-- The write command for the bytes of a mask: a half when the mask touches one half alone. -/
def writeCmd (mask : BitVec 128) : TileCmd :=
  if subdOf mask = 1 then .writeHalf false else if subdOf mask = 2 then .writeHalf true else .writeLine

/-- Write the line of a slot, of which the bytes of `mask` are new. -/
def State.writeTile (s : State) (n slot : Nat) (mask : BitVec 128) (v : LineData) : State :=
  (s.chan n (writeCmd mask)).modSlice n (fun x => { x with tile := tset {} x.tile slot v })
def State.setTile (s : State) (n slot : Nat) (v : LineData) : State := s.writeTile n slot fullMask v

/-! ### Rows, columns and spares (R439 to R442) -/

/-- Bank and row of a slot, and the first column of codeword `j`. -/
def slotBank (k : Nat) : Nat := k / 8192
def slotRow (k : Nat) : Nat := k / 16 % 512
def cwCol (k j : Nat) : Nat := k % 16 * 1280 + j * 80

/-- The stored bit at a code position (R432). -/
def posBit (p : Nat) : Nat := if p < 15 then 64 + p else if p < 79 then p - 15 else 79

/-- A spare row or column of a bank that nothing uses. -/
def freeSpare (x : Slice) (col : Bool) (bank : Nat) : Option Nat :=
  (List.range (if col then 2 else 4)).find? (fun k => !(x.spares.any (fun u => u.col == col && decide (u.bank = bank) && decide (u.spare = k))))

/-- A window asks for a row or column to be spared: the copy starts, or with no spare left the tile channel is fenced (R442). -/
def State.startSpare (s : State) (n : Nat) (col : Bool) (bank idx win : Nat) : State :=
  if (s.slice n).spares.any (fun u => u.col == col && decide (u.bank = bank) && decide (u.idx = idx)) then s
  else match freeSpare (s.slice n) col bank with
    | some k => s.modSlice n (fun x => { x with
        spares := x.spares ++ [{ col := col, bank := bank, idx := idx, spare := k, runtime := true, live := false }] })
    | none => s.fence (.channel n) .spareOut (some win)

/-! ### Codewords read from the tile -/

/-- A record about a codeword of a tile slot. -/
def State.cwRec (s : State) (n d slot j : Nat) (l : LineAddr) (c : RecCode) (syn : BitVec 16) (trip : Option Nat) : State :=
  s.raise { sev := if trip.isSome then 1 else codeSev c, source := .channel, inst := n, code := c, trip := trip.isSome, win := trip.getD 255
            domain := d, addr := l.setWidth 48, set := slotRow slot, way := slotBank slot, cw := j, syn := syn }

/-- The line address that the tag word of slot `k` spells, whatever its state. -/
def State.slotAddr (s : State) (D : ImgDomain) (n k : Nat) : LineAddr :=
  let t := tget {} (s.slice n).tags k
  D.lineOf t.origin.toNat (k / D.ways) t.tag

/-- The line whose data slot `k` of slice `n` holds now. -/
def State.slotLine (s : State) (D : ImgDomain) (n k : Nat) : Option LineAddr :=
  if (tget {} (s.slice n).tags k).state = .i then none else some (s.slotAddr D n k)

/-- An uncorrectable codeword is rewritten as a mark; a clean line without near owner is invalidated by the next maintenance pass of its set (R438). -/
def State.markCodeword (s : State) (D : ImgDomain) (n slot j : Nat) (l : LineAddr) : State :=
  let s := s.bump (cChn n 8)
  if s.slotLine D n slot ≠ some l then s
  else
    let t := tget {} (s.slice n).tags slot
    s.modSlice n (fun x => { x with
      tile := tmod {} x.tile slot (fun v => { v with marks := orBit v.marks j })
      invalDue := if (t.state = .e ∨ t.state = .s) ∧ t.owner = 0xFF then insNat slot x.invalDue else x.invalDue })

/-- Count a corrected codeword against its row and columns, and schedule the scrub of its slot (R76, R444). -/
def State.cwCorrected (s : State) (n d slot j : Nat) (l : LineAddr) (syn : BitVec 16) (ps : List Nat) : State :=
  let b := slotBank slot
  let r := slotRow slot
  let s := (s.bump (cChn n 4)).modSlice n (fun x => { x with scrubDue := insNat slot x.scrubDue })
  let (s, tr) := s.winHit 0 (.row n b r)
  let (s, tcs) := ps.foldl (fun (a : State × List Nat) p =>
    let c := cwCol slot j + posBit p
    let h := a.1.winHit 2 (.col n b c) r
    (h.1, if h.2 then a.2 ++ [c] else a.2)) (s, [])
  let s := s.cwRec n d slot j l .ceData syn (if tr then some 0 else if tcs.isEmpty then none else some 2)
  let s := if tr then s.startSpare n false b r 0 else s
  tcs.foldl (fun s c => s.startSpare n true b c 2) s

/-- What one codeword of a read does (R438, R444); an error schedules a scrub of its slot (R76, R239). -/
def State.cwEvent (s : State) (n d : Nat) (D : ImgDomain) (slot j : Nat) (l : LineAddr) (o : CwOut) (syn : BitVec 16) : State :=
  match o with
  | .clean | .mark => s
  | .corrected a b => s.cwCorrected n d slot j l syn (match b with | some b => [a, b] | none => [a])
  | .ue | .loc =>
    let c : RecCode := if o = .loc then .locData else .ueData
    let s := (s.bump (cChn n (if o = .loc then 6 else 5))).modSlice n (fun x => { x with scrubDue := insNat slot x.scrubDue })
    let (s, tr) := s.winHit 1 (.row n (slotBank slot) (slotRow slot))
    let s := s.cwRec n d slot j l c syn (if tr then some 1 else none)
    let s := s.markCodeword D n slot j l
    if tr then s.startSpare n false (slotBank slot) (slotRow slot) 1 else s

/-- A half of a stored line, read with the bit errors `flips` (one word of bits for each codeword, a missing one meaning none) and checked: its outcomes, data and marks (R434, R438, R76). -/
def halfData (l : LineAddr) (x : LineData) (upper : Bool) (flips : List (BitVec 80)) : List CwOut × LineData :=
  let o := if upper then 8 else 0
  let ws := encodeLine l x
  let rs := (List.range 8).map (fun i => decodeCw (locOf l (o + i)) (ws.getD (o + i) 0 ^^^ flips.getD i 0))
  (rs.map (·.1),
   { bits := joinWords (List.replicate o 0 ++ rs.map (·.2))
     marks := BitVec.ofNat 16 ((rs.zipIdx).foldl (fun a r => match r.1.1 with | .mark | .ue | .loc => a + 2 ^ (o + r.2) | _ => a) 0) })

/-- The syndromes of the codewords of such a half (R458). -/
def halfSyn (l : LineAddr) (x : LineData) (upper : Bool) (flips : List (BitVec 80)) : List (BitVec 16) :=
  let o := if upper then 8 else 0
  let ws := encodeLine l x
  (List.range 8).map (fun i => synWord (ws.getD (o + i) 0 ^^^ flips.getD i 0))

/-- Check the line that slot `k` holds, read with bit errors on its 16 codewords: a line read to be merged with written bytes, moved out or scrubbed (R76). -/
def State.checkLine (s : State) (n d : Nat) (D : ImgDomain) (k : Nat) (flips : List (BitVec 80)) : State :=
  match s.slotLine D n k with
  | none => s
  | some l =>
    let x := tget {} (s.slice n).tile k
    let lo := halfData l x false (flips.take 8)
    let hi := halfData l x true (flips.drop 8)
    let ys := halfSyn l x false (flips.take 8) ++ halfSyn l x true (flips.drop 8)
    (lo.1 ++ hi.1).zipIdx.foldl (fun s o => s.cwEvent n d D k o.2 l o.1 (ys.getD o.2 0)) s

def CwOut.isCorr (o : CwOut) : Bool := match o with | .corrected _ _ => true | _ => false

/-- Two halves of a line together. -/
def joinHalves (a b : LineData) : LineData := { bits := a.bits ||| b.bits, marks := a.marks ||| b.marks }

/-- One half of a line, the other cleared. -/
def lineHalf (x : LineData) (upper : Bool) : LineData :=
  if upper then { bits := x.bits &&& (BitVec.allOnes 1024 <<< 512), marks := x.marks &&& 0xFF00 }
  else { bits := x.bits &&& ~~~ (BitVec.allOnes 1024 <<< 512), marks := x.marks &&& 0x00FF }

/-! ### Data units -/

/-- The near group of a requester of this device. -/
def State.reqGroup (s : State) (e : Endpoint) : Option Nat := if epUnit e then none else s.groupOf (epLow e)

/-- A requester that received no state leaves the presence mask and the owner field of its line's way (R191). -/
def State.ungrant (s : State) (n slot : Nat) (g : Option Nat) : State :=
  match g with
  | none => s
  | some g => s.modSlice n (fun x => { x with
      tags := tmod {} x.tags slot (fun t => if t.owner.toNat = g then { t with owner := 0xFF } else t)
      pres := tmod 0 x.pres slot (fun p => clrBit p g) })

/-- Is the receiver of a data message an agent on a port of this device? Others take marks unchanged (R455). -/
def toAgent (D : ImgDomain) (m : Msg) : Bool := m.op = .data && !epUnit m.requester && decide (epDev m.requester = D.device)

/-- Send the line that a tile read was for: whole, or as two half units when only the second half needed correction (R78); ERR POISON when it carries a mark (R79). -/
def State.sendTile (s : State) (d : Nat) (D : ImgDomain) (n slot : Nat) (m : Msg) (x : LineData) (early : Option Bool) : State :=
  if m.op = .sdata then s.sendEp d D n false m.answerTo { m with data := x }
  else if !toAgent D m then s.sendEp d D n false m.requester { m with data := x }
  else if x.marks ≠ 0 then
    (s.sendEp d D n false m.requester (errFor m .poison)).ungrant n slot (if m.grant = .i then none else s.reqGroup m.requester)
  else match early with
    | some u =>
      (s.sendEp d D n false m.requester { m with data := lineHalf x u, half := some u }).sendEp d D n false m.requester { m with data := lineHalf x (!u), half := some (!u) }
    | none => s.sendEp d D n false m.requester { m with data := x }

/-- Does the critical codeword of a message lie in the upper half (R74, R77)? -/
def critUpper (m : Msg) : Bool := 8 ≤ m.crit.toNat

/-- The deadline a message is scheduled by: none where it carries none. -/
def dlOf (m : Msg) : Option KTime := if m.nodl then none else some m.dl

/-- Is deadline `a` before deadline `b`? Work without a deadline comes last (R273). -/
def dlLt (a b : Option KTime) : Bool :=
  match a, b with | some x, some y => decide (x < y) | some _, none => true | none, _ => false

/-- Start the tile read for an answer. -/
def State.tileRead (s : State) (n slot : Nat) (m : Msg) : State :=
  (s.chan n (.readLine (critUpper m))).modSlice n (fun x => { x with reads := x.reads ++ [{
    slot := slot, line := m.line, data := tget {} x.tile slot, msg := some m, upper := critUpper m, dl := dlOf m, at_ := s.clk.fclk }] })

/-- The read of a slot that a pass for request `m` issues, without an answer for its data. -/
def State.readOf (s : State) (D : ImgDomain) (n slot : Nat) (m : Msg) (kept : Bool) : TileRead :=
  { slot := slot, line := s.slotAddr D n slot, data := tget {} (s.slice n).tile slot, upper := critUpper m, dl := dlOf m, at_ := s.clk.fclk, kept := kept }

/-- Issue a read whose data no answer takes: of the way that its pass commits, or a cancelled predicted read, which is counted (R69). -/
def State.tileDrop (s : State) (n : Nat) (r : TileRead) : State :=
  let s := s.chan n (.readLine r.upper)
  let s := if r.kept then s else s.bump (cSlc n 15)
  s.modSlice n (fun x => { x with reads := x.reads ++ [r] })

/-- The read that a returned half belongs to: the half it names comes first (R74). -/
def readIs (slot : Nat) (upper used : Bool) (m : Msg) (r : TileRead) : Bool :=
  decide (r.slot = slot) && (if used then decide (r.msg = some m) else r.msg.isNone)
    && (match r.first with | some f => f.1 != upper | none => r.upper == upper)

/-- Whether the channel has taken a read's command: of the reads that waited with it, the earliest deadline goes first (R75). -/
def readTurn (rs : List TileRead) (r : TileRead) : Bool :=
  r.first.isSome || rs.all (fun q => q.first.isSome || decide (r.at_ < q.at_) || !dlLt q.dl r.dl)

/-- TILE_DATA: a half of the oldest fitting read returns, with the bit errors `flips` on its codewords. -/
def execTileData (n slot : Nat) (upper : Bool) (flips : List (BitVec 80)) (used : Bool) (m : Msg) (s : State) : Ans :=
  .next (match s.nodeDom n, (s.slice n).reads.find? (readIs slot upper used m) with
    | some (d, D), some r =>
      if !readTurn (s.slice n).reads r then s else
      let (os, h) := halfData r.line r.data upper flips
      let corr := os.any CwOut.isCorr
      let s := (os.zipIdx).foldl (fun s o => s.cwEvent n d D slot ((if upper then 8 else 0) + o.2) r.line o.1 ((halfSyn r.line r.data upper flips).getD o.2 0)) s
      match r.first with
      | none => s.modSlice n (fun x => { x with reads := modFirst (fun y => decide (y = r)) (fun y => { y with first := some (upper, h, corr) }) x.reads })
      | some (u, h0, c0) =>
        let s := s.modSlice n (fun x => { x with reads := rmFirst r x.reads })
        match r.msg with
        | none => if r.kept then s else s.bump (cChn n 7)
        | some m =>
          let crit : Bool := critUpper m
          let early := if u = crit ∧ c0 = false ∧ corr = true ∧ h0.marks = 0 then some u else none
          s.sendTile d D n slot m (joinHalves h0 h) early
    | _, _ => s)

end Sys2Proof.Machine
end

