-- ==== Sys2Proof/Machine/Slice.lean ====
section
/-! DEFINITION. The slice: places of lines, way prediction, replacement, victims, lookups and what they allocate (R45 to R92, R116 to R126, R136 to R144, R153 to R168, R198). -/

namespace Sys2Proof.Machine

open Sys2Proof

/-! ### Places -/

/-- A line at a slice of a domain. -/
structure At where
  n : Nat
  d : Nat
  D : ImgDomain
  l : LineAddr
deriving DecidableEq, Repr

def At.set (a : At) : Nat := a.D.set a.l
def At.slot (a : At) (w : Nat) : Nat := a.set * a.D.ways + w

def State.tagAt (s : State) (n slot : Nat) : TagWord := tget {} (s.slice n).tags slot
/-- The near groups that a node's domain defines. -/
def State.groupMask (s : State) (n : Nat) : BitVec 32 :=
  match s.nodeDom n with
  | some (d, _) => s.nears.foldl (fun b e => if e.domain = d then orBit b e.group else b) 0
  | none => 0

/-- The presence mask of a way, over the groups that exist. -/
def State.presAt (s : State) (n slot : Nat) : BitVec 32 := tget 0 (s.slice n).pres slot &&& s.groupMask n
def State.modTag (s : State) (n slot : Nat) (f : TagWord → TagWord) : State :=
  s.modSlice n (fun x => { x with tags := tmod {} x.tags slot f })
def State.setPres (s : State) (n slot : Nat) (v : BitVec 32) : State := s.modSlice n (fun x => { x with pres := tset 0 x.pres slot v })
def State.setRrv (s : State) (n slot : Nat) (v : BitVec 2) : State := s.modSlice n (fun x => { x with rrv := tset 3 x.rrv slot v })

/-- The near owner a tag word names. -/
def TagWord.near (t : TagWord) : Option Nat := if t.owner.toNat < 32 then some t.owner.toNat else none

/-- The way whose TAG and ORIGIN match, a reservation included (R51, R110); tag-lost ways take no part (R83). -/
def State.matchWay (s : State) (a : At) : Option Nat :=
  (List.range a.D.ways).find? (fun w =>
    let t := s.tagAt a.n (a.slot w)
    decide (t.tag = a.D.tag a.l) && decide (t.origin.toNat = a.D.hash a.l) && (decide (t.state ≠ .i) || t.lock)
      && !decide ((a.set, w) ∈ (s.slice a.n).quar))

/-- The way that holds the line. -/
def State.wayOf (s : State) (a : At) : Option Nat :=
  match s.matchWay a with | some w => if (s.tagAt a.n (a.slot w)).state = .i then none else some w | none => none

/-- Does the line's set hold a tag-lost way (R84)? -/
def State.setLost (s : State) (a : At) : Bool := (s.slice a.n).quar.any (fun q => decide (q.1 = a.set))

/-- The device-level home of a line (R182). -/
def State.lineHome (s : State) (a : At) : BitVec 9 := match s.rngHome a.d a.l with | some e => e.2.home | none => a.D.device
def State.lineKey (s : State) (a : At) : BitVec 6 := match s.rngHome a.d a.l with | some e => e.2.keyid | none => 0
def State.lineRecord (s : State) (a : At) : Bool := match s.rngHome a.d a.l with | some e => e.2.record | none => false

def State.mshrOf (s : State) (n : Nat) (l : LineAddr) : Option (Nat × Mshr) := tfind (s.slice n).mshrs (fun m => decide (m.line = l))
/-- The entry that holds a line pushed out: of the 128 victim-buffer entries, or of the drain engine, whose numbers stand from 128 on (R165, R447). -/
def State.vbOf (s : State) (n : Nat) (l : LineAddr) : Option (Nat × VbEnt) :=
  match tfind (s.slice n).vbuf (fun v => decide (v.line = l)) with
  | some e => some e
  | none => (tfind (s.slice n).drainVb (fun v => decide (v.line = l))).map (fun e => (128 + e.1, e.2))
/-- Write such an entry. -/
def State.vbPut (s : State) (n i : Nat) (v : Option VbEnt) : State :=
  s.modSlice n (fun x => if i < 128 then { x with vbuf := tset none x.vbuf i v } else { x with drainVb := tset none x.drainVb (i - 128) v })
def State.wbOf (s : State) (n : Nat) (l : LineAddr) : Option (Nat × WbEnt) := tfind (s.slice n).wbuf (fun w => decide (w.line = l))
def State.modMshr (s : State) (n i : Nat) (f : Mshr → Mshr) : State :=
  s.modSlice n (fun x => { x with mshrs := tmod none x.mshrs i (fun o => o.map f) })

/-- Waiting for answers of a detach sweep or of the drain engine. -/
def State.drainPend (s : State) (n : Nat) (l : LineAddr) : Bool := (s.slice n).drainSnoops.any (fun e => decide (e.1 = l))

/-! ### Who asks -/

/-- Ingress port, Gate and watch entry of a request's agent. -/
def State.asker (s : State) (d : Nat) (ep : Endpoint) (l : LineAddr) : Nat × Nat × Option Watch :=
  let p := if epUnit ep then 256 + d else epLow ep
  let g := s.gateOf p
  (p, g, (s.gate g).watch.find? (fun w => decide (w.port = p) && decide (w.req = ep) && decide (w.line = l)))

/-- Tenancy of a request (R100). -/
def State.askTen (s : State) (d : Nat) (ep : Endpoint) (l : LineAddr) : Nat :=
  let (p, _, w) := s.asker d ep l
  match w with | some w => w.ten | none => (s.permOfPort p).ten.toNat

/-- Return the entries of a request that `keep` does not name, and the carried credit it will not use (R137, R261). -/
def State.returnEnts (s : State) (d : Nat) (ep : Endpoint) (l : LineAddr) (keep : EntRes) (credit : Bool) : State :=
  match s.asker d ep l with
  | (_, g, some w) =>
    let s := s.modWatch g w (fun x => { x with
      ents := { mshr := x.ents.mshr && keep.mshr, wb := x.ents.wb && keep.wb, vb := x.ents.vb && keep.vb, home := x.ents.home && keep.home }
      pport := if credit then x.pport else none })
    (match w.pport with | some q => if credit then s else s.modPort q (fun x => { x with carriedUsed := x.carriedUsed - 1 }) | none => s)
  | _ => s

/-- A hit returns the miss-path units whose slots lie at least 4 ahead (R259). -/
def State.returnUnits (s : State) (d : Nat) (ep : Endpoint) (l : LineAddr) : State :=
  match s.asker d ep l with
  | (_, g, some w) =>
    let back := (w.units.drop 4).filter (fun u => decide (slotOf (s.kt d) + 4 ≤ u.slot))
    (s.modWatch g w (fun x => { x with units := [] })).modGate g (fun G => { G with resv := back.foldl (fun r u => rmFirst u r) G.resv })
  | _ => s

/-! ### Way prediction (R67 to R70) -/

def At.pidx (a : At) : Nat := a.set % 4096
def At.ptag (a : At) : BitVec 8 :=
  let t := (a.D.tag a.l).setWidth 32
  t.extractLsb' 0 8 ^^^ t.extractLsb' 8 8 ^^^ t.extractLsb' 16 8 ^^^ t.extractLsb' 24 8 ^^^ BitVec.ofNat 8 (a.set / 4096 % 8)

/-- The way predicted at PRD. -/
def State.predicted (s : State) (a : At) : Option Nat :=
  if (s.slice a.n).predClr then none else
    match tget none (s.slice a.n).pred a.pidx with
    | some e => if e.ptag = a.ptag then some e.way else none
    | none => none

def State.predSet (s : State) (a : At) (w : Nat) : State :=
  s.modSlice a.n (fun x => { x with pred := tset none x.pred a.pidx (some { way := w, ptag := a.ptag }) })

/-- A pass that invalidates the predicted way clears the entry. -/
def State.predDrop (s : State) (n set w : Nat) : State :=
  s.modSlice n (fun x => { x with pred := tmod none x.pred (set % 4096) (fun e => match e with
    | some p => if p.way = w then none else some p
    | none => none) })

/-! ### Shadow stacks (R123 to R126) -/

/-- Update the stack of a sampled set for a tenancy. -/
def State.sampleSet (s : State) (a : At) (t : Nat) : State :=
  let iv := a.D.sets / 32
  if a.set % iv ≠ a.D.pos a.n % iv then s
  else
    let k := 16 * (a.set / iv) + t
    let pt : BitVec 12 := (a.D.tag a.l).setWidth 12 ^^^ BitVec.ofNat 12 (a.D.hash a.l)
    let st := tget [] (s.slice a.n).shadow k
    match st.findIdx? (fun e => decide (e = pt)) with
    | some i => s.modSlice a.n (fun x => { x with
        uh := tmod 0 x.uh (16 * t + i) (fun v => min (v + 1) 65535), shadow := tset [] x.shadow k (pt :: st.eraseIdx i) })
    | none => s.modSlice a.n (fun x => { x with shadow := tset [] x.shadow k ((pt :: st).take a.D.ways) })

/-! ### Faults a pass meets (R80 to R92, R117, R139) -/

/-- How a pass goes on: it commits, it answers SLICE_FAULT, or the slice has been fenced under it. -/
inductive PassEnd | go | fault | gone
deriving DecidableEq, Repr

/-- The end of a pass whose slice may have been fenced. -/
def State.passEnd (s : State) (n : Nat) (ok : PassEnd) : State × PassEnd := (s, if s.isFenced (.slice n) then .gone else ok)

/-- A fault of window 6 of the slice: it fences when the window trips (R139, R444). -/
def State.sliceTrip (s : State) (n : Nat) (c : RecCode) : State :=
  let (s, t) := s.winHit 6 (.slice n)
  if t then s.fence (.slice n) c (some 6) else s.rep .slice n c

/-- An event that fences the slice whatever the window's threshold is (R85, R90). -/
def State.sliceMust (s : State) (n : Nat) (c : RecCode) : State :=
  let (s, t) := s.winHit 6 (.slice n)
  s.fence (.slice n) c (if t then some 6 else none)

/-- A lockstep mismatch; `last` ends the request (R88, R89). -/
def State.mismatch (s : State) (n d : Nat) (last : Bool) : State :=
  let s := s.modSlice n (fun x => { x with lstepErr := true })
  let s := if last then s else s.bump (cSlc n 14)
  let (s, t) := s.winHit 5 (.slice n)
  let s := s.raise { sev := if last then 3 else 0, source := .slice, inst := n, code := .lstep, domain := d }
  if t then s.fence (.slice n) .fence (some 5) else s

/-- Index of a tag word, and of the presence word that holds a way's mask: the location values of R433 (R98). -/
def tagWordIx (D : ImgDomain) (set w : Nat) : Nat := set * D.ways + w
def presWordIx (D : ImgDomain) (set w : Nat) : Nat := set * (D.ways / 2) + w / 2

/-- A corrected tag or presence word (R80). -/
def State.tagCorrected (s : State) (n d : Nat) (D : ImgDomain) (set w : Nat) (pres : Bool) (syn : BitVec 16) : State :=
  let s := (s.modSlice n (fun x => { x with corr := true })).bump (cSlc n 29)
  let (s, t) := s.winHit 4 (.slice n)
  s.raise { sev := 0, source := .slice, inst := n, code := .ceTag, domain := d, set := set, way := w, syn := syn,
            addr := BitVec.ofNat 48 (if pres then presWordIx D set w else tagWordIx D set w), trip := t, win := if t then 4 else 255 }

/-- A tag-lost way (R83, R85). -/
def State.tagLost (s : State) (n d : Nat) (D : ImgDomain) (set w : Nat) (syn : BitVec 16) : State :=
  if (set, w) ∈ (s.slice n).quar then s
  else
    let full : Bool := 16 ≤ (s.slice n).quar.length
    let s := (s.modSlice n (fun x => { x with quar := x.quar ++ [(set, w)], tagUe := true })).bump (cSlc n 30)
    let s := s.raise { sev := 3, source := .slice, inst := n, code := .ueTag, domain := d, set := set, way := w, syn := syn,
                       addr := BitVec.ofNat 48 (tagWordIx D set w) }
    if full then s.sliceMust n .fence else s

/-- An uncorrectable presence word names every group for its two ways (R86). -/
def State.presLost (s : State) (n d : Nat) (D : ImgDomain) (set word : Nat) (syn : BitVec 16) : State :=
  let k := set * D.ways + 2 * word
  let s := ((s.setPres n k (BitVec.allOnes 32)).setPres n (k + 1) (BitVec.allOnes 32)).modSlice n (fun x => { x with presUe := true })
  (s.bump (cSlc n 31)).raise { sev := 0, source := .slice, inst := n, code := .uePres, domain := d, set := set, way := 2 * word, syn := syn,
                                  addr := BitVec.ofNat 48 (presWordIx D set (2 * word)) }

/-- ECC of a tag word read with bit errors (R57, R80, R83): whether it squashes the pass for correction, and whether for a lost way. -/
def State.eccTag (s : State) (n d : Nat) (D : ImgDomain) (set w : Nat) (flips : BitVec 80) : State × Bool × Bool :=
  if D.ways ≤ w ∨ (set, w) ∈ (s.slice n).quar then (s, false, false)
  else
    let k := tagWordIx D set w
    let r := readWord k (s.tagAt n k).word flips
    match r.1, tagOfWord r.2.1 with
    | .clean, some t => (s.modTag n k (fun _ => t), false, false)
    | .corrected _ _, some t => ((s.modTag n k (fun _ => t)).tagCorrected n d D set w false r.2.2, true, false)
    | _, _ => (s.tagLost n d D set w r.2.2, false, true)

/-- ECC of presence word `j` of the set (R80, R86). -/
def State.eccPres (s : State) (n d : Nat) (D : ImgDomain) (set j : Nat) (flips : BitVec 80) : State × Bool :=
  if D.ways ≤ 2 * j then (s, false)
  else
    let k := set * D.ways + 2 * j
    let r := readWord (presWordIx D set (2 * j)) (presWord (tget 0 (s.slice n).pres k) (tget 0 (s.slice n).pres (k + 1))) flips
    let put (s : State) : State := (s.setPres n k (r.2.1.extractLsb' 0 32)).setPres n (k + 1) (r.2.1.extractLsb' 32 32)
    match r.1 with
    | .clean => (put s, false)
    | .corrected _ _ => ((put s).tagCorrected n d D set (2 * j) true r.2.2, true)
    | _ => (s.presLost n d D set j r.2.2, false)

/-- The ECC stage of one trip over set `set`: whether words were corrected, and whether a way was lost. -/
def State.eccStage (s : State) (n d : Nat) (D : ImgDomain) (set : Nat) (x : PassTry) : State × Bool × Bool :=
  let r := x.tags.foldl (fun (a : State × Bool × Bool) e =>
    let b := a.1.eccTag n d D set e.1 e.2
    (b.1, a.2.1 || b.2.1, a.2.2 || b.2.2)) (s, false, false)
  x.pres.foldl (fun (a : State × Bool × Bool) e =>
    let b := a.1.eccPres n d D set e.1 e.2
    (b.1, a.2.1 || b.2, a.2.2)) r

/-- A pass after its trips: the state, how it goes on, and the ways read for it so far (R69, R81, R87). -/
structure PassRun where
  st : State
  fin : PassEnd
  reads : List Nat

/-- The end of the last trip: it commits, or its allocation finds the ledger wrong (R139). -/
def State.lastTrip (s : State) (n : Nat) (reads : List Nat) (x : PassFault) : PassRun :=
  if x.ledger then
    let r := (s.sliceTrip n .ledger).passEnd n .fault
    { st := r.1, fin := r.2, reads := reads }
  else { st := s, fin := .go, reads := reads }

/-- The replay of a squashed pass that re-enters ACC `k` FCLK after c0 (R80 to R83, R88 to R92): a further correction is taken in line, a further mismatch
ends the request, and a corrective read is issued only when `due` says that its data can still leave in time. -/
def State.replayTrip (s : State) (n d : Nat) (D : ImgDomain) (set : Nat) (hit : State → Option Nat) (due : Nat → Bool) (k : Nat) (reads : List Nat)
    (x : PassFault) : PassRun :=
  let s := (s.eccStage n d D set x.replay).1
  if s.isFenced (.slice n) then { st := s, fin := .gone, reads := reads }
  else if x.replay.differ.isSome then
    let r := (s.mismatch n d true).passEnd n .fault
    { st := r.1, fin := r.2, reads := reads }
  else match hit s with
    | some w => if w ∈ reads ∨ due k = true then s.lastTrip n reads x else { st := s, fin := .fault, reads := reads }
    | none => s.lastTrip n reads x

/-- The trips of a pass over set `set` that reads way `pr` at PRD; `hit` is the way in which it hits. -/
def State.runPass (s : State) (n d : Nat) (D : ImgDomain) (set : Nat) (hit : State → Option Nat) (pr : Option Nat) (due : Nat → Bool) (x : PassFault) : PassRun :=
  let s := if x.replParity then (List.range D.ways).foldl (fun s w => s.setRrv n (set * D.ways + w) 2) (s.bump (cSlc n 17)) else s
  let (s, corr, lost) := s.eccStage n d D set x.first
  if s.isFenced (.slice n) then { st := s, fin := .gone, reads := pr.toList }
  else if corr || lost then
    let s := if corr then s.bump (cSlc n 13) else s
    s.replayTrip n d D set hit due 11 (pr.toList ++ (hit s).toList) x
  else match x.first.differ with
    | none => s.lastTrip n pr.toList x
    | some ww =>
      let s := s.mismatch n d false
      if s.isFenced (.slice n) then { st := s, fin := .gone, reads := pr.toList }
      else s.replayTrip n d D set hit due 13 (pr.toList ++ ww.toList) x

/-- The trips of a pass that reads no line. -/
def State.passFaults (s : State) (n d : Nat) (D : ImgDomain) (set : Nat) (x : PassFault) : State × PassEnd :=
  let r := s.runPass n d D set (fun _ => none) none (fun _ => true) x
  (r.st, r.fin)

/-- Issue the reads of a pass that no answer takes: those of ways it does not commit are cancelled, and the way that it commits was read if it was
predicted or the pass hits in it (R69). `s0` is the state that the pass found. -/
def State.readsDone (s s0 : State) (a : At) (m : Msg) (reads : List Nat) (commit hit : Option Nat) (used : Bool) : State :=
  let s := ((reads.foldl (fun l v => insNat v l) []).filter (fun v => decide (commit ≠ some v))).foldl (fun s v => s.tileDrop a.n (s0.readOf a.D a.n (a.slot v) m false)) s
  match commit with
  | some v => if used then s else if v ∈ reads ∨ hit = some v then s.tileDrop a.n (s0.readOf a.D a.n (a.slot v) m true) else s
  | none => s

/-- Free victim-buffer entries that no Gate has reserved (R232). -/
def State.vbFree (s : State) (n : Nat) : Nat :=
  let resv := ((s.slice n).mshrs.filter (fun e => match e.2 with | some m => m.vbr | none => false)).length
    + sumL ((List.range 64).map (fun g => ((s.gate g).watch.filter (fun w => w.ents.vb && decide (w.slice = n))).length))
  128 - tbusy (s.slice n).vbuf - resv

/-! ### The accept stage (R59, R60, R221, R287) -/

/-- A pass that waits at the accept stage: kind (fill 0, snoop 1, write-back 2, lookup 3), deadline, FCLK edge of arrival, ingress port and sender node
of a lookup, and message. -/
structure AccEnt where
  kind : Nat
  dl : Option KTime
  at_ : Nat
  port : Nat
  src : Nat
  msg : Msg
deriving DecidableEq, Repr

/-- What the accept stage compares, most significant first. -/
def AccEnt.key (e : AccEnt) : List Nat := [if e.dl.isNone then 1 else 0, e.dl.getD 0, e.kind, e.at_, e.port, e.src]

/-- Lexicographic order of two lists of numbers. -/
def lexLt : List Nat → List Nat → Bool
  | a :: s, b :: t => if a < b then true else if b < a then false else lexLt s t
  | [], _ :: _ => true
  | _, [] => false

/-- Is a message of the fill queue a fill pass? A first half is not (R151). -/
def State.isFill (s : State) (n : Nat) (m : Msg) : Bool :=
  match m.op with
  | .data => m.half.isNone || (s.slice n).halves.any (fun h => decide (h.1 = m.line))
  | .grant | .cmp | .dur | .err => true
  | _ => false

def accMsg (kind : Nat) (u : FUnit) : AccEnt := { kind := kind, dl := dlOf u.msg, at_ := u.at_, port := 0, src := 0, msg := u.msg }
def accLook (at_ src : Nat) (m : Msg) : AccEnt :=
  { kind := 3, dl := if m.nodl then none else some m.hitDl, at_ := at_, port := if epUnit m.requester then 256 else epLow m.requester, src := src, msg := m }

/-- The deadline-carrying passes that wait at slice `n`; a lookup is scheduled against its hit deadline (R62), and one released for reissue came first. -/
def State.waiting (s : State) (n : Nat) : List AccEnt :=
  ((s.qOf n 43).filter (fun u => s.isFill n u.msg)).map (accMsg 0) ++ (s.qOf n 41).map (accMsg 1) ++ (s.qOf n 42).map (accMsg 2)
    ++ (s.slice n).reissue.map (accLook 0 0) ++ (s.qOf n 40).map (fun u => accLook u.at_ u.src u.msg)

/-- The pass of a running sweep waits at the accept stage: a set is left, and the pass does not wait for a victim-buffer entry (R229, R232). -/
def State.maintWaits (s : State) (n : Nat) : Bool :=
  let w := (s.slice n).sweep
  w.active && (match s.nodeDom n with | some (_, D) => decide (w.next < D.sets) | none => false) && !(w.held && decide (s.vbFree n = 0))

/-- The line whose lock or unlock pass is next (R134). -/
def State.lockNext (s : State) : LineAddr := s.lock.base + BitVec.ofNat 45 s.lock.done

/-- The next lock or unlock pass waits at the accept stage of slice `n` (R113, R115). -/
def State.lockWaits (s : State) (n : Nat) : Bool :=
  s.lock.go && !(s.lock.held && decide (s.vbFree n = 0))
    && (match s.nodeDom n with | some (d, D) => decide (s.sliceNode d D s.lockNext = n) | none => false)

/-- A maintenance pass has waited 64 FCLK and takes the next cycle (R60). -/
def State.maintDue (s : State) (n : Nat) : Bool :=
  (s.maintWaits n && decide ((s.slice n).sweep.waitAt + 64 ≤ s.clk.fclk)) || (s.lockWaits n && decide (s.lock.waitAt + 64 ≤ s.clk.fclk))

/-- The accept stage takes the pass of kind `kind` with message `m`: none that waits goes before it. -/
def State.accepts (s : State) (n kind : Nat) (m : Msg) : Bool :=
  let ws := s.waiting n
  !s.maintDue n && (match ws.find? (fun e => decide (e.kind = kind) && decide (e.msg = m)) with
    | some e => ws.all (fun x => !lexLt x.key e.key)
    | none => false)

/-- The accept stage takes a maintenance pass that waits since edge `since`: nothing else waits, or it has waited 64 FCLK. -/
def State.acceptsMaint (s : State) (n since : Nat) : Bool := (s.waiting n).isEmpty || decide (since + 64 ≤ s.clk.fclk)

/-! ### Invalidating a way (R70, R111, R202) -/

/-- Set a way to I: RRV 3, no presence, no owner; a locked way becomes a reservation, which is counted. -/
def State.invalWay (s : State) (n : Nat) (D : ImgDomain) (slot : Nat) : State :=
  let t := s.tagAt n slot
  let s := s.modTag n slot (fun t => if t.lock then { t with state := .i, keyid := 0, owner := 0xFF, subd := 0 } else {})
  let s := ((s.setPres n slot 0).setRrv n slot 3).predDrop n (slot / D.ways) (slot % D.ways)
  let s := s.modSlice n (fun x => { x with invalDue := x.invalDue.filter (fun k => decide (k ≠ slot)) })
  if t.lock ∧ t.state ≠ .i then s.bump (cSlc n 21) else s

/-! ### Near snoops and victims (R165, R166) -/

/-- The transaction tag of what slice `n` runs on a line: its victim's entry, from 0x800 on for the drain engine (R447), else its MSHR (DESIGN CHOICE, log entry 158). -/
def State.sliceTxn (s : State) (n : Nat) (l : LineAddr) : BitVec 12 :=
  match s.vbOf n l, s.mshrOf n l with
  | some (i, _), _ => BitVec.ofNat 12 (if i < 128 then 256 + i else 2048 + (i - 128) % 2048)
  | none, some (i, _) => BitVec.ofNat 12 i
  | none, none => 0

/-- Send a near snoop whose answer comes to this slice. -/
def State.snoopNear (s : State) (a : At) (g : Nat) (op : Op) (nodata : Bool) (req : Endpoint) (dl : Option KTime) (cls : BitVec 2) : State :=
  s.sendNear a.d a.D a.n g {
    op := op, line := a.l, txn := s.sliceTxn a.n a.l, requester := req, answerTo := sliceEp a.D.device a.n, sender := sliceEp a.D.device a.n, nodata := nodata
    dl := dl.getD 0, nodl := dl.isNone, cls := cls }

/-- A write-back or eviction notice of this slice to the line's home. -/
def State.sendWb (s : State) (a : At) (dirty : Bool) (x : LineData) : State :=
  s.sendHome a.d a.D a.n (s.lineHome a) {
    op := if dirty then .wb else .evn, line := a.l, requester := sliceEp a.D.device a.n, sender := sliceEp a.D.device a.n, data := if dirty then x else {}
    nodl := true, cls := 2 }

def dirtySt (c : CohState) : Bool := c = .m || c = .o

/-- An entry with no near answer due leaves NEAR: its WB or EVN goes home. The drain engine (numbers from 128) needs no message for a clean
line of this device's own home (R447). -/
def State.vbSettle (s : State) (a : At) : State :=
  match s.vbOf a.n a.l with
  | some (i, v) =>
    if v.sent || !v.pend.isEmpty || (s.slice a.n).evictDue.any (fun e => decide (e.1 = a.l)) then s
    else
      let quiet : Bool := 128 ≤ i && !dirtySt v.state && decide (s.lineHome a = a.D.device)
      let s := s.vbPut a.n i (if quiet then none else some { v with sent := true })
      let held := (s.slice a.n).heldSnoops.filter (fun m => decide (m.line = a.l))
      let s := s.modSlice a.n (fun x => { x with heldSnoops := x.heldSnoops.filter (fun m => decide (m.line ≠ a.l)) })
      let s := held.foldl (fun s m => s.qPush a.n 41 { src := a.n, dst := a.n, sink := .slice, msg := m }) s
      if quiet then s else s.sendWb a (dirtySt v.state) v.data
  | none => s

/-- Take the line of slot `slot`, read with the bit errors `flips`, as a victim into entry `i`: near copies are invalidated, then the line leaves. -/
def State.takeVictim (s : State) (n d : Nat) (D : ImgDomain) (slot i gate : Nat) (flips : List (BitVec 80) := []) : State :=
  let s := if dirtySt (s.tagAt n slot).state then s.checkLine n d D slot flips else s
  let t := s.tagAt n slot
  let a : At := { n := n, d := d, D := D, l := D.lineOf t.origin.toNat (slot / D.ways) t.tag }
  let pr := s.presAt n slot
  let gs := match t.near with | some h => insNat h (bitsOf pr 32) | none => bitsOf pr 32
  let v : VbEnt := { line := a.l, ten := t.ten, keyid := t.keyid, state := t.state, origin := t.origin, lock := t.lock, owner := t.owner, subd := t.subd
                     data := tget {} (s.slice n).tile slot, pend := gs, gate := gate }
  let s := (s.vbPut n i (some v)).modSlice n (fun x => { x with
    mshrs := x.mshrs.map (fun e => (e.1, e.2.map (fun m => if m.line = a.l then { m with copyLost := true } else m))) })
  let s := (s.chan n (.readLine false)).invalWay n D slot
  let s := gs.foldl (fun s g => s.snoopNear a g .snpInv (decide (t.near ≠ some g)) (sliceEp D.device n) none 2) s
  s.vbSettle a

/-! ### Replacement (R119 to R122) -/

/-- Candidate ways of a tenancy in a set. `floorOnly` is for lock passes. -/
def State.cands (s : State) (a : At) (t : Nat) (floorOnly : Bool) : List Nat :=
  let x := s.slice a.n
  (List.range a.D.ways).filter (fun w =>
    decide (x.wayOwn.getD w 0 = t) && (!floorOnly || x.floor.getLsbD w) && !(s.tagAt a.n (a.slot w)).lock && !decide ((a.set, w) ∈ x.quar))

def State.rrvAt (s : State) (n slot : Nat) : BitVec 2 := tget 3 (s.slice n).rrv slot

/-- The way with the highest RRV, then the lowest number. -/
def State.topRrv (s : State) (a : At) (ws : List Nat) : Option Nat :=
  ws.foldl (fun b w => match b with
    | some x => if (s.rrvAt a.n (a.slot x)).toNat < (s.rrvAt a.n (a.slot w)).toNat then some w else some x
    | none => some w) none

/-- The way a line is put into, by the ranks of R120: its number, whether a line leaves it, and whether that line is foreign. -/
def State.pickWay (s : State) (a : At) (cs : List Nat) : State × Option (Nat × Bool × Bool) :=
  let x := s.slice a.n
  let tg (w : Nat) : TagWord := s.tagAt a.n (a.slot w)
  match cs.find? (fun w => decide ((tg w).state = .i)) with
  | some w => (s, some (w, false, false))
  | none =>
    match s.topRrv a (cs.filter (fun w => decide ((tg w).ten.toNat ≠ x.wayOwn.getD w 0))) with
    | some w => (s, some (w, true, true))
    | none =>
      let up := 3 - (match s.topRrv a cs with | some w => (s.rrvAt a.n (a.slot w)).toNat | none => 3)
      let s := if up = 0 then s else cs.foldl (fun s w => s.setRrv a.n (a.slot w) (s.rrvAt a.n (a.slot w) + BitVec.ofNat 2 up)) s
      let c3 := cs.filter (fun w => decide (s.rrvAt a.n (a.slot w) = 3))
      match c3.find? (fun w => !dirtySt (tg w).state && decide (s.presAt a.n (a.slot w) = 0)) with
      | some w => (s, some (w, true, false))
      | none => (s, c3.head?.map (fun w => (w, true, false)))

/-- Where a line goes: a way, nowhere for want of a candidate (R122), or nowhere because its victim finds no entry, which is a ledger fault (R139). -/
inductive Room | way (w : Nat) | noWay | noEntry
deriving DecidableEq, Repr

/-- Make room for a line of tenancy `t`: a reservation of its own, or a victim's way, whose line is read with the bit errors `flips`. -/
def State.makeRoom (s : State) (a : At) (t gate : Nat) (flips : List (BitVec 80)) : State × Room :=
  match s.matchWay a with
  | some w => (s, .way w)
  | none =>
    let (s1, p) := s.pickWay a (s.cands a t false)
    match p with
    | none => (s, .noWay)
    | some (w, false, _) => (s1, .way w)
    | some (w, true, fo) =>
      match tfree (s.slice a.n).vbuf 128 with
      | none => (s, .noEntry)
      | some i =>
        let s1 := s1.bump (cSlc a.n 10)
        let s1 := if fo then s1.bump (cSlc a.n 11) else s1
        (s1.takeVictim a.n a.d a.D (a.slot w) i gate flips, .way w)

/-! ### MSHRs and write-buffer entries -/

def waiterOf (m : Msg) : Waiter :=
  { agent := m.requester, op := m.op, dl := m.dl, nodl := m.nodl, hitDl := m.hitDl, crit := m.crit, cls := m.cls, full := decide (m.mask = fullMask) }

/-- A waiter as the request it came from. -/
def msgOf (l : LineAddr) (w : Waiter) : Msg :=
  { op := w.op, line := l, requester := w.agent, dl := w.dl, nodl := w.nodl, hitDl := w.hitDl, crit := w.crit, cls := w.cls }

/-- Allocate an MSHR whose first waiter is `m`. It keeps the request's victim-buffer reservation until its fill pass (R231). -/
def State.newMshr (s : State) (a : At) (m : Msg) (req : Op) (wb : Bool) (near : Option NearMiss) : Option (State × Nat) :=
  match tfree (s.slice a.n).mshrs 192 with
  | none => none
  | some i =>
    let (_, g, w) := s.asker a.d m.requester a.l
    let e : Mshr := {
      line := a.l, origin := BitVec.ofNat 6 (a.D.hash a.l), ten := BitVec.ofNat 4 (s.askTen a.d m.requester a.l), keyid := s.lineKey a, req := req, dl := m.dl
      crit := m.crit, waiters := [waiterOf m], wbLink := wb, st := if near.isSome then .granted else .sent, near := near, record := s.lineRecord a, gate := g
      vbr := (match w with | some w => w.ents.vb | none => false), pport := if near.isSome then none else w.bind (·.pport) }
    some (s.modSlice a.n (fun x => { x with mshrs := tset none x.mshrs i (some e) }), i)

/-- Put a write's bytes into the line's write-buffer entry, a new one if it has none. -/
def State.wbMerge (s : State) (a : At) (m : Msg) : Option State :=
  let w := waiterOf m
  match s.wbOf a.n a.l with
  | some (i, e) =>
    some (s.modSlice a.n (fun x => { x with wbuf := tset none x.wbuf i (some { e with
      data := layBytes e.data m.data.bits m.mask, mask := e.mask ||| m.mask, writers := e.writers ++ [w] }) }))
  | none => (tfree (s.slice a.n).wbuf 256).map (fun i =>
    let g := (s.asker a.d m.requester a.l).2.1
    s.modSlice a.n (fun x => { x with wbuf := tset none x.wbuf i (some { line := a.l, keyid := s.lineKey a, data := m.data.bits, mask := m.mask, writers := [w], gate := g }) }))

/-! ### Answers -/

def slEp (a : At) : Endpoint := sliceEp a.D.device a.n

/-- A DATA answer to a request, without its data. -/
def dataFor (a : At) (m : Msg) (g : CohState) (wt : Bool) : Msg :=
  { op := .data, line := a.l, txn := m.txn, requester := m.requester, sender := slEp a, grant := g, crit := m.crit, cls := m.cls, dl := m.dl, nodl := m.nodl
    wt := wt, destDev := epDev m.requester }

/-- A request that a lookup answers as a hit is scheduled against its hit deadline (R62); a waiter of a fill (`fd`) keeps the deadline of its miss. -/
def atHit {α : Type} (m : Msg) (fd : Option α) : Msg := if fd.isSome then m else { m with dl := m.hitDl }

def grantFor (a : At) (m : Msg) (nodata : Bool) : Msg := { dataFor a m .m false with op := .grant, nodata := nodata }
def cmpFor (a : At) (m : Msg) : Msg := { dataFor a m .i false with op := .cmp }

def State.answer (s : State) (a : At) (m r : Msg) : State := s.sendEp a.d a.D a.n false m.requester r

/-- Give a requester the line: from the fill (`fd`, or the half that is still due), else by a tile read. -/
def State.give (s : State) (a : At) (slot : Nat) (m : Msg) (g : CohState) (wt : Bool) (fd : Option (LineData × Option Bool)) : State :=
  match fd with
  | some (x, h) => s.sendTile a.d a.D a.n slot
      { dataFor a m g wt with half := h } (match h with | some u => lineHalf x u | none => x) none
  | none => s.tileRead a.n slot (dataFor a (atHit m fd) g wt)

/-! ### Lookups (R142, R158, R162, R198) -/

/-- How a lookup commits. -/
inductive LookEnd | hit (w : Nat) | miss | near | merge | hold | err
deriving DecidableEq, Repr

def isOwn (op : Op) : Bool := op = .rdOwn || op = .ownUpg || op = .ownNodata

def State.lookErr (s : State) (a : At) (m : Msg) (e : ErrCode) : State × LookEnd := (s.answer a m (errFor m e), .err)

/-- An allocation without a free entry is a ledger fault (R139). -/
def State.ledger (s : State) (a : At) (m : Msg) : State × LookEnd := ((s.answer a m (errFor m .sliceFault)).sliceTrip a.n .ledger, .err)

/-- The request an MSHR sends home. -/
def homeReq (a : At) (m : Msg) (op : Op) : Msg :=
  { m with op := op, requester := slEp a, sender := slEp a, answerTo := m.requester, half := none, hold := none }

/-- What a miss allocates: an MSHR, and for a write its bytes in the write buffer. -/
def State.openMiss (s : State) (a : At) (m : Msg) (op : Op) (wb : Bool) (near : Option NearMiss) : Option (State × Nat) :=
  match s.newMshr a m op wb near with
  | none => none
  | some (s, i) => if wb then (s.wbMerge a m).map (fun s => (s, i)) else some (s, i)

/-- Send near snoops (group, type, NODATA), and the request home. -/
def State.missSend (s : State) (a : At) (i : Nat) (m : Msg) (op : Op) (sn : List (Nat × Op × Bool)) : State :=
  let s := s.modMshr a.n i (fun e => { e with snpPend := sn.map (·.1) })
  let s := sn.foldl (fun s x => s.snoopNear a x.1 x.2.1 x.2.2 m.requester (if m.nodl then none else some m.dl) m.cls) s
  let s := if op = .wrDur then s.bump (cSlc a.n 34) else s
  s.sendHome a.d a.D a.n (s.lineHome a) (homeReq a m op)

/-- Allocate, send near snoops, and send the request home. -/
def State.missWith (s : State) (a : At) (m : Msg) (op : Op) (wb : Bool) (sn : List (Nat × Op × Bool)) : State × LookEnd :=
  match s.openMiss a m op wb none with
  | none => s.ledger a m
  | some (s, i) => (s.missSend a i m op sn, .miss)

/-- The near deadline (R251). -/
def State.nearDl (s : State) (a : At) (m : Msg) : Option KTime :=
  if m.nodl then none else
    let (h, n, _) := s.bound a.d a.D (clsOf m.cls)
    some (if clsOf m.cls = .t2 then m.dl else m.hitDl - ns h + ns n)

/-- Commit a near miss: final tag and presence, an MSHR, and the snoops (R199). -/
def State.nearWith (s : State) (a : At) (m : Msg) (op : Op) (wb : Bool) (owner : Option Nat) (sn : List (Nat × Op × Bool)) (f : State → State) : State × LookEnd :=
  match s.openMiss a m op wb (some { pend := sn.map (·.1), owner := owner, reqNear := (s.reqGroup m.requester).isSome }) with
  | none => s.ledger a m
  | some (s, _) => (sn.foldl (fun s x => s.snoopNear a x.1 x.2.1 x.2.2 m.requester (s.nearDl a m) m.cls) (f s), .near)

/-- Near snoops for a request: `ownerOp` to the owner, SNP_INV with NODATA to sharers other than the requester's group. -/
def nearSnoops (t : TagWord) (pr : BitVec 32) (g : Option Nat) (ownerOp : Op) (nodata : Bool) : List (Nat × Op × Bool) :=
  (match t.near with | some h => if g = some h then [] else [(h, ownerOp, nodata)] | none => [])
    ++ ((bitsOf pr 32).filter (fun k => decide (t.near ≠ some k) && decide (g ≠ some k))).map (fun k => (k, Op.snpInv, true))

/-- Presence with one group alone, and with a group added. -/
def only (g : Option Nat) : BitVec 32 := match g with | some k => orBit 0 k | none => 0
def adding (p : BitVec 32) (g : Option Nat) : BitVec 32 := match g with | some k => orBit p k | none => p
def ownerOfGroup (g : Option Nat) : BitVec 8 := match g with | some k => BitVec.ofNat 8 k | none => 0xFF

/-- A write hit with nothing to obtain (R158 first row, R160). Bytes of a partial write are merged over the line as read with the bit errors `flips`. -/
def State.writeHit (s : State) (a : At) (w : Nat) (m : Msg) (flips : List (BitVec 80)) : State × LookEnd :=
  let k := a.slot w
  let s := if m.mask = fullMask then s else s.checkLine a.n a.d a.D k flips
  let x := tget {} (s.slice a.n).tile k
  let full : Bool := m.mask = fullMask
  if x.marks ≠ 0 ∧ full = false then s.lookErr a m .poison
  else
    let s := s.writeTile a.n k m.mask { bits := layBytes x.bits m.data.bits m.mask, marks := if full then 0 else x.marks }
    let s := s.modTag a.n k (fun t => { t with state := .m, subd := t.subd ||| subdOf m.mask })
    (s.answer a m (cmpFor a (atHit m (none : Option Unit))), .hit w)

/-- Presence without the asking group. -/
def State.othersOf (s : State) (a : At) (k : Nat) (m : Msg) : BitVec 32 :=
  match s.reqGroup m.requester with | some j => clrBit (s.presAt a.n k) j | none => s.presAt a.n k

/-- The asking group becomes the owner of a line in M, and the one it is present in. -/
def State.takeOwn (s : State) (a : At) (k : Nat) (g : Option Nat) : State :=
  (s.modTag a.n k (fun t => { t with state := .m, owner := ownerOfGroup g })).setPres a.n k (only g)

/-- Ownership asked of the home for a line held in S or O, without data for a write of all 128 bytes (R160): near copies but those in `keep` go, and there
is no near owner (R203). -/
def State.upgWith (s : State) (a : At) (k : Nat) (m : Msg) (wb : Bool) (sn : List (Nat × Op × Bool)) (keep : BitVec 32) : State × LookEnd :=
  let r := s.missWith a m (if wb && decide (m.mask = fullMask) then .ownNodata else .ownUpg) wb sn
  if r.2 = .miss then ((r.1.setPres a.n k (s.presAt a.n k &&& keep)).modTag a.n k (fun t => { t with owner := 0xFF }), .miss) else r

/-- RD_SH of a line in way `w`. -/
def State.hitShared (s : State) (a : At) (w : Nat) (m : Msg) (rcd : Bool) (fd : Option (LineData × Option Bool)) : State × LookEnd :=
  let k := a.slot w
  let t := s.tagAt a.n k
  let g := s.reqGroup m.requester
  match t.near with
  | some h => s.nearWith a m .rdSh false (some h) [(h, .snpSh, false)] (fun s => s.setPres a.n k (adding (s.presAt a.n k) g))
  | none =>
    let e : Bool := (decide (t.state = .e) || decide (t.state = .m)) && decide (s.othersOf a k m = 0) && !rcd && g.isSome
    let s := s.setPres a.n k (adding (s.presAt a.n k) g)
    let s := if e then s.modTag a.n k (fun t => { t with owner := ownerOfGroup g }) else s
    (s.give a k m (if e then .e else .s) rcd fd, .hit w)

/-- RD_NA of a line in way `w`. -/
def State.hitNa (s : State) (a : At) (w : Nat) (m : Msg) (rcd : Bool) (fd : Option (LineData × Option Bool)) : State × LookEnd :=
  match (s.tagAt a.n (a.slot w)).near with
  | some h => s.nearWith a m .rdNa false (some h) [(h, .snpCur, false)] (fun s => s)
  | none => (s.give a (a.slot w) m .i rcd fd, .hit w)

/-- RD_OWN or OWN_UPG of a line in way `w`. -/
def State.hitOwn (s : State) (a : At) (w : Nat) (m : Msg) (op : Op) (fd : Option (LineData × Option Bool)) (merged : Bool) : State × LookEnd :=
  let k := a.slot w
  let t := s.tagAt a.n k
  let pr := s.presAt a.n k
  let g := s.reqGroup m.requester
  let present : Bool := match g with | some j => pr.getLsbD j | none => false
  if t.state = .e ∨ t.state = .m then
    (if s.othersOf a k m = 0 ∧ t.near = none then
      (if op = .ownUpg ∧ present = true ∧ merged = false then (s.takeOwn a k g).answer a m (grantFor a (atHit m fd) true) else (s.takeOwn a k g).give a k m .m false fd, .hit w)
    else s.nearWith a m op false t.near (nearSnoops t pr g .snpOwn false) (fun s => s.takeOwn a k g))
  else s.upgWith a k m false (nearSnoops t pr g .snpInv false) (only g)

/-- OWN_NODATA of a line in way `w`. -/
def State.hitNodata (s : State) (a : At) (w : Nat) (m : Msg) (fd : Option (LineData × Option Bool)) : State × LookEnd :=
  let k := a.slot w
  let t := s.tagAt a.n k
  let pr := s.presAt a.n k
  let g := s.reqGroup m.requester
  if t.state = .e ∨ t.state = .m then
    (if s.othersOf a k m = 0 ∧ (t.near = none ∨ t.near = g) then ((s.takeOwn a k g).answer a m (grantFor a (atHit m fd) true), .hit w)
    else s.nearWith a m .ownNodata false t.near (nearSnoops t pr g .snpInv true) (fun s => s.takeOwn a k g))
  else s.upgWith a k m false (nearSnoops t pr g .snpInv true) (only g)

/-- WR of a line in way `w`. -/
def State.hitWrite (s : State) (a : At) (w : Nat) (m : Msg) (rcd : Bool) (flips : List (BitVec 80)) : State × LookEnd :=
  let full : Bool := m.mask = fullMask
  let k := a.slot w
  let t := s.tagAt a.n k
  let pr := s.presAt a.n k
  if rcd then s.missWith a m .wrDur true []
  else if t.state = .e ∨ t.state = .m then
    (if pr = 0 ∧ t.near = none then s.writeHit a w m flips
    else s.nearWith a m .wr true t.near (nearSnoops t pr none .snpInv full) (fun s => s.takeOwn a k none))
  else s.upgWith a k m true (nearSnoops t pr none .snpInv full) 0

/-- A lookup of a line that the slice holds in way `w`. A near owner does not ask again for what it has. -/
def State.lookPresent (s : State) (a : At) (w : Nat) (m : Msg) (op : Op) (rcd : Bool) (fd : Option (LineData × Option Bool)) (merged : Bool) (flips : List (BitVec 80)) : State × LookEnd :=
  let t := s.tagAt a.n (a.slot w)
  let self : Bool := t.near.isSome && decide (t.near = s.reqGroup m.requester)
  match op with
  | .rdSh => if self then s.lookErr a m .protocol else s.hitShared a w m rcd fd
  | .rdNa => s.hitNa a w m rcd fd
  | .rdOwn | .ownUpg => if self then s.lookErr a m .protocol else s.hitOwn a w m op fd merged
  | .ownNodata => s.hitNodata a w m fd
  | .wr => s.hitWrite a w m rcd flips
  | _ => s.lookErr a m .protocol

/-- A lookup of a line that the slice does not hold. -/
def State.lookAbsent (s : State) (a : At) (m : Msg) (op : Op) (rcd : Bool) : State × LookEnd :=
  if s.setLost a then s.lookErr a m .poison
  else match op with
    | .wr =>
      if rcd then s.missWith a m .wrDur true []
      else if (s.cands a (s.askTen a.d m.requester a.l) false).isEmpty && (s.matchWay a).isNone then s.missWith a m .wrThru true []
      else s.missWith a m (if m.mask = fullMask then .ownNodata else .rdOwn) true []
    | .ownUpg => s.missWith a m .rdOwn false []
    | .rdSh | .rdOwn | .ownNodata | .rdNa => s.missWith a m op false []
    | _ => s.lookErr a m .protocol

/-- Is a line under key identifier `k` covered by a sweep (R229)? -/
def covers (j : SweepJob) (d : Nat) (l : LineAddr) (k : BitVec 6) : Bool :=
  match j with
  | .range x lo hi _ => decide (x = d) && decide (lo.toNat ≤ pageOf l) && decide (pageOf l ≤ hi.toNat)
  | .key y => decide (k.toNat = y)

/-- A running sweep covers an MSHR that was allocated before its marker (R230). -/
def Slice.preCovered (x : Slice) (d : Nat) (e : Mshr) : Bool :=
  e.preMarker && x.sweep.active && (match x.sweep.job with | some j => covers j d e.line e.keyid | none => false)

/-- A lookup that finds an MSHR (R142, R230). -/
def State.lookJoin (s : State) (a : At) (i : Nat) (e : Mshr) (m : Msg) (op : Op) (rcd : Bool) : State × LookEnd :=
  let own : Bool := e.req = .rdOwn || e.req = .ownUpg || e.req = .ownNodata
  let hold : Bool := decide (e.st = .orphan) || decide (8 ≤ e.waiters.length) || decide (e.req = .wrDur)
    || (s.slice a.n).preCovered a.d e || isOwn op || (decide (op = .wr) && (rcd || e.near.isSome || !own))
  if hold then (s, .hold)
  else if op = .wr then
    match s.wbMerge a m with
    | some s => (s.modMshr a.n i (fun x => { x with waiters := x.waiters ++ [waiterOf m], wbLink := true }), .merge)
    | none => s.ledger a m
  else (s.modMshr a.n i (fun x => { x with waiters := x.waiters ++ [waiterOf m] }), .merge)

/-- The key identifier a lookup is under: that of the tag word it hits (R63), else that of the line's range. -/
def State.lookKey (s : State) (a : At) : BitVec 6 :=
  match s.wayOf a with | some w => (s.tagAt a.n (a.slot w)).keyid | none => s.lineKey a

/-- Is a lookup under key identifier `k` refused by the sweep of a key retire: does it come after the sweep's marker (R230)? -/
def State.keyDenies (s : State) (a : At) (k : BitVec 6) : Bool :=
  let w := (s.slice a.n).sweep
  decide (k ≠ 0) && decide ((s.key k.toNat).st = .retiring)
    && (if w.job = some (.key k.toNat) then w.active else decide (w.waiting ≠ some (.key k.toNat)))

def State.sweepDenies (s : State) (a : At) : Bool := s.keyDenies a (s.lineKey a) || s.keyDenies a (s.lookKey a)

/-- The decision of a lookup that no key retire refuses, and its effect at COM. `fd`: the fill's data for a waiter answered by it; `wt`: the grant was
write-through; `merged`: written bytes were merged in the same pass. -/
def State.lookOn (s : State) (a : At) (m : Msg) (fd : Option (LineData × Option Bool)) (wt merged : Bool) (flips : List (BitVec 80) := []) : State × LookEnd :=
  let rcd : Bool := s.lineRecord a || wt
  let op := if rcd && isOwn m.op then Op.rdSh else m.op
  match s.mshrOf a.n a.l with
  | some (i, e) => s.lookJoin a i e m op rcd
  | none =>
    if (s.vbOf a.n a.l).isSome || s.drainPend a.n a.l then (s, .hold)
    else match s.wayOf a with
      | some w => s.lookPresent a w m op rcd fd merged flips
      | none => s.lookAbsent a m op rcd

/-- The decision of a lookup at RES, and its effect at COM. -/
def State.look (s : State) (a : At) (m : Msg) (fd : Option (LineData × Option Bool)) (wt merged : Bool) (flips : List (BitVec 80) := []) : State × LookEnd :=
  if s.sweepDenies a then ((s.answer a m (errFor m .denied)).bump (cSlc a.n 27), .err) else s.lookOn a m fd wt merged flips

/-! ### Run-ahead (R153, R154) -/

/-- Send one hint. -/
def State.hint (s : State) (a : At) (l : LineAddr) : State :=
  let b : At := { a with l := l }
  if s.lineHome b ≠ a.D.device then s
  else
    let (s, ok) := s.injToken a.d a.n 2 2
    if ok then (s.bump (cSlc a.n 23)).sendHome a.d a.D a.n a.D.device { op := .pfHint, line := l, requester := slEp a, sender := slEp a, nodl := true, cls := 2 }
    else s.bump (cSlc a.n 24)

/-- The stream entry after a demand miss, and the lines to hint. -/
def trainStream (x : Stream) (l dist : Nat) : Stream × List Nat :=
  match x.dir with
  | none =>
    if l = x.last + 1 then ({ x with last := l, dir := some true, hinted := l }, [])
    else if l + 1 = x.last then ({ x with last := l, dir := some false, hinted := l }, [])
    else ({ x with last := l }, [])
  | some up =>
    let base := if up then max x.hinted l else min x.hinted l
    let ls := (List.range dist).filterMap (fun k =>
      let t := if up then base + 1 + k else base - 1 - k
      if (up || decide (k < base)) && decide (t / 32 = x.region) then some t else none)
    ({ x with last := l, hinted := ls.getLastD base }, ls)

/-- A demand miss trains the slice's streams; the oldest entry gives way. -/
def State.trainMiss (s : State) (a : At) (t : Nat) : State :=
  let x := s.slice a.n
  if x.dist = 0 then s
  else
    let r := a.l.toNat / 32
    match x.streams.find? (fun e => decide (e.ten.toNat = t) && decide (e.region = r)) with
    | some e =>
      let (e', ls) := trainStream e a.l.toNat x.dist
      let s := s.modSlice a.n (fun y => { y with streams := rmFirst e y.streams ++ [e'] })
      ls.foldl (fun s k => s.hint a (BitVec.ofNat 45 k)) s
    | none => s.modSlice a.n (fun y => { y with
        streams := (if 16 ≤ y.streams.length then y.streams.drop 1 else y.streams) ++ [{ ten := BitVec.ofNat 4 t, region := r, last := a.l.toNat }] })

/-! ### LOOKUP_PASS -/

/-- Hold a lookup for reissue, in the reissue queue of the pool (R143). -/
def State.holdLook (s : State) (n : Nat) (m : Msg) : State := (s.bump (cSlc n 5)).qPush n 44 { src := n, dst := n, sink := .slice, msg := m }

/-- A committed lookup of a line that the slice holds makes its way the predicted one and, unless it is a non-allocating read, sets its RRV to 0 (R70, R118). -/
def State.touch (s : State) (a : At) (m : Msg) (w : Option Nat) : State :=
  match w with
  | some w =>
    let s := s.predSet a w
    if m.op = .rdNa then s else s.setRrv a.n (a.slot w) 0
  | none => s

/-- What a committed lookup counts, for the slice and for the request's tenancy (R590), and returns, by its end; `w` is the way that held the line. -/
def State.lookDone (s : State) (a : At) (m : Msg) (w : Option Nat) (e : LookEnd) : State :=
  let t := s.askTen a.d m.requester a.l
  let s := match e with
    | .hold | .err => s
    | _ => if m.op = Op.rdNa then s else s.sampleSet a t
  match e with
  | .hit _ => (((((s.bump (cSlc a.n 1)).page t 3).touch a m w).returnUnits a.d m.requester a.l).returnEnts a.d m.requester a.l {} false).tracePath a.d a.l 0
  | .miss =>
    let s := (((s.bump (cSlc a.n 2)).page t 4).touch a m w).returnEnts a.d m.requester a.l { home := true } true
    if m.op = .rdSh ∨ isOwn m.op = true then s.trainMiss a t else s
  | .near => ((((s.bump (cSlc a.n 3)).page t 5).touch a m w).returnEnts a.d m.requester a.l {} false).tracePath a.d a.l 1
  | .merge => (s.bump (cSlc a.n 4)).returnEnts a.d m.requester a.l {} false
  | .hold => s.holdLook a.n m
  | .err => s.returnEnts a.d m.requester a.l {} false

/-- Whether data read by a corrective read that a replay issues, re-entering ACC `k` FCLK after c0, can leave by the hit deadline: 31 FCLK to injection, and the
41 FCLK of the budget after it (R92 to R94). -/
def State.inTime (s : State) (a : At) (m : Msg) (k : Nat) : Bool := m.nodl || decide (s.kt a.d + fclks (k + 72) ≤ m.hitDl)

/-- The way that a pass commits by its end: the line's way, unless it was held or refused. -/
def LookEnd.commits (e : LookEnd) (w : Option Nat) : Option Nat := match e with | .hold | .err | .merge => none | _ => w

/-- A lookup pass over an accepted request. -/
def State.lookupIn (s : State) (a : At) (m : Msg) (x : PassFault) : State :=
  let s := s.stamp a.d a.l (some m.requester) 2
  let pr := s.predicted a
  let r := s.runPass a.n a.d a.D a.set (fun s => s.wayOf a) pr (s.inTime a m) x
  match r.fin with
  | .gone => r.st.readsDone r.st a m r.reads none none false
  | .fault => (((r.st.readsDone r.st a m r.reads none none false).answer a m (errFor m .sliceFault)).returnEnts a.d m.requester a.l {} false).workEnd a.n a.l
  | .go =>
    let s := if pr.isNone then r.st.bump (cSlc a.n 16) else r.st
    let w := s.wayOf a
    let e := s.look a m none false false x.tile
    let used : Bool := (e.1.slice a.n).reads ≠ (s.slice a.n).reads
    let s := (e.1.readsDone s a m r.reads (e.2.commits w) w used).bump (cSlc a.n 0)
    ((s.lookDone a m w e.2).stamp a.d a.l (some m.requester) 3).workEnd a.n a.l

/-- LOOKUP_PASS: the request stands in the lookup queue, or has been released for reissue, and the accept stage takes it. -/
def execLookupPass (n : Nat) (m : Msg) (x : PassFault) (s : State) : Ans :=
  .next (match s.nodeDom n with
    | some (d, D) =>
      let a : At := { n := n, d := d, D := D, l := m.line }
      if s.isFenced (.slice n) || !s.accepts n 3 m then s
      else if m ∈ (s.slice n).reissue then (s.modSlice n (fun y => { y with reissue := rmFirst m y.reissue })).lookupIn a m x
      else (s.qTake n 40 m).lookupIn a m x
    | none => s)

end Sys2Proof.Machine
end

