-- ==== Sys2Proof/Machine/Fill.lean ====
section
/-! DEFINITION. Fill passes: line data, grants and errors that reach a slice for its MSHRs, and the end of a near miss (R141, R145 to R152, R159 to R164, R193, R199, R204, R230, R231). -/

namespace Sys2Proof.Machine

open Sys2Proof

/-! ### Entries for lines that leave outside the ordinary victim path -/

/-- A free record of the drain engine (R447). -/
def State.drainKey (s : State) (n : Nat) : Nat := 128 + (match tfree (s.slice n).drainVb 1024 with | some k => k | none => 1024)

/-- The entry that a line leaves through: a free one of the 128, or in a fenced slice the drain engine's. -/
def State.outKey (s : State) (n : Nat) : Option Nat := if s.isFenced (.slice n) then some (s.drainKey n) else tfree (s.slice n).vbuf 128

/-- Put a line straight into SENT and send it home (R231). Without an entry, which the reservation of the missing lookup rules out, it is a ledger fault. -/
def State.sendHeld (s : State) (a : At) (keyid : BitVec 6) (ten : BitVec 4) (st : CohState) (x : LineData) (gate : Nat) : State :=
  match s.outKey a.n with
  | some i => (s.vbPut a.n i (some {
      line := a.l, ten := ten, keyid := keyid, state := st, origin := BitVec.ofNat 6 (a.D.hash a.l), data := x, sent := true, gate := gate })).sendWb a (dirtySt st) x
  | none => (s.sendWb a (dirtySt st) x).sliceTrip a.n .ledger

/-- Invalidate the way that holds the line as a victim (R230). -/
def State.victimNow (s : State) (a : At) : State :=
  match s.wayOf a, s.outKey a.n with
  | some w, some i => s.takeVictim a.n a.d a.D (a.slot w) i 64
  | some _, none => s.sliceTrip a.n .ledger
  | none, _ => s

/-! ### The end of an MSHR -/

/-- Free an MSHR: held snoops and lookups of its line go on, tail entries are freed, the carried credit returns. -/
def State.freeMshr (s : State) (a : At) (i : Nat) (e : Mshr) : State :=
  let s := s.modSlice a.n (fun x => { x with mshrs := tset none x.mshrs i none, halves := x.halves.filter (fun h => decide (h.1 ≠ a.l)) })
  let held := (s.slice a.n).heldSnoops.filter (fun m => decide (m.line = a.l))
  let back := ((s.qOf a.n 44).map (·.msg)).filter (fun m => decide (m.line = a.l))
  let s := s.modSlice a.n (fun x => { x with heldSnoops := x.heldSnoops.filter (fun m => decide (m.line ≠ a.l)), reissue := x.reissue ++ back })
  let s := back.foldl (fun s m => s.qTake a.n 44 m) s
  let s := held.foldl (fun s m => s.qPush a.n 41 { src := a.n, dst := a.n, sink := .slice, msg := m }) s
  let s := match e.pport with | some q => s.modPort q (fun x => { x with carriedUsed := x.carriedUsed - 1 }) | none => s
  s.workEnd a.n a.l

/-- Free the write-buffer entry of the line. -/
def State.freeWb (s : State) (a : At) : State :=
  match s.wbOf a.n a.l with | some (i, _) => s.modSlice a.n (fun x => { x with wbuf := tset none x.wbuf i none }) | none => s

/-- COMP_ACK to the line's home (R193), with the transaction's deadline (R43). -/
def State.compAckHome (s : State) (a : At) (txn : BitVec 12) (dl : KTime) : State :=
  s.sendHome a.d a.D a.n (s.lineHome a) { op := .compAck, line := a.l, txn := txn, requester := slEp a, sender := slEp a, dl := dl, nodl := decide (dl = 0) }

/-- Answer every waiter of an MSHR with an error. -/
def State.waitersErr (s : State) (a : At) (ws : List Waiter) (c : ErrCode) : State :=
  ws.foldl (fun s w => s.answer a (msgOf a.l w) (errFor (msgOf a.l w) c)) s

/-! ### Merging written bytes (R159, R160, R147) -/

/-- The line after a merge, and the writers that are refused. -/
def mergeWb (x : LineData) (e : Option WbEnt) : LineData × Bool × List Waiter :=
  match e with
  | none => (x, false, [])
  | some b =>
    if x.marks = 0 then ({ bits := layBytes x.bits b.data b.mask, marks := 0 }, true, [])
    else match b.writers.findIdx? (fun w => w.full) with
      | some k => ({ bits := layBytes x.bits b.data b.mask, marks := 0 }, true, b.writers.take k)
      | none => (x, false, b.writers)

/-- Answer a write waiter: CMP, or ERR POISON when its bytes were not merged. -/
def State.writerDone (s : State) (a : At) (bad : List Waiter) (w : Waiter) : State :=
  let m := msgOf a.l w
  s.answer a m (if w ∈ bad then errFor m .poison else cmpFor a m)

/-- What a waiter that already has its first half still receives. -/
def restOf (second : Option Bool) (w : Waiter) : Option Bool := if w.gotHalf then second else none

/-- Answer a waiter after an installing fill, as a lookup that arrives just after it (R145). -/
def State.waiterLook (s : State) (a : At) (x : LineData) (second : Option Bool) (wt merged : Bool) (w : Waiter) : State :=
  let m := msgOf a.l w
  let r := s.lookOn a m (some (x, restOf second w)) wt merged
  if r.2 = .hold then r.1.holdLook a.n m else r.1

/-- Answer a waiter of a near miss as a lookup that arrives just after its fill pass. -/
def State.waiterAgain (s : State) (a : At) (w : Waiter) : State :=
  let m := msgOf a.l w
  let r := s.lookOn a m none false false
  if r.2 = .hold then r.1.holdLook a.n m else r.1

/-- Let a read that joined a write sent through go on as a lookup that arrives now. -/
def State.waiterNew (s : State) (a : At) (w : Waiter) : State :=
  let m := msgOf a.l w
  let r := s.look a m none false false
  if r.2 = .hold then r.1.holdLook a.n m else r.1

/-- Answer a waiter of a fill that installs nothing (R122, R148, R231): its data with GRANT I. A read that joined a non-allocating read whose MSHR carries no mark goes on as a miss. -/
def State.waiterPlain (s : State) (a : At) (e : Mshr) (x : LineData) (second : Option Bool) (w : Waiter) : State :=
  let m := msgOf a.l w
  if e.req = .rdNa ∧ w.op ≠ .rdNa ∧ e.inval = false then s.waiterLook a x second e.wt false w
  else if w.op = .ownNodata then s.answer a m { grantFor a m true with grant := .i }
  else
    let h := restOf second w
    s.sendTile a.d a.D a.n 0 { dataFor a m .i e.wt with half := h } (match h with | some u => lineHalf x u | none => x) none

/-! ### Fill passes -/

/-- Write the installed word, RRV and tile of a fill into way `w`. A reservation keeps LOCK and TEN (R110). -/
def State.install (s : State) (a : At) (w : Nat) (e : Mshr) (st : CohState) (subd : BitVec 2) (x : LineData) : State :=
  let k := a.slot w
  let t := s.tagAt a.n k
  let s := s.modTag a.n k (fun _ => {
    tag := a.D.tag a.l, origin := BitVec.ofNat 6 (a.D.hash a.l), state := st, keyid := e.keyid, ten := if t.lock then t.ten else e.ten
    lock := t.lock, owner := 0xFF, subd := subd })
  (((s.setPres a.n k 0).setRrv a.n k 2).predSet a w).setTile a.n k x

/-- What a fill that installs nothing gives back to the home: merged bytes, then the fill's data after M, then the copy after E. -/
def State.giveBack (s : State) (a : At) (e : Mshr) (merged hasData : Bool) (x : LineData) : State :=
  let g := e.grant.getD .i
  if merged then s.sendHeld a e.keyid e.ten .m x e.gate
  else if e.req = .rdNa then s
  else if g = .m ∧ hasData = true then s.sendHeld a e.keyid e.ten .m x e.gate
  else if g = .m ∨ g = .e then s.sendHeld a e.keyid e.ten .e x e.gate
  else s

/-- A record range's write whose ownership fill came as write-through: its bytes go home as a durable write (R161, R211). -/
def State.wtWrite (s : State) (a : At) (e : Mshr) (b : WbEnt) : State :=
  match b.writers with
  | [] => s.freeWb a
  | w :: ws =>
    let m : Msg := { msgOf a.l w with data := { bits := b.data }, mask := b.mask }
    match s.newMshr a m .wrDur true none with
    | none => (s.freeWb a).waitersErr a b.writers .sliceFault
    | some (s, i) =>
      let s := s.modMshr a.n i (fun x => { x with waiters := w :: ws, gate := e.gate })
      (s.bump (cSlc a.n 34)).sendHome a.d a.D a.n (s.lineHome a) (homeReq a m .wrDur)

/-- What a fill pass works with. -/
structure FillPlan where
  /-- the slice's own copy survived an OWN_UPG (R204), or an OWN_NODATA for a written line -/
  surv : Bool
  hasData : Bool
  /-- which half has already gone to the waiters -/
  second : Option Bool
  wb : Option WbEnt
  /-- the merged bytes go home as a durable write -/
  wtw : Bool
  /-- the line after merging, whether bytes were merged, and the writers whose bytes met a mark -/
  line : LineData
  merged : Bool
  bad : List Waiter
  /-- the fill's DATA arrived with poison marks: every read waiter receives ERR POISON (R147) -/
  marked : Bool
  st : CohState
  subd : BitVec 2

/-- The plan of a fill pass. Where ownership came without data and the slice holds no copy, the line's bytes are a free value (R198); a line is never taken
back from the victim buffer (R167). -/
def State.fillPlan (s : State) (a : At) (e : Mshr) : FillPlan :=
  let surv : Bool := (decide (e.req = .ownUpg) || decide (e.req = .ownNodata)) && !e.copyLost && (s.wayOf a).isSome
  let x : LineData := match surv, s.wayOf a, e.fillData with
    | true, some w, _ => tget {} (s.slice a.n).tile (a.slot w)
    | _, _, some x => x
    | _, _, none => { bits := Config.freeLine s.free }
  let wb := (s.wbOf a.n a.l).map (·.2)
  let wtw : Bool := e.wt && wb.isSome
  let r := mergeWb x (if wtw then none else wb)
  { surv := surv, hasData := surv || e.fillData.isSome
    second := ((s.slice a.n).halves.find? (fun h => decide (h.1 = a.l))).map (fun h => !h.2.1)
    wb := wb, wtw := wtw, line := r.1, merged := r.2.1, bad := r.2.2
    marked := !surv && (match e.fillData with | some x => decide (x.marks ≠ 0) | none => false), st := if r.2.1 then .m else e.grant.getD .i
    subd := match wb with | some b => if r.2.1 then subdOf b.mask else 0 | none => 0 }

/-- The way that a fill pass installs into, if it installs; a victim's line is read with the bit errors `flips`. -/
def State.fillWay (s : State) (a : At) (e : Mshr) (p : FillPlan) (flips : List (BitVec 80)) : State × Room :=
  if e.inval ∨ s.isFenced (.slice a.n) = true ∨ e.req = .rdNa then (s, .noWay)
  else if p.surv then (s, match s.wayOf a with | some w => .way w | none => .noWay)
  else s.makeRoom a e.ten.toNat e.gate flips

/-- Install into way `w` and answer the waiters from there. -/
def State.fillIn (s : State) (a : At) (e : Mshr) (p : FillPlan) (w : Nat) : State :=
  let s := if p.surv then
      ((s.modTag a.n (a.slot w) (fun t => { t with state := p.st, subd := t.subd ||| p.subd })).setRrv a.n (a.slot w) 2).predSet a w
    else s.install a w e p.st p.subd p.line
  let s := if p.surv ∧ p.merged = true then s.setTile a.n (a.slot w) p.line else s
  let s := if p.wtw then s else s.freeWb a
  e.waiters.foldl (fun s w =>
    if w.op = .wr then (if p.wtw then s else s.writerDone a p.bad w)
    else if p.marked then s.waitersErr a [w] .poison
    else s.waiterLook a p.line p.second e.wt p.merged w) s

/-- Install nothing: the waiters are answered, and what the home must have back goes to it. -/
def State.fillOut (s : State) (a : At) (e : Mshr) (p : FillPlan) : State :=
  let s := if e.inval ∨ s.isFenced (.slice a.n) = true then s.bump (cSlc a.n 26) else if e.req = Op.rdNa then s else s.bump (cSlc a.n 35)
  let s := if p.wtw then s else s.freeWb a
  let s := e.waiters.foldl (fun s w =>
    if w.op = .wr then (if p.wtw then s else s.writerDone a p.bad w)
    else if p.marked then s.waitersErr a [w] .poison
    else s.waiterPlain a e p.line p.second w) s
  let s := s.giveBack a e p.merged p.hasData p.line
  if e.inval then s.victimNow a else s

/-- A fill whose victim finds no entry (R139): its waiters end with SLICE_FAULT, the ledger fault is counted, and what the home must have back goes to it. -/
def State.fillLedger (s : State) (a : At) (e : Mshr) (p : FillPlan) : State :=
  let s := (s.freeWb a).waitersErr a e.waiters .sliceFault
  (s.sliceTrip a.n .ledger).giveBack a e false p.hasData p.line

/-- The fill pass of an MSHR whose grant and data have arrived; a line it reads to merge or move out shows the bit errors `flips`. -/
def State.fillPass (s : State) (a : At) (i : Nat) (e : Mshr) (flips : List (BitVec 80)) : State :=
  let part : Bool := match s.wbOf a.n a.l with | some (_, b) => decide (b.mask ≠ fullMask) | none => false
  let s := match (s.fillPlan a e).surv && part, s.wayOf a with | true, some w => s.checkLine a.n a.d a.D (a.slot w) flips | _, _ => s
  let p := s.fillPlan a e
  let s := (s.stamp a.d a.l none 10).bump (cSlc a.n 8)
  let s := if p.surv ∧ e.fillData.isSome = true then s.bump (cSlc a.n 36) else s
  let s := if p.hasData then s else s.drawn
  let s := s.freeMshr a i e
  let r := s.fillWay a e p flips
  let s : State := match r.2 with
    | .way w => r.1.fillIn a e p w
    | .noWay => r.1.fillOut a e p
    | .noEntry => r.1.fillLedger a e p
  let s := match p.wtw, p.wb with | true, some b => s.wtWrite a e b | _, _ => s
  s.compAckHome a e.txn e.dl

/-- Has everything arrived that the fill pass needs? Data a slice's own ownership request was forwarded waits for the GRANT (R210);
near copies that the request invalidates have answered. -/
def State.fillReady (s : State) (a : At) (e : Mshr) : Bool :=
  e.near.isNone && !e.durErr && e.snpPend.isEmpty && !((s.slice a.n).evictDue.any (fun v => decide (v.1 = a.l)))
    && (match e.req with
      | .rdSh | .rdNa => e.fillData.isSome
      | .rdOwn | .ownUpg | .ownNodata => e.grant.isSome && (e.fillData.isSome || e.bare)
      | _ => false)

/-- Run the fill pass if it is ready. -/
def State.fillTry (s : State) (a : At) (flips : List (BitVec 80) := []) : State :=
  match s.mshrOf a.n a.l with
  | some (i, e) => if s.fillReady a e then s.fillPass a i e flips else s
  | none => s

/-! ### Near misses (R199) -/

/-- What the fill pass of a near miss gives its own requester. -/
def State.nearGive (s : State) (a : At) (w : Nat) (e : Mshr) (nm : NearMiss) (q : Waiter) : State :=
  let m := msgOf a.l q
  if nm.fwd then s
  else if nm.lostOwner then ((s.answer a m (errFor m .poison)).ungrant a.n (a.slot w) (if e.req = .rdNa then none else s.reqGroup q.agent))
  else match e.req with
    | .rdSh => s.tileRead a.n (a.slot w) (dataFor a m .s (s.lineRecord a))
    | .rdNa => s.tileRead a.n (a.slot w) (dataFor a m .i (s.lineRecord a))
    | .ownNodata => s.answer a m (grantFor a m true)
    | _ => s.tileRead a.n (a.slot w) (dataFor a m .m false)

/-- The fill pass of a near miss: it installs nothing, answers the waiters and frees the MSHR. A marked one then invalidates the line in the same commit (R230):
its waiters that would need a near miss of their own are held for reissue. -/
def State.nearPass (s : State) (a : At) (i : Nat) (e : Mshr) (nm : NearMiss) (flips : List (BitVec 80)) : State :=
  let s := (s.stamp a.d a.l none 10).bump (cSlc a.n 8)
  let s := match e.req, s.wayOf a with | .wr, some w => s.checkLine a.n a.d a.D (a.slot w) flips | _, _ => s
  let wb := (s.wbOf a.n a.l).map (·.2)
  let s := s.freeMshr a i e
  match s.wayOf a with
  | none => (s.freeWb a).waitersErr a (if nm.fwd then e.waiters.drop 1 else e.waiters) .poison
  | some w =>
    let k := a.slot w
    let s : State := if e.req = .wr then
        let x := tget {} (s.slice a.n).tile k
        let (y, merged, bad) := mergeWb x wb
        let s := (s.freeWb a).modTag a.n k (fun t => { t with state := .m, subd := match wb with | some b => if merged then t.subd ||| subdOf b.mask else t.subd | none => t.subd })
        let s := if merged then s.setTile a.n k y else s
        e.waiters.foldl (fun s q => if q.op = .wr then s.writerDone a bad q else s) s
      else match e.waiters.head? with
        | some q => s.nearGive a w e nm q
        | none => s
    let rest := if e.req = .wr then e.waiters.filter (fun q => decide (q.op ≠ .wr)) else e.waiters.drop 1
    let s := rest.foldl (fun s q =>
      if e.inval ∧ (s.tagAt a.n k).near.isSome = true then s.holdLook a.n (msgOf a.l q) else s.waiterAgain a q) s
    if e.inval then (s.victimNow a).bump (cSlc a.n 25) else s

/-- Carry a near miss on: once every group has answered, GRANT follows data that an owner forwarded for ownership (R210), and with the requester's
COMP_ACK in, the fill pass runs. -/
def State.nearTry (s : State) (a : At) (flips : List (BitVec 80) := []) : State :=
  match s.mshrOf a.n a.l with
  | some (i, e) =>
    match e.near with
    | some nm =>
      if !nm.pend.isEmpty then s
      else
        let due : Bool := nm.fwd && isOwn e.req && !nm.grantSent
        let s := match due, e.waiters.head? with
          | true, some q => s.answer a (msgOf a.l q) (grantFor a (msgOf a.l q) false)
          | _, _ => s
        let nm := { nm with grantSent := nm.grantSent || due }
        if nm.acks ≤ (0 : Int) ∧ (s.slice a.n).evictDue.any (fun v => decide (v.1 = a.l)) = false then s.nearPass a i e nm flips
        else s.modMshr a.n i (fun x => { x with near := some nm })
    | none => s
  | none => s

/-! ### Errors from the home (R147, R164) -/

/-- An MSHR that ended with an error is freed once the near copies it snooped have answered. -/
def State.errTry (s : State) (a : At) : State :=
  match s.mshrOf a.n a.l with
  | some (i, e) => if e.durErr && e.snpPend.isEmpty && !((s.slice a.n).evictDue.any (fun v => decide (v.1 = a.l))) then s.freeMshr a i e else s
  | none => s

/-- An error answers every waiter; merged bytes are dropped. After a durable write the line and its near copies go. -/
def State.fillErr (s : State) (a : At) (i : Nat) (e : Mshr) (c : ErrCode) : State :=
  let s := s.waitersErr a e.waiters c
  let s := s.freeWb a
  let (s, gs) := if e.req ≠ .wrDur then (s, e.snpPend) else
    match s.wayOf a with
    | some w =>
      let gs := bitsOf (s.presAt a.n (a.slot w)) 32
      let s := s.invalWay a.n a.D (a.slot w)
      (gs.foldl (fun s g => s.snoopNear a g .snpInv true (slEp a) none 2) s, gs)
    | none => (s, [])
  (s.modMshr a.n i (fun x => { x with waiters := [], durErr := true, snpPend := gs, st := if x.st = .orphan then .orphan else .granted })).errTry a

/-! ### The commands -/

/-- The slice's message of the fill queue, with its line's MSHR. -/
def State.fillMsg (s : State) (n : Nat) (m : Msg) : Option (At × Nat × Mshr) :=
  match s.nodeDom n with
  | some (d, D) =>
    if (s.qOf n 43).any (fun u => decide (u.msg = m)) then
      (s.mshrOf n m.line).map (fun r => ({ n := n, d := d, D := D, l := m.line }, r.1, r.2))
    else none
  | none => none

/-- A message of the fill queue that no MSHR waits for goes. -/
def State.fillNone (s : State) (n : Nat) (m : Msg) : State := if (s.nodeDom n).isSome then s.qTake n 43 m else s

/-- The grant that data carries; data that an owner forwards with M is granted by the home's GRANT (R210). -/
def grantOf (e : Mshr) (m : Msg) : Option CohState := if m.fwd ∧ isOwn e.req = true ∧ m.grant = .m then e.grant else some m.grant

/-- Take data into the MSHR. -/
def State.takeData (s : State) (a : At) (i : Nat) (m : Msg) (x : LineData) : State :=
  s.modMshr a.n i (fun e => { e with
    fillData := some x, grant := grantOf e m, wt := e.wt || m.wt, txn := m.txn, st := if e.st = .orphan then .orphan else .granted })

/-- A fill pass that both lockstep copies fail: its waiters end, and the fill stays for a later pass (R89). -/
def State.fillFault (s : State) (a : At) (i : Nat) (e : Mshr) : State :=
  let s := (s.waitersErr a e.waiters .sliceFault).freeWb a
  let s := if e.st = .orphan then s else s.bump (cSlc a.n 12)
  s.modMshr a.n i (fun x => { x with waiters := [], st := .orphan })

/-- Run a fill pass of message `m` (R59, R80 to R92): `f` is what it does once its trips are over. In a fenced slice the drain engine takes it as it comes. -/
def State.fillRun (s : State) (a : At) (i : Nat) (e : Mshr) (m : Msg) (x : PassFault) (f : State → State) : State :=
  if s.isFenced (.slice a.n) then f s
  else if !s.accepts a.n 0 m then s
  else
    let r := s.runPass a.n a.d a.D a.set (fun s => s.wayOf a) (s.predicted a) (fun _ => true) x
    match r.fin with
    | .gone => r.st.readsDone r.st a m r.reads none none false
    | .fault => (r.st.readsDone r.st a m r.reads none none false).fillFault a i e
    | .go =>
      let s := f r.st
      let w := r.st.wayOf a
      s.readsDone r.st a m r.reads (if (s.mshrOf a.n a.l).isSome then none else s.wayOf a) (if s.wayOf a = w then w else none) false

/-- DATA: the fill pass, on a whole line or on the second half of an early restart. Data that nothing waits for goes. -/
def execData (n : Nat) (m : Msg) (x : PassFault) (s : State) : Ans :=
  .next (if m.op ≠ .data then s else
    match s.fillMsg n m with
    | none => s.fillNone n m
    | some (a, i, e) =>
      let h := (s.slice n).halves.find? (fun h => decide (h.1 = a.l))
      if e.near.isSome then s.qTake n 43 m
      else match m.half, h with
        | some _, none => s
        | some u, some f =>
          if u = f.2.1 then s.qTake n 43 m
          else s.fillRun a i e m x (fun s =>
            let s := s.qTake n 43 m
            if m.data.marks ≠ 0 then (s.fillErr a i e .poison).compAckHome a m.txn e.dl
            else (s.takeData a i m (joinHalves f.2.2 m.data)).fillTry a x.tile)
        | none, _ => s.fillRun a i e m x (fun s => ((s.qTake n 43 m).takeData a i m m.data).fillTry a x.tile))

/-- The state that the first half of an early restart gives a waiter: none for a non-allocating read, S with WT for a line of a RECORD range (R161). -/
def halfGrant (rcd : Bool) (g : CohState) (first : Bool) (op : Op) : CohState :=
  if op = .rdNa then .i else if rcd then .s else if isOwn op then .m else if g = .e ∧ first = true then .e else .s

/-- HALF_FILL: the first half goes to every waiter when all of them read. Beside an OWN_UPG whose copy survives it is held: the fill pass will use that copy (R204, R236). -/
def execHalfFill (n : Nat) (m : Msg) (s : State) : Ans :=
  .next (if m.op ≠ .data then s else
    match s.fillMsg n m, m.half with
    | some (a, i, e), some u =>
      if (s.slice n).halves.any (fun h => decide (h.1 = a.l)) || e.near.isSome then s
      else
        let s := s.qTake n 43 m
        let s := s.modSlice n (fun x => { x with halves := x.halves ++ [(a.l, u, m.data)] })
        let s := s.modMshr n i (fun e => { e with txn := m.txn, st := if e.st = .orphan then .orphan else .granted })
        if e.waiters.any (fun w => decide (w.op = .wr)) || s.isFenced (.slice n) || (s.fillPlan a e).surv then s
        else
          let rcd := e.record || e.wt || m.wt
          let s := e.waiters.zipIdx.foldl (fun s w =>
            (s.bump (cSlc n 9)).answer a (msgOf a.l w.1) {
              dataFor a (msgOf a.l w.1) (halfGrant rcd m.grant (decide (w.2 = 0)) w.1.op) rcd with half := some u, data := m.data }) s
          s.modMshr n i (fun e => { e with waiters := e.waiters.map (fun w => { w with gotHalf := true }) })
    | _, _ => s)

/-- GRANT: state without data. -/
def execGrant (p : PassAt) (m : Msg) (s : State) : Ans :=
  .next (if m.op ≠ .grant then s else
    match s.fillMsg p.n m with
    | none => s.fillNone p.n m
    | some (a, i, e) =>
      if e.near.isSome then s.qTake p.n 43 m
      else s.fillRun a i e m p.x (fun s => ((s.qTake p.n 43 m).modMshr p.n i (fun e => { e with
        grant := some m.grant, wt := e.wt || m.wt, bare := m.nodata, txn := m.txn, st := if e.st = .orphan then .orphan else .granted })).fillTry a p.x.tile))

/-- CMP: the home has taken a write sent through. Its writers complete; a read that joined goes on as if it arrived now (R142, R145). -/
def execCmp (p : PassAt) (m : Msg) (s : State) : Ans :=
  .next (if m.op ≠ .cmp then s else
    match s.fillMsg p.n m with
    | none => s.fillNone p.n m
    | some (a, i, e) =>
      if e.req ≠ .wrThru then s.qTake p.n 43 m
      else s.fillRun a i e m p.x (fun s =>
        let s := ((s.qTake p.n 43 m).freeWb a).freeMshr a i e
        e.waiters.foldl (fun s w => if w.op = .wr then s.answer a (msgOf a.l w) (cmpFor a (msgOf a.l w)) else s.waiterNew a w) s))

/-- The fill pass that a durable write's DUR starts: its bytes go over the line if it is present, which stays in S (R162). -/
def State.durPass (s : State) (a : At) (i : Nat) (e : Mshr) (m : Msg) (flips : List (BitVec 80)) : State :=
  let s := (s.stamp a.d a.l none 10).bump (cSlc a.n 8)
  let s : State := match s.wayOf a, s.wbOf a.n a.l with
    | some w, some (_, b) =>
      let k : Nat := a.slot w
      let s := if b.mask = fullMask then s else s.checkLine a.n a.d a.D k flips
      let x : LineData := tget {} (s.slice a.n).tile k
      if e.inval ∨ (x.marks ≠ 0 ∧ b.mask ≠ fullMask) then s
      else (s.writeTile a.n k b.mask { bits := layBytes x.bits b.data b.mask, marks := 0 }).modTag a.n k (fun t => { t with state := .s })
    | _, _ => s
  let s := e.waiters.foldl (fun s w => s.answer a (msgOf a.l w) (cmpFor a (msgOf a.l w))) s
  ((s.freeWb a).freeMshr a i e).compAckHome a m.txn e.dl

/-- DUR: the durable write is done. -/
def execDur (p : PassAt) (m : Msg) (s : State) : Ans :=
  .next (if m.op ≠ .dur then s else
    match s.fillMsg p.n m with
    | none => s.fillNone p.n m
    | some (a, i, e) =>
      if e.req ≠ .wrDur ∨ e.durErr then s.qTake p.n 43 m
      else s.fillRun a i e m p.x (fun s => (s.qTake p.n 43 m).durPass a i e m p.x.tile))

/-- An error from the home, or the report of a request that was absorbed on its way, at slice `n`. -/
def State.errAtSlice (s : State) (n : Nat) (m : Msg) (x : PassFault) : State :=
  match s.fillMsg n m with
  | none => s.fillNone n m
  | some (a, i, e) =>
    if e.near.isSome ∨ e.durErr then s.qTake n 43 m else s.fillRun a i e m x (fun s => (s.qTake n 43 m).fillErr a i e m.err)

/-- The earliest deadline of an MSHR's waiters. -/
def firstDl (ws : List Waiter) : Option KTime :=
  ws.foldl (fun b w => if w.nodl then b else match b with | some t => some (min t w.dl) | none => some w.dl) none

/-- MSHR_TIMEOUT: 12.08 ns (29 FCLK) before the earliest waiter's deadline. -/
def execMshrTimeout (n i : Nat) (s : State) : Ans :=
  .next (match s.nodeDom n, tget none (s.slice n).mshrs i with
    | some (d, D), some e =>
      match firstDl e.waiters with
      | some t =>
        if e.st ≠ .orphan ∧ t ≤ s.kt d + fclks 29 then
          let a : At := { n := n, d := d, D := D, l := e.line }
          ((s.waitersErr a e.waiters .timeout).bump (cSlc n 12)).modMshr n i (fun x => { x with waiters := [], st := .orphan })
        else s
      | none => s
    | _, _ => s)

end Sys2Proof.Machine
end

