-- ==== Sys2Proof/Machine/Near.lean ====
section
/-! DEFINITION. The slice between its near groups and its home: device-level snoops, near answers, near write-backs, and the home's acknowledgement of victims
(R84, R165 to R168, R184, R193, R199 to R203, R212, R213, R227, R376, R377, R447). -/

namespace Sys2Proof.Machine

open Sys2Proof

/-! ### What waits for a line -/

/-- Work of a line that waited goes on: lookups to reissue, snoops and near write-backs to their queues. -/
def State.release (s : State) (a : At) : State :=
  let x := s.slice a.n
  let snoops := x.heldSnoops.filter (fun m => decide (m.line = a.l))
  let wbs := x.heldWb.filter (fun m => decide (m.line = a.l))
  let back := ((s.qOf a.n 44).map (·.msg)).filter (fun m => decide (m.line = a.l))
  let s := s.modSlice a.n (fun x => { x with
    heldSnoops := x.heldSnoops.filter (fun m => decide (m.line ≠ a.l)), heldWb := x.heldWb.filter (fun m => decide (m.line ≠ a.l)), reissue := x.reissue ++ back })
  let s := back.foldl (fun s m => s.qTake a.n 44 m) s
  let s := snoops.foldl (fun s m => s.qPush a.n 41 { src := a.n, dst := a.n, sink := .slice, msg := m }) s
  wbs.foldl (fun s m => s.qPush a.n 42 { src := a.n, dst := a.n, sink := .slice, msg := m }) s

/-- Carry on whatever of a line may now end. -/
def State.settle (s : State) (a : At) (flips : List (BitVec 80) := []) : State :=
  let s := (((s.nearTry a flips).fillTry a flips).errTry a).vbSettle a
  if (s.mshrOf a.n a.l).isNone && (s.vbOf a.n a.l).isNone && !s.drainPend a.n a.l then s.release a else s

/-! ### Device-level snoops (R200 to R203) -/

/-- An answer of the slice to a snoop. -/
def snpAnswer (a : At) (m : Msg) (op : Op) (ns : CohState) (cnt : Nat) (ev : Bool) : Msg :=
  { op := op, line := a.l, txn := m.txn, requester := m.requester, answerTo := m.answerTo, sender := slEp a, newstate := ns, count := cnt, evicting := ev
    nodl := m.nodl, dl := m.dl, cls := m.cls }

def State.snpReply (s : State) (a : At) (m : Msg) (op : Op) (ns : CohState) (cnt : Nat) (ev : Bool) : State :=
  s.sendEp a.d a.D a.n false m.answerTo (snpAnswer a m op ns cnt ev)

/-- Data that the slice forwards as owner to the requester of a snoop. -/
def fwdData (a : At) (m : Msg) (g : CohState) (ev : Bool) : Msg :=
  { op := .data, line := a.l, txn := m.txn, requester := m.requester, sender := slEp a, grant := g, fwd := true, evicting := ev, crit := m.crit
    cls := m.cls, dl := m.dl, nodl := m.nodl, destDev := epDev m.requester }

/-- Send the tile line of a slot for a snoop: through the tile channel, or poisoned when the channel is fenced (R448). -/
def State.snpTile (s : State) (a : At) (slot : Nat) (r : Msg) : State :=
  if s.isFenced (.channel a.n) then s.sendTile a.d a.D a.n slot r poisonLine none else s.tileRead a.n slot r

/-- Forward a snoop to a near group, which answers the home itself. -/
def State.fwdSnoop (s : State) (a : At) (m : Msg) (g : Nat) (op : Op) (nodata toOwner : Bool) : State :=
  match s.linePort a.d g a.l with
  | some _ =>
    let s := s.sendNear a.d a.D a.n g { m with op := op, nodata := nodata, sender := slEp a }
    s.modSlice a.n (fun x => { x with fwdSnoops := x.fwdSnoops ++ [(m, g, toOwner)] })
  | none => s.lostAnswer a.d a.D a.n m g (toOwner && !nodata)

/-- A snoop that takes the line: sharers lose it, an owner is asked, and the line is set to I. Answers how many near groups were snooped. -/
def State.snpTake (s : State) (a : At) (w : Nat) (m : Msg) : State × Nat :=
  let k := a.slot w
  let t := s.tagAt a.n k
  let sh := (bitsOf (s.presAt a.n k) 32).filter (fun g => decide (t.near ≠ some g))
  let s := sh.foldl (fun s g => s.fwdSnoop a m g .snpInv true false) s
  let s := match t.near with | some h => s.fwdSnoop a m h m.op m.nodata true | none => s
  let s := s.invalWay a.n a.D k
  let s := s.modSlice a.n (fun x => { x with mshrs := x.mshrs.map (fun e => (e.1, e.2.map (fun y => if y.line = a.l then { y with copyLost := true } else y))) })
  (s, sh.length + (if t.near.isSome then 1 else 0))

/-- A snoop of a line that way `w` holds. -/
def State.snpPresent (s : State) (a : At) (w : Nat) (m : Msg) : State :=
  let k := a.slot w
  let t := s.tagAt a.n k
  let own : Bool := t.state = .e || t.state = .m || t.state = .o
  match m.op with
  | .snpSh =>
    if !own then s.snpReply a m .rspS .s 0 false
    else match t.near with
      | some h => ((s.fwdSnoop a m h .snpSh false true).modTag a.n k (fun t => { t with state := .o })).snpReply a m .rspS .o 1 false
      | none =>
        let ns : CohState := if t.state = .e then .s else .o
        ((s.modTag a.n k (fun t => { t with state := ns })).snpTile a k (fwdData a m .s false)).snpReply a m .rspFwd ns 0 false
  | .snpCur =>
    match t.near with
    | some h => (s.fwdSnoop a m h .snpCur false true).snpReply a m .rspS t.state 1 false
    | none =>
      if t.state = .m ∨ t.state = .o then (s.snpTile a k (fwdData a m .i false)).snpReply a m .rspFwd t.state 0 false
      else s.snpReply a m .rspS t.state 0 false
  | .snpOwn =>
    if own && t.near.isNone then
      let (s, n) := (s.snpTile a k (fwdData a m .m false)).snpTake a w m
      s.snpReply a m .rspFwd .i n false
    else
      let (s, n) := s.snpTake a w m
      s.snpReply a m .rspI .i n false
  | .snpInv =>
    if own && t.near.isNone && !m.nodata then
      let (s, n) := s.snpTake a w m
      s.snpTile a k (snpAnswer a m .sdata .i n false)
    else
      let (s, n) := s.snpTake a w m
      s.snpReply a m .rspI .i n false
  | _ => s

/-- A snoop answered from a victim-buffer entry in SENT (R166, R227). -/
def State.snpVictim (s : State) (a : At) (v : VbEnt) (m : Msg) : State :=
  let own : Bool := v.state = .e || v.state = .m || v.state = .o
  match m.op with
  | .snpSh =>
    if own then
      (s.sendEp a.d a.D a.n false m.requester { fwdData a m .s true with data := v.data }).snpReply a m .rspFwd (if v.state = .e then .s else .o) 0 true
    else s.snpReply a m .rspS .s 0 true
  | .snpCur =>
    if v.state = .m ∨ v.state = .o then
      (s.sendEp a.d a.D a.n false m.requester { fwdData a m .i true with data := v.data }).snpReply a m .rspFwd v.state 0 true
    else s.snpReply a m .rspS v.state 0 true
  | .snpOwn =>
    if own then (s.sendEp a.d a.D a.n false m.requester { fwdData a m .m true with data := v.data }).snpReply a m .rspFwd .i 0 true
    else s.snpReply a m .rspI .i 0 true
  | .snpInv =>
    if dirtySt v.state && !m.nodata then s.sendEp a.d a.D a.n false m.answerTo { snpAnswer a m .sdata .i 0 true with data := v.data }
    else s.snpReply a m .rspI .i 0 true
  | _ => s

/-- What a snoop pass does at COM. -/
def State.snoopDo (s : State) (a : At) (m : Msg) : State :=
  match s.vbOf a.n a.l, s.wayOf a with
  | some (_, v), _ => s.snpVictim a v m
  | none, some w => s.snpPresent a w m
  | none, none =>
    if s.setLost a then s.sendEp a.d a.D a.n false m.answerTo { snpAnswer a m .rspI .i 0 false with err := .poison }
    else s.snpReply a m .rspI .i 0 false

/-- Must a device-level snoop of the line be held (R200)? -/
def State.snoopHeld (s : State) (a : At) : Bool :=
  (match s.mshrOf a.n a.l with | some (_, e) => e.near.isSome | none => false)
    || (match s.vbOf a.n a.l with | some (_, v) => !v.sent | none => false) || s.drainPend a.n a.l

/-- A device-level snoop pass (R59, R68, R80 to R92). -/
def State.snoopIn (s : State) (a : At) (m : Msg) (x : PassFault) : State :=
  let fenced := s.isFenced (.slice a.n)
  if !fenced && !s.accepts a.n 1 m then s
  else if s.snoopHeld a then (s.qTake a.n 41 m).modSlice a.n (fun y => { y with heldSnoops := y.heldSnoops ++ [m] })
  else if fenced then ((s.qTake a.n 41 m).bump (cSlc a.n 6)).snoopDo a m
  else
    let r := s.runPass a.n a.d a.D a.set (fun s => s.wayOf a) (s.predicted a) (fun _ => true) x
    match r.fin with
    | .gone => r.st.readsDone r.st a m r.reads none none false
    | .fault => ((r.st.readsDone r.st a m r.reads none none false).qTake a.n 41 m).sendEp a.d a.D a.n false m.answerTo
        { snpAnswer a m .rspI .i 0 false with err := .sliceFault }
    | .go =>
      let w := if (r.st.vbOf a.n a.l).isSome then none else r.st.wayOf a
      let s := ((r.st.qTake a.n 41 m).bump (cSlc a.n 6)).snoopDo a m
      s.readsDone r.st a m r.reads w w (decide ((s.slice a.n).reads ≠ (r.st.slice a.n).reads))

/-- A snoop of kind `op` reaches slice `n`. -/
def State.snoop (s : State) (op : Op) (n : Nat) (m : Msg) (x : PassFault) : State :=
  match s.nodeDom n with
  | some (d, D) =>
    if m.op = op ∧ (s.qOf n 41).any (fun u => decide (u.msg = m)) = true then s.snoopIn { n := n, d := d, D := D, l := m.line } m x else s
  | none => s

/-- SNP_SH, SNP_OWN, SNP_INV and SNP_CUR. -/
def execSnpSh (n : Nat) (m : Msg) (x : PassFault) (s : State) : Ans := .next (s.snoop .snpSh n m x)
def execSnpOwn (n : Nat) (m : Msg) (x : PassFault) (s : State) : Ans := .next (s.snoop .snpOwn n m x)
def execSnpInv (n : Nat) (m : Msg) (x : PassFault) (s : State) : Ans := .next (s.snoop .snpInv n m x)
def execSnpCur (n : Nat) (m : Msg) (x : PassFault) (s : State) : Ans := .next (s.snoop .snpCur n m x)

/-! ### Data and notices of near groups (R168) -/

/-- A near group no longer holds the line. -/
def State.nearGone (s : State) (a : At) (g : Nat) : State :=
  match s.wayOf a with
  | some w => (s.setPres a.n (a.slot w) (clrBit (tget 0 (s.slice a.n).pres (a.slot w)) g)).modTag a.n (a.slot w)
      (fun t => if t.near = some g then { t with owner := 0xFF } else t)
  | none => s

/-- The owner field no longer names a group that keeps only S. -/
def State.nearNotOwner (s : State) (a : At) (g : Nat) : State :=
  match s.wayOf a with
  | some w => s.modTag a.n (a.slot w) (fun t => if t.near = some g then { t with owner := 0xFF } else t)
  | none => s

/-- A state of E held beside dirty near data becomes M (R187). -/
def State.nearDirty (s : State) (a : At) : State :=
  match s.wayOf a with
  | some w => s.modTag a.n (a.slot w) (fun t => if t.state = .e then { t with state := .m } else t)
  | none => s

/-- A near write-back pass: its data is written to the tile. -/
def State.nearData (s : State) (a : At) (x : LineData) : State :=
  let s := s.bump (cSlc a.n 7)
  match s.wayOf a with
  | some w => ((s.nearDirty a).setTile a.n (a.slot w) x).modTag a.n (a.slot w) (fun t => { t with subd := 3 })
  | none => s

def State.wbReply (s : State) (a : At) (m : Msg) (op : Op) : State :=
  s.sendEp a.d a.D a.n false m.sender { op := op, line := a.l, txn := m.txn, requester := m.sender, sender := slEp a, nodl := true }

/-- A WB or EVN takes effect (R168; R84 when a lost way may have held the line). -/
def State.wbApply (s : State) (a : At) (g : Nat) (m : Msg) : State :=
  let s := s.bump (cSlc a.n 7)
  match s.wayOf a with
  | some w =>
    let s := if m.op = .wb then
        ((s.nearDirty a).setTile a.n (a.slot w) m.data).modTag a.n (a.slot w) (fun t => { t with subd := 3 }) else s
    (s.nearGone a g).wbReply a m .wbAck
  | none => (if s.setLost a ∧ m.op = .wb then s.sendWb a true m.data else s).wbReply a m .wbAck

/-- A superseded WB or EVN: its data went by a snoop answer. -/
def State.wbSupersede (s : State) (a : At) (g : Nat) (m : Msg) : State :=
  let s := s.modSlice a.n (fun x => { x with evictDue := rmFirst (a.l, g) x.evictDue })
  (s.nearGone a g).wbReply a m .wbSuperseded

/-- Has the line a near snoop to group `g` that is not yet answered: of a near miss, an upgrade, a victim or a detach, or one forwarded for a device-level
snoop (R201, R202)? -/
def State.askedNear (s : State) (a : At) (g : Nat) : Bool :=
  (match s.mshrOf a.n a.l with
    | some (_, e) => (match e.near with | some nm => decide (g ∈ nm.pend) | none => false) || decide (g ∈ e.snpPend)
    | none => false)
  || (match s.vbOf a.n a.l with | some (_, v) => decide (g ∈ v.pend) | none => false)
  || (s.slice a.n).drainSnoops.any (fun e => decide (e = (a.l, g)))
  || (s.slice a.n).fwdSnoops.any (fun f => decide (f.1.line = a.l) && decide (f.2.1 = g))

/-- Does a near miss run on the line? -/
def State.nearRuns (s : State) (a : At) : Bool := match s.mshrOf a.n a.l with | some (_, e) => e.near.isSome | none => false

/-- A near WB or EVN, by the cases of R212 with the near miss in place of the home transaction. -/
def State.wbIn (s : State) (a : At) (g : Nat) (m : Msg) : State :=
  if (a.l, g) ∈ (s.slice a.n).evictDue then ((s.wbSupersede a g m).settle a)
  else if s.askedNear a g || s.nearRuns a then s.modSlice a.n (fun x => { x with heldWb := x.heldWb ++ [m] })
  else s.wbApply a g m

/-- The near group that a message comes from. -/
def State.fromGroup (s : State) (D : ImgDomain) (m : Msg) : Option Nat :=
  if epUnit m.sender || decide (epDev m.sender ≠ D.device) then none else s.groupOf (epLow m.sender)

/-- The pass of a message from a near cache: `f` is what it does at COM, `go` whether the accept stage takes it. A pass that both copies fail commits nothing,
and its message waits for another (R89). -/
def State.nearRun (s : State) (a : At) (go : Bool) (m : Msg) (x : PassFault) (f : State → State) : State :=
  if s.isFenced (.slice a.n) then f s
  else if !go then s
  else
    let r := s.runPass a.n a.d a.D a.set (fun s => s.wayOf a) (s.predicted a) (fun _ => true) x
    match r.fin with
    | .gone | .fault => r.st.readsDone r.st a m r.reads none none false
    | .go =>
      let s := f r.st
      s.readsDone r.st a m r.reads (r.st.wayOf a) (r.st.wayOf a) (decide ((s.slice a.n).reads ≠ (r.st.slice a.n).reads))

/-- WB or EVN at the slice: a pass of its own (R168). -/
def State.wbAtSlice (s : State) (op : Op) (n : Nat) (m : Msg) (x : PassFault) : State :=
  match s.nodeDom n with
  | some (d, D) =>
    if m.op = op ∧ (s.qOf n 42).any (fun u => decide (u.msg = m)) = true then
      let a : At := { n := n, d := d, D := D, l := m.line }
      match s.fromGroup D m with
      | some g => s.nearRun a (s.accepts n 2 m) m x (fun s => (s.qTake n 42 m).wbIn a g m)
      | none => s.qTake n 42 m
    else s
  | none => s

/-! ### Answers to near snoops (R199, R201) -/

/-- An EVICTING answer to a snoop that took ownership: a held WB or EVN of the group is superseded, else the group's message is awaited.
To another snoop it changes nothing, and a held message is applied. -/
def State.evictIn (s : State) (a : At) (g : Nat) (m : Msg) (takes : Bool) : State :=
  let held := (s.slice a.n).heldWb.find? (fun w => decide (w.line = a.l) && decide (s.fromGroup a.D w = some g))
  let drop (w : Msg) (s : State) : State := s.modSlice a.n (fun x => { x with heldWb := rmFirst w x.heldWb })
  if m.evicting && takes then
    match held with
    | some w => (drop w s).wbSupersede a g w
    | none => s.modSlice a.n (fun x => { x with evictDue := x.evictDue ++ [(a.l, g)] })
  else match held with
    | some w => (drop w s).wbApply a g w
    | none => s

/-- A lost owner's answer: the slice poisons the line in the pass that takes it (R377, R457). -/
def State.ownerLost (s : State) (a : At) (g : Nat) : State :=
  match s.wayOf a with
  | some w => s.poisonSlot a.n a.d (a.slot w) g a.l
  | none => s

/-- The answer of group `g` to the snoop of a near miss. -/
def State.nearAns (s : State) (a : At) (i : Nat) (e : Mshr) (nm : NearMiss) (g : Nat) (m : Msg) : State :=
  let lost : Bool := m.err = .unreachable && !m.nodata
  let takes : Bool := e.req ≠ .rdSh && e.req ≠ .rdNa
  let fwd : Bool := m.op = .rspFwd
  let nm' : NearMiss := { nm with
    pend := nm.pend.filter (fun k => decide (k ≠ g)), fwd := nm.fwd || fwd, lostOwner := nm.lostOwner || lost
    acks := nm.acks + (if fwd && nm.reqNear then 1 else 0) }
  let s := s.modMshr a.n i (fun x => { x with near := some nm' })
  let s := if lost then s.ownerLost a g
    else if takes then (if m.op = .sdata then s.nearData a m.data else s)
    else if m.evicting then s
    else match m.op with
      | .rspI => s.nearGone a g
      | .rspS => if e.req = .rdSh then s.nearNotOwner a g else s
      | .rspFwd =>
        if e.req = .rdNa then s
        else if m.newstate = .o then s.nearDirty a
        else if m.newstate = .i then s.nearGone a g
        else s.nearNotOwner a g
      | .sdata => (s.nearData a m.data).nearGone a g
      | _ => s
  (s.evictIn a g m takes).settle a

/-- The answer of a group to the SNP_INV that goes with an OWN_UPG or a failed durable write. -/
def State.invAns (s : State) (a : At) (i : Nat) (e : Mshr) (g : Nat) (m : Msg) : State :=
  let s := s.modMshr a.n i (fun x => { x with snpPend := e.snpPend.filter (fun k => decide (k ≠ g)) })
  let s := if m.err = .unreachable ∧ m.nodata = false then s.ownerLost a g else if m.op = .sdata then s.nearData a m.data else s
  (s.evictIn a g m true).settle a

/-- The answer of a group to the SNP_INV for a victim: dirty data is merged into the entry (R165). -/
def State.vbAns (s : State) (a : At) (i : Nat) (v : VbEnt) (g : Nat) (m : Msg) : State :=
  let v' : VbEnt := { v with pend := v.pend.filter (fun k => decide (k ≠ g)) }
  let up (c : CohState) : CohState := if c = .o then .o else .m
  let lost : Bool := m.err = .unreachable && !m.nodata
  let v' := if lost then { v' with data := poisonLine, state := up v.state }
    else if m.op = .sdata then { v' with data := m.data, state := up v.state } else v'
  let s := if m.op = .sdata then s.bump (cSlc a.n 7) else s
  let s := if lost then s.rep .slice a.n .poisoned a.d a.l else s
  let s := s.vbPut a.n i (some v')
  (s.evictIn a g m true).settle a

/-- The answer of a group that detaches (R376). -/
def State.drainAns (s : State) (a : At) (g : Nat) (m : Msg) : State :=
  let s := s.modSlice a.n (fun x => { x with drainSnoops := rmFirst (a.l, g) x.drainSnoops })
  let s := if m.err = .unreachable ∧ m.nodata = false then s.ownerLost a g else if m.op = .sdata then s.nearData a m.data else s
  ((s.evictIn a g m true).nearGone a g).settle a

/-- When the near snoop of the line that group `g` answers left its port: of a near miss, or of another of the slice's snoops (0: none has). -/
def State.nearAsked (s : State) (a : At) : KTime :=
  match s.mshrOf a.n a.l with
  | some (_, e) => (match e.near with | some nm => nm.snpAt | none => 0)
  | none => 0

/-- A near answer whose ingress, at `at_`, is more than 60 ns after its snoop's egress voids the promises of the line at the slice (R280). -/
def State.nearLate (s : State) (a : At) (m : Msg) (at_ : KTime) : State :=
  if s.nearAsked a ≠ 0 ∧ s.nearAsked a + ns 60 < at_ ∧ m.err = .none then
    let p := epLow m.sender
    (s.breach p a.d .near a.l).voidAll (fun w => decide (w.slice = a.n) && decide (w.line = a.l)) .near (s.port p).pagent
  else s

/-- What a snoop answer of group `g` does at COM, by what snooped the group. -/
def State.nearAnswerIn (s : State) (a : At) (g : Nat) (m : Msg) : State :=
  let n := a.n
  match s.mshrOf n a.l, s.vbOf n a.l with
  | some (i, e), vb =>
    (match e.near with
     | some nm => if g ∈ nm.pend then s.nearAns a i e nm g m
         else if (a.l, g) ∈ (s.slice n).drainSnoops then s.drainAns a g m else s
     | none =>
       if g ∈ e.snpPend then s.invAns a i e g m
       else if (a.l, g) ∈ (s.slice n).drainSnoops then s.drainAns a g m
       else match vb with
         | some (j, v) => if g ∈ v.pend then s.vbAns a j v g m else s
         | none => s)
  | none, some (j, v) => if g ∈ v.pend then s.vbAns a j v g m else s
  | none, none => if (a.l, g) ∈ (s.slice n).drainSnoops then s.drainAns a g m else s

/-- A snoop answer at the slice as near-level home, by the ingress time of its unit. Its data enters as a write-back pass (R199). -/
def State.nearAnswer (s : State) (op : Op) (n : Nat) (m : Msg) (x : PassFault) : State :=
  match s.nodeDom n, (s.qOf n 43).find? (fun u => decide (u.msg = m)) with
  | some (d, D), some u =>
    if m.op = op then
      let a : At := { n := n, d := d, D := D, l := m.line }
      match s.fromGroup D m with
      | none => s.qTake n 43 m
      | some g => s.nearRun a true m x (fun s => ((s.qTake n 43 m).nearLate a m u.ing).nearAnswerIn a g m)
    else s
  | _, _ => s

/-- COMP_ACK of a near group for data that another group forwarded (R193, R199). -/
def State.nearAck (s : State) (n : Nat) (m : Msg) (x : PassFault) : State :=
  match s.nodeDom n with
  | some (d, D) =>
    if m.op = .compAck ∧ (s.qOf n 43).any (fun u => decide (u.msg = m)) = true then
      let a : At := { n := n, d := d, D := D, l := m.line }
      match s.fromGroup D m, s.mshrOf n a.l with
      | some _, some (i, e) => s.nearRun a true m x (fun s =>
          ((s.qTake n 43 m).modMshr n i (fun x => { x with near := e.near.map (fun nm => { nm with acks := nm.acks - 1 }) })).settle a x.tile)
      | _, _ => s.qTake n 43 m
    else s
  | none => s

/-! ### Acknowledgements of victims (R165, R166) -/

/-- Free the victim-buffer entry of a line. -/
def State.vbDone (s : State) (a : At) : State :=
  match s.vbOf a.n a.l with
  | some (i, v) => if v.sent then (s.vbPut a.n i none).release a else s
  | none => s

/-- WB_ACK at the slice. An acknowledgement of a passed write-back (R168) finds no entry and is discarded; one that stands for a lost partner
discards the line's data with a record (R377). -/
def execWbAck (n : Nat) (m : Msg) (s : State) : Ans :=
  .next (match s.nodeDom n with
    | some (d, D) =>
      if m.op = .wbAck ∧ (s.qOf n 43).any (fun u => decide (u.msg = m)) = true then
        let s := s.qTake n 43 m
        let s := if m.err = .unreachable then s.rep .slice n .wbDiscard d m.line else s
        s.vbDone { n := n, d := d, D := D, l := m.line }
      else s
    | none => s)

/-- WB_SUPERSEDED at the slice: the entry's data is discarded. -/
def execWbSuperseded (n : Nat) (m : Msg) (s : State) : Ans :=
  .next (match s.nodeDom n with
    | some (d, D) =>
      if m.op = .wbSuperseded ∧ (s.qOf n 43).any (fun u => decide (u.msg = m)) = true then
        ((s.qTake n 43 m).bump (cSlc n 28)).vbDone { n := n, d := d, D := D, l := m.line }
      else s
    | none => s)

end Sys2Proof.Machine
end

