-- ==== Sys2Proof/Machine/Home.lean ====
section
/-! DEFINITION. The home shard: a line's key, version and data, activation, snoop answers, grants, the directory after them, write-backs and recalls
(R156, R205 to R217, R222 to R227, R400 to R405, R415 to R421, R450, R456, R457, R600). -/

namespace Sys2Proof.Machine

open Sys2Proof

/-! ### The check of a directory set (R217) -/

/-- A lost directory way (R217, R83 to R85). -/
def State.dirWayLost (s : State) (n d set w : Nat) (syn : BitVec 15) : State :=
  if (set, w) ∈ (s.home n).quar then s
  else
    let full : Bool := 16 ≤ (s.home n).quar.length
    let s := (s.modHome n (fun x => { x with quar := x.quar ++ [(set, w)], dirUe := true })).bump (cHom n 15)
    let (s, t) := s.winHit 7 (.home n)
    let s := s.raise { sev := 3, source := .home, inst := n, code := .ueDir, domain := d, set := set, way := w, syn := syn.setWidth 16,
                       addr := BitVec.ofNat 48 (16 * set + w), trip := t, win := if t then 7 else 255 }
    if t || full then s.fence (.home n) .fence (if t then some 7 else none) else s

/-- What the check of directory set `set` of shard `n` does (R217). -/
def State.dirCheck (s : State) (n d set : Nat) (x : DirFault) : State :=
  match x with
  | .clean => s
  | .corrected w y =>
    if 16 ≤ w then s
    else ((s.modHome n (fun h => { h with dirCorr := true })).bump (cHom n 14)).raise {
      sev := 0, source := .home, inst := n, code := .ceTag, domain := d, set := set, way := w, syn := y.setWidth 16, addr := BitVec.ofNat 48 (16 * set + w) }
  | .lost w y => if w < 16 then s.dirWayLost n d set w y else s

/-! ### The line at its home -/

def hmEp (a : At) : Endpoint := homeEp a.D.device a.n
/-- The device a message comes from, and this device. -/
def devOf (m : Msg) : Nat := (epDev m.sender).toNat
def At.me (a : At) : Nat := a.D.device.toNat

/-- The shard that caches the nodes of a subtree (R419). -/
def State.ncNode (s : State) (n d : Nat) (D : ImgDomain) (pos : Nat) : Nat := if D.node pos = n then n else s.guardian d D
def State.ncAt (s : State) (a : At) : Nat := s.ncNode a.n a.d a.D (a.D.hash a.l)

/-- The key of a line at activation: a re-key job's old or new key, else the entry's (R424). -/
def State.keyAt (s : State) (i : Nat) (e : RngEnt) (l : LineAddr) : BitVec 6 :=
  match s.prot.jobs.find? (fun j => j.2.active && !j.2.reseed && decide (j.2.rng = i)) with
  | some (_, j) => if l.toNat < j.cl ∨ l.toNat ∈ j.doneLines then j.new else j.old
  | none => e.keyid

/-- The version of a line, when its home knows it. -/
def State.verAt (s : State) (a : At) : Option (BitVec 64 × Nat) :=
  match s.lineTree a.d a.l with
  | some h => s.lineVer a.D h (s.ncAt a) a.l
  | none => some (Config.outsideMajor, Config.outsideMinor.toNat)

/-- A protected line whose version has MINOR 0 reads zero (R403). -/
def State.zeroAt (s : State) (a : At) : Bool :=
  (s.lineTree a.d a.l).isSome && (match s.verAt a with | some v => decide (v.2 = 0) | none => false)

/-- No further MINOR until the rollover ends (R411). -/
def State.verFull (s : State) (a : At) : Bool :=
  (s.lineTree a.d a.l).isSome && (match s.verAt a with | some v => decide (v.2 = 8191) | none => false)

def State.lostAt (s : State) (a : At) : Bool := match s.lineTree a.d a.l with | some h => s.lineLost a.D h a.l | none => false

/-- The MEMORY port of a line. -/
def State.memPort (s : State) (a : At) : Option Nat := (s.homeRange a.d a.l).map (·.port)

/-- A line from the codewords that memory returned, under a key (R400 to R403). -/
def State.openAt (s : State) (a : At) (key : BitVec 6) (cw : List (BitVec 80)) : Option LineData :=
  if key = 0 then some (decodeLine a.l cw)
  else match s.verAt a with
    | some v => openLine (s.key key.toNat).kd (s.key key.toNat).km key.toNat a.l v.1 (BitVec.ofNat 13 v.2) cw
    | none => none

/-- Write a line to memory: its next version, fresh pads and MAC (R404, R456). `dl`: the deadline of the transaction that writes it (R43); 0, none. -/
def State.writeLine (s : State) (a : At) (key : BitVec 6) (port : Nat) (txn : BitVec 12) (x : LineData) (durable : Bool) (dl : KTime := 0) : State :=
  let s := match s.lineTree a.d a.l with | some h => s.bumpLine a.d a.D h (s.ncAt a) a.l | none => s
  let s := if x.marks ≠ 0 then s.rep .home a.n .poisonWr a.d a.l else s
  let cw : List (BitVec 80) := if key = 0 then encodeLine a.l x else match s.verAt a with
    | some v => sealLine (s.key key.toNat).kd (s.key key.toNat).km key.toNat a.l v.1 (BitVec.ofNat 13 v.2) x
    | none => []
  s.toMem a.D a.n port { op := if durable then .memWrDur else .memWr, line := a.l, txn := txn, cw := cw, dl := dl }

/-! ### Nodes of a line (R416, R417) -/

/-- Start the read of a node, once. -/
def State.fetchNode (s : State) (D : ImgDomain) (h : ImgHome) (nn pos k i : Nat) (roll : Bool) : State :=
  let is (f : Fetch) : Bool := decide (f.tree = h.tree) && decide (f.pos = pos) && decide (f.level = k) && decide (f.index = i)
  if (s.home nn).fetches.any is then s.modHome nn (fun x => { x with fetches := modFirst is (fun f => { f with roll := f.roll || roll }) x.fetches })
  else
    let (s, t) := s.newTxn nn
    let l := nodeLine D h pos k i
    let s := s.modHome nn (fun x => { x with fetches := x.fetches ++ [{ tree := h.tree, pos := pos, level := k, index := i, line := l, txn := t, roll := roll }] })
    (s.bump (cHom nn 23)).toMem D nn h.port { op := .memRd, line := l, txn := t, cls := 2 }

/-- Read the nodes above a line that are not known. -/
def State.fetchPath (s : State) (a : At) : State :=
  match s.lineTree a.d a.l with
  | some h => (s.absentLevels a.D h (s.ncAt a) a.l).foldl (fun s k =>
      s.fetchNode a.D h (s.ncAt a) (a.D.hash a.l) k (lineU a.D h a.l / 64 ^ k) false) s
  | none => s

/-- The pool entry that an active transaction on the line pins. -/
def State.pinPlace (s : State) (a : At) : Option (Nat × Nat × Nat × Nat) :=
  match s.lineTree a.d a.l with
  | some h =>
    let i := lineU a.D h a.l / 64
    (match s.ncFind (s.ncAt a) h.tree (a.D.hash a.l) 1 i with
     | some e => if e.crown then none else some (s.ncAt a, h.tree, a.D.hash a.l, i)
     | none => none)
  | none => none

def State.pinMove (s : State) (p : Nat × Nat × Nat × Nat) (up : Bool) : State :=
  s.modHome p.1 (fun x => { x with nc := modFirst (ncIs p.2.1 p.2.2.1 1 p.2.2.2) (fun e => { e with pins := if up then e.pins + 1 else e.pins - 1 }) x.nc })

/-- Pin the line's level-1 node for its transaction, and note whether its version is still unknown. -/
def State.nodesFor (s : State) (a : At) : State :=
  let s := s.modTx a.n a.l (fun t => { t with waitNode := (s.verAt a).isNone })
  match s.txOf a.n a.l, s.pinPlace a with
  | some t, some p => if t.pin.isSome then s else (s.pinMove p true).modTx a.n a.l (fun t => { t with pin := some p })
  | _, _ => s

/-! ### Messages -/

/-- A message of the home to a transaction's requester. -/
def homeMsg (a : At) (t : Tx) (op : Op) (g : CohState) : Msg :=
  { op := op, line := a.l, txn := t.txn, requester := t.msg.requester, sender := hmEp a, grant := g, crit := t.msg.crit, cls := t.msg.cls, dl := t.msg.dl
    nodl := t.msg.nodl, wt := t.record, destDev := epDev t.msg.requester }

def State.homeSend (s : State) (a : At) (t : Tx) (m : Msg) : State := s.sendEp a.d a.D a.n true t.msg.requester m

/-- WB_ACK or WB_SUPERSEDED for a write-back or notice. -/
def State.wbAnswer (s : State) (a : At) (m : Msg) (op : Op) : State :=
  s.sendEp a.d a.D a.n true m.sender { op := op, line := a.l, txn := m.txn, requester := m.sender, sender := hmEp a, nodl := true }

/-- Case 1 of R212: the message is superseded. -/
def State.superseded (s : State) (a : At) (m : Msg) : State :=
  ((s.bump (cHom a.n 12)).dirDrop a.n a.D a.l (devOf m)).wbAnswer a m .wbSuperseded

/-- A snoop for the active transaction of a line. -/
def State.homeSnoop (s : State) (a : At) (t : Tx) (dev : Nat) (op : Op) (nodata : Bool) : State :=
  let ep : Endpoint := if dev = a.me then sliceEp a.D.device (s.sliceNode a.d a.D a.l) else sliceEp (BitVec.ofNat 9 dev) 0
  s.sendEp a.d a.D a.n true ep {
    op := op, line := a.l, txn := t.txn, requester := t.msg.requester, answerTo := hmEp a, sender := hmEp a, nodata := nodata, crit := t.msg.crit, cls := t.msg.cls
    dl := t.msg.dl, nodl := t.msg.nodl }

/-! ### Reads that are no longer wanted (R209) -/

/-- Whether a unit that satisfies `p` is still on its way through the device. -/
def State.onWay (s : State) (p : FUnit → Bool) : Bool :=
  s.pools.any (fun e => e.2.q.any (fun q => q.2.any p)) || s.routers.any (fun e => e.2.inq.any (fun q => q.2.any p) || e.2.turn.any (fun q => q.2.any p))

/-- Take such units out of every queue. -/
def State.takeBack (s : State) (p : FUnit → Bool) : State :=
  let cut (t : Tab (List FUnit)) : Tab (List FUnit) := (t.map (·.1)).foldl (fun t k => tmod [] t k (fun l => l.filter (fun u => !p u))) t
  let s := (s.pools.map (·.1)).foldl (fun s n => s.modPool n (fun x => { x with q := cut x.q })) s
  (s.routers.map (·.1)).foldl (fun s n => s.modRouter n (fun x => { x with inq := cut x.inq, turn := cut x.turn })) s

def memUnit (a : At) (txn : BitVec 12) (op : Op) (u : FUnit) : Bool :=
  decide (u.msg.op = op) && decide (u.msg.line = a.l) && decide (u.msg.txn = txn) && decide (u.msg.sender = hmEp a)

/-- Cancel the speculative read of a transaction: withdrawn until it has been handed to the FEC encoder, else discarded when it arrives or, if it has arrived,
at once (R209, R235). -/
def State.cancelRead (s : State) (a : At) (t : Tx) : State :=
  if t.mem = .injected ∨ t.mem = .handed then
    let s := s.tracePath a.d a.l 4
    let p := memUnit a t.txn .memRd
    if s.onWay p then ((s.takeBack p).bump (cHom a.n 7)).modTx a.n a.l (fun x => { x with mem := .none })
    else s.modTx a.n a.l (fun x => { x with mem := .cancelled })
  else if t.mem = .arrived ∧ t.memCw.isSome then
    ((s.tracePath a.d a.l 4).bump (cHom a.n 8)).modTx a.n a.l (fun x => { x with mem := .none, memCw := none })
  else s

/-! ### Run-ahead entries (R156) -/

def State.raDrop (s : State) (n : Nat) (p : RunAhead → Bool) : State :=
  let k := ((s.home n).ra.filter p).length
  if k = 0 then s else (s.bumpN (cHom n 19) k).modHome n (fun x => { x with ra := x.ra.filter (fun r => !p r) })

/-! ### The directory after a request (R210, R215, R216) -/

/-- Start the recall that `t` stands for: every recorded holder is snooped, an owner with its data unless `nodata`. `e` is the entry. -/
def State.recallOn (s : State) (a : At) (e : DirEnt) (hs : List Nat) : State :=
  let s := (s.bump (cHom a.n 13)).modTx a.n a.l (fun t => { t with started := true, acked := true, op := .snpInv, ownSnoop := true, pend := hs })
  match s.txOf a.n a.l with
  | some t => hs.foldl (fun s v =>
      let s := (s.bump (cHom a.n 4)).bumpN (cHom a.n 5) (if e.coarse then 1 else 0)
      s.homeSnoop a t v .snpInv (t.msg.nodata || decide (e.own ≠ some v))) s
  | none => s

/-- The holders of a victim entry are recalled for the transaction on `a.l`. -/
def State.victimRecall (s : State) (a : At) (w : Nat) (e : DirEnt) : State :=
  let v := a.D.dline e.origin.toNat (a.D.dset a.l) e.tag
  let b : At := { a with l := v }
  let s := s.dirPut a.n a.D a.l w none
  let s := (s.enqHome a.n (recallMsg a.D a.n v none false) 0 .recall).modTx a.n v (fun t => { t with parent := some a.l })
  (s.recallOn b e (s.dirHolders a.d a.D e)).modTx a.n a.l (fun t => { t with victim := some v })

/-- The entry that a request leaves behind. -/
def State.entryAfter (s : State) (a : At) (t : Tx) (g : CohState) : Option DirEnt :=
  let cur := (s.dirFind a.n a.D a.l).map (·.2)
  let tag := a.D.dtag a.l
  let org := BitVec.ofNat 6 (a.D.hash a.l)
  let rv := (epDev t.msg.requester).toNat
  let peer : Option Nat := if rv = a.me then none else some rv
  let was : Bool := match cur with | some e => e.coarse | none => false
  let groups : BitVec 8 := match cur with | some e => if e.coarse then e.groups else 0 | none => 0
  let listed : List Nat := match cur with | some e => if e.coarse then [] else s.dirSharers a.d a.D e | none => []
  let own : Option Nat := cur.bind (·.own)
  match t.op with
  | .rdSh =>
    if g = .e then (match peer with | some v => dirMake tag org was groups (some v) [] | none => cur)
    else
      let own' := if own.isSome ∧ own = t.keptO then own else none
      let sh := (listed ++ t.keptS ++ (match peer with | some v => [v] | none => [])).eraseDups
      dirMake tag org was groups own' (sh.filter (fun v => decide (v ≠ a.me)))
  | .rdOwn | .ownUpg | .ownNodata => match peer with | some v => dirMake tag org was 0 (some v) [] | none => none
  | .wr | .wrThru => none
  | .wrDur =>
    (match peer, cur with
     | some v, some e => if e.coarse then dirMake tag org true (if e.groups.getLsbD (v / 64) then orBit 0 (v / 64) else 0) none []
         else if e.points v then dirMake tag org false 0 none [v] else none
     | _, _ => none)
  | _ => cur

/-- Write the entry, taking a victim when the set is full. None: the grant waits. -/
def State.dirAfter (s : State) (a : At) (t : Tx) (g : CohState) : Option State :=
  let e := s.entryAfter a t g
  match s.dirFind a.n a.D a.l, e with
  | some (w, _), _ => some (s.dirPut a.n a.D a.l w e)
  | none, none => some s
  | none, some x =>
    match s.dirRoom a.n a.D a.l with
    | .free w => some (s.dirPut a.n a.D a.l w (some x))
    | .victim w v => some ((s.victimRecall a w v).dirPut a.n a.D a.l w (some x))
    | .wait => none

/-! ### Answering a request -/

/-- An error ends the transaction (R191). Data an owner sent to the home is put back into memory first. -/
def State.homeFail (s : State) (a : At) (c : ErrCode) : State :=
  match s.txOf a.n a.l with
  | none => s
  | some t =>
    let s := s.cancelRead a t
    let keep : Bool := t.sdata.isSome && !t.waitNode && !t.memWr
    let s := match t.sdata with
      | some x => if keep then s.writeLine a t.key t.port t.txn x false else s
      | none => s
    let s := s.modTx a.n a.l (fun x => { x with answered := true, acked := true, err := c, memWr := x.memWr || keep, durDue := false })
    s.homeSend a t { homeMsg a t .err .i with err := c, wt := false }

/-- The data of a line for a request: what is known so far. -/
inductive Got | data (x : LineData) | wait | fail (c : ErrCode) (mac : Bool)
deriving DecidableEq, Repr

def State.homeData (s : State) (a : At) (t : Tx) : Got :=
  match t.sdata with
  | some x => .data x
  | none =>
    if t.memErr ≠ .none then .fail t.memErr false
    else if t.waitNode then .wait
    else match t.memData, t.memCw with
      | some x, _ => .data x
      | none, some cw => (match s.openAt a t.key cw with | some x => .data x | none => .fail .integrity true)
      | none, none => .wait

/-- A verification failure at the line's home (R403). -/
def State.macAt (s : State) (a : At) : State :=
  match s.lineTree a.d a.l with
  | some h => s.macFail a.d a.n h.tree a.l
  | none => (s.bump (cHom a.n 22)).rep .home a.n .macFail a.d a.l

def State.failGot (s : State) (a : At) (c : ErrCode) (mac : Bool) : State := (if mac then s.macAt a else s).homeFail a c

/-- Send line data with its grant, as two units when the critical half came early (R150). -/
def State.sendFill (s : State) (a : At) (t : Tx) (g : CohState) (x : LineData) : State :=
  let m := homeMsg a t .data g
  match t.two with
  | some h => (s.homeSend a t { m with half := some h, data := lineHalf x h }).homeSend a t { m with half := some (!h), data := lineHalf x (!h) }
  | none => s.homeSend a t { m with data := x }

def State.homeAnswered (s : State) (a : At) : State := s.modTx a.n a.l (fun x => { x with answered := true })

/-- The entry is written, `f` answers, and the transaction is answered; while no entry can be had, the grant waits. -/
def State.granted (s : State) (a : At) (t : Tx) (g : CohState) (f : State → State) : State :=
  match s.dirAfter a t g with
  | some s => (f s).homeAnswered a
  | none => s

/-- The state that a read or an ownership request is granted. -/
def State.grantState (s : State) (a : At) (t : Tx) : CohState :=
  if t.op = .rdNa then .i else if isOwn t.op then .m
  else if !t.record && !t.fwd && t.keptS.isEmpty && t.keptO.isNone && (s.dirFind a.n a.D a.l).isNone then .e else .s

/-- A fill whose marks all lie in the second of its two units: the first has been sent, the second carries POISON (R152). The entry stays as an error leaves it. -/
def firstClean (t : Tx) (x : LineData) : Bool := match t.two with | some h => decide ((lineHalf x h).marks = 0) | none => false

/-- Answer with the line's data. -/
def State.serveData (s : State) (a : At) (t : Tx) : State :=
  match s.homeData a t with
  | .wait => s
  | .fail c mac => s.failGot a c mac
  | .data x =>
    if x.marks = 0 then s.granted a t (s.grantState a t) (fun r => r.sendFill a t (s.grantState a t) x)
    else if firstClean t x then (s.sendFill a t (s.grantState a t) x).modTx a.n a.l (fun y => { y with answered := true, err := .poison })
    else s.homeFail a .poison

/-- Answer a read or an ownership request once every expected answer is in. -/
def State.serveRead (s : State) (a : At) (t : Tx) : State :=
  let g := s.grantState a t
  if t.op = .ownNodata ∨ (t.op = .ownUpg ∧ t.ptrHeld = true) then
    s.granted a t g (fun s => s.homeSend a t { homeMsg a t .grant g with nodata := true })
  else if t.fwd then s.granted a t g (fun s => if isOwn t.op then s.homeSend a t (homeMsg a t .grant g) else s)
  else s.serveData a t

/-- Write `x` for a request; the answer follows the write. -/
def State.servePut (s : State) (a : At) (t : Tx) (x : LineData) : State :=
  let dur : Bool := t.op = .wrDur
  if s.verFull a then s
  else match s.dirAfter a t .i with
    | some s => (s.writeLine a t.key t.port t.txn x dur (if t.msg.nodl then 0 else t.msg.dl)).modTx a.n a.l (fun y => { y with memWr := true, durDue := dur })
    | none => s

/-- Lay a write's bytes over the line and write it (R160, R210). -/
def State.serveWrite (s : State) (a : At) (t : Tx) : State :=
  if t.waitNode then s
  else if t.msg.mask = fullMask then s.servePut a t { bits := t.msg.data.bits }
  else match s.homeData a t with
    | .wait => s
    | .fail c mac => s.failGot a c mac
    | .data x => if x.marks ≠ 0 then s.homeFail a .poison else s.servePut a t { bits := layBytes x.bits t.msg.data.bits t.msg.mask }

/-- The error a lost line gives an operation (R421). -/
def lostErr (op : Op) : ErrCode := if op = .ownNodata ∨ isWrite op = true then .integrity else .poison

/-- Discard a write-back's data, with a record when `loud` (R211, R377, R393, R399, R421, R427). -/
def State.wbDiscard (s : State) (a : At) (count loud : Bool) : State :=
  let s := if count then s.bump (cHom a.n 31) else s
  if loud then s.rep .home a.n .wbDiscard a.d a.l else s

/-- The sender leaves the directory and is acknowledged. -/
def State.wbEnd (s : State) (a : At) (m : Msg) : State :=
  ((s.dirDrop a.n a.D a.l (devOf m)).wbAnswer a m .wbAck).homeAnswered a

/-- Can data be written for the line: its key and port, or why not (whether counted, whether recorded). -/
def State.wbTarget (s : State) (a : At) : Except (Bool × Bool) (BitVec 6 × Nat) :=
  match s.rngHome a.d a.l, s.memPort a with
  | some (i, e), some p =>
    let k := s.keyAt i e a.l
    if i ∈ s.prot.closed then .error (false, false)
    else if e.record then .error (true, true)
    else if k ≠ 0 ∧ ((s.key k.toNat).st = .free ∨ (s.key k.toNat).fenced = true) then .error (true, true)
    else if !s.inSvc p then .error (true, true)
    else if s.lostAt a then .error (true, true)
    else .ok (k, p)
  | _, _ => .error (true, true)

/-- A WB or EVN under case 3 of R212 becomes the line's active transaction; `held` waits beside it. -/
def State.startWb (s : State) (a : At) (m : Msg) (held : List Msg) : State :=
  let (s, x) := s.newTxn a.n
  let s := (s.bump (cHom a.n 11)).modHome a.n (fun y => { y with
    txs := y.txs ++ [{ line := a.l, kind := if m.op = .wb then .wback else .evn, msg := m, started := true, acked := true, txn := x, heldWb := held }] })
  if m.op ≠ .wb then s.wbEnd a m
  else match s.wbTarget a with
    | .error (c, l) => (s.wbDiscard a c l).wbEnd a m
    | .ok (k, p) => ((s.modTx a.n a.l (fun t => { t with key := k, port := p })).fetchPath a).nodesFor a

/-- Write data that belongs to no request: a write-back's, or what a recall brought. -/
def State.putBack (s : State) (a : At) (t : Tx) (x : LineData) (done : State → State) : State :=
  match s.wbTarget a with
  | .error (c, l) => done (s.wbDiscard a c l)
  | .ok (k, p) =>
    if t.waitNode || s.verFull a then s
    else (s.writeLine a k p t.txn x false).modTx a.n a.l (fun y => { y with memWr := true, key := k, port := p })

/-! ### Activation (R208) -/

/-- Snoops of a request, by the table of R210: device, type, NODATA. -/
def snoopSet (op : Op) (own : Option Nat) (sh : List Nat) (me : Nat) (probe : Bool) : List (Nat × Op × Bool) :=
  let o (k : Op) (nd : Bool) : List (Nat × Op × Bool) := match own with | some v => [(v, k, nd)] | none => []
  let h (nd : Bool) : List (Nat × Op × Bool) := sh.map (fun v => (v, Op.snpInv, nd))
  let p (k : Op) (nd : Bool) : List (Nat × Op × Bool) := if probe then [(me, k, nd)] else []
  match op with
  | .rdSh => o .snpSh false ++ p .snpSh false
  | .rdOwn | .ownUpg => o .snpOwn false ++ h true ++ p .snpOwn false
  | .ownNodata | .wrDur => o .snpInv true ++ h true ++ p .snpInv true
  | .rdNa => o .snpCur false ++ p .snpCur false
  | .wr | .wrThru => o .snpInv false ++ h false ++ p .snpInv false
  | _ => []

/-- Does a request need the line's data? -/
def needsData (t : Tx) : Bool :=
  match t.op with
  | .rdSh | .rdOwn | .rdNa => true
  | .ownUpg => !t.ptrHeld
  | .wr | .wrThru | .wrDur => t.msg.mask ≠ fullMask
  | _ => false

/-- Why a request ends at its activation. -/
def State.actFail (s : State) (a : At) (t : Tx) : Option ErrCode :=
  if !s.inSvc t.port then some .unreachable
  else if s.dirLost a.n a.D a.l && (s.dirFind a.n a.D a.l).isNone then some .poison
  else if s.lostAt a then some (lostErr t.op)
  else if (match t.tree with | some k => s.isFenced (.frond k) | none => false) && !(isWrite t.op && decide (t.msg.mask = fullMask)) then some .integrity
  else if t.key ≠ 0 ∧ ((s.key t.key.toNat).st = .free ∨ (s.key t.key.toNat).fenced = true) then some .integrity
  else none

/-- The snoops and the probe of a request. -/
def State.actSnoop (s : State) (a : At) (t : Tx) : State :=
  let rv := (epDev t.msg.requester).toNat
  let e := (s.dirFind a.n a.D a.l).map (·.2)
  let own := (e.bind (·.own)).filter (fun v => decide (v ≠ rv))
  let sh := (match e with | some x => s.dirSharers a.d a.D x | none => []).filter (fun v => decide (v ≠ rv))
  let coarse : Bool := match e with | some x => x.coarse | none => false
  let set := snoopSet t.op own sh a.me (!isSliceOf a.D.device t.msg.requester)
  let s := s.modTx a.n a.l (fun x => { x with pend := set.map (·.1), ownSnoop := decide (t.op ≠ .rdSh) && decide (t.op ≠ .rdNa) })
  let s := set.foldl (fun s v =>
    let s := if v.1 = a.me then s.bump (cHom a.n 3) else (s.bump (cHom a.n 4)).bumpN (cHom a.n 5) (if coarse then 1 else 0)
    s.homeSnoop a t v.1 v.2.1 v.2.2) s
  if set.isEmpty then s else s.stamp a.d a.l none 6

/-- The data side of an activation: a run-ahead entry, zeros, or the speculative read beside the node reads. -/
def State.actRead (s : State) (a : At) (t : Tx) : State :=
  let s := (s.fetchPath a).nodesFor a
  match (s.home a.n).ra.find? (fun r => decide (r.line = a.l)) with
  | some r =>
    let s := s.modHome a.n (fun x => { x with ra := x.ra.filter (fun y => decide (y.line ≠ a.l)) })
    if !needsData t then s.bump (cHom a.n 19)
    else
      (s.bump (cHom a.n 17)).modTx a.n a.l (fun x => { x with
        txn := if r.data.isNone && r.cw.isNone then r.txn else x.txn, memData := r.data, memCw := r.cw
        mem := if r.data.isNone && r.cw.isNone then .injected else .arrived })
  | none =>
    if !needsData t then s
    else if s.zeroAt a then s.modTx a.n a.l (fun x => { x with memData := some {}, mem := .arrived })
    else (s.modTx a.n a.l (fun x => { x with mem := .injected })).toMem a.D a.n t.port {
        op := .memRd, line := a.l, txn := t.txn, cls := t.msg.cls, crit := t.msg.crit, dl := if t.msg.nodl then 0 else t.msg.dl }

/-- A queued recall becomes active. -/
def State.actRecall (s : State) (a : At) (t : Tx) : State :=
  match s.dirFind a.n a.D a.l with
  | some (_, e) =>
    let hs := s.dirHolders a.d a.D e
    s.recallOn a e (if epDev t.msg.requester = t.msg.destDev then hs else hs.filter (fun v => decide (v = t.msg.destDev.toNat)))
  | none => s.modTx a.n a.l (fun x => { x with started := true, acked := true, op := .snpInv })

/-- Activation edge s0 of the line's transaction. -/
def State.activate (s : State) (a : At) (t : Tx) : State :=
  if t.kind = .recall then s.actRecall a t
  else
    let s := ((s.bump (cHom a.n 2)).modTx a.n a.l (fun x => { x with started := true })).stamp a.d a.l none 5
    match s.rngHome a.d a.l, s.memPort a with
    | some (i, e), some p =>
      let rv := (epDev t.msg.requester).toNat
      let op := if e.record && isOwn t.msg.op then .rdSh else t.msg.op
      let held : Bool := op = .ownUpg && (match s.dirFind a.n a.D a.l with | some (_, x) => x.points rv | none => false)
      let s := s.modTx a.n a.l (fun x => { x with
        op := op, key := s.keyAt i e a.l, record := e.record, port := p, tree := (s.lineTree a.d a.l).map (·.tree), ptrHeld := held
        acked := decide (op = .wr) || decide (op = .wrThru) })
      (match s.txOf a.n a.l with
       | some t =>
         (match s.actFail a t with
          | some c => (s.raDrop a.n (fun r => decide (r.line = a.l))).homeFail a c
          | none =>
            let s := s.actRead a t
            match s.txOf a.n a.l with | some t => s.actSnoop a t | none => s)
       | none => s)
    | _, _ => s.homeFail a .denied

/-! ### Snoop answers (R209, R212, R213, R377, R457) -/

/-- The WB or EVN of a device that is held beside the transaction or waits in the line's queue. -/
def State.heldOf (s : State) (a : At) (t : Tx) (dev : Nat) : Option Msg :=
  match t.heldWb.find? (fun m => decide (devOf m = dev)) with
  | some m => some m
  | none => ((s.lineQ a.n a.l).find? (fun e => decide (vnOf e.1.op = .wbk) && decide (devOf e.1 = dev))).map (·.1)

/-- An EVICTING answer to a snoop that took ownership. -/
def State.evictAns (s : State) (a : At) (t : Tx) (dev : Nat) : State :=
  match s.heldOf a t dev with
  | some m =>
    let s := s.modTx a.n a.l (fun x => { x with heldWb := rmFirst m x.heldWb })
    (s.setLineQ a.n a.l (rmFirstP (fun e => decide (e.1 = m)) (s.lineQ a.n a.l))).superseded a m
  | none => s.modTx a.n a.l (fun x => { x with evict := x.evict ++ [dev] })

/-- The holder that an answer marked UNREACHABLE stands for is lost: an owner's data is gone, and its line is poisoned in memory. -/
def State.lostHolder (s : State) (a : At) (t : Tx) (dev : Nat) (near owner : Bool) : State :=
  if !owner then (if near then s else s.dirDrop a.n a.D a.l dev)
  else
    let s := if near then s else s.dirDrop a.n a.D a.l dev
    let s := s.modTx a.n a.l (fun x => { x with err := .poison })
    if near && !t.ownSnoop then s
    else s.modTx a.n a.l (fun x => { x with sdata := some poisonLine })

/-- Is an answer whose port ingress was at `at_` late: a near answer by R196, a peer's by the carried deadline (R280)? -/
def State.ansLate (s : State) (a : At) (t : Tx) (m : Msg) (at_ : KTime) : State :=
  let mine (w : Watch) : Bool := decide (w.dom = a.d) && decide (w.line = a.l)
  if m.err ≠ .none then s
  else if devOf m = a.me then
    (if !epUnit m.sender && decide (t.snpAt ≠ 0) && decide (t.snpAt + ns 60 < at_) then
      (s.breach (epLow m.sender) a.d .near a.l).voidAll mine .near (s.port (epLow m.sender)).pagent
    else s)
  else if !t.msg.nodl && decide (t.msg.dl < s.kt a.d + fclks 29) then
    (match s.peerPort a.d (epDev m.sender) a.l with
     | some p => (s.breach p a.d .peer a.l).voidAll (fun w => mine w && decide (w.home = some a.n)) .peer (s.port p).pagent
     | none => s)
  else s

/-- What an answer from `dev` does to its transaction. RSP_S with a COUNT comes from a slice whose near owner was snooped: its device keeps O (R202).
`own` is the recorded owner, `me` this device. -/
def txAns (m : Msg) (dev me : Nat) (own : Option Nat) (x : Tx) : Tx :=
  let near : Bool := !epUnit m.sender
  let keeps : Bool := !near && !x.ownSnoop
  let rsp : Bool := decide (m.op ≠ .rspI)
  let keepsO : Bool := keeps && (m.evicting || (decide (m.op = .rspS) && decide (0 < m.count))
    || ((decide (m.newstate = .o) || decide (m.newstate = .m) || decide (m.newstate = .e)) && rsp)) && decide (own = some dev)
  { x with
    pend := if near then x.pend else x.pend.filter (fun v => decide (v ≠ dev))
    near := if near then x.near - 1 else x.near + Int.ofNat m.count
    fwd := x.fwd || decide (m.op = .rspFwd)
    sdata := if m.op = .sdata then some m.data else x.sdata
    keptS := if keeps && !m.evicting && decide (m.newstate = .s) && rsp then x.keptS ++ [dev] else x.keptS
    keptO := if keepsO || (keeps && decide (dev = me) && decide (m.newstate = .o) && rsp) then some dev else x.keptO
    err := if m.err ≠ .none ∧ m.err ≠ .unreachable then m.err else x.err }

/-- After an answer: data from a holder makes the memory read useless, and the last answer is stamped. -/
def State.ansDone (s : State) (a : At) : State :=
  match s.txOf a.n a.l with
  | some t =>
    let s := if t.fwd || t.sdata.isSome then s.cancelRead a t else s
    if t.pend.isEmpty ∧ t.near = 0 then s.stamp a.d a.l none 9 else s
  | none => s

/-- Take an answer into its transaction. -/
def State.homeAns (s : State) (a : At) (t : Tx) (m : Msg) (at_ : KTime) : State :=
  let dev := devOf m
  let near : Bool := !epUnit m.sender
  let s := s.ansLate a t m at_
  let own : Option Nat := ((s.dirFind a.n a.D a.l).map (·.2)).bind (·.own)
  let s := s.modTx a.n a.l (txAns m dev a.me own)
  let s := if m.err = .unreachable then s.lostHolder a t dev near (if near then !m.nodata else decide (own = some dev)) else s
  let s := if m.evicting && t.ownSnoop && !near then s.evictAns a t dev else s
  s.ansDone a

/-- A snoop answer at its home, whose port ingress was at `at_`. -/
def State.homeAnswer (s : State) (n : Nat) (m : Msg) (at_ : KTime) : State :=
  match s.nodeDom n with
  | some (d, D) =>
    let a : At := { n := n, d := d, D := D, l := m.line }
    match s.txOf n m.line with
    | some t =>
      if t.txn ≠ m.txn ∨ t.started = false then s
      else if epUnit m.sender = true ∧ devOf m ∉ t.pend then s
      else s.homeAns a t m at_
    | none => s
  | none => s

end Sys2Proof.Machine
end

