-- ==== Sys2Proof/Machine/Work.lean ====
section
/-! DEFINITION. Carrying a home shard's work on: the end of transactions, Crozier and rollover passes, node reads that have arrived, run-ahead data
(R155, R207, R212, R213, R216, R393, R411, R416, R420 to R427, R600). -/

namespace Sys2Proof.Machine

open Sys2Proof

/-! ### Crozier jobs (R423 to R427) -/

/-- First line and last line of a range entry. -/
def rngLo (e : RngEnt) : Nat := 32 * e.base.toNat
def rngHi (e : RngEnt) : Nat := 32 * e.lim.toNat + 31

/-- The recovery block of a lost node: its first line, and how many lines it has (R421). -/
def recovery (D : ImgDomain) (h : ImgHome) (x : LostEnt) : Nat × Nat :=
  let k := 64 ^ x.level * 2 ^ D.nlog
  (h.base / 128 + x.index * k, k)

/-- Step 5 of R427: lost nodes whose recovery block lies inside the entry become zero nodes, to be written under a new version. -/
def State.recoverNodes (s : State) (d : Nat) (D : ImgDomain) (h : ImgHome) (e : RngEnt) : State :=
  (s.prot.lost.filter (fun x => decide (x.1 < 248))).foldl (fun s x => match x.2 with
    | some v =>
      let (b, k) := recovery D h v
      if v.tree = h.tree ∧ v.level ≤ 6 ∧ rngLo e ≤ b ∧ b + k ≤ rngHi e + 1 then
        let n := s.homeNode d D (BitVec.ofNat 45 b)
        let s := { s with prot := { s.prot with lost := tset none s.prot.lost x.1 none } }
        s.ncPut d D (s.ncNode n d D v.pos) {
          tree := v.tree, pos := v.pos, level := v.level, index := v.index, node := {}, dirty := true, dirtyAt := s.kt d, crown := isCrown D h v.level }
      else s
    | none => s) s

/-- A job whose crozier line has passed LIMIT ends: NEWKEY in the active and shadow copies of its entry, which opens. -/
def State.jobEnd (s : State) (j : Nat) (J : CrozJob) (e : RngEnt) : State :=
  let s := match J.reseed, s.iten e.ten.toNat with
    | true, some t => (match s.idom t.domain, s.lineTree t.domain (BitVec.ofNat 45 (rngLo e)) with
        | some D, some h => s.recoverNodes t.domain D h e
        | _, _ => s)
    | _, _ => s
  let put (t : Tab RngEnt) : Tab RngEnt := tmod {} t J.rng (fun x => { x with keyid := J.new })
  let s := s.modJob j (fun x => { x with active := false, done := true, doneLines := [], durPend := [] })
  ({ s with prot := { s.prot with rngAct := put s.prot.rngAct, rngShd := put s.prot.rngShd, closed := s.prot.closed.filter (fun i => decide (i ≠ J.rng)) } }).irq 0 4

/-- CL advances once every line of the block is done and durable (R426). -/
def State.jobAdvance (s : State) (j : Nat) : State :=
  let J := s.job j
  let e := tget {} s.prot.rngAct J.rng
  let block := (List.range 64).map (fun k => J.cl + k) |>.filter (fun l => decide (l ≤ rngHi e))
  if J.active && J.durPend.isEmpty && block.all (fun l => decide (l ∈ J.doneLines)) then
    (if rngHi e < J.cl + 64 then s.jobEnd j { J with cl := J.cl + 64 } e
     else s.modJob j (fun x => { x with cl := x.cl + 64, doneLines := [] }))
  else s

/-- A line's pass is done; `dur`: its MEM_WR_DUR has not been answered. -/
def State.lineDone (s : State) (j : Nat) (l : LineAddr) (dur : Bool) : State :=
  let s := s.bump (cGlb (if (s.job j).reseed then 31 else 30))
  (s.modJob j (fun x => { x with doneLines := insNat l.toNat x.doneLines, durPend := if dur then insNat l.toNat x.durPend else x.durPend })).jobAdvance j

/-- A line that fails under OLD is left as it is (R425). -/
def State.lineSkip (s : State) (a : At) (j : Nat) : State := ((s.bump (cHom a.n 30)).rep .home a.n .crozSkip a.d a.l).lineDone j a.l false

/-! ### The end of a transaction (R207, R212) -/

/-- Carried requests that this transaction served: tails that followed them, and watch entries whose data went another way. -/
def State.carriedEnd (s : State) (a : At) (t : Tx) : State :=
  (List.range 64).foldl (fun s g =>
    let s := ((s.gate g).tails.filter (fun x => decide (x.home = some a.n) && decide (x.line = a.l) && decide (x.req = t.msg.requester) && x.isol.isNone)).foldl
      (fun s x => s.freeTail g x false) s
    let ws := (s.gate g).watch.filter (fun w => w.carried && decide (w.line = a.l) && decide (w.req = t.msg.requester) && t.fwd && !w.queued)
    ws.foldl (fun s w => (s.freeWatch g w).modPort w.port (fun x => { x with carriedIn := x.carriedIn - 1 })) s) s

/-- What a message that waited for the line becomes. -/
def homeKind (m : Msg) : TxKind := if m.op = .snpInv then .recall else .request

/-- The next work on a line without an active transaction: the write-backs held beside the last one, then the head of its queue. -/
def State.nextOn (s : State) (a : At) (held : List Msg) : State :=
  match held with
  | m :: r => s.startWb a m r
  | [] =>
    match s.lineQ a.n a.l with
    | [] => s
    | (m, src) :: r =>
      let s := s.setLineQ a.n a.l r
      if vnOf m.op = .wbk then s.startWb a m []
      else
        let (s, x) := s.newTxn a.n
        s.modHome a.n (fun y => { y with txs := y.txs ++ [{ line := a.l, kind := homeKind m, msg := m, src := src, txn := x }] })

/-- A transaction ends. -/
def State.homeEnd (s : State) (a : At) (t : Tx) : State :=
  let s := match t.pin with | some p => (s.pinMove p false).ncOffer a.d a.D p.1 | none => s
  let s := s.modHome a.n (fun x => { x with
    txs := rmFirstP (fun y => decide (y.line = a.l)) x.txs, halves := x.halves.filter (fun h => decide (h.1 ≠ a.l) || decide (h.2.1 ≠ t.txn)) })
  let s := if t.kind = .request then s.carriedEnd a t else s
  let s := match t.parent with | some l => s.modTx a.n l (fun x => { x with victim := none }) | none => s
  if (s.home a.n).passes.any (fun p => decide (p.line = a.l) && (p.cw.isSome || decide (p.err ≠ .none))) && t.heldWb.isEmpty then s
  else s.nextOn a t.heldWb

/-- May it end? -/
def txOver (t : Tx) : Bool := t.answered && t.acked && t.evict.isEmpty && !t.memWr && !t.durDue && t.victim.isNone && t.pend.isEmpty

/-! ### One step of a line's transaction -/

/-- Absorbed messages of peers that a hand-over recall pairs with EVICTING answers (R600). -/
def State.pairAbsorbed (s : State) (a : At) (t : Tx) : State :=
  t.evict.foldl (fun s dev =>
    match (s.home t.fromNode).absorbed.find? (fun m => decide (m.line = a.l) && decide (devOf m = dev)) with
    | some m => ((s.modHome t.fromNode (fun x => { x with absorbed := rmFirst m x.absorbed })).modTx a.n a.l (fun x => { x with evict := rmFirst dev x.evict })).superseded a m
    | none => s) s

/-- A node has become known: the version is noted, and a line that reads zero needs no read. -/
def State.nodeKnown (s : State) (a : At) (t : Tx) : State :=
  if t.waitNode && (s.verAt a).isSome then
    let s := s.nodesFor a
    if s.zeroAt a && needsData t && decide (t.kind = .request) then (s.cancelRead a t).modTx a.n a.l (fun x => { x with memData := some {} }) else s
  else if t.pin.isNone then s.nodesFor a
  else s

/-- What a recall does once its answers are in. -/
def State.recallDone (s : State) (a : At) (t : Tx) : State :=
  let gone (s : State) : State :=
    if t.parent.isSome ∨ t.kind = .handover then s
    else if epDev t.msg.requester = t.msg.destDev then (match s.dirFind a.n a.D a.l with | some (w, _) => s.dirPut a.n a.D a.l w none | none => s)
    else s.dirDrop a.n a.D a.l t.msg.destDev.toNat
  match t.sdata with
  | some x =>
    if (s.verAt a).isNone then (s.fetchPath a).modTx a.n a.l (fun x => { x with waitNode := true })
    else if s.verFull a then s
    else gone (s.putBack a { t with waitNode := false } x (fun s => s.homeAnswered a))
  | none => (gone s).homeAnswered a

/-- Carry the transaction of a line on. -/
def State.homeStep (s : State) (a : At) : State :=
  match s.txOf a.n a.l with
  | none => s
  | some t =>
    if !t.started then s
    else
      let s := s.nodeKnown a t
      match s.txOf a.n a.l with
      | none => s
      | some t =>
        let s := if t.kind = .handover then s.pairAbsorbed a t else s
        match s.txOf a.n a.l with
        | none => s
        | some t =>
          if txOver t then s.homeEnd a t
          else if t.answered || t.memWr || t.durDue || !t.pend.isEmpty || decide (t.near ≠ 0) then s
          else match t.kind with
            | .request =>
              if t.err ≠ .none then (if t.sdata.isSome && t.waitNode then s else s.homeFail a t.err)
              else if s.lostAt a && needsData t && !t.fwd then s.homeFail a (lostErr t.op)
              else if isWrite t.op then s.serveWrite a t
              else s.serveRead a t
            | .wback => s.putBack a t t.msg.data (fun s => s.wbEnd a t.msg)
            | .recall | .handover => s.recallDone a t
            | _ => s

/-! ### Passes (R411, R425, R427) -/

def passIs (p : Pass) (x : Pass) : Bool := decide (x.line = p.line) && decide (x.job = p.job)
def State.passDrop (s : State) (n : Nat) (p : Pass) : State := s.modHome n (fun x => { x with passes := rmFirstP (passIs p) x.passes })

/-- Note the line's version and read the line. -/
def State.passRead (s : State) (a : At) (p : Pass) (v : BitVec 64 × Nat) : State :=
  match s.memPort a with
  | none => s
  | some q =>
    let (s, x) := s.newTxn a.n
    (s.modHome a.n (fun y => { y with passes := modFirst (passIs p) (fun z => { z with ver := v, noted := true, txn := x, cw := none, err := .none }) y.passes })).toMem a.D a.n q
      { op := .memRd, line := a.l, txn := x, cls := 2 }

/-- The key a pass writes the line under, and whether it writes durably. -/
def State.passKey (s : State) (a : At) (p : Pass) (old : BitVec 6) : BitVec 6 × Bool :=
  match p.job with
  | some j => ((s.job j).new, (match s.rngHome a.d a.l with | some (_, e) => e.record | none => false)
      || (match s.lineTree a.d a.l with | some h => h.persist | none => false))
  | none => (old, false)

/-- A line that a rollover pass cannot verify still moves to the new major, and goes on failing. -/
def State.passFail (s : State) (a : At) (p : Pass) : State :=
  match p.job, s.lineTree a.d a.l with
  | some j, _ => (s.passDrop a.n p).lineSkip a j
  | none, some h => (s.passDrop a.n p).bumpLine a.d a.D h (s.ncAt a) a.l
  | none, none => s.passDrop a.n p

/-- Carry one pass on. -/
def State.passStep (s : State) (a : At) (p : Pass) : State :=
  let off : Bool := match p.job with | some j => !(s.job j).active | none => false
  if off then s.passDrop a.n p
  else match s.verAt a with
    | none => if s.lostAt a then (match p.job with
        | some j => if (s.job j).reseed then (s.passDrop a.n p).lineDone j a.l false else s.passFail a p
        | none => s.passDrop a.n p) else s.fetchPath a
    | some v =>
      match p.job, p.noted with
      | some j, false =>
        if (s.job j).reseed then
          (match s.txOf a.n a.l, s.lineTree a.d a.l with
           | none, some h => ((s.zeroLine a.d a.D h (s.ncAt a) a.l).passDrop a.n p).lineDone j a.l false
           | _, _ => s)
        else if v.2 = 0 then (s.passDrop a.n p).lineDone j a.l false
        else s.passRead a p v
      | none, false => s.passRead a p v
      | _, true =>
        if (p.cw.isNone && decide (p.err = .none)) || (s.txOf a.n a.l).isSome then s
        else if v ≠ p.ver then
          (match p.job with
           | some _ => (s.bump (cHom a.n 29)).passRead a p v
           | none => (s.passDrop a.n p).nextOn a [])
        else match s.rngHome a.d a.l, s.memPort a with
          | some (i, e), some q =>
            let old := s.keyAt i e a.l
            let x := match p.cw with | some cw => s.openAt a old cw | none => none
            (match x with
             | none => (s.passFail a p).nextOn a []
             | some x =>
               if s.verFull a then s
               else
                 let (k, dur) := s.passKey a p old
                 let s := s.passDrop a.n p
                 let (s, t) := s.newTxn a.n
                 let s := s.modHome a.n (fun y => { y with txs := y.txs ++ [{
                   line := a.l, kind := .crozier p.job, msg := { op := .snpInv, line := a.l }, started := true, acked := true, txn := t, key := k, port := q, memWr := true }] })
                 (s.writeLine a k q t x dur).nodesFor a)
          | _, _ => (s.passFail a p).nextOn a []

/-! ### Rollovers (R411) -/

/-- The line at local index `u` of subtree `pos`. -/
def lineAtU (D : ImgDomain) (h : ImgHome) (pos u : Nat) : Option LineAddr :=
  ((List.range (2 ^ D.nlog)).map (fun k => BitVec.ofNat 45 (h.base / 128 + u * 2 ^ D.nlog + k))).find? (fun l => decide (D.hash l = pos))

/-- Start the sweep of a rollover: a pass for each line, or a new write of each child node, still on the old major. -/
def State.rollSweep (s : State) (d : Nat) (D : ImgDomain) (nn : Nat) (e : NcEnt) : State :=
  match s.treeHome e.tree, e.roll with
  | some h, some X =>
    let s := s.modHome nn (fun x => { x with nc := modFirst (ncIs e.tree e.pos e.level e.index) (fun y => { y with swept := true }) x.nc })
    let js := (List.range 64).filter (fun j => decide (slotMinor (e.node.slot j) ≠ 0) && slotSel (e.node.slot j) == X)
    js.foldl (fun s j =>
      let c := 64 * e.index + j
      if e.level = 1 then
        (match lineAtU D h e.pos c with
         | some l => s.modHome (s.homeNode d D l) (fun x => { x with passes := x.passes ++ [{ line := l }] })
         | none => s)
      else match s.ncFind nn e.tree e.pos (e.level - 1) c with
        | some y => s.writeNode d D h nn y false
        | none => s.fetchNode D h nn e.pos (e.level - 1) c true) s
  | _, _ => s

def State.rollStart (s : State) (d : Nat) (D : ImgDomain) (n : Nat) : State :=
  ((s.home n).nc.filter (fun e => e.roll.isSome && !e.swept)).foldl (fun s e => s.rollSweep d D n e) s

/-! ### Node reads (R416, R420) -/

/-- Take in a node read whose version is known: verify it, install it, or lose it. -/
def State.nodeIn (s : State) (d : Nat) (D : ImgDomain) (n : Nat) (f : Fetch) : State :=
  match s.treeHome f.tree with
  | none => s
  | some h =>
    let drop (s : State) : State := s.modHome n (fun x => { x with fetches := rmFirst f x.fetches })
    match s.nodeVer D h n f.pos f.level f.index with
    | none => s
    | some v =>
      if v.2 = 0 ∧ (f.level < treeT D h ∨ v.1 = 0) then drop s
      else if (s.ncFind n f.tree f.pos f.level f.index).isSome then drop s
      else
        let nd := if f.bad then none else match f.cw with | some cw => openNode (s.stipeOf f.tree).kt f.line f.level v cw | none => none
        if f.cw.isNone ∧ f.bad = false then s
        else match nd with
          | none => (drop s).loseNode d n { tree := f.tree, pos := f.pos, level := f.level, index := f.index }
          | some x =>
            let e : NcEnt := { tree := f.tree, pos := f.pos, level := f.level, index := f.index, node := x, crown := isCrown D h f.level, slot := decide (1 < f.level) && !isCrown D h f.level }
            let s := (drop s).ncPut d D n e
            if f.roll then s.writeNode d D h n e false else s

/-- Node reads that have arrived, from the top down. -/
def State.nodesIn (s : State) (d : Nat) (D : ImgDomain) (n : Nat) : State :=
  (List.range 7).reverse.foldl (fun s k =>
    ((s.home n).fetches.filter (fun f => decide (f.level = k))).foldl (fun s f => s.nodeIn d D n f) s) s

/-! ### Run-ahead data (R155, R238) -/

/-- Verify the data of a run-ahead entry once the version is known. -/
def State.raStep (s : State) (a : At) (r : RunAhead) : State :=
  let set (f : RunAhead → RunAhead) (s : State) : State := s.modHome a.n (fun x => { x with ra := modFirst (fun y => decide (y = r)) f x.ra })
  let drop (s : State) : State := s.modHome a.n (fun x => { x with ra := rmFirst r x.ra })
  if s.lostAt a then s.raDrop a.n (fun y => decide (y = r))
  else if r.data.isSome then s
  else if s.zeroAt a then set (fun y => { y with data := some {}, at_ := s.kt a.d }) s
  else match r.cw, (s.verAt a).isSome with
    | some cw, true =>
      (match s.openAt a r.key cw with
       | some x => set (fun y => { y with data := some x, cw := none }) s
       | none => (drop s).bump (cHom a.n 20))
    | _, _ => s

/-! ### The crown (R415) -/

/-- Load the crown of a tree in shard `n`: the top node, then the nodes of level 4 or above whose versions are known. -/
def State.crownLoad (s : State) (D : ImgDomain) (h : ImgHome) (n : Nat) : State :=
  let pos := D.pos n
  let T := treeT D h
  if !s.inSvc h.port then s
  else if (s.nodeVal D h n pos 8 T 0).isNone then s.fetchNode D h n pos T 0 false
  else ((s.home n).nc.filter (fun e => decide (e.tree = h.tree) && decide (e.pos = pos) && decide (5 ≤ e.level))).foldl (fun s e =>
    (List.range 64).foldl (fun s j =>
      if (s.nodeVal D h n pos 8 (e.level - 1) (64 * e.index + j)).isNone then s.fetchNode D h n pos (e.level - 1) (64 * e.index + j) false else s) s) s

/-- The crown is loaded as soon as the trees are set up and their MEMORY ports serve; nodes that are lost stay out. -/
def State.crownIn (s : State) (n d : Nat) (D : ImgDomain) : State :=
  if s.isFenced (.home n) then s
  else (s.ihomes.filter (fun h => h.prot && decide (h.domain = d) && (s.stipeOf h.tree).setUp && s.prot.lost.all (fun e => match e.2 with
      | some x => decide (x.tree ≠ h.tree) || decide (x.level < 4) | none => true))).foldl (fun s h => s.crownLoad D h n) s

/-! ### Everything that may go on at a shard -/

/-- One round over the shard's work. -/
def State.homeRound (s : State) (n d : Nat) (D : ImgDomain) : State :=
  let at_ (l : LineAddr) : At := { n := n, d := d, D := D, l := l }
  let s := (s.nodesIn d D n).crownIn n d D
  let s := ((s.home n).txs.map (·.line)).foldl (fun s l => s.homeStep (at_ l)) s
  let s := (s.home n).passes.foldl (fun s p => s.passStep (at_ p.line) p) s
  let s := (s.home n).ra.foldl (fun s r => s.raStep (at_ r.line) r) s
  s.rollStart d D n

/-- Carry the shard on until nothing more can go on. -/
def State.homeRun (s : State) (n : Nat) : State :=
  match s.nodeDom n with
  | some (d, D) =>
    let x := s.home n
    let k := 3 + x.lineq.length + sumL (x.txs.map (fun t => t.heldWb.length))
    (List.range k).foldl (fun s _ => s.homeRound n d D) s
  | none => s

/-- Carry every shard of a domain on: a node has arrived, or a device-wide event. -/
def State.homesRun (s : State) (D : ImgDomain) : State := D.nodes.foldl (fun s n => s.homeRun n) s

end Sys2Proof.Machine
end

