-- ==== Sys2Proof/Machine/Answer.lean ====
section
/-! DEFINITION. The commands of a home shard: sequencing, activation, answers, memory traffic, passes and the node cleaner, and the answers that may also be
for a slice (R155, R156, R193, R199, R205 to R213, R223, R225, R280, R393, R403, R411, R418, R425). -/

namespace Sys2Proof.Machine

open Sys2Proof

/-- Shard `n` if it belongs to a domain and is not fenced, for a message that stands in queue `q`. -/
def State.homeHas (s : State) (n q : Nat) (m : Msg) : Option At :=
  match s.nodeDom n with
  | some (d, D) => if (s.qOf n q).any (fun u => decide (u.msg = m)) then some { n := n, d := d, D := D, l := m.line } else none
  | none => none

/-! ### Sequencing (R205, R206) -/

/-- The watch entry whose request a slice's message carries: that of the first waiter of its MSHR. -/
def State.firstWatch (s : State) (d : Nat) (m : Msg) : Option Watch :=
  match s.mshrOf (epNode m.sender) m.line with
  | some (_, e) => (match e.waiters.head? with | some w => (s.asker d w.agent m.line).2.2 | none => none)
  | none => none

/-- SRC and the admission time of a message (R206). DESIGN CHOICE (log entry 153), where R206 names no value: a message that passed no Gate has admission time 0,
the controller writer of domain d counts as port (256 + d) mod 256, and a slice's WB, EVN or PF_HINT, which no waiter asked for, has SRC 4n. -/
def State.srcOf (s : State) (d : Nat) (D : ImgDomain) (u : FUnit) : Nat × KTime :=
  if isSliceOf D.device u.msg.sender then
    match if vnOf u.msg.op = .wbk ∨ u.msg.op = .pfHint then none else s.firstWatch d u.msg with
    | some w => (w.port % 256, w.ingress)
    | none => (4 * epNode u.msg.sender, 0)
  else
    let p := u.ent.getD (4 * u.src)
    (p, match (s.gate (portNode p)).watch.find? (fun w => decide (w.port = p) && decide (w.line = u.msg.line) && decide (w.req = u.msg.requester)) with
      | some w => w.ingress | none => 0)

/-- Messages that wait to be sequenced: queue and unit. -/
def State.toSequence (s : State) (n : Nat) : List (Nat × FUnit) :=
  (s.qOf n 45).map (fun u => (45, u)) ++ (s.qOf n 46).map (fun u => (46, u))

/-- Order of the keys of R206. -/
def seqBefore (a b : Nat × KTime × Nat) : Bool :=
  decide (a.1 < b.1) || (decide (a.1 = b.1) && (decide (a.2.1 < b.2.1) || (decide (a.2.1 = b.2.1) && decide (a.2.2 ≤ b.2.2))))

def insSeq {α : Type} (k : Nat × KTime × Nat) (x : α) : List ((Nat × KTime × Nat) × α) → List ((Nat × KTime × Nat) × α)
  | [] => [(k, x)]
  | (j, y) :: t => if seqBefore k j then (k, x) :: (j, y) :: t else (j, y) :: insSeq k x t

/-- Put the messages of the earliest arrival edge in order, once that edge has come; a tie moves the pointer. -/
def State.orderEdge (s : State) (n d : Nat) (D : ImgDomain) : State :=
  if !(s.home n).order.isEmpty then s
  else
    let us := s.toSequence n
    match us.map (fun u => u.2.at_) with
    | [] => s
    | e :: es =>
      let first := es.foldl min e
      if s.clk.fclk < first then s else
      let now := us.filter (fun u => decide (u.2.at_ = first))
      let sorted := now.foldr (fun u l =>
        let (src, adm) := s.srcOf d D u.2
        insSeq ((src + 256 - (s.home n).ptr.toNat) % 256, adm, u.2.src) (u.1, u.2.msg) l) []
      let s := s.modHome n (fun x => { x with order := sorted.map (·.2) })
      if 2 ≤ now.length then (s.bump (cHom n 1)).modHome n (fun x => { x with ptr := x.ptr + 1 }) else s

/-- The shard takes a request's reservation over: its watch entries name it. -/
def State.homeTakes (s : State) (a : At) (m : Msg) : State :=
  let mine (w : Watch) : Bool := decide (w.dom = a.d) && decide (w.line = a.l)
    && (if isSliceOf a.D.device m.sender then decide (w.slice = epNode m.sender) && !w.carried else decide (w.req = m.requester))
  (List.range 64).foldl (fun s g => s.modGate g (fun G => { G with
    watch := G.watch.map (fun w => if mine w then { w with home := some a.n, ents := { w.ents with home := false } } else w) })) s

/-- The four cases of R212 for a WB or EVN. -/
def State.seqWb (s : State) (a : At) (m : Msg) (src : Nat) : State :=
  match s.txOf a.n a.l with
  | none => s.startWb a m []
  | some t =>
    let dev := devOf m
    if dev ∈ t.evict then (s.modTx a.n a.l (fun x => { x with evict := rmFirst dev x.evict })).superseded a m
    else if dev ∈ t.pend ∨ (s.lineQ a.n a.l).isEmpty = true then s.modTx a.n a.l (fun x => { x with heldWb := x.heldWb ++ [m] })
    else s.setLineQ a.n a.l (s.lineQ a.n a.l ++ [(m, src)])

/-- Sequence message `m`, which the queue no longer holds. A hint waits for its command. -/
def State.seqOne (s : State) (a : At) (m : Msg) (src : Nat) : State :=
  if m.op = .pfHint then (s.bump (cHom a.n 0)).modHome a.n (fun x => { x with hints := x.hints ++ [m] }) else
  let s := (s.bump (cHom a.n 0)).raDrop a.n (fun r => decide (r.line = a.l) && !(vnOf m.op = .req && decide (r.from_ = m.requester)))
  if vnOf m.op = .wbk then s.seqWb a m src
  else ((s.stamp a.d a.l none 4).homeTakes a m).enqHome a.n m src .request

/-- HOME_SEQUENCE: the message is the next in the order of R206, and `src` is its SRC. -/
def execHomeSequence (n : Nat) (m : Msg) (src : Nat) (s : State) : Ans :=
  .next (match s.nodeDom n with
    | some (d, D) =>
      if s.isFenced (.home n) then s
      else
        let s' := s.orderEdge n d D
        match (s'.home n).order with
        | [] => s
        | (q, x) :: r =>
          match (s.qOf n q).find? (fun u => decide (u.msg = x)) with
          | none => s'.modHome n (fun y => { y with order := r })
          | some u =>
            if x ≠ m ∨ (s.srcOf d D u).1 ≠ src then s
            else
              let s := (s'.modHome n (fun y => { y with order := r })).qTake n q m
              (s.seqOne { n := n, d := d, D := D, l := m.line } m src).homeRun n
    | none => s)

/-- Active transactions of a home shard: at most 256 (R207). -/
def State.activeTxs (s : State) (n : Nat) : Nat := ((s.home n).txs.filter (·.started)).length

/-- ACTIVATION: edge s0 of the line's transaction; `x` is what the directory read finds (R208, R217). -/
def execActivation (p : DirAt) (line : LineAddr) (s : State) : Ans :=
  .next (match s.nodeDom p.n, s.txOf p.n line with
    | some (d, D), some t =>
      if t.started ∨ s.isFenced (.home p.n) ∨ 256 ≤ s.activeTxs p.n then s
      else
        let s := s.dirCheck p.n d (D.dset line) p.x
        if s.isFenced (.home p.n) then s else (s.activate { n := p.n, d := d, D := D, l := line } t).homeRun p.n
    | _, _ => s)

/-! ### Answers for a home or for a slice -/

/-- A snoop answer in queue `q` of a home. -/
def State.answerIn (s : State) (op : Op) (q n : Nat) (m : Msg) : State :=
  match s.homeHas n q m, (s.qOf n q).find? (fun u => decide (u.msg = m)) with
  | some _, some u => if m.op = op then ((s.qTake n q m).homeAnswer n m u.ing).homeRun n else s
  | _, _ => s

def execRspI (atHome : Bool) (n : Nat) (m : Msg) (x : PassFault) (s : State) : Ans :=
  .next (if atHome then s.answerIn .rspI 47 n m else s.nearAnswer .rspI n m x)
def execRspS (atHome : Bool) (n : Nat) (m : Msg) (x : PassFault) (s : State) : Ans :=
  .next (if atHome then s.answerIn .rspS 47 n m else s.nearAnswer .rspS n m x)
def execRspFwd (atHome : Bool) (n : Nat) (m : Msg) (x : PassFault) (s : State) : Ans :=
  .next (if atHome then s.answerIn .rspFwd 47 n m else s.nearAnswer .rspFwd n m x)
def execSdata (atHome : Bool) (n : Nat) (m : Msg) (x : PassFault) (s : State) : Ans :=
  .next (if atHome then s.answerIn .sdata 48 n m else s.nearAnswer .sdata n m x)

/-- COMP_ACK: the requester of the transaction it names has finished. -/
def State.ackIn (s : State) (n : Nat) (m : Msg) : State :=
  match s.homeHas n 47 m with
  | some a =>
    if m.op ≠ .compAck then s
    else
      let s := s.qTake n 47 m
      match s.txOf n a.l with
      | some t => if t.txn = m.txn ∧ t.kind = .request then (s.modTx n a.l (fun x => { x with acked := true })).homeRun n else s
      | none => s
  | none => s
def execCompAck (atHome : Bool) (p : PassAt) (m : Msg) (s : State) : Ans := .next (if atHome then s.ackIn p.n m else s.nearAck p.n m p.x)

/-- WB and EVN at a home take their place in the sequencing order. -/
def State.wbAtHome (s : State) (op : Op) (n : Nat) (m : Msg) : State :=
  match s.homeHas n 46 m with
  | some a =>
    if m.op ≠ op || s.isFenced (.home n) then s
    else
      let s' := s.orderEdge n a.d a.D
      match (s'.home n).order with
      | (q, x) :: r =>
        if q = 46 ∧ x = m then
          let src := match (s.qOf n 46).find? (fun u => decide (u.msg = m)) with | some u => (s.srcOf a.d a.D u).1 | none => 0
          (((s'.modHome n (fun y => { y with order := r })).qTake n 46 m).seqOne a m src).homeRun n
        else s
      | [] => s
  | none => s
def execWb (atHome : Bool) (p : PassAt) (m : Msg) (s : State) : Ans := .next (if atHome then s.wbAtHome .wb p.n m else s.wbAtSlice .wb p.n m p.x)
def execEvn (atHome : Bool) (p : PassAt) (m : Msg) (s : State) : Ans := .next (if atHome then s.wbAtHome .evn p.n m else s.wbAtSlice .evn p.n m p.x)

/-! ### Memory traffic (R150, R197, R280, R403) -/

/-- The memory port a line or a node's line lies behind. -/
def State.portOfRead (s : State) (a : At) : Nat :=
  match s.memPort a with
  | some p => p
  | none => match (s.home a.n).fetches.find? (fun f => decide (f.line = a.l)) with
    | some f => (match s.treeHome f.tree with | some h => h.port | none => 0)
    | none => 0

/-- When the MEM_RD that data of transaction number `txn` answers left its port (0: not known to have left). -/
def State.readAskedAt (s : State) (a : At) (txn : BitVec 12) : KTime :=
  match s.txOf a.n a.l, (s.home a.n).fetches.find? (fun f => decide (f.line = a.l) && decide (f.txn = txn)) with
  | some t, f => if t.txn = txn then t.memAt else (match f with | some f => f.memAt | none => 0)
  | none, some f => f.memAt
  | none, none => 0

/-- MEM_DATA whose ingress, at `at_`, is later than 110 ns after its MEM_RD's egress: a breach, which voids what waits for the read and later transactions
on the line (R280). -/
def State.memLate (s : State) (a : At) (m : Msg) (at_ : KTime) : State :=
  if s.readAskedAt a m.txn = 0 ∨ at_ ≤ s.readAskedAt a m.txn + ns 110 then s
  else
    let p := s.portOfRead a
    let waits := ((s.home a.n).txs.filter (fun t => t.waitNode && (s.home a.n).fetches.any (fun f => decide (f.line = a.l)))).map (·.line)
    let seen : Bool := match s.txOf a.n a.l with | some t => t.breached && decide (t.txn = m.txn) | none => false
    let s := if seen then s else s.breach p a.d .memory a.l
    (s.voidAll (fun w => decide (w.dom = a.d) && (decide (w.line = a.l) || decide (w.line ∈ waits))) .memory (s.port p).pagent).modTx a.n a.l
      (fun t => if t.txn = m.txn then { t with breached := true } else t)

/-- The two halves of a read, when the second has come: the codewords, and the half that came first at least 2 FCLK earlier. -/
def State.joinRead (s : State) (n : Nat) (m : Msg) : State × Option (List (BitVec 80) × Option Bool) :=
  match m.half with
  | none => (s, some (m.cw, none))
  | some u =>
    match (s.home n).halves.find? (fun h => decide (h.1 = m.line) && decide (h.2.1 = m.txn)) with
    | none => (s.modHome n (fun x => { x with halves := x.halves ++ [(m.line, m.txn, u, m.cw, s.clk.fclk)] }), none)
    | some h =>
      let s := s.modHome n (fun x => { x with halves := rmFirst h x.halves })
      let cw := if h.2.2.1 then m.cw ++ h.2.2.2.1 else h.2.2.2.1 ++ m.cw
      (s, some (cw, if h.2.2.2.2 + 2 ≤ s.clk.fclk then some h.2.2.1 else none))

/-- Give a read's outcome to whatever waits for it. `cw` none: the read ended with error `e`. -/
def State.readDone (s : State) (a : At) (txn : BitVec 12) (cw : Option (List (BitVec 80))) (two : Option Bool) (e : ErrCode) : State :=
  let x := s.home a.n
  let isTx : Option Tx := x.txs.find? (fun t => decide (t.line = a.l) && decide (t.txn = txn) && (decide (t.mem = .injected) || decide (t.mem = .handed) || decide (t.mem = .cancelled)))
  match isTx with
  | some t =>
    if t.mem = .cancelled then (s.modTx a.n a.l (fun y => { y with mem := .none })).bump (cHom a.n 8)
    else s.modTx a.n a.l (fun y => { y with
      mem := .arrived, memCw := cw, memErr := e
      two := match two with | some h => if y.key = 0 ∧ h = y.msg.crit.getLsbD 3 then some h else none | none => none })
  | none =>
    match x.ra.find? (fun r => decide (r.line = a.l) && decide (r.txn = txn)), x.passes.find? (fun p => decide (p.line = a.l) && decide (p.txn = txn) && p.noted),
      x.fetches.find? (fun f => decide (f.line = a.l) && decide (f.txn = txn)) with
    | some r, _, _ => s.modHome a.n (fun y => { y with
        ra := if cw.isNone then rmFirst r y.ra else modFirst (fun z => decide (z = r)) (fun z => { z with cw := cw, at_ := s.kt a.d }) y.ra })
    | none, some p, _ => s.modHome a.n (fun y => { y with passes := modFirst (passIs p) (fun z => { z with cw := cw, err := e }) y.passes })
    | none, none, some f =>
      if e = .unreachable then
        let s := s.modHome a.n (fun y => { y with fetches := rmFirst f y.fetches })
        a.D.nodes.foldl (fun s n => s.modHome n (fun y => { y with
          txs := y.txs.map (fun t => if t.waitNode && decide (t.kind = .request) && decide (t.port = s.portOfRead a) then { t with err := .unreachable } else t) })) s
      else s.modHome a.n (fun y => { y with fetches := modFirst (fun z => decide (z = f)) (fun z => { z with cw := cw, bad := cw.isNone }) y.fetches })
    | none, none, none => if cw.isSome then s.bump (cHom a.n 34) else s

/-- MEM_DATA. -/
def execMemData (n : Nat) (m : Msg) (ing : KTime) (s : State) : Ans :=
  .next (match s.homeHas n 48 m, (s.qOf n 48).find? (fun u => decide (u.msg = m)) with
    | some a, some u =>
      if m.op ≠ .memData ∨ u.ing ≠ ing then s
      else
        let s := ((s.qTake n 48 m).memLate a m u.ing).stamp a.d a.l none 8
        let isNode := (s.home n).fetches.any (fun f => decide (f.line = a.l) && decide (f.txn = m.txn))
        match s.joinRead n m with
        | (s, none) => s
        | (s, some (cw, two)) =>
          let s := s.readDone a m.txn (some cw) two .none
          if isNode then (s.homeRun n).homesRun a.D else s.homeRun n
    | _, _ => s)

/-- MEM_ACK: the device has taken a MEM_WR. -/
def execMemAck (n : Nat) (m : Msg) (s : State) : Ans :=
  .next (match s.homeHas n 47 m with
    | some _ => if m.op = .memAck then s.qTake n 47 m else s
    | none => s)

/-- MEM_DUR: DUR goes to the requester; a job's line is durable. -/
def execMemDur (n : Nat) (m : Msg) (ing : KTime) (s : State) : Ans :=
  .next (match s.homeHas n 47 m, (s.qOf n 47).find? (fun u => decide (u.msg = m)) with
    | some a, some u =>
      if m.op ≠ .memDur ∨ u.ing ≠ ing then s
      else
        let s := s.qTake n 47 m
        match s.txOf n a.l with
        | some t =>
          if t.durDue ∧ t.txn = m.txn then
            let s := if t.memAt + ns (s.iport t.port).durable < u.ing ∧ t.breached = false then
                (s.breach t.port a.d .durable a.l).voidAll (fun w => decide (w.dom = a.d) && decide (w.line = a.l)) .durable (s.port t.port).pagent
              else s
            let s := s.modTx n a.l (fun x => { x with durDue := false, answered := true })
            (s.homeSend a t { homeMsg a t .dur .i with wt := false }).homeRun n
          else s
        | none =>
          match s.prot.jobs.find? (fun j => decide (a.l.toNat ∈ j.2.durPend)) with
          | some (j, _) => ((s.modJob j (fun x => { x with durPend := x.durPend.filter (fun k => decide (k ≠ a.l.toNat)) })).jobAdvance j).homeRun n
          | none => s
    | _, _ => s)

/-- The write of a transaction is in the memory port's egress queue. -/
def State.ejected (s : State) (a : At) (t : Tx) : State :=
  let s := s.modTx a.n a.l (fun x => { x with memWr := false })
  match t.kind with
  | .request =>
    if t.err ≠ .none ∨ t.durDue = true then s
    else (s.homeSend a t { homeMsg a t .cmp .i with wt := false }).homeAnswered a
  | .wback => s.wbEnd a t.msg
  | .crozier (some j) =>
    let dur := (s.passKey a { line := a.l, job := some j } 0).2
    (s.homeAnswered a).lineDone j a.l dur
  | _ => s.homeAnswered a

/-- MEM_WR_EJECTED: a MEM_WR or MEM_WR_DUR of the line's transaction has left the fabric. -/
def execMemWrEjected (n : Nat) (line : LineAddr) (s : State) : Ans :=
  .next (match s.nodeDom n, s.txOf n line with
    | some (d, D), some t =>
      let a : At := { n := n, d := d, D := D, l := line }
      if !t.memWr || s.onWay (fun u => memUnit a t.txn .memWr u || memUnit a t.txn .memWrDur u) then s
      else (s.ejected a t).homeRun n
    | _, _ => s)

/-- A write that will not reach memory: its port was isolated, or the device refused it. -/
def State.writeFailed (s : State) (a : At) (t : Tx) (e : ErrCode) : State :=
  let s := s.modTx a.n a.l (fun x => { x with memWr := false, durDue := false })
  match t.kind with
  | .request => if t.answered then s else s.homeFail a e
  | .wback => (s.wbDiscard a true true).wbEnd a t.msg
  | .crozier (some j) => (s.homeAnswered a).lineSkip a j
  | _ => (s.wbDiscard a true true).homeAnswered a

/-- ERR: at a slice from its home, or at a home from the memory device or as the report of an absorbed unit. -/
def execErr (p : PassAt) (m : Msg) (s : State) : Ans :=
  .next (if m.op ≠ .err then s
    else match s.homeHas p.n 47 m with
    | some a =>
      let s := s.qTake p.n 47 m
      (match s.txOf p.n a.l with
       | some t =>
         if (t.memWr ∨ t.durDue) ∧ t.txn = m.txn then (s.writeFailed a t m.err).homeRun p.n
         else (s.readDone a m.txn none none m.err).homesRun a.D
       | none => (s.readDone a m.txn none none m.err).homesRun a.D)
    | none => s.errAtSlice p.n m p.x)

/-! ### Run-ahead (R155, R156) -/

/-- PF_HINT: a hint that has been sequenced is taken only when the line has neither an active transaction nor an entry. -/
def execPfHint (n : Nat) (m : Msg) (s : State) : Ans :=
  .next (match s.nodeDom n with
    | some (d, D) =>
      let a : At := { n := n, d := d, D := D, l := m.line }
      if m ∉ (s.home n).hints then s
      else
        let s := s.modHome n (fun y => { y with hints := rmFirst m y.hints })
        let x := s.home n
        if s.isFenced (.home n) || (s.txOf n a.l).isSome || x.ra.any (fun r => decide (r.line = a.l)) then s
        else if 32 ≤ x.ra.length then s.bump (cHom n 18)
        else match s.rngHome a.d a.l, s.memPort a with
          | some (i, e), some p =>
            if !s.inSvc p || s.lostAt a then s
            else
              let s := (s.bump (cHom n 16)).fetchPath a
              let (s, t) := s.newTxn n
              let s := s.modHome n (fun y => { y with
                ra := y.ra ++ [{ line := a.l, from_ := m.requester, txn := t, key := s.keyAt i e a.l, epoch := s.prot.epoch, at_ := s.kt a.d }] })
              let s := if s.zeroAt a then s else s.toMem a.D n p { op := .memRd, line := a.l, txn := t, cls := 2 }
              s.homeRun n
          | _, _ => s
    | none => s)

/-- RUN_AHEAD_EXPIRE: 4 µs after its data arrived. -/
def execRunAheadExpire (n : Nat) (line : LineAddr) (s : State) : Ans :=
  .next (match s.nodeDom n with
    | some (d, _) => s.raDrop n (fun r => decide (r.line = line) && r.data.isSome && decide (r.at_ + ns 4000 ≤ s.kt d))
    | none => s)

/-! ### Crozier passes, the cleaner and rollovers -/

/-- CROZIER_PASS: the pass of a line of the job's current block reaches the line's home. -/
def execCrozierPass (job : Nat) (line : LineAddr) (s : State) : Ans :=
  .next (
    let J := s.job job
    let e := tget {} s.prot.rngAct J.rng
    match (s.iten e.ten.toNat).bind (fun t => (s.idom t.domain).map (fun D => (t.domain, D))) with
    | none => s
    | some (d, D) =>
      let k := line.toNat
      let n := s.homeNode d D line
      if !J.active || J.sweeping || decide (k < J.cl) || decide (J.cl + 64 ≤ k) || decide (rngHi e < k) || decide (k ∈ J.doneLines)
        || (s.home n).passes.any (fun p => decide (p.line = line) && decide (p.job = some job))
        || (s.home n).txs.any (fun t => decide (t.line = line) && decide (t.kind = .crozier (some job))) then s
      else
        let s := (s.bump (cHom n 28)).raDrop n (fun r => decide (r.line = line))
        (s.modHome n (fun x => { x with passes := x.passes ++ [{ line := line, job := some job }] })).homeRun n)

/-- NODE_CLEAN: entry `key` of the node cache is dirty and unpinned, for 10 µs or while few entries are clean. -/
def execNodeClean (n key : Nat) (s : State) : Ans :=
  .next (match s.nodeDom n, (s.home n).nc[key]? with
    | some (d, D), some e =>
      let few : Bool := ((s.home n).nc.filter ncIdle).length < 48
      if e.crown || !e.dirty || decide (0 < e.pins) || !(few || decide (e.dirtyAt + ns 10000 ≤ s.kt d)) then s
      else match s.treeHome e.tree with
        | none => s
        | some h =>
          if e.level = treeT D h then s.writeNode d D h n e false
          else match s.nodeVal D h n e.pos 8 (e.level + 1) (e.index / 64) with
            | some p =>
              if slotMinor (p.slot (e.index % 64)) = 8191 then s
              else (s.writeNode d D h n e false).homeRun n
            | none =>
              ((List.range 7).filter (fun k => decide (e.level < k) && decide (k ≤ treeT D h))).foldl (fun s k =>
                if (s.nodeVal D h n e.pos 8 k (e.index / 64 ^ (k - e.level))).isNone then s.fetchNode D h n e.pos k (e.index / 64 ^ (k - e.level)) false else s) s
    | _, _ => s)

/-- ROLLOVER_END: no slot with a non-zero MINOR selects the old major; slots at MINOR 0 change SEL, and a rollover that is due starts. -/
def execRolloverEnd (n key : Nat) (s : State) : Ans :=
  .next (match s.nodeDom n, (s.home n).nc[key]? with
    | some (_, D), some e =>
      match e.roll with
      | some X =>
        if !e.node.allOn (!X) then s
        else
          let nd : FNode := { e.node with slots := e.node.full.map (fun v => if slotMinor v = 0 then (if X then 0#14 else 8192#14) else v) }
          let top := BitVec.ofNat 64 (max nd.majA.toNat nd.majB.toNat + 1)
          let e' : NcEnt := if e.rollDue then
              { e with node := if X then { nd with majB := top } else { nd with majA := top }, roll := some (!X), swept := false, rollDue := false, dirty := true }
            else { e with node := nd, roll := none, swept := false, dirty := true }
          let s := s.modHome n (fun x => { x with nc := setAt x.nc key e' })
          (if e.rollDue then s.bump (cHom n 27) else s).homesRun D
      | none => s
    | _, _ => s)

end Sys2Proof.Machine
end

