-- ==== Sys2Proof/Machine/Upkeep.lean ====
section
/-! DEFINITION. The allocator's epochs, sweeps, scrubs, spares, the drain of a fenced slice and the hand-over of a fenced home
(R127 to R130, R228 to R233, R436 to R442, R447 to R450, R453, R600). -/

namespace Sys2Proof.Machine

open Sys2Proof

/-! ### The Sphagnum allocator (R127 to R130) -/

/-- Ways that tenancy `t` owns in a slice. -/
def Slice.owns (x : Slice) (D : ImgDomain) (t : Nat) : Nat := ((List.range D.ways).filter (fun w => decide (x.wayOwn.getD w 16 = t))).length

def Slice.uhAt (x : Slice) (t k : Nat) : Nat := tget 0 x.uh (16 * t + k)

/-- The member of a list that `better a b` prefers over the one found so far; ties stay with the first. -/
def bestOf (ts : List Nat) (better : Nat → Nat → Bool) : Option Nat :=
  ts.foldl (fun b t => match b with | some x => if better t x then some t else some x | none => some t) none

/-- The decision rule of R129: from, to, way. -/
def State.sphDecide (s : State) (d : Nat) (D : ImgDomain) (x : Slice) : Option (Nat × Nat × Nat) :=
  let ts := s.tensOf d
  let a := x.owns D
  let gain (t : Nat) : Nat := if a t < D.ways then x.uhAt t (a t) else 0
  let loss (t : Nat) : Nat := if 0 < a t then x.uhAt t (a t - 1) else 0
  let g := bestOf (ts.filter (fun t => decide (a t < s.maxOf t))) (fun t b => decide (gain b < gain t))
  let losers := ts.filter (fun t => decide (s.minOf t < a t))
  let pair : Option (Nat × Nat) := match ts.find? (fun t => decide (s.maxOf t < a t)), g with
    | some l, some g => some (l, g)
    | some _, none => none
    | none, some g =>
      (match bestOf ((losers.filter (fun t => decide (t ≠ g))).reverse) (fun t b => decide (loss t < loss b)) with
       | some l => if loss l + D.thresh ≤ gain g then some (l, g) else none
       | none => none)
    | none, none => none
  match pair with
  | some (l, g) => ((List.range D.ways).reverse.find? (fun w => decide (x.wayOwn.getD w 16 = l) && !x.floor.getLsbD w)).map (fun w => (l, g, w))
  | none => none

/-- EPOCH: the slice's epoch has ended by its domain's Karik time. -/
def execEpoch (n : Nat) (s : State) : Ans :=
  .next (match s.nodeDom n with
    | none => s
    | some (d, D) =>
      let e := s.kt d / ns 1000000
      if e ≤ (s.slice n).lastEpoch then s
      else
        let x := s.slice n
        let go : Bool := s.open_ && !s.isFenced (.slice n) && !(s.dom d).freeze
        let mv := if go then (s.sphDecide d D x).map (fun v => (e, v.1, v.2.1, v.2.2)) else none
        let s := s.modSlice n (fun x => { x with
          lastEpoch := e, sphPend := mv, uh := (x.uh.map (fun v => (v.1, v.2 / 2))).filter (fun v => decide (v.2 ≠ 0)) })
        (s.tensOf d).foldl (fun s t => s.modPage t (fun g => { g with ways := sumL (D.nodes.map (fun m => (s.slice m).owns D t)) })) s)

/-- SPHAGNUM_MOVE: 200 ns after the epoch's start the way changes its owner; both tenancies count it (R590). -/
def execSphagnumMove (n : Nat) (s : State) : Ans :=
  .next (match s.nodeDom n, (s.slice n).sphPend with
    | some (d, _), some (e, l, g, w) =>
      if s.kt d < ns (e * 1000000 + 200) then s
      else (((s.modSlice n (fun x => { x with wayOwn := setAt x.wayOwn w g, sphLast := some (e, l, g, w), sphPend := none })).bump (cSlc n 18)).page g 11).page l 12
    | _, _ => s)

/-! ### Maintenance passes of a set (R438) -/

/-- Clean lines of the set with an uncorrectable codeword are invalidated while a victim entry is free. -/
def State.maintSet (s : State) (n d : Nat) (D : ImgDomain) (set : Nat) : State :=
  ((s.slice n).invalDue.filter (fun k => decide (k / D.ways = set))).foldl (fun s k =>
    let t := s.tagAt n k
    let l := D.lineOf t.origin.toNat set t.tag
    let s' := s.modSlice n (fun x => { x with invalDue := x.invalDue.filter (fun j => decide (j ≠ k)) })
    if t.state ≠ .e ∧ t.state ≠ .s then s'
    else if t.near.isSome then s'
    else if (s.mshrOf n l).isSome || (s.vbOf n l).isSome || decide (s.vbFree n = 0) then s
    else match tfree (s.slice n).vbuf 128 with
      | some i => s'.takeVictim n d D k i 64
      | none => s) s

/-! ### Sweeps (R228 to R233) -/

def jobKind : SweepJob → BitVec 2 | .range _ _ _ _ => 1 | .key _ => 2

/-- SWEEP_MARKER: the marker pass of a sweep that waits leaves ACC. -/
def execSweepMarker (n : Nat) (s : State) : Ans :=
  .next (match s.nodeDom n, (s.slice n).sweep.job with
    | some _, some j =>
      if (s.slice n).sweep.active || s.isFenced (.slice n) then s
      else s.modSlice n (fun x => { x with
        sweep := { x.sweep with active := true, kind := jobKind j, next := 0, waitAt := s.clk.fclk, held := false }
        mshrs := x.mshrs.map (fun e => (e.1, e.2.map (fun m => { m with preMarker := true }))) })
    | _, _ => s)

/-- MSHRs of the set that the sweep covers take the mark: those allocated before the marker, and near misses of a line that is present. -/
def State.sweepMark (s : State) (n d : Nat) (D : ImgDomain) (set : Nat) (j : SweepJob) : State :=
  s.modSlice n (fun x => { x with mshrs := x.mshrs.map (fun e => (e.1, e.2.map (fun m =>
    if decide (D.set m.line = set) && covers j d m.line m.keyid && (m.near.isSome || (m.preMarker && decide (m.st ≠ .orphan))) then { m with inval := true } else m))) })

/-- Covered lines of a set that a pass may invalidate: present, without a near miss. -/
def State.sweepWays (s : State) (n d : Nat) (D : ImgDomain) (set : Nat) (j : SweepJob) : List Nat :=
  (List.range D.ways).filter (fun w =>
    let t := s.tagAt n (set * D.ways + w)
    let l := D.lineOf t.origin.toNat set t.tag
    decide (t.state ≠ .i) && !decide ((set, w) ∈ (s.slice n).quar) && covers j d l t.keyid
      && (match s.mshrOf n l with | some (_, m) => m.near.isNone | none => true) && (s.vbOf n l).isNone)

/-- The commit of a sweep pass over a set: every covered line leaves, and covered MSHRs of before the marker take the mark (R230). -/
def State.sweepSet (s : State) (n d : Nat) (D : ImgDomain) (set : Nat) (j : SweepJob) (ws : List Nat) (flips : List (BitVec 80)) : State :=
  let s := s.sweepMark n d D set j
  let s := ws.foldl (fun s w => match tfree (s.slice n).vbuf 128 with
    | some i => (s.takeVictim n d D (set * D.ways + w) i 64 flips).bump (cSlc n 25)
    | none => s) s
  (s.maintSet n d D set).modSlice n (fun x => { x with sweep := { x.sweep with next := set + 1, waitAt := s.clk.fclk, held := false } })

/-- SWEEP_PASS: the pass of the next set, when the accept stage takes it (R59, R60, R229). It takes a free and unreserved victim-buffer entry for each covered
line; without them it commits nothing and goes back to wait (R232). -/
def execSweepPass (p : PassAt) (s : State) : Ans :=
  .next (match s.nodeDom p.n, (s.slice p.n).sweep.job with
    | some (d, D), some j =>
      let set := (s.slice p.n).sweep.next
      if !s.maintWaits p.n || s.isFenced (.slice p.n) || !s.acceptsMaint p.n (s.slice p.n).sweep.waitAt then s
      else
        let r := s.passFaults p.n d D set p.x
        if r.2 ≠ .go then r.1
        else
          let s := r.1
          let ws := s.sweepWays p.n d D set j
          if s.vbFree p.n < ws.length then s.modSlice p.n (fun y => { y with sweep := { y.sweep with held := true } })
          else s.sweepSet p.n d D set j ws p.x.tile
    | _, _ => s)

/-- Covered MSHRs that remain from before the marker (PRE of SLC_SWEEP). -/
def State.sweepPre (s : State) (n d : Nat) : Nat :=
  match (s.slice n).sweep.job with
  | some j => ((s.slice n).mshrs.filter (fun e => match e.2 with
      | some m => m.preMarker && covers j d m.line m.keyid | none => false)).length
  | none => 0

/-- Is a job's sweep still to run or running in an unfenced slice? -/
def State.sweeping (s : State) (j : SweepJob) : Bool :=
  (List.range 64).any (fun n => decide ((s.slice n).sweep.job = some j) && !s.isFenced (.slice n))

/-- When every slice has finished, a range invalidation ends, or a RESEED goes on to its blocks; a key retire waits for RETIRE_END. -/
def State.sweepsOver (s : State) (j : SweepJob) : State :=
  if s.sweeping j then s
  else match j with
    | .range _ _ _ false => (({ s with prot := { s.prot with invRun := false, invStat := 0, invJob := none } }).bump (cGlb 29)).irq 0 4
    | .range _ _ _ true => { s with prot := { s.prot with jobs := s.prot.jobs.map (fun e => (e.1, { e.2 with sweeping := false })) } }
    | .key _ => s

/-- SWEEP_END: every set is swept and no covered MSHR of before the marker remains. The sweep of a fenced slice is left to its drain engine. -/
def execSweepEnd (n : Nat) (s : State) : Ans :=
  .next (match s.nodeDom n, (s.slice n).sweep.job with
    | some (d, D), some j =>
      let x := (s.slice n).sweep
      if !s.isFenced (.slice n) && (!x.active || decide (x.next < D.sets) || decide (s.sweepPre n d ≠ 0)) then s
      else
        let s := s.modSlice n (fun y => { y with
          sweep := { y.sweep with active := false, done := true, job := y.sweep.waiting, waiting := none }
          mshrs := y.mshrs.map (fun e => (e.1, e.2.map (fun m => { m with preMarker := false }))) })
        (s.irq 0 (128 + n)).sweepsOver j
    | _, _ => s)

/-! ### Scrubs (R436, R437) -/

/-- The scrub of a slot: its line's read-correct-write, read with the bit errors `flips` (R72, R436). -/
def State.scrubSlot (s : State) (n d : Nat) (D : ImgDomain) (k : Nat) (flips : List (BitVec 80)) : State :=
  let s := if (s.slotLine D n k).isSome then (s.chan n .scrub).checkLine n d D k flips else s
  s.modSlice n (fun y => { y with scrubDue := y.scrubDue.filter (fun j => decide (j ≠ k)) })

/-- Does no Gate's calendar hold the tile channel's current slot (R75)? -/
def State.chanFree (s : State) (n d : Nat) : Bool :=
  (List.range 64).all (fun g => (s.gate g).resv.all (fun u => !(decide (u.res = .chan n) && decide (u.slot = slotOf (s.kt d)))))

/-- PATROL_SCRUB, in a slot that the calendars leave free: a slot whose scrub an error has scheduled goes first (R76; DESIGN CHOICE, log entry 154), else, once SCRUB_INT
has passed, the next slot, whose way 0 also brings a scrub pass of the set's words (R60, R436). A pass that the copies fail is left for a later one. -/
def execPatrolScrub (n : Nat) (flips : List (BitVec 80)) (x : PassFault) (s : State) : Ans :=
  .next (match s.nodeDom n with
    | none => s
    | some (d, D) =>
      if s.isFenced (.slice n) || !s.chanFree n d then s
      else match (s.slice n).scrubDue with
        | k :: _ => s.scrubSlot n d D k flips
        | [] =>
          let k := (s.slice n).scrubNext
          let w := (s.slice n).scrubAt
          let int := (match s.imgc.img with | some i => i.scrubMs | none => 1250) * 25000
          if s.clk.aclk < w then s
          else
            let step (s : State) : State := (s.modSlice n (fun y => { y with scrubNext := (k + 1) % 65536, scrubAt := s.clk.aclk + int })).scrubSlot n d D k flips
            if k % D.ways ≠ 0 then step s
            else if !s.acceptsMaint n (96 * w) then s
            else
              let r := s.passFaults n d D (k / D.ways) x
              if r.2 = .go then step (r.1.maintSet n d D (k / D.ways)) else r.1)

/-- DIR_SCRUB: the next peer-directory set, one every 2.5 s (R437). -/
def execDirScrub (n : Nat) (x : DirFault) (s : State) : Ans :=
  .next (match s.nodeDom n with
    | none => s
    | some (d, _) =>
      if s.isFenced (.home n) || decide (s.clk.aclk < (s.home n).dirScrubAt) then s
      else
        let k := (s.home n).dirScrubNext
        let s := s.modHome n (fun y => { y with dirScrubNext := (k + 1) % 2048, dirScrubAt := s.clk.aclk + 62500000 })
        s.dirCheck n d k x)

/-- NC_SCRUB: the next node-cache entry, one every 1 ms (R420, R437). -/
def execNcScrub (n : Nat) (correctable uncorrectable : Bool) (s : State) : Ans :=
  .next (match s.nodeDom n with
    | none => s
    | some (d, _) =>
      if s.isFenced (.home n) || decide (s.clk.aclk < (s.home n).ncScrubAt) then s
      else
        let len := (s.home n).nc.length
        let k := (s.home n).ncScrubNext
        let s := s.modHome n (fun y => { y with ncScrubNext := (k + 1) % 512, ncScrubAt := s.clk.aclk + 25000 })
        match (s.home n).nc[k]? with
        | none => s
        | some e =>
          if len ≤ k then s
          else if uncorrectable then
            (if e.dirty || e.crown then (s.loseNode d n { tree := e.tree, pos := e.pos, level := e.level, index := e.index }).homeRun n
             else s.modHome n (fun y => { y with nc := rmFirst e y.nc }))
          else if correctable then s.bump (cHom n 25)
          else s)

/-- A Stipe position with no two copies agreeing: its subtree is lost whole (R412, R420). -/
def State.stipeGone (s : State) (h : ImgHome) (pos : Nat) : State :=
  let e := match tfree s.prot.lost 248 with | some i => i | none => 248 + h.tree
  let s := { s with prot := { s.prot with
    stipeLost := true, lost := tset none s.prot.lost e (some { tree := h.tree, pos := if e < 248 then pos else 0, level := 7, index := 0 }) } }
  let (s, t) := s.winHit 12 (.frond h.tree)
  let s := s.raise { sev := 3, source := .stipe, inst := h.tree, code := .stipe, domain := h.domain, trip := t, win := if t then 12 else 255, addr := BitVec.ofNat 48 (64 * h.tree + pos), detail := BitVec.ofNat 64 pos }
  if t then s.fence (.frond h.tree) .fence (some 12) else s

/-- STIPE_SCRUB: the full reading of the Stipe and the key table, once per 1 s (R437). Word 64 t + h is the top version of position h of tree t. -/
def execStipeScrub (disagree : List (Nat × Nat)) (badKeys : List Nat) (s : State) : Ans :=
  .next (if s.clk.aclk < s.prot.stipeAt then s else
    let s := { s with prot := { s.prot with stipeAt := s.clk.aclk + 25000000 } }
    let s := disagree.foldl (fun s w =>
      match s.treeHome (w.1 / 64) with
      | none => s
      | some h => if 2 ≤ w.2 then { s with prot := { s.prot with stipeFixed := true } } else s.stipeGone h (w.1 % 64)) s
    badKeys.foldl (fun s k => if 1 ≤ k ∧ k < 64 ∧ (s.key k).st ≠ .free then s.fence (.key k) .keyUe none else s) s)

/-! ### Spares (R441) -/

/-- SPARE_REMAP: the oldest copy has ended and its remap takes effect. -/
def execSpareRemap (n : Nat) (s : State) : Ans :=
  .next (match (s.slice n).spares.find? (fun u => !u.live) with
    | none => s
    | some u =>
      let s := s.modSlice n (fun x => { x with spares := modFirst (fun y => decide (y = u)) (fun y => { y with live := true }) x.spares })
      let s := s.bump (cChn n (if u.col then 10 else 9))
      let v := (if u.col then 2 ^ 23 else 0) + u.bank * 2 ^ 20 + u.spare * 2 ^ 18 + u.idx
      let s := s.peat 0x05 (bodyOf ([n, 1] ++ leBytes 3 v))
      let d := match s.nodeDom n with | some x => x.1 | none => 0
      s.raise { sev := 1, source := .channel, inst := n, code := if u.col then .colSpared else .rowSpared, domain := d, set := u.idx, way := u.bank })

/-! ### The drain of a fenced slice (R447 to R449) -/

/-- The drain engine's next slot with a valid line that it may take. -/
def State.drainNext (s : State) (n : Nat) (D : ImgDomain) : Option Nat :=
  ((s.slice n).tags.map (·.1)).find? (fun k =>
    decide ((s.slice n).drain.next ≤ k) && decide ((s.tagAt n k).state ≠ .i) && !decide ((k / D.ways, k % D.ways) ∈ (s.slice n).quar))

/-- SLICE_DRAIN_STEP: at most one line per 16 FCLK, or per 64 through a proxy. A line with a near miss leaves with its fill pass. -/
def execSliceDrainStep (n : Nat) (s : State) : Ans :=
  .next (match s.nodeDom n with
    | none => s
    | some (d, D) =>
      let x := (s.slice n).drain
      if !x.running || decide (s.clk.fclk < x.startAt) then s
      else
        let wait := if s.isFenced (.router n) then 64 else 16
        match s.drainNext n D with
        | none => s.modSlice n (fun y => { y with drain := { y.drain with next := 65536 } })
        | some k =>
          let t := s.tagAt n k
          let l := D.lineOf t.origin.toNat (k / D.ways) t.tag
          let s := s.modSlice n (fun y => { y with drain := { y.drain with next := k + 1, startAt := s.clk.fclk + wait } })
          let s := s.bump (cSlc n 32)
          match s.mshrOf n l with
          | some (_, { near := some _, .. }) => s
          | _ =>
            let s := s.modTag n k (fun t => { t with lock := false })
            let s := if x.poison && dirtySt t.state && t.near.isNone then s.setTile n k poisonLine else s
            s.takeVictim n d D k (s.drainKey n) 64)

/-- DRAIN_END: every set is walked, and no victim or MSHR is left; the slice spread takes effect. -/
def execDrainEnd (n : Nat) (s : State) : Ans :=
  .next (match s.nodeDom n with
    | none => s
    | some (d, D) =>
      let x := s.slice n
      if !x.drain.running || (s.drainNext n D).isSome || !x.outs.isEmpty || x.mshrs.any (fun e => e.2.isSome) then s
      else
        let s := s.modSlice n (fun y => { y with drain := { y.drain with running := false }, tags := [], pres := [], rrv := [] })
        (s.modDom d (fun y => { y with sliceSpread := insNat (D.pos n) y.sliceSpread })).irq 0 (128 + n))

/-! ### The hand-over of a fenced home (R450, R600) -/

/-- The acknowledgement of the home is still due for victims of a slice whose home was fenced: they are sent again to the new home. -/
def State.resendWb (s : State) (d : Nat) (D : ImgDomain) (h n : Nat) : State :=
  (s.slice n).outs.foldl (fun s e =>
    let v := e.2
    let a : At := { n := n, d := d, D := D, l := v.line }
    if v.sent ∧ D.node (D.hash v.line) = h ∧ s.lineHome a = D.device then s.sendWb a (dirtySt v.state) v.data else s) s

/-- HANDOVER_END: every recall has ended and every absorbed write-back of a peer has found its answer; the home spread takes effect. -/
def execHandoverEnd (n : Nat) (s : State) : Ans :=
  .next (match s.nodeDom n with
    | none => s
    | some (d, D) =>
      let left := D.nodes.any (fun m => (s.home m).txs.any (fun t => decide (t.kind = .handover) && decide (t.fromNode = n)))
      if !(s.home n).handover || left || !(s.home n).absorbed.isEmpty then s
      else
        let s := s.modHome n (fun x => { x with handover := false, dir := [] })
        let s := s.modDom d (fun y => { y with homeSpread := insNat (D.pos n) y.homeSpread })
        (D.nodes.foldl (fun s m => s.resendWb d D n m) s).irq 0 (128 + n))

end Sys2Proof.Machine
end

