-- ==== Sys2Proof/Machine/Fabric.lean ====
section
/-! DEFINITION. The Hypha fabric: ingress of messages at ports, routes and detours, injection, forwarding, ejection and sinks (R195, R312 to R343, R374). -/

namespace Sys2Proof

/-- The node that output `dir` of node `n` leads to (R312). -/
def ImgDomain.next (D : ImgDomain) (n : Nat) (dir : Dir) : Nat :=
  let W := shapeW D.nlog
  let H := shapeH D.nlog
  let p := D.pos n % W
  let q := D.pos n / W
  match dir with
  | .px => D.node ((p + 1) % W + W * q)
  | .mx => D.node ((p + W - 1) % W + W * q)
  | .py => D.node (p + W * ((q + 1) % H))
  | .my => D.node (p + W * ((q + H - 1) % H))

/-- Ring distances from node `a` to node `b` in the rising directions. -/
def ImgDomain.dx (D : ImgDomain) (a b : Nat) : Nat := (D.pos b % shapeW D.nlog + shapeW D.nlog - D.pos a % shapeW D.nlog) % shapeW D.nlog
def ImgDomain.dy (D : ImgDomain) (a b : Nat) : Nat := (D.pos b / shapeW D.nlog + shapeH D.nlog - D.pos a / shapeW D.nlog) % shapeH D.nlog

/-- R326: the direction along each ring; half a ring goes the rising way. -/
def ImgDomain.xDir (D : ImgDomain) (a b : Nat) : Option Dir :=
  if D.dx a b = 0 then none else if 2 * D.dx a b ≤ shapeW D.nlog then some .px else some .mx
def ImgDomain.yDir (D : ImgDomain) (a b : Nat) : Option Dir :=
  if D.dy a b = 0 then none else if 2 * D.dy a b ≤ shapeH D.nlog then some .py else some .my

/-- R331: an output is productive when it shortens the ring distance; at half the ring both directions are. -/
def ImgDomain.productive (D : ImgDomain) (a b : Nat) (dir : Dir) : Bool :=
  let x := D.dx a b
  let y := D.dy a b
  match dir with
  | .px => decide (0 < x) && decide (2 * x ≤ shapeW D.nlog)
  | .mx => decide (0 < x) && decide (shapeW D.nlog ≤ 2 * x)
  | .py => decide (0 < y) && decide (2 * y ≤ shapeH D.nlog)
  | .my => decide (0 < y) && decide (shapeH D.nlog ≤ 2 * y)

end Sys2Proof

namespace Sys2Proof.Machine

open Sys2Proof

def dirs : List Dir := [.px, .mx, .py, .my]
def dirNum : Dir → Nat | .px => 0 | .mx => 1 | .py => 2 | .my => 3
def sameRing (a b : Dir) : Bool := (dirNum a / 2 == dirNum b / 2)
/-- The direction from which a unit that travels in direction `d` comes. -/
def backDir : Dir → Dir | .px => .mx | .mx => .px | .py => .my | .my => .py

/-! ### Ages -/

/-- Age of a unit in FCLK. -/
def State.ageOf (s : State) (u : FUnit) : Nat := (s.clk.fclk + 128 - u.age) % 128

/-- R316: ages are compared serially. -/
def older (a b : FUnit) : Bool := let k := (b.age + 128 - a.age) % 128; decide (1 ≤ k) && decide (k ≤ 63)

/-! ### The bits of a unit (R314, R317, R320) -/

/-- EGR of a sink. The Gate as sink of the controller writer's answers has no code of its own and takes that of slot 0 (log entry 157). -/
def egrNum : Sink → Nat | .port k => if k < 4 then k else 0 | .slice => 4 | .home => 5

/-- LA: the output that a unit takes at the next router (R327). -/
def laNum (o : Option Dir) : Nat := match o with | some d => dirNum d | none => 4

/-- The 160 bytes of payload. -/
def unitPayload (u : FUnit) : BitVec 1280 :=
  let m := u.msg
  let seq := if vnOf m.op = .req then u.seq else 0
  match formOf m with
  | .line => halfWords (wordsOf m) (!halfOf m) ++ halfWords (wordsOf m) (halfOf m)
  | .half => 0#640 ++ halfWords (wordsOf m) (halfOf m)
  | .write => ext1With u.src seq m ++ ext0 m ++ m.mask ++ m.data.bits
  | .ext => 0#1152 ++ ext1With u.src seq m ++ ext0 m

/-- A unit as a router sends it, with `la` for the next: header, then payload. -/
def unitBits (u : FUnit) (la : Nat) : BitVec 1408 := unitPayload u ++ headerWith u.dst (egrNum u.sink) la u.age u.msg

/-- The parity bits of the payload, one for each 64-bit word. -/
def payloadParity (p : BitVec 1280) : List Bool := (List.range 20).map (fun i => parityOf (p.extractLsb' (64 * i) 64).toNat)

/-- Does a header hold a reserved VN, EGR or LA (R314, R320)? -/
def headerReserved (h : BitVec 128) : Bool :=
  decide (5 ≤ (h.extractLsb' 116 3).toNat) || decide (6 ≤ (h.extractLsb' 119 3).toNat) || decide (5 ≤ (h.extractLsb' 108 3).toNat)

/-! ### Where units are -/

/-- The units on the links and in the turn queues of a domain. -/
def State.unitsMoving (s : State) (D : ImgDomain) : List FUnit :=
  D.nodes.flatMap (fun n => (s.router n).inq.flatMap (·.2) ++ (s.router n).turn.flatMap (·.2))

/-- The link queue of input direction `dir`: per virtual network in Full mode, one per link in Compact mode. -/
def inKey (D : ImgDomain) (dir : Dir) (op : Op) : Nat := 5 * dirNum dir + (if D.compact then 0 else vnNum (vnOf op))

/-- R333, R340: the queue that holds REQ units for order. -/
def holdQ (D : ImgDomain) : Nat := if D.compact then 89 else 49

/-! ### Sinks (R339) -/

/-- An answer for the controller writer reaches the Gate that hands it back (R30). -/
def State.toWriter (s : State) (d n : Nat) (u : FUnit) : State :=
  let put_ (s : State) : State := s.modGate n (fun G => { G with writerOut := G.writerOut ++ [u.msg] })
  if !completes u.msg then put_ s
  else match s.watchFor (256 + d) u.msg with
    | some (g, w) => if w.queued then s.bump (cGate n 17) else put_ (s.modWatch g w (fun x => { x with queued := true }))
    | none => s.bump (cGate n 17)

/-- A unit that has left the fabric at its destination reaches its sink queue, or is absorbed: a fenced slice's drain engine takes everything but requests. -/
def State.toSink (s : State) (d : Nat) (u : FUnit) : State :=
  let n := u.dst
  match u.sink with
  | .slice =>
    if s.isFenced (.slice n) && !((s.slice n).drain.running && decide (vnOf u.msg.op ≠ .req)) then s.absorb n u .sliceFault
    else s.qPush n (sinkQueue u.sink u.msg.op) u
  | .home => if s.isFenced (.home n) then s.absorb n u .homeFault else s.qPush n (sinkQueue u.sink u.msg.op) u
  | .port k =>
    if k = 56 then s.toWriter d n u
    else if s.inSvc (4 * n + k) then s.toEgress (4 * n + k) u
    else s.absorb n u .unreachable

/-- A unit goes to the sink of router `n`. A unit for the slice of a fenced router goes to its proxy, which works on the slice's queues (R451). -/
def State.sinkAt (s : State) (n : Nat) (u : FUnit) : State :=
  if u.sink = .slice && s.isFenced (.router u.dst) && (s.slice u.dst).drain.running && decide (vnOf u.msg.op ≠ .req) then
    s.qPush u.dst (sinkQueue u.sink u.msg.op) u
  else s.absorb n u (match u.sink with | .slice => .sliceFault | .home => .homeFault | .port _ => .unreachable)

/-! ### Checks of R320 -/

/-- A parity error in the payload of an extension-form or write-form unit, found at ejection: the transaction is answered ERR POISON.
Line-form and half-form payloads are checked where the line is used. Answers whose header tells all reach their sink. -/
def State.payloadBad (s : State) (d : Nat) (u : FUnit) : State :=
  let m := u.msg
  let mark (s : State) : State := ((s.modRouter u.dst (fun r => { r with payPar := true })).bump (cRtr u.dst 29)).rep .router u.dst .payPar d m.line
  match vnOf m.op with
  | .dat => s.toSink d u
  | .wbk => if formOf m = .ext then (mark s).toSink d u else s.toSink d u
  | .req => (mark s).report u .poison
  | .snp => (mark s).report u .poison
  | .rsp =>
    let s := mark s
    match m.op with
    | .grant | .cmp | .dur | .err => s.toSink d { u with msg := { m with op := .err, err := .poison } }
    | .rspI | .rspS | .rspFwd => s.toSink d { u with msg := { m with err := .poison } }
    | _ => s.toSink d u

/-- A header with an uncorrectable error: the unit goes to the sink of router `n`, and the event counts against the link from `src` (window 9). -/
def State.headerBad (s : State) (d n src : Nat) (dir : Dir) (u : FUnit) : State :=
  let s := (s.modRouter n (fun r => { r with hdrUe := true })).bump (cRtr n 28)
  let s := s.absorb n u .unreachable
  let (s, trip) := s.winHit 9 (.link src (dirNum dir))
  let s := s.raise { sev := 3, source := .router, inst := n, code := .hdrUe, trip := trip, win := if trip then 9 else 255, domain := d, addr := u.msg.line.setWidth 48 }
  if trip then s.fence (.router src) .fence (some 9) else s

/-! ### Ejection (R325, R330, R333, R340) -/

/-- Is a REQ unit with a lower SEQ of the same source and destination still on its way? -/
def State.earlierReq (s : State) (D : ImgDomain) (u : FUnit) : Bool :=
  (s.unitsMoving D ++ s.qOf u.dst (holdQ D)).any (fun v =>
    decide (v.src = u.src) && decide (v.dst = u.dst) && decide (vnOf v.msg.op = .req) && decide (v ≠ u)
      && (let k := (u.seq + 4096 - v.seq) % 4096
          decide (0 < k) && decide (k < 2048)))

/-- Whether ejection at node `n` orders REQ units now. -/
def State.ordersReq (s : State) (d : Nat) (D : ImgDomain) : Bool := D.compact || decide (s.clk.fclk < (s.dom d).reorderTill)

/-- An ejected unit goes to its sink queue, on the edge after the one on which it arrived or was injected (R313). -/
def State.ejectTo (s : State) (d : Nat) (u : FUnit) (bad : Bool) : State :=
  let u := { u with ej := true, at_ := s.clk.fclk + 1 }
  if bad then s.payloadBad d u else s.toSink d u

/-- REQ units held for order leave once the units before them have been ejected. -/
def State.heldOut (s : State) (d : Nat) (D : ImgDomain) (n : Nat) : Nat → State
  | 0 => s
  | k + 1 =>
    match (s.qOf n (holdQ D)).find? (fun u => !s.earlierReq D u) with
    | some u => ((s.qTake n (holdQ D) u.msg).ejectTo d u false).heldOut d D n k
    | none => s

/-- Eject a unit at its destination. -/
def State.eject (s : State) (d : Nat) (D : ImgDomain) (u : FUnit) (bad : Bool) : State :=
  let n := u.dst
  let age := s.ageOf u + 1
  let s := (s.bump (cRtr n 21)).modRouter n (fun r => { r with ageMax := max r.ageMax (min age 255) })
  if vnOf u.msg.op = .req && s.ordersReq d D && s.earlierReq D u then (s.qPush n (holdQ D) u).bump (cRtr n 26)
  else
    let s := s.ejectTo d u bad
    s.heldOut d D n (s.qOf n (holdQ D)).length

/-- Cells ejected for a sink queue that the sink has not taken; one held for order counts (R325, R340). -/
def State.ejOut (s : State) (n q : Nat) : Nat :=
  qcells ((s.qOf n q).filter (·.ej)) + qcells ((s.qOf n 49).filter (fun v => decide (sinkQueue v.sink v.msg.op = q)))

/-- R325: a Full-mode sink queue's allowance covers the unit. -/
def State.allowed (s : State) (u : FUnit) : Bool :=
  let q := sinkQueue u.sink u.msg.op
  decide (u.sink = .port 56) || decide (s.ejOut u.dst q + fcells u ≤ queueResv q)

/-- R330: cells of source `n`'s reservation whose return is on its way. -/
def State.resvBack (s : State) (n dst q : Nat) : Nat :=
  sumL (((s.pool dst).rets.filter (fun r => decide (r.1 = n) && decide (r.2.1 = q) && decide (s.clk.fclk < r.2.2.2))).map (·.2.2.1))

/-- R330: cells of source `n`'s reservation at a sink queue that are in use or on their way back. -/
def State.resvUsed (s : State) (D : ImgDomain) (n dst q : Nat) : Nat :=
  let mine (u : FUnit) : Bool := decide (u.src = n) && decide (u.dst = dst) && decide (sinkQueue u.sink u.msg.op = q)
  qcells ((s.unitsMoving D).filter mine) + qcells ((s.qOf dst 89).filter mine) + qcells ((s.qOf dst q).filter (fun u => mine u && u.ej))
    + s.resvBack n dst q

/-! ### Injection -/

/-- R194, R329, R333: a snoop waits for data and answers from the same source to the same port, and for the data that its slice still reads for that port. -/
def State.snpWaits (s : State) (D : ImgDomain) (n : Nat) (u : FUnit) : Bool :=
  let before (v : FUnit) : Bool := (vnOf v.msg.op = .rsp || vnOf v.msg.op = .dat) && decide (v.dst = u.dst) && decide (v.sink = u.sink)
  let reading (m : Msg) : Bool := match u.sink with
    | .port k => !epUnit m.requester && decide (portNode (epLow m.requester) = u.dst) && decide (portSlot (epLow m.requester) = k)
    | _ => false
  decide (vnOf u.msg.op = .snp) &&
    ((s.qOf n 86 ++ s.qOf n 87).any (fun v => before v && decide (v.ord ≤ u.ord))
      || (s.slice n).reads.any (fun r => r.msg.any (fun m => reading m && decide (m.line = u.msg.line)))
      || (D.compact && (match u.sink with
          | .port k => (s.unitsMoving D ++ s.qOf u.dst (20 + 5 * k + 2) ++ s.qOf u.dst (20 + 5 * k + 3)).any (fun v => before v && decide (v.src = n))
              || decide (0 < s.resvBack n u.dst (20 + 5 * k + 2)) || decide (0 < s.resvBack n u.dst (20 + 5 * k + 3))
          | _ => false)))

/-- The token bucket a unit draws on where it is injected (R275): 1 a home's snoops and MEM_RD, 2 a slice's near snoops and write-backs. -/
def bucketOf (m : Msg) : Option Nat :=
  if epUnit m.sender && decide (epType m.sender = 1) && (vnOf m.op = .snp || m.op = .memRd) then some 1
  else if epUnit m.sender && decide (epType m.sender = 0) && (vnOf m.op = .snp || m.op = .wb || m.op = .evn) then some 2
  else none

/-- Whether node `n` holds a token for the unit. -/
def State.tokenFor (s : State) (d n : Nat) (m : Msg) : Bool :=
  match bucketOf m with | some k => (s.injToken d n k m.cls.toNat).2 | none => true
def State.tokenSpent (s : State) (d n : Nat) (m : Msg) : State :=
  match bucketOf m with | some k => (s.injToken d n k m.cls.toNat).1 | none => s

/-- R405: a MEM_WR for a line follows the one before by 16 FCLK. -/
def State.writeWaits (s : State) (u : FUnit) : Bool :=
  (u.msg.op = .memWr || u.msg.op = .memWrDur)
    && (s.home u.src).lastWr.any (fun e => decide (e.1 = u.msg.line) && decide (s.clk.fclk < e.2 + 16))

/-- The injection queues of a node: local, then the Gate's. -/
def injQueues : List Nat := (List.range 5).map (84 + ·) ++ (List.range 12).map (224 + ·)

/-- Is the unit addressed to a fenced router? -/
def State.goesDead (s : State) (u : FUnit) : Bool := s.isFenced (.router u.dst)

/-- May the head unit of an injection queue be injected now, but for its output? -/
def State.mayInject (s : State) (d : Nat) (D : ImgDomain) (n : Nat) (u : FUnit) : Bool :=
  !s.snpWaits D n u && !s.writeWaits u && s.tokenFor d n u.msg
    && (s.goesDead u || if D.compact then decide (u.sink = .port 56) || decide (s.resvUsed D n u.dst (sinkQueue u.sink u.msg.op) + fcells u ≤ 4)
        else decide (u.dst ≠ n) || s.allowed u)

/-- The units of the injection queues that have a turn now: in Full mode the heads of the queues, which are first in, first out; in Compact mode every unit (R332).
No unit comes before one of its line that entered a queue of the node earlier (R287, R291), and an admitted request waits until its admission edge has passed (R250, R266). -/
def State.injHeads (s : State) (d : Nat) (D : ImgDomain) (n : Nat) : List (Nat × FUnit) :=
  let all := injQueues.flatMap (fun q => (s.qOf n q).map (fun u => (q, u)))
  let cand := if D.compact then all else injQueues.filterMap (fun q => (s.qOf n q).head?.map (fun u => (q, u)))
  cand.filter (fun e => s.mayInject d D n e.2 && (decide (e.1 < 224) || decide (e.2.at_ < s.clk.fclk))
    && all.all (fun x => decide (x.2.msg.line ≠ e.2.msg.line) || decide (e.2.ord ≤ x.2.ord)))

/-- The candidate with the earliest deadline; the first of equals. -/
def State.earliest (s : State) (d : Nat) : List (Nat × FUnit) → Option (Nat × FUnit)
  | [] => none
  | x :: t => match s.earliest d t with
    | some y => if s.dlKey d y.2.msg < s.dlKey d x.2.msg then some y else some x
    | none => some x

/-- A unit leaves its injection queue: it is numbered and its age begins. -/
def State.injected (s : State) (d n q : Nat) (u : FUnit) : State × FUnit :=
  let wait := s.clk.fclk - u.at_
  let s := s.qTake n q u.msg
  let s := (s.bump (cRtr n 20)).modRouter n (fun r => { r with injMax := max r.injMax (min wait 255) })
  let s := s.tokenSpent d n u.msg
  let s := if 224 ≤ q then s.stamp d u.msg.line (some u.msg.requester) 1 else s
  let s := if u.msg.op = .memWr ∨ u.msg.op = .memWrDur then s.modHome n (fun x => { x with
      lastWr := (x.lastWr.filter (fun e => decide (s.clk.fclk < e.2 + 16))) ++ [(u.msg.line, s.clk.fclk)] }) else s
  let k := tget 0 (s.router n).seqOut u.dst
  let s := if vnOf u.msg.op = .req then s.modRouter n (fun r => { r with seqOut := tset 0 r.seqOut u.dst ((k + 1) % 4096) }) else s
  (s, { u with src := n, age := s.clk.fclk % 128, seq := if vnOf u.msg.op = .req then k else 0 })

/-! ### Full mode (R323 to R329, R337) -/

/-- What a Full-mode router does with a unit. -/
inductive Hop | eject | sink | wait | go (dir : Dir) (det : Nat)
deriving DecidableEq, Repr

/-- The next hop of a unit at router `n`: X ring, then Y ring, around fenced routers once detours are in effect. -/
def State.fullHop (s : State) (d : Nat) (D : ImgDomain) (n : Nat) (u : FUnit) : Hop :=
  let bad (m : Nat) : Bool := s.isFenced (.router m)
  let on (m : Nat) : Bool := (s.dom d).detour && decide (m ∉ (s.dom d).detourPend)
  let go (dir : Dir) (det : Nat) : Hop := if bad (D.next n dir) then (if D.next n dir = u.dst then .sink else .wait) else .go dir det
  let yPhase : Hop := match D.yDir n u.dst with
    | some y => if bad (D.next n y) && decide (D.next n y ≠ u.dst) then (if on (D.next n y) then go .px 2 else .wait) else go y 0
    | none => .eject
  if n = u.dst then .eject
  else if u.det = 1 then
    match D.xDir n u.dst with
    | some x => if bad (D.next n .my) || bad (D.next (D.next n x) .my) then go x 1 else go .my 0
    | none => if bad (D.next n .my) then yPhase else go .my 0
  else if u.det = 2 then
    match D.yDir n u.dst with
    | some y => if bad (D.next n .mx) || bad (D.next (D.next n y) .mx) then go y 2 else go .mx 0
    | none => go .mx 0
  else match D.xDir n u.dst with
    | some x => if bad (D.next n x) && decide (D.next n x ≠ u.dst) then (if on (D.next n x) then go .py 1 else .wait) else go x 0
    | none => yPhase

/-- Returns in flight from a link input: the cells that left it on this edge (R323). -/
def State.freedNow (s : State) (n k : Nat) : Nat := let f := tget (0, 0) (s.router n).freed k; if f.1 = s.clk.fclk then f.2 else 0

/-- Credits that output `dir` of node `n` holds for a virtual network: 16 less the cells downstream and the returns in flight; none on a link to or from a fenced
router (R323, R336). -/
def State.credits (s : State) (D : ImgDomain) (n : Nat) (dir : Dir) (vn : Nat) : Nat :=
  let k := 5 * dirNum dir + vn
  if s.isFenced (.router n) || s.isFenced (.router (D.next n dir)) then 0
  else 16 - qcells (tget [] (s.router (D.next n dir)).inq k) - s.freedNow (D.next n dir) k

/-- R324: does the output hold the credits? -/
def State.canLeave (s : State) (D : ImgDomain) (n : Nat) (dir : Dir) (u : FUnit) (entering : Bool) : Bool :=
  decide (fcells u + (if entering then 2 else 0) ≤ s.credits D n dir (vnNum (vnOf u.msg.op)))

/-- A unit crosses output `dir` of node `n`. -/
def State.cross (s : State) (D : ImgDomain) (n : Nat) (dir : Dir) (u : FUnit) (det : Nat) : State :=
  let s := s.bump (cRtr n (5 * dirNum dir + vnNum (vnOf u.msg.op)))
  let s := if u.det ≠ 0 ∨ det ≠ 0 then s.bump (cRtr n 24) else s
  let s := s.modRouter n (fun r => { r with outAt := setAt r.outAt (dirNum dir) (s.clk.fclk + 1) })
  s.modRouter (D.next n dir) (fun r => { r with inq := tmod [] r.inq (inKey D dir u.msg.op) (fun l => l ++ [{ u with det := det, at_ := s.clk.fclk }]) })

/-- R329 at a link input; an answer that has been moved to a turn queue goes on counting (R194). -/
def State.snpBehind (s : State) (n : Nat) (dir : Dir) (u : FUnit) : Bool :=
  let r := s.router n
  let before (x : FUnit) : Bool := decide (x.dst = u.dst) && decide (x.sink = u.sink) && decide (x.at_ ≤ u.at_)
  decide (vnOf u.msg.op = .snp) && [2, 3].any (fun v => (tget [] r.inq (5 * dirNum dir + v)).any before || (tget [] r.turn v).any (fun x => before x && decide (x.src = u.src)))

/-- The heads of a link input's queues that have arrived and that R329 does not hold back, by virtual network. -/
def State.linkHeads (s : State) (n : Nat) (dir : Dir) : List (Nat × FUnit) :=
  (List.range 5).filterMap (fun v => match tget [] (s.router n).inq (5 * dirNum dir + v) with
    | u :: _ => if s.snpBehind n dir u || decide (s.clk.fclk ≤ u.at_) then none else some (v, u)
    | [] => none)

/-- The heads of the turn queues that R329 does not hold back. -/
def State.turnHeads (s : State) (n : Nat) : List (Nat × FUnit) :=
  let r := s.router n
  (List.range 5).filterMap (fun v => match tget [] r.turn v with
    | u :: _ =>
      if decide (vnOf u.msg.op = .snp) && [2, 3].any (fun w => (tget [] r.turn w).any (fun x => decide (x.dst = u.dst) && decide (x.sink = u.sink) && decide (x.at_ ≤ u.at_)))
      then none else some (v, u)
    | [] => none)

/-- The head of a link input leaves it. -/
def State.dropIn (s : State) (n k : Nat) : State :=
  let c := qcells ((tget [] (s.router n).inq k).take 1)
  s.modRouter n (fun r => { r with inq := tmod [] r.inq k (fun l => l.drop 1), freed := tset (0, 0) r.freed k (s.clk.fclk, c + s.freedNow n k) })
def State.dropTurn (s : State) (n v : Nat) : State := s.modRouter n (fun r => { r with turn := tmod [] r.turn v (fun l => l.drop 1) })

/-- A unit that asks for an output on this edge: its input (the four links, 4 the turn queues, 5 injection), whether it enters a ring, and its output. -/
structure Cand where
  pos : Nat
  entering : Bool
  unit : FUnit
  out : Dir
  det : Nat
deriving DecidableEq, Repr

/-- The candidate that a unit makes, when its output holds the credits and has taken no unit on this edge. -/
def State.candOf (s : State) (d : Nat) (D : ImgDomain) (n pos : Nat) (dir : Option Dir) (u : FUnit) : Option Cand :=
  match s.fullHop d D n u with
  | .go o det =>
    let entering : Bool := decide (dir ≠ some o)
    if s.canLeave D n o u entering && decide ((s.router n).outAt.getD (dirNum o) 0 ≤ s.clk.fclk) then
      some { pos := pos, entering := entering, unit := u, out := o, det := det } else none
  | _ => none

/-- Every candidate at router `n` on this edge. -/
def State.routerCands (s : State) (d : Nat) (D : ImgDomain) (n : Nat) : List Cand :=
  dirs.flatMap (fun i => (s.linkHeads n i).filterMap (fun e => s.candOf d D n (dirNum i) (some i) e.2))
    ++ (s.turnHeads n).filterMap (fun e => s.candOf d D n 4 none e.2) ++ (s.injHeads d D n).filterMap (fun e => s.candOf d D n 5 none e.2)

/-- R328: how an output ranks its candidates: deadline, continuing before entering, rotating order. -/
def State.candKey (s : State) (d n : Nat) (c : Cand) : Nat × Nat × Nat :=
  (s.dlKey d c.unit.msg, if c.entering then 1 else 0, (c.pos + 6 - (s.router n).rot % 6) % 6)

def keyLt (a b : Nat × Nat × Nat) : Bool :=
  decide (a.1 < b.1) || (decide (a.1 = b.1) && (decide (a.2.1 < b.2.1) || (decide (a.2.1 = b.2.1) && decide (a.2.2 < b.2.2))))

/-- Does the candidate win its output? -/
def State.candWins (s : State) (d : Nat) (D : ImgDomain) (n : Nat) (c : Cand) : Bool :=
  (s.routerCands d D n).all (fun x => decide (x.out ≠ c.out) || decide (x = c) || !keyLt (s.candKey d n x) (s.candKey d n c))

/-- The winner crosses its output; the pointer advances where the rotating order has decided. -/
def State.candGo (s : State) (d : Nat) (D : ImgDomain) (n : Nat) (c : Cand) (u : FUnit) (f : State → State) : State :=
  let tie : Bool := (s.routerCands d D n).any (fun x => decide (x.out = c.out) && decide (x ≠ c)
    && decide ((s.candKey d n x).1 = (s.candKey d n c).1) && decide ((s.candKey d n x).2.1 = (s.candKey d n c).2.1))
  let s := (f s).cross D n c.out u c.det
  if tie then s.modRouter n (fun r => { r with rot := (r.rot + 1) % 6 }) else s

/-- Up to four units are ejected per edge (R325). -/
def State.ejectRoom (s : State) (n : Nat) : Bool := let r := s.router n; decide (r.ejAt < s.clk.fclk) || decide (r.ejCnt < 4)
def State.ejectOne (s : State) (n : Nat) : State :=
  s.modRouter n (fun r => { r with ejAt := s.clk.fclk, ejCnt := if r.ejAt < s.clk.fclk then 1 else r.ejCnt + 1 })

/-- What a unit of link input `dir` can do on this edge: leave the fabric, win its output, or turn aside. -/
inductive Move | none | eject | sink | go (c : Cand) | turn
deriving DecidableEq, Repr

/-- A unit that turns joins its turn queue while units wait there, and when it cannot leave (R325, R291). -/
def State.linkMove (s : State) (d : Nat) (D : ImgDomain) (n : Nat) (dir : Dir) (v : Nat) (u : FUnit) : Move :=
  match s.fullHop d D n u with
  | .eject => if s.allowed u && s.ejectRoom n then .eject else .none
  | .sink => .sink
  | .wait => .none
  | .go o _ =>
    let turning : Bool := !sameRing o dir
    if turning && !(tget [] (s.router n).turn v).isEmpty then .turn
    else match s.candOf d D n (dirNum dir) (some dir) u with
      | some c => if s.candWins d D n c then .go c else if turning then .turn else .none
      | none => if turning then .turn else .none

/-- The unit of earliest deadline on a link input that can move moves on. `x`: what the receiving router's checks find in the unit that arrives. -/
def State.fullLink (s : State) (d : Nat) (D : ImgDomain) (n : Nat) (dir : Dir) (x : HdrCheck) : State :=
  let heads := s.linkHeads n dir
  let live := heads.filter (fun e => decide (s.linkMove d D n dir e.1 e.2 ≠ .none))
  match s.earliest d (if x = .headerUe ∨ x = .reservedOp then heads else live) with
  | none => s
  | some (v, u) =>
    let k := 5 * dirNum dir + v
    let t := if x = .headerCe then (s.modRouter n (fun r => { r with hdrCe := true })).bump (cRtr n 27) else s
    if x = .headerUe then (t.dropIn n k).headerBad d n (D.next n (backDir dir)) dir u
    else if x = .reservedOp then ((t.dropIn n k).bump (cHom n 33)).rep .router n .drop d u.msg.line
    else match s.linkMove d D n dir v u with
      | .eject => ((t.dropIn n k).ejectOne n).eject d D u (x = .payloadParity)
      | .sink => (t.dropIn n k).sinkAt n u
      | .none => t
      | .go c => t.candGo d D n c u (fun s => s.dropIn n k)
      | .turn => ((t.dropIn n k).modRouter n (fun r => { r with turn := tmod [] r.turn v (fun l => l ++ [u]) })).bump (cRtr n 23)

/-- What the head of a turn queue or injection queue can do on this edge. -/
def State.entryMove (s : State) (d : Nat) (D : ImgDomain) (n pos : Nat) (u : FUnit) : Move :=
  if s.goesDead u && decide (pos = 5) then .sink
  else match s.fullHop d D n u with
    | .eject => if s.allowed u && s.ejectRoom n then .eject else .none
    | .sink => .sink
    | .wait => .none
    | .go _ _ => match s.candOf d D n pos none u with
      | some c => if s.candWins d D n c then .go c else .none
      | none => .none

/-- A unit of a turn queue enters its ring. -/
def State.turnOut (s : State) (d : Nat) (D : ImgDomain) (n v : Nat) (u : FUnit) : State :=
  match s.entryMove d D n 4 u with
  | .eject => ((s.dropTurn n v).ejectOne n).eject d D u false
  | .sink => (s.dropTurn n v).sinkAt n u
  | .go c => s.candGo d D n c u (fun s => s.dropTurn n v)
  | _ => s

/-- A unit of an injection queue is injected. -/
def State.injOut (s : State) (d : Nat) (D : ImgDomain) (n q : Nat) (u : FUnit) : State :=
  match s.entryMove d D n 5 u with
  | .eject =>
    let r := s.injected d n q u
    (r.1.ejectOne n).eject d D r.2 false
  | .sink => if s.goesDead u then (s.qTake n q u.msg).sinkAt n u else let r := s.injected d n q u; r.1.sinkAt n r.2
  | .go c => s.candGo d D n c (s.injected d n q u).2 (fun s => (s.injected d n q u).1)
  | _ => s

/-- Turn queues and injection in Full mode: of the units that can move, the one with the earliest deadline; of equals, one of a turn queue. -/
def State.fullInject (s : State) (d : Nat) (D : ImgDomain) (n : Nat) : State :=
  let turns := (s.turnHeads n).filter (fun e => decide (s.entryMove d D n 4 e.2 ≠ .none))
  let injs := (s.injHeads d D n).filter (fun e => decide (s.entryMove d D n 5 e.2 ≠ .none))
  match s.earliest d turns, s.earliest d injs with
  | none, none => s
  | some (v, u), none => s.turnOut d D n v u
  | none, some (q, u) => s.injOut d D n q u
  | some (v, u), some (q, w) => if s.dlKey d w.msg < s.dlKey d u.msg then s.injOut d D n q w else s.turnOut d D n v u

/-! ### Compact mode (R330 to R335) -/

/-- A unit or candidate past its bound: BOUND, a record, and window 10. -/
def State.boundHit (s : State) (d n : Nat) (l : LineAddr) : State :=
  let s := (s.modRouter n (fun r => { r with bound := true })).bump (cRtr n 30)
  let (s, trip) := s.winHit 10 (.router n)
  let s := s.raise { sev := 0, source := .router, inst := n, code := .bound, trip := trip, win := if trip then 10 else 255, domain := d, addr := l.setWidth 48 }
  if trip then s.fence (.router n) .fence (some 10) else s

/-- The outputs of node `n` that a unit may take, best first: productive, then the rest; outputs toward a router that shows HOLD come last. -/
def State.outputs (s : State) (D : ImgDomain) (n : Nat) (u : FUnit) (free : List Dir) : List Dir :=
  let ok := free.filter (fun o => !s.isFenced (.router (D.next n o)))
  let calm := ok.filter (fun o => !(s.router (D.next n o)).hold)
  let held := ok.filter (fun o => (s.router (D.next n o)).hold)
  calm.filter (D.productive n u.dst) ++ calm.filter (fun o => !D.productive n u.dst o) ++ held

/-- Put an arrival before the first one that is not older than it. -/
def putByAge (x : Dir × FUnit) : List (Dir × FUnit) → List (Dir × FUnit)
  | [] => [x]
  | y :: r => if older y.2 x.2 then y :: putByAge x r else x :: y :: r

/-- Rank arrivals by age, older first; equal ages keep the input order. -/
def byAge : List (Dir × FUnit) → List (Dir × FUnit)
  | [] => []
  | x :: t => putByAge x (byAge t)

/-- Send the ranked arrivals out; answers the outputs left free. -/
def State.passOn (s : State) (d : Nat) (D : ImgDomain) (n : Nat) : List (Dir × FUnit) → List Dir → State × List Dir
  | [], free => (s, free)
  | (i, u) :: t, free =>
    match s.outputs D n u free with
    | [] => s.passOn d D n t free
    | o :: _ =>
      let s := (s.dropIn n (5 * dirNum i)).cross D n o u 0
      let s := if D.productive n u.dst o then s else s.bump (cRtr n 22)
      s.passOn d D n t (free.filter (fun x => decide (x ≠ o)))

/-- The unit that has arrived in each direction. -/
def State.heads (s : State) (n : Nat) : List (Dir × FUnit) :=
  dirs.filterMap (fun i => match tget [] (s.router n).inq (5 * dirNum i) with | u :: _ => if u.at_ < s.clk.fclk then some (i, u) else none | [] => none)

/-- Is a unit bound for a fenced router next to this one (R339)? -/
def State.nextDead (s : State) (D : ImgDomain) (n : Nat) (u : FUnit) : Bool := s.isFenced (.router u.dst) && dirs.any (fun o => decide (D.next n o = u.dst))

/-- Units that arrived: header checks, ages, and those that leave the fabric here. `x` is what the checks find in the unit of direction `at_`. -/
def State.compactIn (s : State) (d : Nat) (D : ImgDomain) (n : Nat) (at_ : Option Dir) (x : HdrCheck) (heads : List (Dir × FUnit)) : State :=
  let s := if x = .headerCe ∧ heads.any (fun e => decide (some e.1 = at_)) = true then (s.modRouter n (fun r => { r with hdrCe := true })).bump (cRtr n 27) else s
  let s := heads.foldl (fun s e => if 20 < s.ageOf e.2 then s.boundHit d n e.2.msg.line else s) s
  heads.foldl (fun s e =>
    if x = .headerUe ∧ some e.1 = at_ then (s.dropIn n (5 * dirNum e.1)).headerBad d n (D.next n (backDir e.1)) e.1 e.2
    else if x = .reservedOp ∧ some e.1 = at_ then ((s.dropIn n (5 * dirNum e.1)).bump (cHom n 33)).rep .router n .drop d e.2.msg.line
    else if e.2.dst = n then (s.dropIn n (5 * dirNum e.1)).eject d D e.2 (decide (x = .payloadParity) && decide (some e.1 = at_))
    else if s.nextDead D n e.2 then (s.dropIn n (5 * dirNum e.1)).sinkAt n e.2 else s) s

/-- The units that pass on. -/
def State.compactPass (s : State) (D : ImgDomain) (n : Nat) (at_ : Option Dir) (x : HdrCheck) (heads : List (Dir × FUnit)) : List (Dir × FUnit) :=
  byAge (heads.filter (fun e => !((decide (x = .headerUe) || decide (x = .reservedOp)) && decide (some e.1 = at_)) && decide (e.2.dst ≠ n) && !s.nextDead D n e.2))

/-- Take a unit from its queue and let `f` carry it; injection is no longer held. -/
def State.injectBy (s : State) (d n q : Nat) (u : FUnit) (f : FUnit → State → State) : State :=
  let r := s.injected d n q u
  (f r.2 r.1).modRouter n (fun r => { r with hold := false, cand := none })

/-- Since which edge a unit has been the router's candidate. -/
def State.candSince (s : State) (n : Nat) (u : FUnit) : Nat :=
  match (s.router n).cand with | some (o, e) => if o = u.ord then e else s.clk.fclk | none => s.clk.fclk

/-- The productive output on which a candidate is injected: one toward a router that shows HOLD only when every other output is taken (R331, R332). -/
def State.injDir (s : State) (D : ImgDomain) (n : Nat) (u : FUnit) (free : List Dir) : Option Dir :=
  let ok := free.filter (fun o => !s.isFenced (.router (D.next n o)))
  let calm := ok.filter (fun o => !(s.router (D.next n o)).hold)
  (if calm.isEmpty then ok else calm).find? (D.productive n u.dst)

/-- Injection on an edge of a Compact router that passed `k` units on and has the outputs `free` left. -/
def State.compactInject (s : State) (d : Nat) (D : ImgDomain) (n k : Nat) (free : List Dir) : State :=
  match s.earliest d (s.injHeads d D n) with
  | none => s.modRouter n (fun r => { r with hold := false, cand := none })
  | some (q, u) =>
    let since := s.candSince n u
    let wait := s.clk.fclk - since
    let s := if 4 < wait then s.boundHit d n u.msg.line else s
    if s.goesDead u then (s.qTake n q u.msg).sinkAt n u
    else if u.dst = n then s.injectBy d n q u (fun u s => s.eject d D u false)
    else match s.injDir D n u free, decide (k ≤ 2) with
      | some o, true => s.injectBy d n q u (fun u s => s.cross D n o u 0)
      | _, _ => s.modRouter n (fun r => { r with hold := decide (3 ≤ wait), cand := some (u.ord, since) })

/-- One edge of a Compact router. -/
def State.compactEdge (s : State) (d : Nat) (D : ImgDomain) (n : Nat) (at_ : Option Dir) (x : HdrCheck) : State :=
  let s := s.modRouter n (fun r => { r with edgeAt := s.clk.fclk + 1 })
  let hs := s.heads n
  let s := s.compactIn d D n at_ x hs
  let ps := s.compactPass D n at_ x hs
  let r := s.passOn d D n ps dirs
  r.1.compactInject d D n ps.length r.2

/-! ### Ingress of messages at ports (R195, R374) -/

/-- A message that a port's role does not allow, or that has no place to go: dropped, counted and recorded. -/
def State.dropIngress (s : State) (p d : Nat) (m : Msg) : State := (s.bump (cPort p 22)).rep .port p .drop d m.line (s.port p).pagent

/-- Hand a message that entered at port `p` to the fabric, toward a sink of this device. -/
def State.enter (s : State) (p dst : Nat) (k : Sink) (m : Msg) : State :=
  s.qPush (portNode p) (84 + vnNum (vnOf m.op)) { mkUnit s (portNode p) dst k m with ent := some p, at_ := s.clk.fclk, ing := match s.portDom p with | some (d, _) => s.kt d | none => 0 }

/-- Toward an endpoint: a unit or port of this domain, or onward to another device. An endpoint that the domain does not have is a place to which nothing goes
(R25, R185). -/
def State.enterEp (s : State) (p d : Nat) (D : ImgDomain) (ep : Endpoint) (m : Msg) : State :=
  let m := { m with destDev := epDev ep }
  if epDev ep ≠ D.device then
    (match s.peerPort d (epDev ep) m.line with
      | some q => s.enter p (portNode q) (.port (portSlot q)) m
      | none => s.bump (cPort p 22))
  else if epUnit ep then
    (if !D.has (epNode ep) then s.dropIngress p d m
     else if epType ep = 0 then s.enter p (epNode ep) .slice m
     else if epType ep = 1 then s.enter p (epNode ep) .home m
     else s.dropIngress p d m)
  else if s.isPort (epLow ep) && D.has (portNode (epLow ep)) then
    let q := match s.groupOf (epLow ep) with
      | some g => if s.inSvc (epLow ep) then epLow ep else (s.linePort d g m.line).getD (epLow ep)
      | none => epLow ep
    s.enter p (portNode q) (.port (portSlot q)) m
  else s.dropIngress p d m

/-- The answer of group `g` to a snoop that slice `sl` forwarded passes the slice by; a WB or EVN that crossed the snoop is resolved (R201, R202). -/
def State.fwdAnswered (s : State) (d : Nat) (D : ImgDomain) (sl g : Nat) (m : Msg) : State :=
  let mine (f : Msg × Nat × Bool) : Bool := decide (f.1.line = m.line) && decide (f.2.1 = g) && decide (f.1.txn = m.txn)
  match (s.slice sl).fwdSnoops.find? mine with
  | none => s
  | some f =>
    let a : At := { n := sl, d := d, D := D, l := m.line }
    (s.modSlice sl (fun x => { x with fwdSnoops := rmFirstP mine x.fwdSnoops })).evictIn a g m (decide (f.1.op = .snpOwn) || decide (f.1.op = .snpInv))

/-- A near group's messages other than requests: answers to the unit that snooped, forwarded data to its requester, the rest to the line's slice. -/
def State.nearIn (s : State) (p d : Nat) (D : ImgDomain) (m : Msg) : State :=
  let m := { m with sender := portEp D.device p }
  let g := (s.iport p).group
  let sl := s.sliceNode d D m.line
  let answer : State := (if isSliceOf D.device m.answerTo then s else s.fwdAnswered d D sl g m).enterEp p d D m.answerTo m
  match m.op with
  | .rspI | .rspS | .rspFwd | .sdata => answer
  | .data => if m.fwd then s.enterEp p d D m.requester m else s.dropIngress p d m
  | .compAck | .wb | .evn => s.enter p sl .slice m
  | _ => s.dropIngress p d m

/-- The home of a memory device's answer: the home endpoint that the answer names, else the line's home shard. -/
def State.memHome (s : State) (d : Nat) (D : ImgDomain) (m : Msg) : Nat :=
  let own (e : Endpoint) : Bool := epUnit e && decide (epDev e = D.device) && decide (epType e = 1)
  if own m.answerTo then epNode m.answerTo else if own m.requester then epNode m.requester else s.homeNode d D m.line

/-- A memory device's messages. -/
def State.memIn (s : State) (p d : Nat) (D : ImgDomain) (m : Msg) : State :=
  match m.op with
  | .memAck | .memDur | .err | .memData => s.enter p (s.memHome d D m) .home m
  | _ => s.dropIngress p d m

/-- The messages that no PEER port carries (R195). -/
def memOp (op : Op) : Bool := op = .memRd || op = .memAck || op = .memDur || op = .memData || op = .memWr || op = .memWrDur

/-- A completion for a request that was passed on comes back at port `p`: with its last unit the carried credit of `p` returns (R272), and a tail entry that
stands for it has its work's end. -/
def State.onwardDone (s : State) (p : Nat) (m : Msg) : State :=
  if !completes m then s
  else
    let s := match s.lateFor m with | some _ => s.modPort p (fun x => { x with carriedUsed := x.carriedUsed - 1 }) | none => s
    let s := match s.watchFor p m with
      | some (g, w) =>
        if w.carried && decide (w.pport = some p) && !(inTwo w m && decide (w.got = 0)) then
          (s.modWatch g w (fun x => { x with pport := none })).modPort p (fun x => { x with carriedUsed := x.carriedUsed - 1 })
        else s
      | none => s
    (List.range 64).foldl (fun s g => ((s.gate g).tails.filter (fun t => decide (t.req = m.requester) && decide (t.line = m.line) && decide (t.dl = m.dl)
      && decide (t.slice = 64) && t.home.isNone && t.isol.isNone)).foldl (fun s t => s.freeTail g t false) s) s

/-- A peer device's messages other than requests: passed on, or for a unit of this device. -/
def State.peerIn (s : State) (p d : Nat) (D : ImgDomain) (m : Msg) : State :=
  if memOp m.op then s.dropIngress p d m
  else if m.destDev ≠ D.device then
    let s := s.onwardDone p m
    (match s.peerPort d m.destDev m.line with
      | some q => (s.bump (cPort p 21)).enter p (portNode q) (.port (portSlot q)) m
      | none => if vnOf m.op = .snp then s.farAnswer d D (portNode p) m else s.bump (cPort p 22))
  else
    let done (s : State) : State := s.stamp d m.line none 8
    match m.op with
    | .snpSh | .snpOwn | .snpInv | .snpCur => s.enter p (s.sliceNode d D m.line) .slice m
    | .rspI | .rspS | .rspFwd | .sdata => s.enterEp p d D m.answerTo m
    | .data | .grant | .cmp | .dur | .err => (done s).enterEp p d D m.requester m
    | .wbAck | .wbSuperseded => s.enterEp p d D m.requester m
    | .compAck | .wb | .evn => s.enter p (s.homeNode d D m.line) .home m
    | _ => s.dropIngress p d m

/-- A message at port `p` is taken out of its ingress queue. Requests go to the Gate; register accesses have commands of their own. -/
def State.portIn (s : State) (p : Nat) (m : Msg) : State :=
  match s.portDom p with
  | none => s
  | some (d, D) =>
    match vnOf m.op, (s.iport p).role with
    | .req, _ => if m.op = .barrier then s.barrierIn p m else s.request p m
    | _, .near => s.nearIn p d D m
    | _, .memory => s.memIn p d D m
    | _, .peer => s.peerIn p d D m
    | _, _ => s.dropIngress p d m

/-- A message arrives at port `p`; one with a reserved opcode is dropped, counted and recorded (R189). -/
def State.arrive (s : State) (p : Nat) (m : Msg) (x : HdrCheck) : State :=
  if m.op = .cfgRd ∨ m.op = .cfgWr then s
  else s.atPort p m (fun s => if x = .reservedOp then s.dropIngress p (match s.portDom p with | some e => e.1 | none => 0) m else s.portIn p m)

/-! ### The commands -/

/-- UNIT_ARRIVAL. A Compact router has one edge in an FCLK. -/
def execUnitArrival (n : Nat) (a : Arrival) (x : HdrCheck) (s : State) : Ans :=
  .next (State.cellFences (match a with
    | .port k m => if k < 4 then s.arrive (4 * n + k) m x else s
    | .inject => (match s.nodeDom n with
        | some (d, D) =>
          if s.isFenced (.router n) then s
          else if D.compact then (if (s.router n).edgeAt ≤ s.clk.fclk then s.compactEdge d D n none .clean else s) else s.fullInject d D n
        | none => s)
    | .link dir => (match s.nodeDom n with
        | some (d, D) =>
          if s.isFenced (.router n) then s
          else if D.compact then (if (s.router n).edgeAt ≤ s.clk.fclk then s.compactEdge d D n (some dir) x else s) else s.fullLink d D n dir x
        | none => s)))

/-- DETOUR: the detour routes of every fenced router take effect on one domain-wide edge, and REQ units are ordered for 20 µs (48,000 FCLK). -/
def execDetour (d : Nat) (s : State) : Ans :=
  .next (if (s.dom d).detourPend.isEmpty then s
    else s.modDom d (fun x => { x with detour := true, detourPend := [], reorderTill := s.clk.fclk + 48000 }))

/-- DETOUR_REORDER_END: units still held for order are ejected. -/
def execDetourReorderEnd (d : Nat) (s : State) : Ans :=
  .next (match s.idom d with
    | some D =>
      if D.compact || decide ((s.dom d).reorderTill = 0) || decide (s.clk.fclk < (s.dom d).reorderTill) then s
      else
        let s := s.modDom d (fun x => { x with reorderTill := 0 })
        D.nodes.foldl (fun s n => (s.qOf n 49).foldl (fun s u => (s.qTake n 49 u.msg).ejectTo d u false) s) s
    | none => s)

end Sys2Proof.Machine
end

