-- ==== Sys2Proof/Machine/Command.lean ====
section
/-! DEFINITION. Commands of slices, home shards, routers and cushion pools, and the lock command: quarantine releases, the comparator test, predictor
clears, audits, flushes, lock and unlock passes (R85, R90, R95, R113 to R115, R134, R135, R174 to R178, R217, R342, R417). -/

namespace Sys2Proof.Machine

open Sys2Proof

/-! ### Access to a node's blocks (R27, R97) -/

/-- Base of a slice's, home shard's and router's register block. -/
def slcBase (n : Nat) : Nat := 0x400000 + 0x10000 * n
def homBase (n : Nat) : Nat := 0x800000 + 0x10000 * n
def rtrBase (n : Nat) : Nat := 0xC00000 + 0x4000 * n

/-- A command of a unit of node `n`: dropped and logged when the node is not assigned or the unit is fenced. -/
def State.unitCmd (s : State) (n : Nat) (fenced : Bool) (base off : Nat) (who : Requester) (f : State → State) : State :=
  if (s.nodeDom n).isNone || fenced then s.logAcc base who .unassigned true off (base + off) else f s

/-! ### Quarantine releases (R85, R217) -/

/-- Release the tag-lost way that SLC_QUAR reports: the oldest, whose word becomes an invalid one. -/
def State.doQrel (s : State) (n : Nat) : State :=
  match (s.slice n).quar, s.nodeDom n with
  | (set, w) :: t, some (_, D) =>
    let slot := set * D.ways + w
    s.modSlice n (fun x => { x with quar := t, tags := tset {} x.tags slot {}, pres := tset 0 x.pres slot 0, rrv := tset 3 x.rrv slot 3 })
  | _, _ => s

def execQrel (n : Nat) (s : State) : Ans := .next (s.unitCmd n (s.isFenced (.slice n)) (slcBase n) 4 .pf0 (fun s => s.doQrel n))

/-- Release the lost directory way that HOM_DIR_QUAR reports. -/
def State.doHomQrel (s : State) (n : Nat) : State :=
  match (s.home n).quar with
  | (set, w) :: t => s.modHome n (fun x => { x with quar := t, dir := tset none x.dir (16 * set + w) none })
  | [] => s

def execHomQrel (n : Nat) (s : State) : Ans := .next (s.unitCmd n (s.isFenced (.home n)) (homBase n) 4 .pf0 (fun s => s.doHomQrel n))

/-! ### Comparator test and predictor clear (R90, R95) -/

/-- The marked pass has reached c13. -/
def State.doLstest (s : State) (n : Nat) (squashed : Bool) : State :=
  let s := s.modSlice n (fun x => { x with lstestRun := x.lstestAgain, lstestAgain := false, lstestDone := true, lstestOk := squashed })
  if squashed then s else s.sliceMust n .lstest

def execLstest (n : Nat) (squashed : Bool) (s : State) : Ans :=
  .next (s.unitCmd n (s.isFenced (.slice n)) (slcBase n) 4 .pf0 (fun s => s.doLstest n squashed))

/-- LSTEST of SLC_CMD: a test that runs is run again after it (R96). -/
def State.askLstest (s : State) (n : Nat) : State := s.modSlice n (fun x => { x with lstestAgain := x.lstestRun, lstestRun := true })

/-- From the command until it ends, lookups take the no-prediction case. -/
def State.doPredClr (s : State) (n : Nat) : State := s.modSlice n (fun x => { x with predAgain := x.predClr, predClr := true })

def execPredClr (n : Nat) (s : State) : Ans := .next (s.unitCmd n (s.isFenced (.slice n)) (slcBase n) 4 .pf0 (fun s => s.doPredClr n))

def execPredClrDone (n : Nat) (s : State) : Ans :=
  .next (if (s.slice n).predClr then s.modSlice n (fun x => { x with predClr := x.predAgain, predAgain := false, pred := [] }) else s)

/-! ### Ledgers (R137, R176) -/

/-- Entries of slice `n` that Gates have reserved and the slice has not allocated. -/
def State.mshrResv (s : State) (n : Nat) : Nat :=
  sumL ((List.range 64).map (fun g => ((s.gate g).watch.filter (fun w => w.ents.mshr && decide (w.slice = n))).length))
def State.wbResv (s : State) (n : Nat) : Nat :=
  sumL ((List.range 64).map (fun g => ((s.gate g).watch.filter (fun w => w.ents.wb && decide (w.slice = n))).length))
def State.vbResv (s : State) (n : Nat) : Nat :=
  ((s.slice n).mshrs.filter (fun e => match e.2 with | some m => m.vbr | none => false)).length
    + sumL ((List.range 64).map (fun g => ((s.gate g).watch.filter (fun w => w.ents.vb && decide (w.slice = n))).length))

/-- Victim-buffer entries in use; the drain engine's entries are its own. -/
def State.vbBusy (s : State) (n : Nat) : Nat := ((s.slice n).vbuf.filter (fun e => decide (e.1 < 128) && e.2.isSome)).length

/-- A flush or isolation window is open at the node (R176, R177). -/
def State.auditWindow (s : State) (n : Nat) : Bool :=
  !(s.pool n).flushing.isEmpty || (List.range 4).any (fun k => decide ((s.port (4 * n + k)).state = .isolating))

/-- The latch of an audit started at edge `at_`: taken on the first edge without a window, within 20 µs (R177). What the recount of the latched values will
find is a function of the latched values. -/
def State.auditLatch {α : Type} (s : State) (run win : Bool) (at_ : Nat) (old : Option α) (v : α) : Option α :=
  if run && old.isNone && !win && decide (s.clk.fclk < at_ + 48000) then some v else old

/-- Can the audit end: `k` FCLK after its latch, or 20 µs after its start with none taken? -/
def State.auditOver {α : Type} (s : State) (run : Bool) (at_ : Nat) (latch : Option (Nat × α)) (k : Nat) : Bool :=
  run && match latch with | some (t, _) => decide (t + k ≤ s.clk.fclk) | none => decide (at_ + 48000 ≤ s.clk.fclk)

/-- The BAD bits: MSHR, write buffer, victim buffer, pool. -/
def State.slcBalance (s : State) (n : Nat) : BitVec 4 :=
  let x := s.slice n
  let exceeds (cap busy resv : Nat) : Bool := !(decide (busy ≤ cap) && decide (resv ≤ cap - busy))
  BitVec.ofBool (decide (4096 < s.poolUsed n)) ++ BitVec.ofBool (exceeds 128 (s.vbBusy n) (s.vbResv n))
    ++ BitVec.ofBool (exceeds 256 (tbusy x.wbuf) (s.wbResv n)) ++ BitVec.ofBool (exceeds 192 (tbusy x.mshrs) (s.mshrResv n))

/-- The latch of a running slice audit. -/
def State.slcLatch (s : State) (n : Nat) : State :=
  s.modSlice n (fun x => { x with audLatch := s.auditLatch x.audRun (s.auditWindow n) x.audAt x.audLatch (s.clk.fclk, s.slcBalance n) })

/-- SLC_AUDIT: bits [6:2] clear. Asked while one runs, the audit starts again (DESIGN CHOICE, log 155). -/
def State.doSlcAudit (s : State) (n : Nat) : State :=
  (s.modSlice n (fun x => { x with audRun := true, audWindow := false, audBad := 0, audAt := s.clk.fclk, audLatch := none })).slcLatch n

def execSlcAudit (n : Nat) (s : State) : Ans := .next (s.unitCmd n false (slcBase n) 0x4C .pf0 (fun s => s.doSlcAudit n))

/-- SLC_AUDIT_END: 4,096 FCLK after the latch, or with WINDOW. The record of a bad audit, be it the pool's, names the slice (DESIGN CHOICE, log 155). -/
def execSlcAuditEnd (n : Nat) (s : State) : Ans :=
  .next (match s.nodeDom n with
    | some (d, _) =>
      let x := s.slice n
      if s.auditOver x.audRun x.audAt x.audLatch 4096 then
        let bad : BitVec 4 := match x.audLatch with | some (_, b) => b | none => 0
        let s := s.modSlice n (fun x => { x with audRun := false, audDone := true, audWindow := x.audLatch.isNone, audBad := bad, audLatch := none })
        let s := if bad = 0 then s else s.rep .slice n .auditBad d
        s.irq 0 (128 + n)
      else s
    | none => s)

/-! ### Router audit (R342) -/

/-- R341: the credits of each output link and virtual network of a Full-mode router. -/
def State.credBalanced (s : State) (D : ImgDomain) (n : Nat) : Bool :=
  D.compact || dirs.all (fun o => (List.range 5).all (fun v => decide (qcells (tget [] (s.router (D.next n o)).inq (5 * dirNum o + v)) ≤ 16)))

/-- R341: the ejection allowances, or in Compact mode the reservations of every source. -/
def State.ejBalanced (s : State) (D : ImgDomain) (n : Nat) : Bool :=
  sinkQueues.all (fun q =>
    if D.compact then D.nodes.all (fun m => decide (s.resvUsed D m n q ≤ 4))
    else decide (s.ejOut n q ≤ queueResv q))

/-- The latch of a running router audit. -/
def State.rtrLatch (s : State) (n : Nat) : State :=
  match s.nodeDom n with
  | some (_, D) => s.modRouter n (fun r => { r with
      audLatch := s.auditLatch r.audRun (s.auditWindow n) r.audAt r.audLatch (s.clk.fclk, !s.ejBalanced D n, !s.credBalanced D n) })
  | none => s

def State.doRtrAudit (s : State) (n : Nat) : State :=
  (s.modRouter n (fun r => { r with audRun := true, audWindow := false, ejBad := false, credBad := false, audAt := s.clk.fclk, audLatch := none })).rtrLatch n

def execRtrAudit (n : Nat) (s : State) : Ans := .next (s.unitCmd n (s.isFenced (.router n)) (rtrBase n) 4 .pf0 (fun s => s.doRtrAudit n))

/-- RTR_AUDIT_END: 1,024 FCLK after the latch, or with WINDOW. A balance found wrong counts against window 10 (R444). -/
def execRtrAuditEnd (n : Nat) (s : State) : Ans :=
  .next (match s.nodeDom n with
    | some (d, _) =>
      let r := s.router n
      if s.auditOver r.audRun r.audAt r.audLatch 1024 then
        let eb : Bool := match r.audLatch with | some (_, e, _) => e | none => false
        let cb : Bool := match r.audLatch with | some (_, _, c) => c | none => false
        let s := s.modRouter n (fun r => { r with audRun := false, audDone := true, audWindow := r.audLatch.isNone, ejBad := eb, credBad := cb, audLatch := none })
        let s := if cb || eb then
            let (s, trip) := s.winHit 10 (.router n)
            let s := s.raise { sev := 5, source := .router, inst := n, code := .auditBad, trip := trip, win := if trip then 10 else 255, domain := d }
            if trip then s.fence (.router n) .fence (some 10) else s
          else s
        s.irq 0 (128 + n)
      else s
    | none => s)

/-! ### Gate audit (R255, R283) -/

/-- The ledger of calendar slots: no Gate has reserved and held more than its lease, and what the balancer has moved from Gates it has moved to Gates (R255). -/
def State.calBalanced (s : State) (d : Nat) (D : ImgDomain) : Bool :=
  let gs := s.gatesOf D
  gs.all (fun g =>
    let G := s.gate g
    (G.resv ++ G.holds.flatMap (·.units)).all (fun u =>
      match gs.findIdx? (fun x => decide (x = g)) with
      | some i => decide (Int.ofNat (G.used u.res u.slot []) ≤ Int.ofNat (s.leaseUnits d i gs.length u.res u.slot) + G.moved u.res u.slot)
      | none => false)
    && G.moves.all (fun m => decide (gs.foldl (fun a h => a + (s.gate h).moved m.res m.slot) (0 : Int) = 0)))

/-- The latch of a running Gate audit, outside the windows of every node of the domain. -/
def State.gateLatch (s : State) (g : Nat) : State :=
  match s.nodeDom g with
  | some (d, D) => s.modGate g (fun G => { G with
      audLatch := if G.audRun && G.audLatch.isNone && !D.nodes.any s.auditWindow then some (s.clk.fclk, !s.calBalanced d D) else G.audLatch })
  | none => s

/-- AUDIT: valid only in the balancer's Gate. -/
def State.doGateAudit (s : State) (g : Nat) (who : Requester) : State :=
  if !s.isBalancer g then s.logAcc (0x200000 + 0x8000 * g) who .encoding true 4 (0x200000 + 0x8000 * g + 4)
  else (s.modGate g (fun G => { G with audRun := true, audAt := s.clk.fclk, audLatch := none })).gateLatch g
def execGateAudit (g : Nat) (s : State) : Ans := .next (s.gateCmd g .pf0 (fun s => s.doGateAudit g .pf0))

/-- GATE_AUDIT_END: 8,192 FCLK after the latch. -/
def execGateAuditEnd (g : Nat) (s : State) : Ans :=
  .next (match s.nodeDom g with
    | some (d, _) =>
      match (s.gate g).audRun, (s.gate g).audLatch with
      | true, some (t, bad) =>
        if t + 8192 ≤ s.clk.fclk then
          let s := s.modGate g (fun G => { G with audRun := false, audDone := true, audBad := bad, audLatch := none })
          let s := if bad then s.rep .gate g .auditBad d else s
          s.irq 0 (128 + g)
        else s
      | _, _ => s
    | none => s)

/-! ### Node-cache audit (R417) -/

/-- The pins of pool entries. -/
def State.ncPins (s : State) (n : Nat) : Nat := sumL ((ncPool (s.home n).nc).map (·.pins))

/-- Transactions and passes that hold a pin on a pool entry. -/
def State.pinHolders (s : State) (n : Nat) : Nat :=
  ((s.homes.flatMap (fun e => e.2.txs)).filter (fun t => match t.pin with
    | some (m, tr, pos, i) => decide (m = n) && (ncPool (s.home n).nc).any (fun e => decide (e.tree = tr) && decide (e.pos = pos) && decide (e.level = 1) && decide (e.index = i))
    | none => false)).length

/-- The ledger of the node cache. -/
def State.ncBalanced (s : State) (d : Nat) (D : ImgDomain) (n : Nat) : Bool :=
  let x := s.home n
  let crown := (x.nc.filter (·.crown)).length
  decide ((ncPool x.nc).length + crown ≤ 512) && decide (s.ncPins n = s.pinHolders n) && decide (crown ≤ s.crownSize d D ∨ s.fencedAny = true)

/-- The latch of a running node-cache audit. -/
def State.ncLatchEdge (s : State) (n : Nat) : State :=
  match s.nodeDom n with
  | some (d, D) => s.modHome n (fun x => { x with
      ncLatch := s.auditLatch x.ncAudRun (s.auditWindow n) x.ncAudAt x.ncLatch (s.clk.fclk, !s.ncBalanced d D n) })
  | none => s

def State.doNcAudit (s : State) (n : Nat) : State :=
  (s.modHome n (fun x => { x with ncAudRun := true, ncWindow := false, ncBad := false, ncAudAt := s.clk.fclk, ncLatch := none })).ncLatchEdge n

def execHomNcAudit (n : Nat) (s : State) : Ans := .next (s.unitCmd n (s.isFenced (.home n)) (homBase n) 0x28 .pf0 (fun s => s.doNcAudit n))

/-- HOM_NC_AUDIT_END, as R177 has it. A fault counts against window 8 (R444). -/
def execHomNcAuditEnd (n : Nat) (s : State) : Ans :=
  .next (match s.nodeDom n with
    | some (d, _) =>
      let x := s.home n
      if s.auditOver x.ncAudRun x.ncAudAt x.ncLatch 4096 then
        let bad : Bool := match x.ncLatch with | some (_, b) => b | none => false
        let s := s.modHome n (fun x => { x with ncAudRun := false, ncDone := true, ncWindow := x.ncLatch.isNone, ncBad := bad, ncLatch := none })
        let s := if bad then
            let (s, trip) := s.winHit 8 (.home n)
            let s := s.raise { sev := 5, source := .home, inst := n, code := .auditBad, trip := trip, win := if trip then 8 else 255, domain := d }
            if trip then s.fence (.home n) .fence (some 8) else s
          else s
        s.irq 0 (128 + n)
      else s
    | none => s)

/-- On each edge, the audits that wait for an edge without a window take their latches. -/
def State.auditEdge (s : State) : State :=
  (List.range 64).foldl (fun s n =>
    let s := if (s.slice n).audRun && (s.slice n).audLatch.isNone then s.slcLatch n else s
    let s := if (s.home n).ncAudRun && (s.home n).ncLatch.isNone then s.ncLatchEdge n else s
    let s := if (s.router n).audRun && (s.router n).audLatch.isNone then s.rtrLatch n else s
    if (s.gate n).audRun && (s.gate n).audLatch.isNone then s.gateLatch n else s) s

/-! ### Flushing a queue (R174, R175) -/

/-- May software flush queue `q` of node `n`: is its owner fenced, or its port OFF or isolated? -/
def State.flushAllowed (s : State) (n q : Nat) : Bool :=
  let portGone (k : Nat) : Bool := (s.port (4 * n + k)).state = .off || (s.port (4 * n + k)).state = .isolating || s.isFenced (.port (4 * n + k))
  if q < 20 then portGone (q / 5)
  else if q < 40 then portGone ((q - 20) / 5)
  else if q < 45 then s.isFenced (.slice n)
  else if q < 49 ∨ (96 ≤ q ∧ q < 224) ∨ q = 236 then s.isFenced (.home n)
  else s.isFenced (.router n)

/-- FLUSH: the queue takes nothing more, its cells go to the free list, and its units are left to those that track them. A queue that the controller flushes
already goes on flushing. -/
def State.doFlush (s : State) (n q : Nat) (who : Requester) : State :=
  if q ∈ (s.pool n).flushing then s.modPool n (fun p => { p with cmdq := BitVec.ofNat 8 q })
  else if s.flushAllowed n q then (s.flushQ n q .unreachable).modPool n (fun p => { p with flushing := insNat q p.flushing, cmdq := BitVec.ofNat 8 q })
  else s.logAcc (slcBase n) who .busy true 0x6C (slcBase n + 0x6C)

/-- FLUSH as a command: a write of QUEUE and FLUSH, dropped and logged while FLUSH reads 1 (R181). -/
def execFlush (n q : Nat) (s : State) : Ans :=
  .next (s.unitCmd n false (slcBase n) 0x6C .pf0 (fun s =>
    if (s.pool n).cmdq.toNat ∈ (s.pool n).flushing then s.logAcc (slcBase n) .pf0 .busy true 0x6C (slcBase n + 0x6C) else s.doFlush n q .pf0))

/-- FLUSH_DONE. -/
def execFlushDone (n q : Nat) (s : State) : Ans :=
  .next (if q ∈ (s.pool n).flushing then s.modPool n (fun p => { p with flushing := p.flushing.filter (fun x => decide (x ≠ q)) }) else s)

/-! ### The lock command (R134, R135) -/

/-- The command ends: GO clears, with OK or PARTIAL. -/
def State.lockOver (s : State) : State :=
  ({ s with lock := { s.lock with go := false, status := if s.lock.fail = 0 then 0 else 3 } }).irq 0 6

/-- GO. A command that is not started changes nothing but STATUS; of several reasons the first of LENGTH, NOTEN and NOTMODE is reported, and a count of zero
is checked like any other (DESIGN CHOICE, log entry 30). -/
def State.startLock (s : State) (ten : Nat) (unlock : Bool) : State :=
  if s.lock.go then s
  else
    let k := s.lock
    let s := { s with lock := { k with ten := ten, op := unlock } }
    let stop (c : Nat) : State := ({ s with lock := { s.lock with status := c } }).irq 0 6
    let min : Option Nat := (s.iten ten).map (·.min)
    if 2 ^ 45 < k.base.toNat + k.cnt.toNat then stop 2
    else if min.isNone ∨ (unlock = false ∧ min.getD 0 ≤ 1) then stop 4
    else if !s.open_ then stop 5
    else
      let s := { s with lock := { s.lock with go := true, status := 1, done := 0, fail := 0, waitAt := s.clk.fclk, held := false } }
      if k.cnt = 0 then s.lockOver else s

def execLock (ten : Nat) (s : State) : Ans := .next (s.startLock ten false)
def execUnlock (ten : Nat) (s : State) : Ans := .next (s.startLock ten true)

/-- A pass of the command has committed. -/
def State.passDone (s : State) (n : Nat) (failed : Bool) : State :=
  let s := { s with lock := { s.lock with done := s.lock.done + 1, fail := if failed then s.lock.fail + 1 else s.lock.fail, waitAt := s.clk.fclk, held := false } }
  let s := if s.lock.op then s else s.bump (cSlc n (if failed then 20 else 19))
  if s.lock.done = s.lock.cnt.toNat then s.lockOver else s

/-- Write a reservation of tenancy `t` for the line into way `w` (R113, R118). -/
def State.putRes (s : State) (a : At) (t w : Nat) : State :=
  (s.modTag a.n (a.slot w) (fun _ => { tag := a.D.tag a.l, origin := BitVec.ofNat 6 (a.D.hash a.l), ten := BitVec.ofNat 4 t, lock := true })).setRrv a.n (a.slot w) 2

/-- Write it over a victim. None: no victim-buffer entry is free and unreserved. -/
def State.reserveOver (s : State) (a : At) (t w : Nat) (foreign : Bool) (flips : List (BitVec 80)) : Option State :=
  if s.vbFree a.n = 0 then none
  else match tfree (s.slice a.n).vbuf 128 with
    | none => none
    | some i =>
      let s := s.bump (cSlc a.n 10)
      let s := if foreign then s.bump (cSlc a.n 11) else s
      some ((s.takeVictim a.n a.d a.D (a.slot w) i 64 flips).putRes a t w)

/-- Write a reservation for the line into a floor way that the victim rule chooses. -/
def State.reserve (s : State) (a : At) (t : Nat) (flips : List (BitVec 80)) : Option State :=
  let r := s.pickWay a (s.cands a t true)
  match r.2 with
  | none => some s
  | some (w, false, _) => some (r.1.putRes a t w)
  | some (w, true, fo) => r.1.reserveOver a t w fo flips

/-- A lock pass: none when it must wait (R115), else the state after COM and whether it ended Not locked (R113). -/
def State.lockPass (s : State) (a : At) (t : Nat) (flips : List (BitVec 80)) : Option (State × Bool) :=
  let x := s.slice a.n
  let held := ((List.range a.D.ways).filter (fun w => (s.tagAt a.n (a.slot w)).lock && decide ((s.tagAt a.n (a.slot w)).ten.toNat = t))).length
  let m := s.matchWay a
  let tg (w : Nat) : TagWord := s.tagAt a.n (a.slot w)
  if s.setLost a then some (s, true)
  else match m with
    | some w =>
      if (tg w).lock then some (s, decide ((tg w).ten.toNat ≠ t))
      else if s.minOf t - 1 ≤ held then some (s, true)
      else if x.wayOwn.getD w 0 = t ∧ x.floor.getLsbD w = true then
        some ((s.modTag a.n (a.slot w) (fun y => { y with lock := true, ten := BitVec.ofNat 4 t })).setRrv a.n (a.slot w) 2, false)
      else if s.vbFree a.n = 0 then none
      else match tfree x.vbuf 128 with
        | none => none
        | some i => (((s.bump (cSlc a.n 10)).takeVictim a.n a.d a.D (a.slot w) i 64 flips).reserve a t flips).map (fun s => (s, false))
    | none => if s.minOf t - 1 ≤ held then some (s, true) else (s.reserve a t flips).map (fun s => (s, false))

/-- The pass that the running command issues next, at the slice that holds its line now. A pass waits beside a near miss or drain snoop of its line. -/
def State.lockAt (s : State) (n : Nat) (l : LineAddr) (ten : Nat) (unlock : Bool) : Option At :=
  match s.nodeDom n, s.iten ten with
  | some (d, D), some t =>
    let a : At := { n := n, d := d, D := D, l := l }
    if s.lock.go && decide (s.lock.op = unlock) && decide (s.lock.ten = ten) && decide (s.lockNext = l) && decide (t.domain = d)
      && decide (s.sliceNode d D l = n) && !s.isFenced (.slice n) && s.lockWaits n && s.acceptsMaint n s.lock.waitAt && !s.nearRuns a && !s.drainPend n l then some a else none
  | _, _ => none

/-- LOCK_PASS, when the accept stage takes it (R59, R60, R113). Without a free and unreserved entry for a victim it goes back to wait (R115). -/
def execLockPass (p : PassAt) (line : LineAddr) (ten : Nat) (s : State) : Ans :=
  .next (match s.lockAt p.n line ten false with
    | none => s
    | some a =>
      let r := s.passFaults p.n a.d a.D a.set p.x
      if r.2 ≠ .go then r.1
      else match r.1.lockPass a ten p.x.tile with
        | some (s, failed) => s.passDone p.n failed
        | none => { r.1 with lock := { r.1.lock with held := true } })

/-- An unlock pass (R114): a reservation becomes an invalid way, a present line stays. -/
def State.unlockPass (s : State) (a : At) (t : Nat) : State :=
  match s.matchWay a with
  | some w =>
    let g := s.tagAt a.n (a.slot w)
    if g.lock ∧ g.ten.toNat = t then
      (if g.state = .i then (s.modTag a.n (a.slot w) (fun _ => {})).setRrv a.n (a.slot w) 3
       else s.modTag a.n (a.slot w) (fun y => { y with lock := false }))
    else s
  | none => s

/-- UNLOCK_PASS, when the accept stage takes it. -/
def execUnlockPass (p : PassAt) (line : LineAddr) (ten : Nat) (s : State) : Ans :=
  .next (match s.lockAt p.n line ten true with
    | some a =>
      let r := s.passFaults p.n a.d a.D a.set p.x
      if r.2 ≠ .go then r.1 else (r.1.unlockPass a ten).passDone p.n false
    | none => s)

end Sys2Proof.Machine
end

