-- ==== Sys2Proof/Machine/Clock.lean ====
section
/-! DEFINITION. What an edge does when no command waits: one FCLK edge passes. -/

namespace Sys2Proof.Machine

open Sys2Proof

/-- The rate word of a domain (R37, R38): nominal, corrected by RATE_OFS parts per billion. -/
def rateWord (d : Domain) : Nat := (Int.ofNat nominalRate + Int.ofNat nominalRate * d.rateOfs / 1000000000).toNat

/-- R37: Karik time of a running domain gains the rate word on each FCLK. -/
def tickDomain (d : Domain) : Domain := if d.running then { d with ktime := d.ktime + rateWord d } else d

/-- One ACLK edge: device time, and the 600 s of R505. -/
def tickAclk (s : State) : State :=
  let s := { s with clk := { s.clk with aclk := s.clk.aclk + 1 } }
  if s.open_ then { s with start := { s.start with kgTime := s.start.kgTime + 1 } } else s

/-- Credits that no flit has returned go back in IDLE flits (R358). -/
def State.creditEdge (s : State) : State :=
  s.iports.foldl (fun (s : State) e => if (s.port e.1).ret.any (fun n => decide (0 < n)) then s.returnCredits e.1 5 else s) s

/-- The count of FCLK edges, and Karik time of every domain. -/
def State.countEdge (s : State) : State :=
  { s with doms := s.doms.map (fun e => (e.1, tickDomain e.2)), clk := { s.clk with fclk := s.clk.fclk + 1 } }

/-- One FCLK edge outside Dormant, with every ninety-sixth an ACLK edge; in Dormant only the always-on domain runs. Audits take their latches (R177), routers
that found no cell are fenced (R173), and ports return credits. -/
def State.tick (s : State) : State :=
  if s.start.mode = .dormant then (if s.pwr.inputValid then tickAclk s else s)
  else
    let t := (State.countEdge s).auditEdge.cellFences.creditEdge
    if t.clk.fclk % 96 = 0 then tickAclk t else t

end Sys2Proof.Machine
end

