-- ==== Sys2Proof/Machine/Start.lean ====
section
/-! DEFINITION. The start: its eleven steps, what each failure does, and the mode commands (R493 to R514). -/

namespace Sys2Proof.Machine

open Sys2Proof

/-! ### The Peat log as later starts read it -/

/-- Byte `i` of a body. -/
def bodyB (e : PeatEnt) (i : Nat) : Nat := (e.body.extractLsb' (8 * i) 8).toNat

/-- Entries in order of SEQ, those the reader accepts. -/
def peatAll (m : Mram) : List PeatEnt := m.peat.map (·.2)

/-- The latest entry that satisfies `p`. -/
def peatLast (m : Mram) (p : PeatEnt → Bool) : Option PeatEnt :=
  (peatAll m).foldl (fun a e => if p e then (match a with | some b => if b.seq.toNat < e.seq.toNat then some e else a | none => some e) else a) none

/-- The slot or copy recorded as having passed a step most recently (R499). A FUSE entry that failed on the CRC of one copy names the copy that passed. -/
def lastPassed (m : Mram) (code : Nat) : Option Nat :=
  (peatLast m (fun e => decide (e.typ = 0x02) && decide (bodyB e 0 = code)
    && (decide (bodyB e 1 = 1) || (decide (code = 1) && decide (bodyB e 1 = 2) && decide (bodyB e 2 = 5))))).map (fun e => bodyB e 3)

/-- Did the start before this one find an untested pair (R503)? Forcing it does not change that it was found. -/
def untestedBefore (m : Mram) : Bool :=
  (peatAll m).any (fun e => decide (e.typ = 0x04) && decide (bodyB e 6 = 2) && decide (e.start + 1 = m.startNo))

/-- Did REPAIR overrun in the start before this one (R499)? -/
def repairOverran (m : Mram) : Bool :=
  (peatAll m).any (fun e => decide (e.typ = 0x02) && decide (e.start + 1 = m.startNo) && decide (bodyB e 0 = 4) && decide (bodyB e 1 = 2) && decide (bodyB e 2 = 1))

/-- Units of a kind fenced in start `st`, as a map. -/
def fencedIn (m : Mram) (kind : Nat) (st : BitVec 16) : Nat :=
  (peatAll m).foldl (fun a e =>
    if e.typ = 0x06 ∧ bodyB e 0 = kind ∧ (e.body.extractLsb' 8 16) = st ∧ lastForget m < e.seq.toNat
    then a ||| (e.body.extractLsb' 24 64).toNat else a) 0

/-- R500: units of a kind fenced in at least two of the last three starts. -/
def carriedUnits (m : Mram) (kind : Nat) : List Nat :=
  let a := fencedIn m kind (m.startNo - 1)
  let b := fencedIn m kind (m.startNo - 2)
  let c := fencedIn m kind (m.startNo - 3)
  (List.range 64).filter (fun n => decide (2 ≤ (a.testBit n).toNat + (b.testBit n).toNat + (c.testBit n).toNat))

/-- Fences carried into this start. -/
def carriedFences (m : Mram) : List FenceUnit :=
  (carriedUnits m 1).map .slice ++ (carriedUnits m 2).map .channel ++ (carriedUnits m 3).map .home ++ (carriedUnits m 4).map .router

/-- Repairs of a REPAIR entry: channel, column, bank, index, spare. -/
def repairsOf (e : PeatEnt) : List (Nat × Bool × Nat × Nat × Nat) :=
  (List.range (min 3 (bodyB e 1))).map (fun k =>
    let v := (e.body.extractLsb' (16 + 24 * k) 24).toNat
    (bodyB e 0, v.testBit 23, bitsN v 20 3, v % 32768, bitsN v 18 2))

def applyRepair (runtime : Bool) (r : Nat × Bool × Nat × Nat × Nat) (s : State) : State :=
  s.modSlice r.1 (fun x => { x with
    spares := x.spares ++ [{ col := r.2.1, bank := r.2.2.1, idx := r.2.2.2.1, spare := r.2.2.2.2, runtime := runtime }] })

/-! ### Recording steps (R496, R506, R515) -/

def outcomeNum : StepOutcome → Nat | .notRun => 0 | .passed => 1 | .failed => 2 | .skipped => 3

/-- Budgets in µs (R493). -/
def budgetUs (code : Nat) : Nat := [6000, 1000, 1000, 2000, 2000, 10000, 4000, 10000, 40000, 24000, 4000].getD code 0

/-- Record a step. Reasons: 0 none, 1 BUDGET, 2 CHECK, 3 SIGNATURE, 4 HWREV, 5 CRC, 6 STOP. -/
def State.stepRec (s : State) (x : StartIn) (code : Nat) (o : StepOutcome) (reason slot detail : Nat) : State :=
  let us := x.elapsed.getD code 0
  let late : Bool := o = .passed && decide (budgetUs code < us)
  let o := if late then .failed else o
  let reason := if late then 1 else reason
  let old := s.start.steps
  let padded := old ++ List.replicate (11 - old.length) (.notRun, 0)
  let s := { s with start := { s.start with step := if o = StepOutcome.skipped then s.start.step else code, steps := setAt padded code (o, min us 16777215) } }
  let s := if o = .failed then s.bump (cGlb (1 + code)) else s
  s.peat 0x02 (bodyOf ([code, outcomeNum o, reason, slot] ++ leBytes 4 us ++ leBytes 4 detail))

/-- Enter Bare with the stop noted; later steps are SKIPPED. -/
def State.stopBare (s : State) (x : StartIn) (why : StopWhy) (at_ frm : Nat) : State :=
  let s := (List.range 11).foldl (fun s c => if frm ≤ c then s.stepRec x c .skipped 0 0 0 else s) s
  let s := { s with start := { s.start with stopWhy := why, step := at_ } }
  s.setMode .bare 0

/-- A STOP is noted and the start runs on through MICRO; the first one stands. -/
def State.noteStop (s : State) (why : StopWhy) : State :=
  if s.start.stopWhy = .none then { s with start := { s.start with stopWhy := why } } else s

/-- The step code at which each stop stands. -/
def stopStep : StopWhy → Nat | .fuse => 1 | .check => 2 | .firm => 5 | .micro => 6 | .pair => 6 | _ => 7

/-! ### SUPPLY to REPAIR -/

/-- FUSE: the copy that last passed is read first. -/
def State.runFuse (s : State) (x : StartIn) : State :=
  let first := (lastPassed s.mram 1).getD 0
  let ok (c : Nat) : Bool := if c = 0 then x.fuse0Ok else x.fuse1Ok
  let s := if ok 0 || ok 1 then Config.factoryRepairs.foldl (fun s r => applyRepair false r s) s else s
  if ok first then s.stepRec x 1 .passed 0 first 0
  else if ok (1 - first) then s.stepRec x 1 .failed 5 (1 - first) 0
  else (s.noteStop .fuse).stepRec x 1 .failed 6 0 0

/-- The step-specific detail of a STEP entry that names a fenced unit: its number. -/
def badDetail (bad : List FenceUnit) : Nat :=
  match bad.head? with
  | some (.slice n) | some (.channel n) | some (.home n) | some (.router n) | some (.port n) | some (.frond n) | some (.key n) => n
  | none => 0

/-- CHECK: a unit whose decoder fails a vector is fenced; a shared decoder is a STOP (R498). Units with a carried fence take no part. -/
def State.runCheck (s : State) (x : StartIn) : State :=
  let fails := x.checks.filter checkFails
  let bad := ((fails.filterMap (·.owner)).filter (fun u => !decide (u ∈ carriedFences s.mram))).eraseDups
  let stop := fails.any (fun a => a.owner.isNone)
  let s := bad.foldl (fun s u => s.fence u .fence none) s
  let s := if stop then s.noteStop .check else s
  s.stepRec x 2 (if stop || !bad.isEmpty then .failed else .passed) (if stop then 6 else if bad.isEmpty then 0 else 2) 0 (badDetail bad)

/-- CLEAR: arrays are clear already when a start begins; every slice runs the comparator test of R90. A tile failure fences the slice and its channel. -/
def State.runClear (s : State) (x : StartIn) : State :=
  let bad := x.clearBad.filter (fun u => !decide (u ∈ carriedFences s.mram))
  let on := (List.range 64).filter (fun n => !decide (n ∈ carriedUnits s.mram 1))
  let s := on.foldl (fun s n => s.modSlice n (fun y => { y with lstestDone := true, lstestOk := !decide (FenceUnit.slice n ∈ bad) })) s
  let s := bad.foldl (fun s u => match u with
    | .slice _ => s.fence u .lstest none
    | .channel n => (s.fence (.slice n) .fence none).fence u .fence none
    | _ => s.fence u .fence none) s
  s.stepRec x 3 (if bad.isEmpty then .passed else .failed) (if bad.isEmpty then 0 else 2) 0 (badDetail bad)

/-- REPAIR: carried fences on its first edge, then runtime repairs, as far as the budget lets them. -/
def State.runRepair (s : State) (x : StartIn) : State :=
  let s := { s with mram := { s.mram with peat := s.mram.peat.filter (fun e => !decide (e.1 ∈ x.peatBad)) } }
  let s := (carriedFences s.mram).foldl (fun s u => s.fence u .fence none) s
  let all := if repairOverran s.mram then [] else ((peatAll s.mram).filter (fun e => decide (e.typ = 0x05))).flatMap repairsOf
  let uses (r : Nat × Bool × Nat × Nat × Nat) : Bool :=
    Config.factoryRepairs.any (fun f => decide (f.1 = r.1) && f.2.1 == r.2.1 && decide (f.2.2.1 = r.2.2.1) && decide (f.2.2.2.2 = r.2.2.2.2))
  let good := all.filter (fun r => !uses r)
  let s := (match x.repairOverrun with | some k => good.take k | none => good).foldl (fun s r => applyRepair true r s) s
  if x.repairOverrun.isSome then s.stepRec x 4 .failed 1 0 0
  else if good.length < all.length ∨ !x.peatBad.isEmpty then s.stepRec x 4 .failed 5 0 0
  else s.stepRec x 4 .passed 0 0 0

/-! ### FIRM and MICRO (R502 to R504) -/

def State.codeFile (s : State) (fw : Bool) (x : SlotName) : Option CodeFile :=
  match fw, x with
  | true, .a => s.flash.fwA | true, .b => s.flash.fwB | false, .a => s.flash.mcA | false, .b => s.flash.mcB | _, .none => none

def otherSlot : SlotName → SlotName | .a => .b | .b => .a | .none => .none
def slotIdx (x : SlotName) : Nat := if x = .b then 1 else 0

/-- Does a file pass: it is there, signed when it was written, accepts the hardware revision, and comes up? -/
def State.fileOk (s : State) (x : StartIn) (fw : Bool) (k : SlotName) : Bool :=
  match s.codeFile fw k with
  | some f => decide (f.hwMin.toNat ≤ Config.hwRev.toNat) && decide (Config.hwRev.toNat ≤ f.hwMax.toNat)
      && (if fw then (if k = .b then x.fwReadyB else x.fwReadyA) else (if k = .b then x.serdesB else x.serdesA))
  | none => false

/-- Reason byte of a file that fails. -/
def State.fileReason (s : State) (fw : Bool) (k : SlotName) : Nat :=
  match s.codeFile fw k with
  | none => 3
  | some f => if decide (f.hwMin.toNat ≤ Config.hwRev.toNat) && decide (Config.hwRev.toNat ≤ f.hwMax.toNat) then (if fw then 1 else 2) else 4

/-- R503: the slot FIRM or MICRO tries first. -/
def State.chooseSlot (s : State) (fw : Bool) : SlotName :=
  let kg := if fw then s.mram.kgFw else s.mram.kgMc
  let ver := if fw then s.mram.kgFwVer else s.mram.kgMcVer
  let holds : Bool := match s.codeFile fw kg with | some f => decide (f.version = ver) | none => false
  let nxt := if fw then s.mram.fwNext else s.mram.mcNext
  if untestedBefore s.mram && holds then kg
  else if nxt ≠ .none then nxt
  else match lastPassed s.mram (if fw then 5 else 6) with
    | some k => if k = 1 then .b else .a
    | none => .a

/-- The NEXT field clears when it is taken. -/
def State.takeNext (s : State) (fw : Bool) : State :=
  let kg := if fw then s.mram.kgFw else s.mram.kgMc
  let ver := if fw then s.mram.kgFwVer else s.mram.kgMcVer
  let holds : Bool := match s.codeFile fw kg with | some f => decide (f.version = ver) | none => false
  if untestedBefore s.mram && holds then s
  else if fw then { s with mram := { s.mram with fwNext := .none } } else { s with mram := { s.mram with mcNext := .none } }

/-- The slot that passes: the chosen one, else the other, else none. -/
def State.pickFile (s : State) (x : StartIn) (fw : Bool) : Option SlotName :=
  let k := s.chooseSlot fw
  if s.fileOk x fw k then some k else if s.fileOk x fw (otherSlot k) then some (otherSlot k) else none

/-- After FIRM the Medulla writes the log; fences applied before it are entered now. -/
def State.logFences (s : State) : State :=
  [1, 2, 3, 4].foldl (fun s k => if s.fenceMap k = 0 then s else s.peat 0x06 (bodyOf ([k] ++ leBytes 2 s.mram.startNo.toNat ++ leBytes 8 (s.fenceMap k)))) s

/-- A new NONCE at each start (R569). -/
def State.newNonce (s : State) : State := { s.drawn with mbx := { s.mbx with nonce := (Config.draw s.free).setWidth 64 } }

/-- FIRM. False: recovery Bare, where STOPWHY reads FIRM (R502). -/
def State.runFirm (s : State) (x : StartIn) : State × Bool :=
  let k := s.chooseSlot true
  match s.pickFile x true with
  | some j =>
    let f := (s.codeFile true j).getD { version := 0, mif := 0, hwMin := 0, hwMax := 0, partners := [], digest := 0 }
    let s := (s.takeNext true).stepRec x 5 .passed 0 (slotIdx j) 0
    let s := { s with start := { s.start with firmDone := true, fwUse := j, fwVer := f.version, mif := f.mif, fwDigest := f.digest, recovery := false } }
    (s.newNonce.logFences, true)
  | none =>
    let s := (s.takeNext true).stepRec x 5 .failed (s.fileReason true k) (slotIdx k) 0
    let s := { s with start := { s.start with firmDone := true, recovery := true, stopWhy := .firm } }
    (s.newNonce.logFences, false)

/-- Is a pair tested (R504)? -/
def tested (f m : CodeFile) : Bool := decide (m.version ∈ f.partners) || decide (f.version ∈ m.partners)

/-- A PAIR entry; verdicts 1 tested, 2 untested, 3 forced, 4 known-good. -/
def State.pairEntry (s : State) (v : Nat) : State :=
  (s.peat 0x04 (bodyOf (leBytes 2 s.start.fwVer.toNat ++ [slotIdx s.start.fwUse] ++ leBytes 2 s.start.mcVer.toNat ++ [slotIdx s.start.mcUse, v]))).bump (cGlb (11 + v))

/-- MICRO with the pair check. -/
def State.runMicro (s : State) (x : StartIn) : State :=
  let k := s.chooseSlot false
  match s.pickFile x false with
  | none => ((s.takeNext false).noteStop .micro).stepRec x 6 .failed 6 (slotIdx k) 0
  | some j =>
    match s.codeFile false j, s.codeFile true s.start.fwUse with
    | some m, some f =>
      let s := s.takeNext false
      let s := { s with start := { s.start with mcUse := j, mcVer := m.version, mcDigest := m.digest }, clk := { s.clk with serdesLock := true } }
      if tested f m then (s.stepRec x 6 .passed 0 (slotIdx j) 0).pairEntry 1
      else ((s.noteStop .pair).stepRec x 6 .failed 6 (slotIdx j) 0).pairEntry 2
    | _, _ => s

/-! ### IMAGE (R485) -/

/-- The slots IMAGE tries, in order. -/
def State.imageOrder (s : State) : List SlotName :=
  let t := s.mram.trial
  let c := s.mram.confirmed
  let tr := if t ≠ .none ∧ s.slotState t = .valid ∧ s.mram.tried = false then [t] else []
  tr ++ (if c ≠ .none ∧ s.slotState c = .valid ∧ c ∉ tr then [c] else [])

def imgStNum : ImgStatus → Nat
  | .ok => 0 | .running => 1 | .length => 2 | .align => 3 | .dma => 4 | .format => 5 | .signature => 6 | .ownerkey => 7 | .rollback => 8 | .hwrev => 9
  | .mif => 10 | .directory => 11 | .domain => 12 | .port => 13 | .tenancy => 14 | .near => 15 | .home => 16 | .service => 17 | .route => 18
  | .fault => 19 | .protect => 20 | .mode => 21 | .busy => 22 | .base => 23 | .slot => 24 | .empty => 25

/-- The IMAGE step names the slot it loads: the trial is tried once; without one TRIAL is cleared (R485). -/
def State.markTried (s : State) (trial : Bool) : State :=
  if trial then { s with mram := { s.mram with tried := true } } else { s with mram := { s.mram with trial := .none } }

/-- A slot that fails its checks is left EMPTY, and a trial that fails is cleared. -/
def State.slotFailed (s : State) (k : SlotName) (trial : Bool) : State :=
  let s := s.setSlot k .empty []
  if trial then { s with mram := { s.mram with trial := .none } } else s

/-- Load the first slot that passes. Answers the last STATUS. -/
def State.tryImages (s : State) : List SlotName → ImgStatus → State × ImgStatus
  | [], st => (s, st)
  | k :: t, _ =>
    let trial : Bool := k = s.mram.trial
    match (s.markTried trial).checkSlot k with
    | .ok i => ((s.markTried trial).loadImage i k, .ok)
    | .error e => ((s.markTried trial).slotFailed k trial).tryImages t e.st

/-! ### LINK, FIND, SERVE -/

/-- LINK for one port: a port with REDUCE that failed EQ in the last start first tries the width whose lanes passed (R499). -/
def State.linkPort (s : State) (f : Found) : State :=
  let P := s.iport f.port
  let old := (s.port f.port).eqPass
  if (s.port f.port).state ≠ .detect ∨ !s.mayTrain f.port then s else
    let s := s.modPort f.port (fun y => { y with eqPass := f.train.eqOk })
    let k := trainWidth P f.train.eqOk
    let k := if P.reduce && !old.isEmpty then (match k, trainWidth P old with | some a, some b => some (min a b) | a, _ => a) else k
    match k with
    | some w => if f.train.lockOk && decide (f.train.skew ≤ 64) && f.train.flitOk then s.toFind f.port w else s
    | none => s

/-- FIND for one port. -/
def State.findPort (s : State) (f : Found) : State :=
  if (s.port f.port).state ≠ .find then s else
    let s := s.discIdIn f.port f.id
    if (s.port f.port).state ≠ .find then s else
      let s := s.discCfgIn f.port f.cfg
      if (s.port f.port).state ≠ .find then s
      else if (s.iport f.port).encReq then
        (if f.keyxOk then
          (s.modPort f.port (fun y => { y with
            stage := .keyx, keyxOk := true, enc := y.pcaps.getLsbD 1, encKeyTx := Config.draw s.free, encKeyRx := Config.draw (s.free + 1)
            encSaltTx := (Config.draw (s.free + 2)).setWidth 32, encSaltRx := (Config.draw (s.free + 3)).setWidth 32 })).drawn.drawn.drawn.drawn.discFinish f.port f.offset
         else s.reject f.port 0xA)
      else s.discFinish f.port f.offset

/-- Karik time at the end of FIND (R39): a standalone domain starts at zero and is SYNC; a domain is SYNC when its upstream is, or when it is the root. -/
def State.findTime (s : State) (d : Nat) (D : ImgDomain) : State :=
  let peers := s.iports.filter (fun e => decide (e.2.role = .peer) && D.has (portNode e.1))
  if peers.isEmpty then s.modDom d (fun x => { x with ktime := 0, running := true, sync := true, rateOfs := 0, rootHops := 0 })
  else if s.isRoot d D then s.modDom d (fun x => { x with running := true, sync := true, rootHops := 0 })
  else match s.pickUpstream d with
    | some u => s.modDom d (fun x => { x with running := true, upstream := some u, rootHops := (s.port u).prootHops + 1
                                              sync := (s.port u).psync && decide ((s.port u).prootHops + 1 ≤ 8) })
    | none => s.modDom d (fun x => { x with running := true, sync := false })

/-- SERVE: leases are dealt from the current slot, audits run, and the Gates open. -/
def State.runServe (s : State) (x : StartIn) : State :=
  let s := s.imgDoms.foldl (fun s e => s.modDom e.1 (fun y => { y with calStart := slotOf y.ktime, lastSlot := slotOf y.ktime })) s
  let s := (List.range 64).foldl (fun s n =>
    if (s.nodeDom n).isSome then (s.modGate n (fun G => { G with spore := (Config.draw s.free).setWidth 32 })).drawn else s) s
  let s := x.auditBad.foldl (fun s u => s.fence u .ledger none) s
  let s := s.stepRec x 10 (if x.auditBad.isEmpty then .passed else .failed) (if x.auditBad.isEmpty then 0 else 2) 0 0
  s.setMode s.servingMode 0

/-- LINK, FIND and SERVE. -/
def State.runLink (s : State) (x : StartIn) : State :=
  let s := x.found.foldl (fun s f => s.linkPort f) s
  let on := s.iports.filter (fun e => decide (e.2.role ≠ .off))
  let linked := on.all (fun e => decide ((s.port e.1).state = .find))
  let s := s.stepRec x 8 (if linked then .passed else .failed) (if linked then 0 else 1) 0 0
  let s := x.found.foldl (fun s f => s.findPort f) s
  let s := s.imgDoms.foldl (fun s e => s.findTime e.1 e.2) s
  let bad := on.any (fun e => decide ((s.port e.1).state = .failed))
    || s.imgDoms.any (fun e => s.iports.any (fun p => decide (p.2.role = .peer) && e.2.has (portNode p.1)) && !(s.dom e.1).sync)
  let s := s.stepRec x 9 (if bad then .failed else .passed) (if bad then 2 else 0) 0 0
  s.runServe x

/-- IMAGE and what follows it. -/
def State.runImage (s : State) (x : StartIn) : State :=
  let ord := s.imageOrder
  let s := if s.mram.trial ∈ ord then s else { s with mram := { s.mram with trial := .none } }
  let (s, st) := s.tryImages ord .empty
  if s.imgc.img.isSome then (s.stepRec x 7 .passed 0 (slotIdx s.imgc.inForce) (imgStNum .ok)).runLink x
  else (s.stepRec x 7 .failed 6 0 (imgStNum st)).stopBare x .image 7 8

/-! ### The start -/

/-- FUSE to the end, once SUPPLY has passed. -/
def State.runOn (s : State) (x : StartIn) : State :=
  let s := (((s.runFuse x).runCheck x).runClear x).runRepair x
  let (s, fw) := s.runFirm x
  if !fw then s.stopBare x s.start.stopWhy (stopStep s.start.stopWhy) 6
  else
    let s := s.runMicro x
    if s.start.stopWhy ≠ .none then s.stopBare x s.start.stopWhy (stopStep s.start.stopWhy) 7 else s.runImage x

/-- SUPPLY: at most three attempts, then held in Rising with FAULT_N low (R499). -/
def State.runSupply (s : State) (x : StartIn) : State :=
  let s := { s with start := { s.start with supplyTries := s.start.supplyTries + 1, supplyWait := false } }
  if x.railsOk && x.rootLocks then
    let ext := x.refsel && x.extRefPresent && x.extRefLocks
    let s := { s with
      pwr := { s.pwr with rails := true, refselS := x.refsel, refselPin := x.refsel }
      clk := { s.clk with rootLock := true, refSrc := if ext then 1 else 0, refLost := false, holdover := false, relockPend := false, aclkInternal := false }
      host := { s.host with inReset := !s.pwr.perstHigh } }
    (s.stepRec x 0 .passed 0 0 (if x.refsel && !ext then 1 else 0)).runOn x
  else if s.start.supplyTries < 3 then { s with pwr := { s.pwr with rails := false }, start := { s.start with supplyWait := true } }
  else ({ s with pwr := { s.pwr with rails := false }, start := { s.start with supplyHeld := true } }.stepRec x 0 .failed 6 0 0).faultPin

/-- Are the conditions of R517 met? `stay`: input has stayed valid since before Dormant. -/
def State.inputOk (s : State) (mv heldUs : Nat) : Bool :=
  if s.pwr.inputValid then decide (8400 ≤ mv)
  else decide (8700 ≤ mv) && decide (mv ≤ 61000) && decide (1000 ≤ heldUs) && s.pwr.die.all (fun c => decide (c ≤ 85))
    && s.pwr.tile.all (fun c => decide (c ≤ 75)) && s.pwr.pstage.all (fun c => decide (c ≤ 95))

/-- Cause byte of the START entry. -/
def startCause : LastOff → Nat | .none => 0 | .resetN => 1 | _ => 2

/-- The first edge of a start. -/
def State.beginStart (s : State) (x : StartIn) : State :=
  let ext := x.refsel && x.extRefPresent && x.extRefLocks
  let s := { s with
    pwr := { s.pwr with inputValid := true, vin := x.vin, resetHigh := true, pfwHigh := true, pfwOut := false, testEn := false, dip := false, dipAt := 0, offCause := .none }
    clk := { s.clk with aclk := 0 }
    mram := { s.mram with startNo := s.mram.startNo + 1 }
    flash := { s.flash with stA := if s.flash.stA = SlotState.writing then SlotState.empty else s.flash.stA, stB := if s.flash.stB = SlotState.writing then SlotState.empty else s.flash.stB
                            imgA := if s.flash.stA = SlotState.writing then [] else s.flash.imgA, imgB := if s.flash.stB = SlotState.writing then [] else s.flash.imgB }
    start := {} }
  let s := (s.setMode .rising 0).bump (cGlb 0)
  s.peat 0x01 (bodyOf ([startCause s.pwr.lastOff, if ext then 1 else 0, if x.refsel && !ext then 1 else 0, 0] ++ leBytes 2 (x.vin / 10)))

/-- R513: after PFW_N, Dormant lasts until PFW_N has been high for 10 ms. -/
def State.pfwSettled (s : State) (us : Nat) : Bool :=
  s.pwr.lastOff = .none || s.pwr.lastOff = .resetN || decide (10000 ≤ us)

/-- START. -/
def execStart (x : StartIn) (s : State) : Ans :=
  .next (if s.start.mode = .dormant && !s.pwr.pfwOut && x.resetHigh && x.pfwHigh && s.pfwSettled x.pfwHighUs && s.inputOk x.vin x.heldUs
    then (s.beginStart x).runSupply x else s)

/-- SUPPLY_RETRY. -/
def execSupplyRetry (x : StartIn) (s : State) : Ans :=
  .next (if s.start.mode = .rising ∧ s.start.supplyWait then s.runSupply x else s)

/-! ### Mode commands (R510, R514). CMDST: 0 OK, 1 RUNNING, 2 NOTMODE, 3 NOIMAGE -/

def State.cmdst (s : State) (k : Nat) : State := { s with start := { s.start with cmdst := k } }

/-- R36: on entry to Quiescent or Maintenance the clocks relock. -/
def State.relock (s : State) : State :=
  if s.clk.relockPend then { s with clk := { s.clk with relockPend := false, holdover := false, aclkInternal := false } } else s

/-- DRAIN. -/
def State.doDrain (s : State) : State :=
  if s.start.mode = .draining then s
  else if s.open_ then (({ s with start := { s.start with drainRun := true } }.setMode .draining 1).cmdst 1).revokeAll
  else s.cmdst 2
def execDrain (s : State) : Ans := .next s.doDrain

/-- MAINT. -/
def State.doMaint (s : State) : State :=
  if s.start.mode = .quiescent then ((s.setMode .maintenance 1).relock.standbyIn).cmdst 0 else s.cmdst 2
def execMaint (s : State) : Ans := .next s.doMaint

/-- RESUME. -/
def State.doResume (s : State) : State :=
  if s.start.mode = .quiescent ∨ s.start.mode = .maintenance then
    (if s.imgc.img.isSome then (s.setMode s.servingMode 1).cmdst 0 else s.cmdst 3)
  else s.cmdst 2
def execResume (s : State) : Ans := .next s.doResume

/-- FORCE_PAIR. -/
def State.doForcePair (s : State) (x : StartIn) : State :=
  if s.start.mode = .bare ∧ s.start.stopWhy = .pair then
    let s := (s.pairEntry 3).cmdst 0
    (({ s with start := { s.start with forced := true, forceRun := false, stopWhy := .none, steps := s.start.steps.take 7 } }).setMode .rising 1).runImage x
  else s.cmdst 2
def execForcePair (x : StartIn) (s : State) : Ans := .next (s.doForcePair x)

/-- Whether the pair in use is the known-good one already. -/
def State.isKnownGood (s : State) : Bool :=
  decide (s.mram.kgFw = s.start.fwUse) && decide (s.mram.kgMc = s.start.mcUse) && decide (s.mram.kgFwVer = s.start.fwVer) && decide (s.mram.kgMcVer = s.start.mcVer)

/-- The pair in use becomes known-good. -/
def State.knowGood (s : State) : State :=
  if s.isKnownGood then s
  else ({ s with mram := { s.mram with kgFw := s.start.fwUse, kgMc := s.start.mcUse, kgFwVer := s.start.fwVer, kgMcVer := s.start.mcVer } }).pairEntry 4

/-- PAIR_GOOD. -/
def State.doPairGood (s : State) : State := if s.open_ then s.knowGood.cmdst 0 else s.cmdst 2
def execPairGood (s : State) : Ans := .next s.doPairGood

/-- KNOWN_GOOD: 600 s are 15,000,000,000 ACLK. -/
def execKnownGood (s : State) : Ans :=
  .next (if s.open_ && !s.start.forced && decide (15000000000 ≤ s.start.kgTime) then s.knowGood else s)

/-- FENCE_FORGET. -/
def State.doFenceForget (s : State) : State :=
  if s.start.mode = .maintenance then (s.peat 0x0A 0).cmdst 0 else s.cmdst 2
def execFenceForget (s : State) : Ans := .next s.doFenceForget

end Sys2Proof.Machine
end

