-- ==== Sys2Proof/Machine/Images.lean ====
section
/-! DEFINITION. The image commands: WRITE, VERIFY, TRIAL, APPLY, CONFIRM, ERASE and ROUTE (R480, R483 to R492). -/

namespace Sys2Proof.Machine

open Sys2Proof

/-! ### Preconditions (R480, R487) -/

/-- Does the image block answer? Not in Dormant, and not in recovery Bare (R487, R550). -/
def State.imgReach (s : State) : Bool := !decide (s.start.mode = .dormant) && !s.start.recovery

/-- The modes in which a command is allowed (R487). -/
def State.imgMode (s : State) (op : Nat) : Bool :=
  match s.start.mode with
  | .dormant | .rising => false
  | .bare => decide (op = 0) || decide (op = 1) || decide (op = 2) || decide (op = 5) || (decide (op = 3) && !decide (s.start.stopWhy = .pair))
  | .serving | .degraded => decide (op ≤ 2) || decide (op = 4) || decide (op = 5)
  | .draining => decide (op ≤ 2) || decide (op = 5)
  | .quiescent => decide (op ≤ 2) || decide (op = 5) || decide (op = 6)
  | .maintenance => decide (op ≤ 3) || decide (op = 5) || decide (op = 6)

/-- What makes APPLY in Maintenance end with BUSY (R488). -/
def State.applyBusy (s : State) : Bool :=
  s.prot.jobs.any (fun j => j.2.active) || (List.range 64).any (fun k => decide ((s.key k).st = .retiring)) || s.prot.invRun || s.lock.go
    || s.slices.any (fun x => x.2.audRun) || s.homes.any (fun x => x.2.ncAudRun) || s.routers.any (fun x => x.2.audRun)
    || s.gates.any (fun x => x.2.audRun)

/-- The slot a command must not touch (R484). -/
def State.slotHeld (s : State) (k : SlotName) : Bool := decide (k = s.mram.confirmed) || decide (k = s.imgc.inForce)

/-- The first precondition that fails: MODE, BUSY, SLOT, EMPTY, LENGTH, ALIGN. -/
def State.imgPre (s : State) (op : Nat) (k : SlotName) : Option ImgStatus :=
  if !s.imgMode op then some .mode
  else if decide (op = 3) && decide (s.start.mode = .maintenance) && s.applyBusy then some .busy
  else if (decide (op = 0) || decide (op = 5)) && s.slotHeld k then some .slot
  else if (decide (op = 1) || decide (op = 2) || decide (op = 3)) && !decide (s.slotState k = .valid) then some .empty
  else if decide (op = 4) && !s.trialRun then some .empty
  else if (decide (op = 0) || decide (op = 6)) && decide (1048576 < s.imgc.len.toNat) then some .length
  else if (decide (op = 0) || decide (op = 6)) && !decide (s.imgc.src.toNat % 64 = 0) then some .align
  else none

/-! ### The end of a command -/

/-- IMG_RESULT is written, GO clears, the counts and vector 3 follow. -/
def State.imgEnd (s : State) (st : ImgStatus) (sect off : Nat) : State :=
  (({ s with imgc := { s.imgc with run := false, status := st, sect := sect, off := off } }).bump (cGlb (39 + imgStNum st))).irq 0 3

def State.imgBad (s : State) (e : ImgBad) : State := s.imgEnd e.st e.sect e.off

/-- The Peat IMAGE entry of a command that changed a slot or applied (R507). -/
def State.imgLog (s : State) (op : Nat) (k : SlotName) (st : ImgStatus) (seq : Nat) : State :=
  s.peat 0x08 (bodyOf ([op, slotIdx k, imgStNum st] ++ leBytes 4 seq))

/-- The write of IMG_CMD with GO: OP and SLOT are held, and the preconditions run; one that fails ends the command and changes nothing (R480). -/
def State.imgStart (s : State) (op : Nat) (b : Bool) (f : State → State) : State :=
  let s := ({ s with imgc := { s.imgc with op := op, slotB := b } }).bump (cGlb (32 + op))
  match s.imgPre op (slotOfB b) with
  | some e => s.imgEnd e 0 0
  | none => f s

/-- What GO does to a command that waits for the outside: it runs, and a WRITE has made its slot WRITING (R484). -/
def State.imgRunning (s : State) (op : Nat) (b : Bool) : State :=
  let s := { s with imgc := { s.imgc with run := true, status := .running, sect := 0, off := 0 } }
  if op = 0 then
    (if slotOfB b = s.mram.trial then { s with mram := { s.mram with trial := .none } } else s).setSlot (slotOfB b) .writing []
  else s

/-- A command: the running one ends as `f` says; another while one runs is dropped and logged (R487); else it starts and ends here. -/
def State.imgCmd (s : State) (op : Nat) (b : Bool) (f : State → State) : State :=
  if !s.imgReach then s
  else if s.imgc.run then
    (if s.imgc.op = op ∧ (s.imgc.slotB = b ∨ op = 6) then f s else s.logAcc 0x100000 .pf0 .busy true 4 0x100004)
  else s.imgStart op b f

/-! ### WRITE, VERIFY, TRIAL, CONFIRM, ERASE, ROUTE -/

/-- The bytes fetched, if the fetch may run and ends well (R543). -/
def State.imgFetch (s : State) (bytes : List Byte) (dmaOk : Bool) : Option (List Byte) :=
  if dmaOk && s.dmaOk then some (bytes.take s.imgc.len.toNat) else none

/-- WRITE: fetch, program, read back and check. A failure leaves the slot EMPTY; writing the trial slot clears TRIAL. -/
def State.imgWrite (s : State) (k : SlotName) (bytes : List Byte) (dmaOk : Bool) : State :=
  let s := (if k = s.mram.trial then { s with mram := { s.mram with trial := .none } } else s).setSlot k .writing []
  match s.imgFetch bytes dmaOk with
  | none => ((s.setSlot k .empty []).imgLog 0 k .dma 0).imgEnd .dma 0 0
  | some bs =>
    match checkImage (s.imgEnv (some s.imgc.len.toNat) false) bs with
    | .ok i => ((s.setSlot k .valid bs).imgLog 0 k .ok i.seq).imgEnd .ok 0 0
    | .error e => ((s.setSlot k .empty []).imgLog 0 k e.st (readHeader bs).seq).imgBad e

def execImgWrite (slotB : Bool) (bytes : List Byte) (dmaOk : Bool) (s : State) : Ans :=
  .next (s.imgCmd 0 slotB (fun s => s.imgWrite (slotOfB slotB) bytes dmaOk))

/-- VERIFY. A slot that fails is left EMPTY. -/
def State.imgVerify (s : State) (k : SlotName) : State :=
  match s.checkSlot k with
  | .ok _ => s.imgEnd .ok 0 0
  | .error e => ((s.setSlot k .empty []).imgLog 1 k e.st (readHeader (s.slotBytes k)).seq).imgBad e

def execImgVerify (slotB : Bool) (s : State) : Ans := .next (s.imgCmd 1 slotB (fun s => s.imgVerify (slotOfB slotB)))

/-- TRIAL: the slot becomes the trial with TRIED 0; naming the confirmed slot clears TRIAL. -/
def State.nameTrial (s : State) (k : SlotName) : State :=
  { s with mram := { s.mram with trial := if k = s.mram.confirmed then .none else k, tried := false } }

def execImgTrial (slotB : Bool) (s : State) : Ans :=
  .next (s.imgCmd 2 slotB (fun s => (s.nameTrial (slotOfB slotB)).imgEnd .ok 0 0))

/-- CONFIRM: the image in force becomes the confirmed one, and FLOOR its SEQ. -/
def State.imgConfirm (s : State) : State :=
  let q := match s.imgc.img with | some i => i.seq | none => s.mram.floor
  (({ s with mram := { s.mram with confirmed := s.imgc.inForce, trial := .none, floor := q } }).bump (cGlb 66)).imgEnd .ok 0 0

def execImgConfirm (s : State) : Ans := .next (s.imgCmd 4 s.imgc.slotB (fun s => s.imgConfirm))

/-- ERASE. -/
def State.imgErase (s : State) (k : SlotName) : State := ((s.setSlot k .empty []).imgLog 5 k .ok 0).imgEnd .ok 0 0

def execImgErase (slotB : Bool) (s : State) : Ans := .next (s.imgCmd 5 slotB (fun s => s.imgErase (slotOfB slotB)))

/-- ROUTE: each named domain's table is replaced on one edge. -/
def State.imgRoute (s : State) (bytes : List Byte) (dmaOk : Bool) : State :=
  match s.imgFetch bytes dmaOk with
  | none => s.imgEnd .dma 0 0
  | some bs =>
    match checkImage (s.imgEnv (some s.imgc.len.toNat) true) bs with
    | .error e => s.imgBad e
    | .ok i =>
      let old : List (Nat × List RouteEnt) := s.imgc.routeOvr.getD []
      ({ s with imgc := { s.imgc with routeOvr := some (i.routes ++ old.filter (fun (e : Nat × List RouteEnt) => (alook e.1 i.routes).isNone)), routeDigest := i.digest } }).imgEnd .ok 0 0

def execImgRoute (bytes : List Byte) (dmaOk : Bool) (s : State) : Ans := .next (s.imgCmd 6 s.imgc.slotB (fun s => s.imgRoute bytes dmaOk))

/-! ### APPLY (R487 to R490) -/

/-- Put a line's data back at its home: a memory write here, a WB toward the device that homes it. -/
def State.returnLine (s : State) (d : Nat) (D : ImgDomain) (l : LineAddr) (x : LineData) : State :=
  match s.rngHome d l with
  | some (_, e) =>
    let a : At := { n := s.homeNode d D l, d := d, D := D, l := l }
    if e.home = D.device then
      match s.wbTarget a with
      | .ok (k, p) => if (s.verAt a).isSome then s.writeLine a k p 0 x false else s
      | .error (c, loud) => s.wbDiscard a c loud
    else
      let n := s.sliceNode d D l
      s.sendHome d D n e.home { op := .wb, line := l, sender := sliceEp D.device n, requester := sliceEp D.device n, data := x, nodl := true }
  | none => s

/-- SNP_INV of step 3 to every near group of a slice's presence masks; only the owner's asks for data. -/
def State.applySnoops (s : State) (d : Nat) (D : ImgDomain) (n : Nat) : State :=
  (s.slice n).pres.foldl (fun s e =>
    let t := s.tagAt n e.1
    if t.state = .i then s else
      let l := D.lineOf t.origin.toNat (e.1 / D.ways) t.tag
      (bitsOf (s.presAt n e.1) 32).foldl (fun s g => match s.linePort d g l with
        | some p => s.emit (.msg p { op := .snpInv, line := l, nodata := decide (t.owner.toNat ≠ g), answerTo := sliceEp D.device n,
                                     requester := sliceEp D.device n, sender := sliceEp D.device n, destDev := D.device, nodl := true })
        | none => s) s) s

/-- SNP_INV of step 3 from a shard to the peer devices its directory names. -/
def State.applyRecalls (s : State) (d : Nat) (D : ImgDomain) (n : Nat) : State :=
  (s.home n).dir.foldl (fun s e => match e.2 with
    | none => s
    | some x =>
      let l := D.dline x.origin.toNat (e.1 / 16) x.tag
      (s.dirHolders d D x).foldl (fun s v => match s.peerPort d (BitVec.ofNat 9 v) l with
        | some p => s.emit (.msg p { op := .snpInv, line := l, nodata := decide (x.own ≠ some v), answerTo := homeEp D.device n,
                                     requester := homeEp D.device n, sender := homeEp D.device n, destDev := BitVec.ofNat 9 v, nodl := true })
        | none => s) s) s

/-- Lines that a slice holds in M or O and for which nothing came back: the slice writes its own data. -/
def State.applyOwn (s : State) (d : Nat) (D : ImgDomain) (x : ApplyIn) (n : Nat) : State :=
  (s.slice n).tags.foldl (fun s e =>
    let t := e.2
    let l := D.lineOf t.origin.toNat (e.1 / D.ways) t.tag
    if (t.state = .m ∨ t.state = .o) ∧ !(x.dirty.any (fun y => decide (y.1 = d) && decide (y.2.1 = l)))
    then s.returnLine d D l (tget {} (s.slice n).tile e.1) else s) s

/-- Step 3: caches are cleaned out and PERSIST trees flushed. -/
def State.applyClean (s : State) (x : ApplyIn) : State :=
  let s := s.imgDoms.foldl (fun s e => e.2.nodes.foldl (fun s n => (s.applySnoops e.1 e.2 n).applyRecalls e.1 e.2 n) s) s
  let s := x.nodes.foldl (fun s y => match s.treeHome y.1 with
    | some h => (match s.idom h.domain with
      | some D => s.ncPut h.domain D (s.ncNode (D.node y.2.1) h.domain D y.2.1)
          { tree := y.1, pos := y.2.1, level := y.2.2.1, index := y.2.2.2.1, node := nodeOf y.2.2.2.2, crown := isCrown D h y.2.2.1 }
      | none => s)
    | none => s) s
  let s := s.imgDoms.foldl (fun s e => e.2.nodes.foldl (fun s n => s.applyOwn e.1 e.2 x n) s) s
  let s := x.dirty.foldl (fun s y => match s.idom y.1 with | some D => s.returnLine y.1 D y.2.1 y.2.2 | none => s) s
  (s.persistFlush x.durable).shipWrites (fun o => o = .memWr || o = .memWrDur || o = .wb)

/-- Step 4: every port in service is detached; a silent partner is isolated. -/
def State.applyDetach (s : State) (x : ApplyIn) : State :=
  (s.iports.filter (fun e => s.inSvc e.1)).foldl (fun s e =>
    let s := s.emit (.mgmt e.1 0x30 0)
    if e.1 ∈ x.silent then s.isolate e.1 else s.leaveService e.1) s

/-- Step 7, for both kinds of APPLY: the slot is the trial, with TRIED 0, and the log says so. -/
def State.applyDone (s : State) (k : SlotName) (seq : Nat) : State :=
  (({ s with mram := { s.mram with trial := k, tried := false } }).imgLog 3 k .ok seq).imgEnd .ok 0 0

/-- APPLY in Bare: the slot is taken as the IMAGE step would take it, and the start goes on. -/
def State.applyBare (s : State) (k : SlotName) (y : StartIn) : State :=
  match s.checkSlot k with
  | .error e => ((s.setSlot k .empty []).imgLog 3 k e.st (readHeader (s.slotBytes k)).seq).imgBad e
  | .ok i =>
    let s := (s.loadImage i k).applyDone k i.seq
    (({ s with start := { s.start with stopWhy := .none } }).setMode .rising 1).runLink y

/-- APPLY in Maintenance. A failed check changes nothing. -/
def State.applyFull (s : State) (k : SlotName) (x : ApplyIn) : State :=
  match s.checkSlot k with
  | .error e => s.imgBad e
  | .ok i => (((((s.applyClean x).applyDetach x).loadImage i k).applyDone k i.seq)).bump (cGlb 65)

def execImgApply (slotB : Bool) (x : ApplyIn) (y : StartIn) (s : State) : Ans :=
  .next (s.imgCmd 3 slotB (fun s =>
    match s.start.mode with
    | .bare => s.applyBare (slotOfB slotB) y
    | .maintenance => s.applyFull (slotOfB slotB) x
    | _ => s.imgEnd .mode 0 0))

end Sys2Proof.Machine
end

