-- ==== Sys2Proof/Machine/Mailbox.lean ====
section
/-! DEFINITION. The Medulla mailbox: its commands, firmware and microcode files, owner keys (R502, R566 to R570). -/

namespace Sys2Proof.Machine

open Sys2Proof

/-! ### Taking and ending a command -/

/-- READY: the mailbox answers from the end of FIRM (R541, R566). -/
def State.mbxReady (s : State) : Bool := !decide (s.start.mode = .dormant) && s.start.firmDone

def mbxStNum : MbxStatus → Nat
  | .ok => 0 | .running => 1 | .badcmd => 2 | .mode => 3 | .length => 4 | .align => 5 | .dma => 6 | .signature => 7 | .slot => 8
  | .ownerkey => 9 | .hwrev => 10 | .format => 11

/-- MBX_RESULT is written: GO clears, DONE is set, vector 2 follows. `n`: bytes put into the response buffer. -/
def State.mbxEnd (s : State) (st : MbxStatus) (n : Nat) : State :=
  ({ s with mbx := { s.mbx with run := false, status := st, rspN := n, done := true } }).irq 0 2

/-- The modes of each OP. Recovery Bare takes only the firmware commands and PEAT_READ (R502). -/
def State.mbxMode (s : State) (op : Nat) : Bool :=
  if s.start.recovery then decide (op = 2) || decide (op = 3) || decide (op = 7)
  else match op with
    | 2 | 3 | 4 | 5 => !decide (s.start.mode = .rising)
    | 6 => decide (s.start.mode = .bare) || decide (s.start.mode = .maintenance)
    | _ => true

/-- Does the OP send a request, and how long may it be; how long is its response? -/
def mbxReqMax (op : Nat) : Option Nat := match op with | 2 => some 4194304 | 4 => some 262144 | 6 => some 1112 | _ => none
def mbxRspLen (op : Nat) : Nat := match op with | 1 => 64 | 7 => 65536 | _ => 0

/-- The first of MODE, ALIGN and LENGTH that refuses (R567). -/
def State.mbxPre (s : State) (op : Nat) : Option MbxStatus :=
  if !s.mbxMode op then some .mode
  else if (mbxReqMax op).isSome && !decide (s.mbx.req.toNat % 64 = 0) then some .align
  else if decide (0 < mbxRspLen op) && !decide (s.mbx.rsp.toNat % 64 = 0) then some .align
  else if decide (op = 6) && !(decide (s.mbx.reqLen.toNat = 84) || decide (s.mbx.reqLen.toNat = 1112)) then some .length
  else if (match mbxReqMax op with | some k => decide (k < s.mbx.reqLen.toNat) | none => false) then some .length
  else if s.mbx.rspLen.toNat < mbxRspLen op then some .length
  else none

/-- The write of MBX_CMD with GO. An OWNER command draws a new NONCE whatever its result (R569). -/
def State.mbxStart (s : State) (op : Nat) (b : Bool) (f : State → State) : State :=
  let s := { s with mbx := { s.mbx with op := op, slotB := b } }
  match s.mbxPre op with
  | some e => (let s := s.mbxEnd e 0; if op = 6 then s.newNonce else s)
  | none => f s

/-- What GO does to a command that waits for its DMA. -/
def State.mbxRunning (s : State) : State := { s with mbx := { s.mbx with run := true, status := .running, rspN := 0 } }

/-- A command: the running one ends as `f` says; another while one runs is dropped and logged (R566); else it starts and ends here. -/
def State.mbxCmd (s : State) (op : Nat) (b : Bool) (f : State → State) : State :=
  let g (s : State) : State := let s := f s; if op = 6 then s.newNonce else s
  if !s.mbxReady then s
  else if s.mbx.run then
    (if s.mbx.op = op ∧ s.mbx.slotB = b then g s else s.logAcc 0x1100000 .pf0 .busy true 4 0x1100004)
  else s.mbxStart op b g

/-- A response goes to the host buffer by DMA. -/
def State.mbxRespond (s : State) (bytes : List Byte) (dmaOk : Bool) : State :=
  if dmaOk && s.dmaOk then (s.emit (.dma s.mbx.rsp bytes)).mbxEnd .ok bytes.length else s.mbxEnd .dma 0

/-- The request's bytes, if their fetch ends well. -/
def State.mbxFetch (s : State) (bytes : List Byte) (dmaOk : Bool) : Option (List Byte) :=
  if dmaOk && s.dmaOk then some (bytes.take s.mbx.reqLen.toNat) else none

/-- A reserved OP ends with BADCMD (R566, R567). -/
def State.mbxBad (s : State) (op : Nat) : State :=
  if s.mbxReady then ({ s with mbx := { s.mbx with op := op } }).mbxEnd .badcmd 0 else s

/-! ### GET_INFO and PEAT_READ -/

/-- The response of R568. -/
def State.infoBytes (s : State) : List Byte :=
  let own := sumL ((List.range 4).map (fun i => if (s.mram.owners.getD i none).isSome then 2 ^ i else 0))
  let b := bytesLe 2 0x9256 ++ bytesLe 1 Config.hwRev.toNat ++ bytesLe 8 Config.uid.toNat ++ bytesLe 2 s.start.fwVer.toNat
    ++ bytesLe 2 s.start.mcVer.toNat ++ bytesLe 2 s.start.mif.toNat ++ bytesLe 1 own ++ bytesLe 4 s.mram.floor ++ bytesLe 8 s.mbx.nonce.toNat
  b ++ List.replicate 34 0

/-- GET_INFO. -/
def execGetInfo (dmaOk : Bool) (s : State) : Ans := .next (s.mbxCmd 1 s.mbx.slotB (fun s => s.mbxRespond s.infoBytes dmaOk))

/-- The ring in entry order (R570). -/
def State.peatRing (s : State) : List Byte := (List.range 2048).flatMap (fun i => peatBytes (tget {} s.mram.peat i))

/-- PEAT_READ. -/
def execPeatRead (dmaOk : Bool) (s : State) : Ans := .next (s.mbxCmd 7 s.mbx.slotB (fun s => s.mbxRespond s.peatRing dmaOk))

/-! ### Firmware and microcode (R502, R567) -/

/-- The header of R502 as a file. -/
def readFile (bs : List Byte) : CodeFile :=
  { version := BitVec.ofNat 16 (rdN bs 4 2), mif := BitVec.ofNat 16 (rdN bs 6 2), hwMin := BitVec.ofNat 8 (rdB bs 8), hwMax := BitVec.ofNat 8 (rdB bs 9)
    partners := (List.range (rdB bs 10)).map (fun i => BitVec.ofNat 16 (rdN bs (16 + 2 * i) 2))
    digest := Config.sha512 (bs.take (rdN bs 12 4 - 1088 + 516)) }

/-- FORMAT: magic, TOTAL, or a field out of range. -/
def fileFormat (fw : Bool) (len : Nat) (bs : List Byte) : Bool :=
  decide (rdN bs 0 4 = if fw then 0x414C444D else 0x4E545250) && (fw || decide (rdN bs 6 2 = 0)) && decide (rdB bs 10 ≤ 32) && zeroB bs 11 12
    && decide (rdN bs 12 4 = len) && decide (1168 ≤ len) && decide (bs.length = len) && zeroB bs (16 + 2 * rdB bs 10) 80

/-- The signature verifies under the Valasting key of the fuse map. -/
def fileSigned (bs : List Byte) : Bool :=
  let o := rdN bs 12 4 - 1088
  decide (rdN bs (o + 512) 4 = 65537) && zeroB bs (o + 516) (o + 576) && decide (Config.sha512 ((bs.drop o).take 516) = Config.valastingKey)
    && Config.rsaPssVerify (BitVec.ofNat 4096 (rdN bs o 512)) (Config.sha512 (bs.take (o + 516))) (BitVec.ofNat 4096 (rdN bs (o + 576) 512))

/-- Does a file accept this hardware revision? -/
def fileRev (f : CodeFile) : Bool := decide (f.hwMin.toNat ≤ Config.hwRev.toNat) && decide (Config.hwRev.toNat ≤ f.hwMax.toNat)

/-- Put a file into a slot, or empty it. -/
def State.setFile (s : State) (fw : Bool) (k : SlotName) (f : Option CodeFile) : State :=
  match fw, k with
  | true, .a => { s with flash := { s.flash with fwA := f } }
  | true, .b => { s with flash := { s.flash with fwB := f } }
  | false, .a => { s with flash := { s.flash with mcA := f } }
  | false, .b => { s with flash := { s.flash with mcB := f } }
  | _, .none => s

/-- FW_WRITE and MC_WRITE: the slot in use is refused; a file that fails leaves its slot empty. -/
def State.fileWrite (s : State) (fw : Bool) (k : SlotName) (bytes : List Byte) (dmaOk : Bool) : State :=
  if (if fw then s.start.fwUse else s.start.mcUse) = k then s.mbxEnd .slot 0
  else match s.mbxFetch bytes dmaOk with
    | none => s.mbxEnd .dma 0
    | some bs =>
      if !fileFormat fw s.mbx.reqLen.toNat bs then (s.setFile fw k none).mbxEnd .format 0
      else if !fileSigned bs then (s.setFile fw k none).mbxEnd .signature 0
      else if !fileRev (readFile bs) then (s.setFile fw k none).mbxEnd .hwrev 0
      else (s.setFile fw k (some (readFile bs))).mbxEnd .ok 0

/-- FW_VERIFY and MC_VERIFY: a slot that holds a file was checked when it was written; an empty one has no MAGIC. -/
def State.fileVerify (s : State) (fw : Bool) (k : SlotName) : State :=
  match s.codeFile fw k with
  | some f => if fileRev f then s.mbxEnd .ok 0 else (s.setFile fw k none).mbxEnd .hwrev 0
  | none => s.mbxEnd .format 0

/-- FW_WRITE. -/
def execFwWrite (slotB : Bool) (bytes : List Byte) (dmaOk : Bool) (s : State) : Ans :=
  .next (s.mbxCmd 2 slotB (fun s => s.fileWrite true (slotOfB slotB) bytes dmaOk))
/-- FW_VERIFY. -/
def execFwVerify (slotB : Bool) (s : State) : Ans := .next (s.mbxCmd 3 slotB (fun s => s.fileVerify true (slotOfB slotB)))
/-- MC_WRITE. -/
def execMcWrite (slotB : Bool) (bytes : List Byte) (dmaOk : Bool) (s : State) : Ans :=
  .next (s.mbxCmd 4 slotB (fun s => s.fileWrite false (slotOfB slotB) bytes dmaOk))
/-- MC_VERIFY. -/
def execMcVerify (slotB : Bool) (s : State) : Ans := .next (s.mbxCmd 5 slotB (fun s => s.fileVerify false (slotOfB slotB)))

/-! ### OWNER (R477, R569) -/

/-- The layout of a request: SLOT, and for OP 2 a zero digest. -/
def ownerFormat (fill : Bool) (bs : List Byte) : Bool := decide (rdB bs 0 < 4) && (fill || zeroB bs 20 84)

/-- The signer's modulus and exponent, their digest, and the signature over bytes 0 to 83. -/
def ownerSigned (bs : List Byte) : Bool :=
  decide (rdN bs (84 + 512) 4 = 65537)
    && Config.rsaPssVerify (BitVec.ofNat 4096 (rdN bs 84 512)) (Config.sha512 (bs.take 84)) (BitVec.ofNat 4096 (rdN bs 600 512))
def ownerSigner (bs : List Byte) : BitVec 512 := Config.sha512 ((bs.drop 84).take 516)

/-- The request is for this module and was made under the current NONCE. -/
def State.ownerFresh (s : State) (bs : List Byte) : Bool := decide (rdN bs 4 8 = Config.uid.toNat) && decide (rdN bs 12 8 = s.mbx.nonce.toNat)

def State.setOwner (s : State) (k : Nat) (v : Option (BitVec 512)) : State := { s with mram := { s.mram with owners := setAt s.mram.owners k v } }

/-- The result of an OWNER request. -/
def State.ownerResult (s : State) (fill : Bool) (bs : List Byte) : MbxStatus :=
  let short := decide (s.mbx.reqLen.toNat = 84)
  let none_ := s.mram.owners.all (·.isNone)
  let k := rdB bs 0
  if !(decide (s.mbx.reqLen.toNat = 1112) || (short && fill)) then .length
  else if !ownerFormat fill bs then .format
  else if !s.ownerFresh bs then .ownerkey
  else if short then (if none_ then .ok else .ownerkey)
  else if !ownerSigned bs then .signature
  else if !decide (some (ownerSigner bs) ∈ s.mram.owners) then .ownerkey
  else if !fill && (s.mram.owners.getD k none).isSome && decide ((s.mram.owners.filter (·.isSome)).length = 1) then .slot
  else .ok

/-- OWNER: the slot is filled with the new digest, or emptied. -/
def State.owner (s : State) (fill : Bool) (bytes : List Byte) (dmaOk : Bool) : State :=
  match s.mbxFetch bytes dmaOk with
  | none => s.mbxEnd .dma 0
  | some bs =>
    let st := s.ownerResult fill bs
    let s := if st = .ok then s.setOwner (rdB bs 0) (if fill then some (BitVec.ofNat 512 (rdN bs 20 64)) else none) else s
    s.mbxEnd st 0

/-- OWNER with OP 0x01. -/
def execOwnerFill (bytes : List Byte) (dmaOk : Bool) (s : State) : Ans := .next (s.mbxCmd 6 s.mbx.slotB (fun s => s.owner true bytes dmaOk))
/-- OWNER with OP 0x02. -/
def execOwnerEmpty (bytes : List Byte) (dmaOk : Bool) (s : State) : Ans := .next (s.mbxCmd 6 s.mbx.slotB (fun s => s.owner false bytes dmaOk))

end Sys2Proof.Machine
end

