-- ==== Sys2Proof/Machine/HostLink.lean ====
section
/-! DEFINITION. The PCI Express endpoint: its resets, configuration requests, MSI-X, SPDM attestation and the IDE stream (R539 to R545, R561 to R565). -/

namespace Sys2Proof.Machine

open Sys2Proof

/-! ### Resets of the endpoint (R541, R542) -/

/-- DMA in flight ends: an image WRITE or ROUTE and a mailbox command with DMA, the ring dump as R581 says. -/
def State.dmaAbort (s : State) : State :=
  let s := if s.imgc.run ∧ s.imgc.op = 0 then ((s.setSlot (slotOfB s.imgc.slotB) .empty []).imgLog 0 (slotOfB s.imgc.slotB) .dma 0).imgEnd .dma 0 0
    else if s.imgc.run ∧ s.imgc.op = 6 then s.imgEnd .dma 0 0 else s
  let s := if s.mbx.run then (let o := s.mbx.op; let s := s.mbxEnd .dma 0; if o = 6 then s.newNonce else s) else s
  s.dumpDmaErr

/-- The endpoint's own state returns to reset; no register of the register space changes. -/
def State.hostReset (s : State) (held : Bool) : State :=
  ({ s with host := { nextSession := s.host.nextSession, inReset := held } }).dmaAbort

/-- Is the endpoint out of reset? It is held from Dormant until SUPPLY ends. -/
def State.linkUp (s : State) : Bool := s.pwr.rails && !decide (s.start.mode = .dormant)

/-- PERST_N. -/
def execPerstN (low : Bool) (s : State) : Ans :=
  .next (
    let s := { s with pwr := { s.pwr with perstHigh := !low } }
    if low then s.hostReset true else { s with host := { s.host with inReset := !s.linkUp } })

/-- FLR of PF0. -/
def execFlr (s : State) : Ans := .next (if s.host.inReset then s else s.hostReset false)

/-- FLR of VF k: its MSI-X table, and the MAP bit of its counter page. -/
def execFlrVf (k : Nat) (s : State) : Ans :=
  .next (if s.host.inReset || !(decide (1 ≤ k) && decide (k ≤ 16)) then s
    else (s.modMsix k (fun _ => {})).modPage (k - 1) (fun g => { g with map := false }))

/-! ### MSI-X (R543, R561, R562) -/

/-- Functions that have MSI-X, and their numbers of vectors. -/
def vecsOf (fn : Nat) : Nat := if fn = 0 then 256 else if fn ≤ 16 then 8 else 0

/-- Send a vector's pending bit, if nothing stops it. -/
def State.sendPba (s : State) (fn vec : Nat) : State :=
  if vec ∈ (s.msix fn).pba then (s.modMsix fn (fun m => { m with pba := m.pba.filter (fun v => decide (v ≠ vec)) })).irq fn vec else s

/-- Pending bits are sent when DMA and messages may run again. -/
def State.sendAllPba (s : State) : State :=
  (List.range 17).foldl (fun s fn => (s.msix fn).pba.foldl (fun s v => s.sendPba fn v) s) s

/-- VECTOR_UNMASK. -/
def execVectorUnmask (fn vec : Nat) (s : State) : Ans :=
  .next (if vec < vecsOf fn ∧ s.host.inReset = false then (s.modMsix fn (fun m => { m with unmasked := insNat vec m.unmasked })).sendPba fn vec else s)

/-- MSIX_PENDING_SEND: 10 µs have passed, and what was held leaves as one message. -/
def execMsixPendingSend (fn vec : Nat) (s : State) : Ans :=
  .next (
    let m := s.msix fn
    if vec ∈ m.held ∧ tget 0 m.sent vec + 250 ≤ s.clk.aclk + 1 then
      (s.modMsix fn (fun m => { m with held := m.held.filter (fun v => decide (v ≠ vec)) })).irq fn vec
    else s)

/-! ### Configuration requests (R541, R543 to R545) -/

/-- What a configuration request changes. -/
def State.cfgReq (s : State) (x : CfgReq) : State :=
  match x with
  | .read _ | .other _ => s
  | .setBme on =>
    let s := { s with host := { s.host with bme := on } }
    if on then s.sendAllPba else s.dumpDmaErr
  | .setPower d3 =>
    let s := { s with host := { s.host with d3hot := d3 } }
    if d3 then s.dumpDmaErr else s.sendAllPba
  | .setBars fn on => if fn ≤ 16 then { s with host := { s.host with bars := if on then insNat fn s.host.bars else s.host.bars.filter (fun v => decide (v ≠ fn)) } } else s

/-- How a function identifies itself (R540): Vendor ID, Device ID, class code, Revision ID. -/
def configId (fn : Nat) : List Nat := [Config.vendor.toNat, if fn = 0 then 0x9256 else 0x9257, 0x058000, Config.hwRev.toNat]

/-- CONFIGURATION_REQUEST. Until FIRM ends it is answered with Request Retry Status. A read answers how the function identifies itself. -/
def execConfigurationRequest (x : CfgReq) (s : State) : Ans :=
  .next (if s.host.inReset then s
    else if !s.start.firmDone then s.emit (.cfgDone .retryStatus)
    else match x with
      | .read fn => (if fn ≤ 16 then s.emit (.cfgRead fn (configId fn)) else s).emit (.cfgDone .ok)
      | _ => (s.cfgReq x).emit (.cfgDone .ok))

/-! ### SPDM (R563, R564) -/

/-- The responder runs on the Medulla, behind the DOE mailbox of PF0. -/
def State.spdmUp (s : State) : Bool := !s.host.inReset && s.start.firmDone

def wide {w : Nat} (v : BitVec w) : BitVec 1024 := v.setWidth 1024
/-- A number from parts of given widths, the first lowest. -/
def packBits : List (Nat × Nat) → Nat
  | [] => 0
  | (w, v) :: t => v % 2 ^ w + 2 ^ w * packBits t
def mapBits (l : List Nat) : Nat := sumL (l.map (fun n => 2 ^ n))
def bit (b : Bool) : Nat := if b then 1 else 0

/-- GLB_STATE, GLB_PAIR and GLB_PAIR_KG (R515). -/
def stopWhyNum : StopWhy → Nat | .none => 0 | .image => 1 | .pair => 2 | .firm => 3 | .micro => 4 | .fuse => 5 | .check => 6
def State.glbState (s : State) : Nat :=
  packBits [(3, modeCode s.start.mode), (1, 0), (1, bit s.start.forced), (11, 0), (4, s.start.step), (4, stopWhyNum s.start.stopWhy)]
def State.glbPair (s : State) : Nat := packBits [(16, s.start.mcVer.toNat), (16, s.start.fwVer.toNat)]
def State.glbPairKg (s : State) : Nat := packBits [(16, s.mram.kgMcVer.toNat), (16, s.mram.kgFwVer.toNat)]
/-- The slot record of R483: CONFIRMED, TRIAL, TRIED. -/
def State.slotRec (s : State) : Nat := packBits [(2, slotNum s.mram.confirmed), (2, slotNum s.mram.trial), (1, bit s.mram.tried)]
/-- FLT_FMISC: DSTOP above FROND (R462). -/
def State.fltMisc (s : State) : Nat := packBits [(8, mapBits s.flt.frond), (8, 0), (16, mapBits s.flt.dstop)]

/-- The digest of the image in force (R476, IMG_DIGEST), and the measurement, which changes with ROUTE_OVR too. -/
def State.imgDigest (s : State) : BitVec 512 := match s.imgc.img with | some i => i.digest | none => 0
def State.imgMeasure (s : State) : BitVec 512 :=
  if s.imgc.routeOvr.isSome then Config.routeMeasure s.imgDigest s.imgc.routeDigest else s.imgDigest

/-- Measurement `i` (R564). -/
def State.measure (s : State) (i : Nat) : Option (BitVec 1024) :=
  match i with
  | 1 => some (wide Config.romDigest)
  | 2 => some (wide s.start.fwDigest)
  | 3 => some (wide s.start.mcDigest)
  | 4 => some (wide s.imgMeasure)
  | 5 => some (wide Config.fuseDigest)
  | 6 => some (wide (Config.sha512 (s.mram.owners.flatMap (fun o => bytesLe 64 (match o with | some v => v.toNat | none => 0)))))
  | 7 => some (BitVec.ofNat 1024 (packBits [(32, s.mram.floor), (8, s.slotRec), (32, s.glbPair), (32, s.glbPairKg), (8, bit s.start.forced)]))
  | 8 => some (BitVec.ofNat 1024 (packBits [(32, s.glbState), (64, mapBits s.flt.fslc), (64, mapBits s.flt.fhom), (64, mapBits s.flt.fchn), (64, mapBits s.flt.frtr),
      (256, mapBits s.flt.fport), (32, s.fltMisc), (64, mapBits s.flt.fkey)]))
  | _ => none

/-- An SPDM answer; `signed` ones carry a signature by the attestation key. -/
def State.spdmAnswer (s : State) (code : Nat) (xs : List (BitVec 1024)) (signed : Bool) : State :=
  s.emit (.spdm code xs (if signed then some (Config.spdmSign xs) else none))

/-- MEASUREMENTS: the values in force on this edge. -/
def execMeasurements (blocks : List Nat) (s : State) : Ans :=
  .next (if s.spdmUp then s.spdmAnswer 0x60 (blocks.filterMap s.measure) true else s)

/-- CERT: slot 0 holds the device chain; slots 1 to 7 are empty. -/
def execCert (slot : Nat) (s : State) : Ans :=
  .next (if s.spdmUp then s.spdmAnswer 0x02 (if slot = 0 then Config.certChain.map wide else []) false else s)

/-- CHAL. -/
def execChal (nonce : BitVec 256) (s : State) : Ans :=
  .next (if s.spdmUp then s.spdmAnswer 0x03 (wide nonce :: Config.certChain.map wide) true else s)

/-- KEY_EX: a session opens; the answer carries its number, the peer's share and our own. -/
def execKeyEx (share : BitVec 768) (s : State) : Ans :=
  .next (if s.spdmUp then
    (let k := s.host.nextSession
     let own := Config.keyxShare (Config.draw s.free)
     ({ s.drawn with host := { s.host with sessions := s.host.sessions ++ [k], nextSession := k + 1 } }).spdmAnswer 0x64
       [BitVec.ofNat 1024 k, wide share, wide own] true)
   else s)

/-- HBEAT on an open session. -/
def execHbeat (session : Nat) (s : State) : Ans :=
  .next (if s.spdmUp ∧ session ∈ s.host.sessions then s.spdmAnswer 0x68 [BitVec.ofNat 1024 session] false else s)

/-! ### IDE (R565) -/

/-- IDE_KM: new keys bring the stream up, from Insecure too. -/
def execIdeKm (session : Nat) (key : BitVec 256) (s : State) : Ans :=
  .next (if s.spdmUp ∧ session ∈ s.host.sessions then { s with host := { s.host with ide := .secure, ideKey := key } } else s)

/-- IDE_CHECK_FAIL: the TLP is discarded, AER reports it, and the stream is Insecure. -/
def execIdeCheckFail (s : State) : Ans :=
  .next (if s.host.ide = .secure then { s with host := { s.host with ide := .insecure, aerIde := true } } else s)

end Sys2Proof.Machine
end

