-- ==== Sys2Proof/Machine/Power.lean ====
section
/-! DEFINITION. The power supervisor, reset pins, sensors, reference clock, and the passage to Quiescent (R33 to R36, R413, R510, R513, R516 to R527, R537). -/

namespace Sys2Proof.Machine

open Sys2Proof

/-! ### PMBus status bits and ALERT_N (R533, R534): bit places of PMBus 1.3 -/

def pmbBit (v : Byte) (i : Nat) : Byte := v ||| (1#8 <<< i)

/-- Latch a bit of STATUS_INPUT, STATUS_TEMPERATURE or STATUS_CML; ALERT_N goes low. -/
def State.pmbInput (s : State) (i : Nat) : State := { s with pmb := { s.pmb with stInput := pmbBit s.pmb.stInput i, alert := true } }
def State.pmbTemp (s : State) (i : Nat) : State := { s with pmb := { s.pmb with stTemp := pmbBit s.pmb.stTemp i, alert := true } }
def State.pmbCml (s : State) (i : Nat) : State := { s with pmb := { s.pmb with stCml := pmbBit s.pmb.stCml i, alert := true } }

/-! ### Driving PFW_N (R516, R520, R537) -/

/-- The supervisor drives PFW_N low; the cause it saw first stands for LAST_OFF. -/
def State.drivePfw (s : State) (c : LastOff) : State :=
  { s with pwr := { s.pwr with pfwOut := true, offCause := if s.pwr.offCause = .none then c else s.pwr.offCause } }

/-- VIN_DIP: the time of the dip runs from its first edge. -/
def execVinDip (mv : Nat) (s : State) : Ans :=
  .next (if s.pwr.inputValid ∧ mv < 8400 then
    ({ s with pwr := { s.pwr with dip := true, dipAt := if s.pwr.dip then s.pwr.dipAt else s.clk.aclk } }).pmbInput 5 else s)

/-- DIP_TIMER: 200 µs, 5,000 ACLK edges, without a break. -/
def execDipTimer (s : State) : Ans :=
  .next (if s.pwr.inputValid ∧ s.pwr.dip ∧ s.pwr.dipAt + 5000 ≤ s.clk.aclk then s.drivePfw .undervolt else s)

/-- E_WARN: 0.72 J. -/
def execEWarn (bank : Nat) (s : State) : Ans :=
  .next (if s.pwr.inputValid ∧ s.pwr.dip ∧ bank ≤ 720000 then ({ s with pwr := { s.pwr with bank := bank } }).drivePfw .undervolt else s)

/-- RIDE: the dip ends before both conditions; the mode stays. -/
def execRide (mv bank : Nat) (s : State) : Ans :=
  .next (if s.pwr.dip ∧ 8400 ≤ mv ∧ s.pwr.pfwOut = false then
    (({ s with pwr := { s.pwr with dip := false, ride := true, bank := bank } }).bump (cGlb 67)).irq 0 5 else s)

/-- OVERVOLT. -/
def execOvervolt (mv : Nat) (s : State) : Ans := .next (if 63000 < mv then (s.drivePfw .overvolt).pmbInput 7 else s)

/-! ### Sensors (R537) -/

/-- A list with at least `n` entries. -/
def padTo (n : Nat) (l : List Int) : List Int := l ++ List.replicate (n - l.length) 0

/-- Keep a reading. -/
def State.setSensor (s : State) (x : Sensor) (c : Int) : State :=
  match x with
  | .die i => { s with pwr := { s.pwr with die := setAt (padTo 8 s.pwr.die) i c } }
  | .tile i => { s with pwr := { s.pwr with tile := setAt (padTo 16 s.pwr.tile) i c } }
  | .pstage i => { s with pwr := { s.pwr with pstage := setAt (padTo 2 s.pwr.pstage) i c } }
  | .inlet => { s with pwr := { s.pwr with inlet := some c } }

/-- Does the sensor exist? -/
def sensorOk : Sensor → Bool | .die i => decide (i < 8) | .tile i => decide (i < 16) | .pstage i => decide (i < 2) | .inlet => true
def atWarn : Sensor → Int → Bool
  | .die _, c => decide (95 ≤ c) | .tile _, c => decide (85 ≤ c) | .pstage _, c => decide (110 ≤ c) | .inlet, c => decide (c < 5) || decide (45 < c)
def atTrip : Sensor → Int → Bool
  | .die _, c => decide (105 ≤ c) | .tile _, c => decide (95 ≤ c) | .pstage _, c => decide (125 ≤ c) | .inlet, _ => false
/-- The counter of a sensor's warnings (R577). -/
def warnCnt : Sensor → Nat | .die i => cGlb (68 + i) | .tile i => cGlb (76 + i) | .pstage i => cGlb (92 + i) | .inlet => cGlb 94
/-- PMBus warning bit: over-temperature, or under-temperature for a cold inlet. -/
def warnBit : Sensor → Int → Nat | .inlet, c => if c < 5 then 5 else 6 | _, _ => 6

/-- WARN: operation goes on. -/
def execWarn (x : Sensor) (c : Int) (s : State) : Ans :=
  .next (if sensorOk x && atWarn x c then
    (((({ s with pwr := { s.pwr with warn := true, warnSeen := true } }).setSensor x c).pmbTemp (warnBit x c)).bump (warnCnt x)).irq 0 5 else s)

/-- THERMAL: a trip. -/
def execThermal (x : Sensor) (c : Int) (s : State) : Ans :=
  .next (if sensorOk x && atTrip x c then
    ((({ s with pwr := { s.pwr with warn := true, warnSeen := true } }).setSensor x c).drivePfw .thermal).pmbTemp 7 else s)

/-! ### Reset and power fail (R513, R517, R521, R522, R524) -/

/-- RESET_N low for 25 ACLK edges. When PFW_N acts too, the POWER entry records PFW_N. -/
def execResetN (flushUs : Nat) (durable : Bool) (s : State) : Ans :=
  .next (
    let s := { s with pwr := { s.pwr with resetHigh := false } }
    if s.start.mode = .dormant then s
    else if s.pwr.pfwOut then (({ s with pwr := { s.pwr with inputValid := false } }).irq 0 5).toDormant 1 4 flushUs durable s.pwr.offCause
    else s.toDormant 2 3 flushUs durable .resetN)

/-- PFW_N low on 3 ACLK edges, whoever drives it. -/
def execPfwN (byPlatform : Bool) (flushUs : Nat) (durable : Bool) (s : State) : Ans :=
  .next (if !byPlatform && !s.pwr.pfwOut then s
    else
      let s := { s with pwr := { s.pwr with inputValid := false, pfwHigh := s.pwr.pfwHigh && !byPlatform } }
      if s.start.mode = .dormant then s
      else (s.irq 0 5).toDormant 1 4 flushUs durable (if s.pwr.offCause = .none then .pfwPlatform else s.pwr.offCause))

/-- INPUT_INVALID: below 2 V with the bank spent the always-on domain loses power; MRAM and flash keep their contents. -/
def execInputInvalid (mv bank : Nat) (s : State) : Ans :=
  .next (if mv < 2000 ∧ bank = 0 then { State.reset with mram := s.mram, flash := s.flash, out := s.out, free := s.free, pending := s.pending } else s)

/-- PFW_RELEASE: R517 would declare input valid. -/
def execPfwRelease (mv heldUs : Nat) (s : State) : Ans :=
  .next (if s.start.mode = .dormant ∧ s.pwr.pfwOut ∧ ({ s with pwr := { s.pwr with inputValid := false } }).inputOk mv heldUs then
    { s with pwr := { s.pwr with pfwOut := false, pfwHigh := true, inputValid := true, dip := false, offCause := .none } } else s)

/-- ALWAYS_ON_DOMAIN_START: from no input. Straps are sampled, the always-on counters are zero and LAST_OFF reads 0x0. -/
def execAlwaysOnDomainStart (smbAddr : BitVec 3) (s : State) : Ans :=
  .next (if s.start.mode = .dormant ∧ s.pwr.inputValid = false then
    { s with pwr := { s.pwr with lastOff := .none }, pmb := { addr := 0x48 + smbAddr.setWidth 7 }, cnt := s.cnt.filter (fun e => !alwaysOnCnt e.1) } else s)

/-! ### The reference (R34 to R36) -/

/-- Does the monitor declare the reference lost? -/
def State.refGone (s : State) (noEdge : Bool) (ppm : Nat) : Bool :=
  noEdge || (if s.clk.refSrc = 1 then decide (500 < ppm) else decide (100000 < ppm))

/-- REF_LOST: holdover; promises and the mode stay. -/
def execRefLost (noEdge : Bool) (ppm : Nat) (s : State) : Ans :=
  .next (if s.clk.rootLock && s.refGone noEdge ppm && (!s.clk.holdover || s.clk.relockPend) then
    (({ s with clk := { s.clk with refLost := true, holdover := true, relockPend := false, aclkInternal := true } }).rep .global 0 .refLost).irq 0 5 else s)

/-- REFOUT_P/N (R527): 100 MHz while ROOT_LOCK reads 1, else P low and N high. -/
inductive RefOut | running | held (p n : Bool)
deriving DecidableEq, Repr
def State.refOut (s : State) : RefOut := if s.clk.rootLock then .running else .held false true

/-- REF_RETURN: relock waits for Quiescent, Maintenance or the next start. In Bare and Rising, which R36 does not name, it comes at once
(DESIGN CHOICE, log entry 151). -/
def execRefReturn (s : State) : Ans :=
  .next (if !s.clk.holdover || s.clk.relockPend then s
    else
      let t := { s with clk := { s.clk with relockPend := true } }
      if s.open_ || s.start.mode = .draining then t.irq 0 5 else t.relock)

/-! ### Draining to Quiescent (R413, R510, R511, R599) -/

/-- Slots of a slice that hold a line in M or O without a near owner. -/
def State.dirtySlots (s : State) (n : Nat) (D : ImgDomain) : List Nat :=
  ((s.slice n).tags.map (·.1)).filter (fun k =>
    dirtySt (s.tagAt n k).state && (s.tagAt n k).near.isNone && !decide ((k / D.ways, k % D.ways) ∈ (s.slice n).quar))

/-- Each slice writes back its dirty lines, as far as its victim buffer has room. -/
def State.writeBacks (s : State) (n d : Nat) (D : ImgDomain) : State :=
  (s.dirtySlots n D).foldl (fun s k =>
    let l := D.lineOf (s.tagAt n k).origin.toNat (k / D.ways) (s.tagAt n k).tag
    if (s.mshrOf n l).isSome || (s.vbOf n l).isSome || decide (s.vbFree n = 0) then s
    else match tfree (s.slice n).vbuf 128 with | some i => s.takeVictim n d D k i 64 | none => s) s

/-- Is a node of a domain quiet: no admitted transaction, no dirty line? A stopped domain has nothing that could end. -/
def State.nodeQuiet (s : State) (n : Nat) (D : ImgDomain) : Bool :=
  (s.gate n).watch.isEmpty && (s.gate n).tails.isEmpty
    && (s.isFenced (.slice n) && !(s.slice n).drain.running
        || ((s.slice n).mshrs.all (fun e => e.2.isNone) && (s.slice n).wbuf.all (fun e => e.2.isNone) && (s.slice n).outs.isEmpty
            && (s.dirtySlots n D).isEmpty))
    && (s.isFenced (.home n) && !(s.home n).handover || ((s.home n).txs.isEmpty && (s.home n).lineq.all (fun q => q.2.isEmpty)))

def State.allQuiet (s : State) : Bool :=
  s.imgDoms.all (fun e => s.stopped e.1 || e.2.nodes.all (fun n => s.nodeQuiet n e.2))

/-- Does protection work run that Draining waits for? -/
def State.protBusy (s : State) : Bool :=
  s.prot.jobs.any (fun j => j.2.active) || !(List.range 64).all (fun k => !decide ((s.key k).st = .retiring)) || s.prot.invRun

/-- QUIESCENT: the write-backs that are due, then, when nothing remains, the flush and the new mode. -/
def execQuiescent (durable : Bool) (s : State) : Ans :=
  .next (if s.start.mode ≠ .draining then s
    else
      let s := s.imgDoms.foldl (fun s e => if s.stopped e.1 then s else e.2.nodes.foldl (fun s n => if s.isFenced (.slice n) then s else s.writeBacks n e.1 e.2) s) s
      if !s.allQuiet || s.protBusy then s
      else
        let s := (s.persistFlush durable).shipWrites (fun o => o = .memWrDur)
        if durable then
          (((({ s with start := { s.start with drainRun := false } }).setMode .quiescent 1).relock).standbyIn).cmdst 0
        else s)

end Sys2Proof.Machine
end

