-- ==== Sys2Proof/Machine/Pmbus.lean ====
section
/-! DEFINITION. The SMBus and PMBus interface of the always-on domain: readings, status bits, ALERT_N (R532 to R534). -/

namespace Sys2Proof.Machine

open Sys2Proof

/-! ### Readings (R533, R537, R538) -/

def maxOf : List Int → Int
  | [] => 0
  | x :: t => t.foldl max x

/-- Is a sensor at its warning, or at its trip? -/
def State.warnNow (s : State) : Bool :=
  s.pwr.die.any (atWarn (.die 0)) || s.pwr.tile.any (atWarn (.tile 0)) || s.pwr.pstage.any (atWarn (.pstage 0)) || s.pwr.inlet.any (atWarn .inlet)
def State.tripNow (s : State) : Bool :=
  s.pwr.die.any (atTrip (.die 0)) || s.pwr.tile.any (atTrip (.tile 0)) || s.pwr.pstage.any (atTrip (.pstage 0))

/-- Status bits of the conditions that are present now. -/
def State.conditions (s : State) : Byte × Byte :=
  let i : Byte := if s.pwr.dip then pmbBit 0 5 else 0
  let i := if 63000 < s.pwr.vin then pmbBit i 7 else i
  let i := if 4800 ≤ s.pwr.iin then pmbBit i 2 else i
  let t : Byte := if s.pwr.inlet.any (fun c => decide (c < 5)) then pmbBit 0 5 else 0
  let t := if s.pwr.die.any (atWarn (.die 0)) || s.pwr.tile.any (atWarn (.tile 0)) || s.pwr.pstage.any (atWarn (.pstage 0)) || s.pwr.inlet.any (fun c => decide (45 < c))
    then pmbBit t 6 else t
  (i, if s.tripNow then pmbBit t 7 else t)

/-- STATUS_VOUT and STATUS_IOUT of a rail from its last readings: overvoltage and undervoltage fault, overcurrent fault. -/
def voutBits (k mv : Nat) : Byte :=
  let v : Byte := if Config.voutHigh k < mv then pmbBit 0 7 else 0
  if mv < Config.voutLow k then pmbBit v 4 else v
def ioutBits (k ma : Nat) : Byte := if Config.ioutHigh k < ma then pmbBit 0 7 else 0

/-- Per page, the bits of the rails' conditions: page 0, the input, has none. -/
def railBits (f : Nat → Nat → Byte) (l : List Nat) : List Byte := 0 :: ((l.take 4).zipIdx.map (fun e => f (e.2 + 1) e.1))
def State.railConds (s : State) : List Byte × List Byte := (railBits voutBits s.pmb.vout, railBits ioutBits s.pmb.iout)

/-- Latched status bytes of the pages, with the bits present now. -/
def orPages (l c : List Byte) : List Byte := (List.range 5).map (fun k => l.getD k 0 ||| c.getD k 0)

/-- Does any condition stand now? -/
def State.anyCond (s : State) : Bool :=
  decide (s.conditions ≠ (0, 0)) || s.railConds.1.any (fun b => decide (b ≠ 0)) || s.railConds.2.any (fun b => decide (b ≠ 0))

/-- Conditions present latch their bits, and ALERT_N goes low with any of them. -/
def State.latchStatus (s : State) : State :=
  { s with pmb := { s.pmb with
    stInput := s.pmb.stInput ||| s.conditions.1, stTemp := s.pmb.stTemp ||| s.conditions.2
    stVout := orPages s.pmb.stVout s.railConds.1, stIout := orPages s.pmb.stIout s.railConds.2, alert := s.pmb.alert || s.anyCond } }

/-- SENSOR_REFRESH: every 1 ms all readings are taken together. -/
def execSensorRefresh (x : Readings) (s : State) : Ans :=
  .next (
    let s := { s with
      pwr := { s.pwr with vin := x.vin, iin := x.iin, bank := x.bank, die := x.die, tile := x.tile, pstage := x.pstage, inlet := some x.inlet, prsnt := x.prsnt }
      pmb := { s.pmb with vout := x.vout, iout := x.iout, pout := x.pout, pin := x.pin } }
    let w := s.warnNow
    let s := { s with pwr := { s.pwr with warn := w, warnSeen := s.pwr.warnSeen || w } }
    let s := if 4800 ≤ x.iin then s.bump (cGlb 95) else s
    s.latchStatus)

/-! ### Transfers -/

/-- A transfer with a wrong PEC is not executed and sets the invalid-data bit (R532). -/
def State.transfer (s : State) (pecOk : Bool) (f : State → State) : State := if pecOk then f s else s.pmbCml 6

/-- The interface answers with bytes. -/
def State.answerBytes (s : State) (pecOk : Bool) (bs : List Byte) : State := s.transfer pecOk (fun s => s.emit (.pmbus bs))
def State.answerWord (s : State) (pecOk : Bool) (v : BitVec 16) : State := s.answerBytes pecOk (bytesLe 2 v.toNat)
/-- A block: its length, then its bytes. -/
def State.answerBlock (s : State) (pecOk : Bool) (bs : List Nat) : State := s.answerBytes pecOk ((bs.length :: bs).map (BitVec.ofNat 8 ·))

def orAll (l : List Byte) : Byte := l.foldl (· ||| ·) 0

/-- STATUS_WORD: a bit of the high byte for VOUT, IOUT and INPUT, and the low byte of STATUS_BYTE. -/
def State.stByte (s : State) : Byte :=
  let v := orAll s.pmb.stVout
  let i := orAll s.pmb.stIout
  let b : Byte := if v.getLsbD 7 then pmbBit 0 5 else 0
  let b := if i.getLsbD 7 then pmbBit b 4 else b
  let b := if s.pmb.stInput.getLsbD 4 then pmbBit b 3 else b
  let b := if s.pmb.stTemp ≠ 0 then pmbBit b 2 else b
  let b := if s.pmb.stCml ≠ 0 then pmbBit b 1 else b
  if b = 0 ∧ (v ≠ 0 ∨ i ≠ 0 ∨ s.pmb.stInput ≠ 0) then pmbBit b 0 else b
def State.stWord (s : State) : BitVec 16 :=
  let h : Byte := if orAll s.pmb.stVout ≠ 0 then pmbBit 0 7 else 0
  let h := if orAll s.pmb.stIout ≠ 0 then pmbBit h 6 else h
  let h := if s.pmb.stInput ≠ 0 then pmbBit h 5 else h
  h ++ s.stByte

/-- A signed reading as the argument of the encoding. -/
def tempArg (c : Int) : Nat := (BitVec.ofInt 32 c).toNat

/-! ### Commands -/

/-- PAGE: values 0x05 to 0xFF are refused with the invalid-data bit. -/
def execPage (v : Byte) (pecOk : Bool) (s : State) : Ans :=
  .next (s.transfer pecOk (fun s => if v.toNat ≤ 4 then { s with pmb := { s.pmb with page := v } } else s.pmbCml 6))

/-- CLEAR_FAULTS: a condition still present sets its bit again. -/
def execClearFaults (pecOk : Bool) (s : State) : Ans :=
  .next (s.transfer pecOk (fun s =>
    ({ s with pmb := { s.pmb with stVout := [0, 0, 0, 0, 0], stIout := [0, 0, 0, 0, 0], stInput := 0, stTemp := 0, stCml := 0, alert := false } }).latchStatus))

/-- CAPABILITY: PEC, 1 MHz, SMBALERT. -/
def execCapability (pecOk : Bool) (s : State) : Ans := .next (s.answerBytes pecOk [0xD0])
/-- VOUT_MODE: linear mode with the exponent. -/
def execVoutMode (pecOk : Bool) (s : State) : Ans := .next (s.answerBytes pecOk [Config.voutExp.setWidth 8])
/-- STATUS_BYTE. -/
def execStatusByte (pecOk : Bool) (s : State) : Ans := .next (s.answerBytes pecOk [s.stByte])
/-- STATUS_WORD. -/
def execStatusWord (pecOk : Bool) (s : State) : Ans := .next (s.answerWord pecOk s.stWord)
/-- STATUS_VOUT of the page. -/
def execStatusVout (pecOk : Bool) (s : State) : Ans := .next (s.answerBytes pecOk [s.pmb.stVout.getD s.pmb.page.toNat 0])
/-- STATUS_IOUT of the page. -/
def execStatusIout (pecOk : Bool) (s : State) : Ans := .next (s.answerBytes pecOk [s.pmb.stIout.getD s.pmb.page.toNat 0])
/-- STATUS_INPUT. -/
def execStatusInput (pecOk : Bool) (s : State) : Ans := .next (s.answerBytes pecOk [s.pmb.stInput])
/-- STATUS_TEMPERATURE. -/
def execStatusTemperature (pecOk : Bool) (s : State) : Ans := .next (s.answerBytes pecOk [s.pmb.stTemp])
/-- STATUS_CML. -/
def execStatusCml (pecOk : Bool) (s : State) : Ans := .next (s.answerBytes pecOk [s.pmb.stCml])
/-- READ_VIN. -/
def execReadVin (pecOk : Bool) (s : State) : Ans := .next (s.answerWord pecOk (Config.linear11 s.pwr.vin))
/-- READ_IIN. -/
def execReadIin (pecOk : Bool) (s : State) : Ans := .next (s.answerWord pecOk (Config.linear11 (10 * s.pwr.iin)))
/-- READ_VOUT: page 0 returns 0. -/
def execReadVout (pecOk : Bool) (s : State) : Ans :=
  .next (s.answerWord pecOk (if s.pmb.page = 0 then 0 else Config.linear16 (s.pmb.vout.getD (s.pmb.page.toNat - 1) 0)))
/-- READ_IOUT: page 0 returns 0. -/
def execReadIout (pecOk : Bool) (s : State) : Ans :=
  .next (s.answerWord pecOk (if s.pmb.page = 0 then 0 else Config.linear11 (10 * s.pmb.iout.getD (s.pmb.page.toNat - 1) 0)))
/-- READ_TEMPERATURE_1: the die maximum. -/
def execReadTemperature1 (pecOk : Bool) (s : State) : Ans := .next (s.answerWord pecOk (Config.linear11 (tempArg (maxOf s.pwr.die))))
/-- READ_TEMPERATURE_2: the tile maximum. -/
def execReadTemperature2 (pecOk : Bool) (s : State) : Ans := .next (s.answerWord pecOk (Config.linear11 (tempArg (maxOf s.pwr.tile))))
/-- READ_TEMPERATURE_3: the coolant inlet. -/
def execReadTemperature3 (pecOk : Bool) (s : State) : Ans := .next (s.answerWord pecOk (Config.linear11 (tempArg (s.pwr.inlet.getD 0))))
/-- READ_POUT: the total of the rails. -/
def execReadPout (pecOk : Bool) (s : State) : Ans := .next (s.answerWord pecOk (Config.linear11 s.pmb.pout))
/-- READ_PIN. -/
def execReadPin (pecOk : Bool) (s : State) : Ans := .next (s.answerWord pecOk (Config.linear11 s.pmb.pin))
/-- PMBUS_REVISION. -/
def execPmbusRevision (pecOk : Bool) (s : State) : Ans := .next (s.answerBytes pecOk [0x33])
/-- MFR_ID: VALASTING. -/
def execMfrId (pecOk : Bool) (s : State) : Ans := .next (s.answerBlock pecOk [0x56, 0x41, 0x4C, 0x41, 0x53, 0x54, 0x49, 0x4E, 0x47])
/-- MFR_MODEL: VL9256. -/
def execMfrModel (pecOk : Bool) (s : State) : Ans := .next (s.answerBlock pecOk [0x56, 0x4C, 0x39, 0x32, 0x35, 0x36])
/-- MFR_REVISION: the hardware revision. -/
def execMfrRevision (pecOk : Bool) (s : State) : Ans := .next (s.answerBlock pecOk [Config.hwRev.toNat])

/-- ALERT_RESPONSE: answered while ALERT_N is low, which is released once no condition remains. -/
def execAlertResponse (s : State) : Ans :=
  .next (if s.pmb.alert then
    let s := s.emit (.pmbus [(s.pmb.addr.setWidth 8) <<< 1])
    if s.anyCond then s else { s with pmb := { s.pmb with alert := false } }
  else s.emit .pmbusNack)

/-- The command codes of R533. -/
def pmbCodes : List Nat :=
  [0x00, 0x03, 0x19, 0x20, 0x78, 0x79, 0x7A, 0x7B, 0x7C, 0x7D, 0x7E, 0x88, 0x89, 0x8B, 0x8C, 0x8D, 0x8E, 0x8F, 0x96, 0x97, 0x98, 0x99, 0x9A, 0x9B]

/-- PMBUS_INVALID_COMMAND: another code, or a write to a command other than PAGE or CLEAR_FAULTS. -/
def execPmbusInvalidCommand (code : Byte) (write : Bool) (s : State) : Ans :=
  .next (if code.toNat ∉ pmbCodes ∨ (write = true ∧ code ≠ 0x00 ∧ code ≠ 0x03) then (s.emit .pmbusNack).pmbCml 7 else s)

end Sys2Proof.Machine
end

