-- ==== Sys2Proof/Machine/Protect.lean ====
section
/-! DEFINITION. Commands of the faults and protection blocks: records, unfencing, ownership, commits, keys, range invalidations and Crozier jobs
(R384 to R400, R422 to R428, R445, R462, R599). -/

namespace Sys2Proof.Machine

open Sys2Proof

/-! ### Faults block (R445, R462) -/

/-- POP. -/
def State.doPop (s : State) : State := { s with flt := { s.flt with fifo := s.flt.fifo.drop 1 } }
def execPop (s : State) : Ans := .next s.doPop

/-- STATUS of FLT_CLR. -/
def State.clrEnd (s : State) (st : Nat) : State := { s with flt := { s.flt with clrRun := false, clrStat := st } }

/-- GO of FLT_CLR: a port polls DETECT again, a Frond range serves again, and the mode follows the maps. -/
def State.doUnfence (s : State) (frond : Bool) (i : Nat) : State :=
  let s := { s with flt := { s.flt with clrKind := if frond then 1 else 0, clrIdx := i } }
  if !s.open_ then s.clrEnd 3
  else if frond then
    (if i ∈ s.flt.frond then
      ({ s with flt := { s.flt with frond := s.flt.frond.filter (fun x => decide (x ≠ i)) } }).unfenced.clrEnd 0
     else s.clrEnd 2)
  else if i ∈ s.flt.fport then
    let s := { s with flt := { s.flt with fport := s.flt.fport.filter (fun x => decide (x ≠ i)) } }
    let s := if (s.port i).state = .off && s.mayTrain i then s.toDetect i else s
    s.unfenced.clrEnd 0
  else s.clrEnd 2

def execUnfence (frond : Bool) (index : Nat) (s : State) : Ans := .next (s.doUnfence frond index)

/-! ### Ownership and commits (R390 to R394) -/

/-- CLAIM has no effect while another holds ownership; RELEASE gives up PF0's. -/
def State.doClaim (s : State) : State := if s.prot.owner = .none then { s with prot := { s.prot with owner := .pf0 } } else s
def State.doRelease (s : State) : State := if s.prot.owner = .pf0 then { s with prot := { s.prot with owner := .none } } else s
def execClaim (s : State) : Ans := .next s.doClaim
def execRelease (s : State) : Ans := .next s.doRelease

/-- Domain of a range entry. -/
def State.rngDomain (s : State) (e : RngEnt) : Option Nat := (s.iten e.ten.toNat).map (·.domain)

/-- R391 step 5: lines that a valid active and a valid shadow entry both cover keep their KEYID, HOME and RECORD. -/
def State.rngSame (s : State) : Bool :=
  s.prot.rngShd.all (fun e => !e.2.valid || s.prot.rngAct.all (fun a =>
    !a.2.valid || decide (s.rngDomain a.2 ≠ s.rngDomain e.2) || !rngMeet a.2 e.2
      || (decide (a.2.keyid = e.2.keyid) && decide (a.2.home = e.2.home) && decide (a.2.record = e.2.record))))

/-- Is a key retire under way (by KEY_CMD or by a fence)? -/
def State.retiring (s : State) : List Nat := (List.range 64).filter (fun k => decide ((s.key k).st = .retiring))

/-- The entries that running work names (R391 step 7, RNG_ATTR.JOB). -/
def State.rngJob (s : State) (r : Nat) (e : RngEnt) : Bool :=
  s.prot.jobs.any (fun j => j.2.active && decide (j.2.rng = r))
    || (e.valid && decide (e.keyid.toNat ∈ s.retiring))
    || (e.valid && (match s.prot.invJob with
        | some (d, lo, hi) => decide (s.rngDomain e = some d) && decide (e.base.toNat ≤ hi) && decide (lo ≤ e.lim.toNat)
        | none => false))

/-- The first check of R391 that fails, as CSTAT; 0 when none does. -/
def State.commitCheck (s : State) : Nat :=
  let ts : List (Nat × ImgTen) := match s.imgc.img with | some i => i.tens | none => []
  let ds := s.imgDoms
  if !s.prot.drained then 2
  else if s.prot.owner ≠ .pf0 then 3
  else if !rngOrder s.prot.rngShd then 9
  else if !rngOverlap ds ts s.ihomes s.prot.rngShd then 4
  else if !(s.prot.rngShd.all (fun e => rngInside ds ts s.ihomes e.2) && s.prot.permShd.all (fun e => permInside ds ts e.1 e.2)) then 5
  else if !s.rngSame then 6
  else if !(s.prot.rngShd.all (fun e => !e.2.valid || decide (e.2.keyid = 0) || decide ((s.key e.2.keyid.toNat).st = .active))) then 7
  else if (List.range 256).any (fun r =>
      let a := tget {} s.prot.rngAct r
      s.rngJob r a && decide (a ≠ tget {} s.prot.rngShd r)) then 8
  else 0

/-- Does a Gate still watch a request admitted before the latest commit edge? -/
def State.oldWatch (s : State) : Bool :=
  s.gates.any (fun g => g.2.watch.any (fun w => decide (w.epoch ≠ s.prot.epoch)))

/-- EPOCH_DRAINED on a commit edge. -/
def State.drainedNow (s : State) : State := { s with prot := { s.prot with drained := !s.oldWatch } }

/-- Every run-ahead entry goes when the protection epoch advances (R156). -/
def State.raAll (s : State) : State := (List.range 64).foldl (fun s n => s.raDrop n (fun _ => true)) s

/-- COMMIT: the checks, and on success the commit edge. -/
def State.doCommit (s : State) : State :=
  let k := s.commitCheck
  let s := { s with prot := { s.prot with cstat := k } }
  let s := if k = 0 then s.commitEdge.raAll.recheckAll.drainedNow.bump (cGlb 25) else s.bump (cGlb 26)
  s.irq 0 4

def execCommit (s : State) : Ans := .next s.doCommit

/-- EPOCH_DRAINED. -/
def execEpochDrained (s : State) : Ans :=
  .next (if s.prot.drained || s.oldWatch then s else ({ s with prot := { s.prot with drained := true } }).irq 0 4)

/-! ### Key commands (R396 to R399, R599) -/

/-- A range invalidation, key retire or RESEED sweep runs (R428). -/
def State.sweepBusy (s : State) : Bool :=
  s.prot.invRun || !s.retiring.isEmpty || s.prot.jobs.any (fun j => j.2.active && j.2.sweeping)
    || s.slices.any (fun x => x.2.sweep.job.isSome || x.2.sweep.waiting.isSome)

/-- A key command ends. -/
def State.keyEnd (s : State) (st : Nat) : State := ({ s with prot := { s.prot with keyRun := false, keyStat := st } }).irq 0 4

/-- STATUS of a key command that ends where it starts; a retire that runs keeps GO. -/
def State.keyStop (s : State) (st : Nat) : State := ({ s with prot := { s.prot with keyStat := st } }).irq 0 4

/-- KEY_CMD with OP KEYGEN. -/
def State.doKeygen (s : State) (k : Nat) : State :=
  let s := { s with prot := { s.prot with keyId := k, keyOp := 0 } }
  if !s.open_ then s.keyStop 6
  else if k % 64 = 0 then s.keyStop 2
  else if (s.key k).st ≠ .free then s.keyStop 3
  else (s.keyGen k).keyStop 0

def execKeygen (k : Nat) (s : State) : Ans := .next (s.doKeygen k)

/-- KEY_CMD with OP RETIRE: the acceptance edge. -/
def State.doRetire (s : State) (k : Nat) : State :=
  let s := { s with prot := { s.prot with keyId := k, keyOp := 1 } }
  if !s.open_ then s.keyStop 6
  else if s.sweepBusy then s.keyStop 7
  else if k % 64 = 0 then s.keyStop 2
  else if (s.key k).st ≠ .active then s.keyStop 4
  else if s.prot.jobs.any (fun j => j.2.active && (decide (j.2.old.toNat = k) || decide (j.2.new.toNat = k))) then s.keyStop 5
  else
    let s := { s with prot := { s.prot with keyRun := true, keyStat := 1, keyJob := k } }
    (s.modKey k (fun e => { e with st := .retiring })).recheckAll.keyRetire k

def execRetire (k : Nat) (s : State) : Ans := .next (s.doRetire k)

/-- Does a home still hold work under a key: an entry or a recall of a line whose range entry names it, or a transaction that uses it? -/
def State.keyAtHomes (s : State) (k : Nat) : Bool :=
  s.imgDoms.any (fun e => e.2.nodes.any (fun n =>
    let names (l : LineAddr) : Bool := match s.rngHome e.1 l with | some r => decide (r.2.keyid.toNat = k) | none => false
    let x := s.home n
    x.txs.any (fun t => (t.started && decide (t.key.toNat = k)) || (decide (t.kind = .recall) && names t.line))
      || x.lineq.any (fun q => q.2.any (fun m => decide (m.1.op = .snpInv) && names q.1))
      || (!s.isFenced (.home n) && x.dir.any (fun y => match y.2 with
          | some z => names (e.2.dline z.origin.toNat (y.1 / 16) z.tag) | none => false))))

/-- RETIRE_END: both keys are zeros, the entry is FREE, and a fence of the key ends. -/
def execRetireEnd (k : Nat) (s : State) : Ans :=
  .next (
    let waits : Bool := s.slices.any (fun x => decide (x.2.sweep.waiting = some (.key k)))
    if (s.key k).st ≠ .retiring || s.sweeping (.key k) || waits || s.keyAtHomes k then s
    else
      let s := (s.modKey k (fun e => { e with st := .free, kd := 0, km := 0, fenced := false })).bump (cGlb 28)
      let s := if k ∈ s.flt.fkey then ({ s with flt := { s.flt with fkey := s.flt.fkey.filter (fun x => decide (x ≠ k)) } }).unfenced else s
      if s.prot.keyRun && decide (s.prot.keyJob = k) then s.keyEnd 0 else s)

/-! ### Range invalidations (R428) -/

/-- A range invalidation that is not started. -/
def State.invStop (s : State) (st : Nat) : State := ({ s with prot := { s.prot with invStat := st } }).irq 0 4

/-- Start a sweep in every unfenced slice of a domain. -/
def State.sweepAll (s : State) (D : ImgDomain) (j : SweepJob) : State :=
  D.nodes.foldl (fun s n => if s.isFenced (.slice n) then s else s.modSlice n (fun y => { y with sweep := { y.sweep with job := some j } })) s

/-- INV_CTL GO. -/
def State.doInv (s : State) (d : Nat) : State :=
  let s := { s with prot := { s.prot with invDom := d } }
  let lo := s.prot.invBase.toNat % 2 ^ 40
  let hi := s.prot.invLim.toNat % 2 ^ 40
  if !s.open_ then s.invStop 4
  else if s.sweepBusy then s.invStop 5
  else if hi < lo then s.invStop 2
  else match s.idom d with
    | none => s.invStop 3
    | some D =>
      let s := { s with prot := { s.prot with invRun := true, invStat := 1, invJob := some (d, lo, hi) } }
      (s.sweepAll D (.range d (BitVec.ofNat 40 lo) (BitVec.ofNat 40 hi) false))

def execRangeInvalidation (d : Nat) (s : State) : Ans := .next (s.doInv d)

/-! ### Crozier jobs (R423 to R427) -/

/-- The domain and protected home range of an entry that a job may name. -/
def State.crozRange (s : State) (e : RngEnt) : Option (Nat × ImgDomain) :=
  match s.rngDomain e with
  | none => none
  | some d => match s.idom d with
    | none => none
    | some D =>
      if e.valid && decide (e.home = D.device) && s.ihomes.any (fun h => h.prot && decide (h.domain = d) && decide (h.base ≤ 4096 * e.base.toNat)
          && decide (4096 * (e.lim.toNat + 1) ≤ h.base + h.size * 1073741824)) then some (d, D) else none

/-- STATUS of CROZ_CMD. -/
def State.crozEnd (s : State) (st : Nat) : State := { s with prot := { s.prot with crozStat := st } }

/-- The checks of CROZ_CMD; the domain when none fails. -/
def State.crozCheck (s : State) (j r new : Nat) (reseed : Bool) : Except Nat (Nat × ImgDomain) :=
  let e := tget {} s.prot.rngAct r
  if !s.open_ then .error 5
  else if (s.job j).active || (reseed && s.sweepBusy) then .error 1
  else match s.crozRange e with
    | none => .error 2
    | some x =>
      if new = 0 ∨ (s.key new).st ≠ .active ∨ e.keyid.toNat = new then .error 3
      else if s.rngJob r e then .error 4
      else .ok x

/-- The record of a job that starts. -/
def State.crozPut (s : State) (j r new : Nat) (reseed : Bool) (e : RngEnt) : State :=
  s.modJob j (fun x => { active := true, done := x.done, reseed := reseed, rng := r, old := e.keyid, new := BitVec.ofNat 6 new, cl := rngLo e, sweeping := reseed })

/-- What PF0 wrote with GO. -/
def State.crozFields (s : State) (j r new op : Nat) : State :=
  { s with prot := { s.prot with crozJobF := j, crozRng := r, crozNew := BitVec.ofNat 6 new, crozOp := op } }

/-- REKEY. -/
def State.doRekey (s : State) (j r new : Nat) : State :=
  let s := s.crozFields j r new 0
  match s.crozCheck j r new false with
  | .error k => s.crozEnd k
  | .ok _ => (s.crozPut j r new false (tget {} s.prot.rngAct r)).crozEnd 0

def execRekey (job rng newkey : Nat) (s : State) : Ans := .next (s.doRekey job rng newkey)

/-- The homes of a RESEED: run-ahead entries of the range go, and every recorded holder is recalled without its data (R427 step 3). -/
def State.reseedHomes (s : State) (D : ImgDomain) (e : RngEnt) : State :=
  let inside (l : LineAddr) : Bool := decide (rngLo e ≤ l.toNat) && decide (l.toNat ≤ rngHi e)
  D.nodes.foldl (fun s n =>
    if s.isFenced (.home n) then s
    else
      let s := s.raDrop n (fun r => inside r.line)
      (s.home n).dir.foldl (fun s y => match y.2 with
        | some z =>
          let l := D.dline z.origin.toNat (y.1 / 16) z.tag
          if inside l then s.enqHome n (recallMsg D n l none true) (4 * n) .recall else s
        | none => s) s) s

/-- RESEED: the entry closes, the sweeps start, homes recall; the blocks follow once every slice has finished. -/
def State.doReseed (s : State) (j r new : Nat) : State :=
  let s := s.crozFields j r new 1
  match s.crozCheck j r new true with
  | .error k => s.crozEnd k
  | .ok (d, D) =>
    let e := tget {} s.prot.rngAct r
    let s := s.crozPut j r new true e
    let s := { s with prot := { s.prot with closed := insNat r s.prot.closed } }
    ((s.recheckAll.sweepAll D (.range d e.base e.lim true)).reseedHomes D e).crozEnd 0

def execReseed (job rng newkey : Nat) (s : State) : Ans := .next (s.doReseed job rng newkey)

end Sys2Proof.Machine
end

