-- ==== Sys2Proof/Machine/TestPort.lean ====
section
/-! DEFINITION. The test port (R429, R535). -/

namespace Sys2Proof.Machine

open Sys2Proof

/-- Load an instruction at Update-IR. -/
def State.tapLoad (s : State) (i : TapInstr) : State := { s with tap := { s.tap with instr := i, bypassBit := false, zeros := false } }

/-- Are EXTEST and the private instructions honoured? -/
def State.tapTest (s : State) : Bool := decide (s.start.mode = .maintenance) && s.pwr.testEn

def bitsLsb {w : Nat} (v : BitVec w) : List Bool := (List.range w).map (fun i => v.getLsbD i)

/-- Bits captured from cells whose order and values the manual does not give. -/
def State.captured (s : State) (n : Nat) : List Bool := (List.range n).map (fun i => Config.freeBit s.free i)

/-- IDCODE: the revision, part 0x9256, manufacturer 0x5A7 and the 1 of IEEE 1149.1. -/
def idcodeWord : BitVec 32 := Config.hwRev ++ 0x9256#16 ++ 0x5A7#11 ++ 1#1

def execIdcode (s : State) : Ans :=
  .next (if s.start.mode = .dormant then s else (s.tapLoad .idcode).emit (.tdo (bitsLsb idcodeWord)))

/-- One bit through the bypass register, which captures 0 when the instruction is loaded. -/
def State.bypassShift (s : State) (tdi : Bool) : State :=
  let s := if s.tap.instr = .bypass ∧ s.tap.zeros = false then s else s.tapLoad .bypass
  ({ s with tap := { s.tap with bypassBit := tdi } }).emit (.tdo [s.tap.bypassBit])

def execBypass (tdi : Bool) (s : State) : Ans := .next (if s.start.mode = .dormant then s else s.bypassShift tdi)

/-- SAMPLE/PRELOAD: the cells are captured and preloaded. -/
def execSamplePreload (cells : List Bool) (s : State) : Ans :=
  .next (if s.start.mode = .dormant then s
    else
      let out := s.captured cells.length
      let s := s.tapLoad .sample
      (({ s with tap := { s.tap with cells := cells } }).drawn).emit (.tdo out))

/-- EXTEST: the cells drive the pins. Not honoured, it acts as BYPASS. -/
def execExtest (cells : List Bool) (s : State) : Ans :=
  .next (if s.start.mode = .dormant then s
    else if s.tapTest then
      let out := s.captured cells.length
      let s := s.tapLoad .extest
      (({ s with tap := { s.tap with cells := cells } }).drawn).emit (.tdo out)
    else s.tapLoad .bypass)

/-- A private instruction: a line whose tag word holds a KEYID other than 0 reads as zeros, and a write to it is dropped.
The key table, the DRBG, the Stipe, the node caches and the transaction records are never reached. -/
def State.arrayOp (s : State) (x : ArrayOp) : State :=
  match x with
  | .readLine n slot =>
    let t := tget {} (s.slice n).tags slot
    let v : LineData := if t.keyid = 0 then tget {} (s.slice n).tile slot else {}
    s.emit (.tdo (bitsLsb v.bits ++ bitsLsb v.marks))
  | .writeLine n slot v =>
    let t := tget {} (s.slice n).tags slot
    if t.keyid = 0 ∧ n < 64 then s.modSlice n (fun y => { y with tile := tset {} y.tile slot v }) else s
  | .forbidden => s

def execArrayInstruction (x : ArrayOp) (s : State) : Ans :=
  .next (if s.start.mode = .dormant then s
    else if s.tapTest then (s.tapLoad .array).arrayOp x
    else s.tapLoad .bypass)

end Sys2Proof.Machine
end

