-- ==== Sys2Proof/Machine/RegMap.lean ====
section
/-! DEFINITION. The register space: blocks, views, documented pairs, who reaches what, and the words that the global and image blocks read
(R27, R546 to R552, R577, R594). -/

namespace Sys2Proof.Machine

open Sys2Proof

/-! ### Blocks (R594) -/

/-- A register block: one of each kind that has instances (R594). -/
inductive Blk | glb | img | gate (n : Nat) | slc (n : Nat) | hom (n : Nat) | rtr (n : Nat) | port (p : Nat) | prot | flt | cap | mbx | slow (k : Nat)
deriving DecidableEq, Repr

/-- The block base in the normal view. -/
def Blk.base : Blk → Nat
  | .glb => 0 | .img => 0x100000 | .gate n => 0x200000 + 0x8000 * n | .slc n => slcBase n | .hom n => homBase n | .rtr n => rtrBase n
  | .port p => 0xD00000 + 0x1000 * p | .prot => 0xE00000 | .flt => 0xF00000 | .cap => 0x1000000 | .mbx => 0x1100000 | .slow k => 0x1200000 + 0x1000 * k

/-- The block that a normal-view offset lies in (R594); none in the reserved region (R547). -/
def blkAt (a : Nat) : Option Blk :=
  if a < 0x100000 then some .glb
  else if a < 0x200000 then some .img
  else if a < 0x400000 then some (.gate ((a - 0x200000) / 0x8000))
  else if a < 0x800000 then some (.slc ((a - 0x400000) / 0x10000))
  else if a < 0xC00000 then some (.hom ((a - 0x800000) / 0x10000))
  else if a < 0xD00000 then some (.rtr ((a - 0xC00000) / 0x4000))
  else if a < 0xE00000 then some (.port ((a - 0xD00000) / 0x1000))
  else if a < 0xF00000 then some .prot
  else if a < 0x1000000 then some .flt
  else if a < 0x1100000 then some .cap
  else if a < 0x1200000 then some .mbx
  else if a < 0x1250000 then some (.slow ((a - 0x1200000) / 0x1000))
  else none

/-- The view and normal-view offset of a BAR0 offset; none outside every view (R547). -/
def viewAt (a : Nat) : Option (View × Nat) :=
  if a < 0x1400000 then some (.normal, a)
  else if a < 0x2000000 then some (.set, a - 0x1000000)
  else if a < 0x2400000 then none
  else if a < 0x3000000 then some (.clr, a - 0x2000000)
  else if a < 0x3400000 then none
  else if a < 0x4000000 then some (.tgl, a - 0x3000000)
  else none

/-- What a BAR0 offset names: view, block, offset in the block. -/
def locate (a : Nat) : Option (View × Blk × Nat) :=
  match viewAt a with
  | none => none
  | some (v, n) => match blkAt n with
    | none => none
    | some b => some (v, b, n - b.base)

/-! ### Counters in their block (R577) -/

/-- What a counter belongs to. -/
inductive CntOf | glb | node (n : Nat) | port (p : Nat) | page (t : Nat)
deriving DecidableEq, Repr

/-- The counter at offset `o` of the counters block: its owner, and whether a table names its index. -/
def cntAt (o : Nat) : Option (CntOf × Bool) :=
  let k := o / 8
  if k < 0x200 then none
  else if k < 0x300 then some (.glb, decide (k - 0x200 < 106))
  else if k < 0x400 then none
  else if k < 0x1400 then some (.node ((k - 0x400) / 0x40), decide ((k - 0x400) % 0x40 < 38))
  else if k < 0x2400 then some (.node ((k - 0x1400) / 0x40), decide ((k - 0x1400) % 0x40 < 36) && !decide ((k - 0x1400) % 0x40 = 21))
  else if k < 0x2C00 then some (.node ((k - 0x2400) / 0x20), true)
  else if k < 0x3400 then some (.node ((k - 0x2C00) / 0x20), true)
  else if k < 0x3800 then some (.node ((k - 0x3400) / 0x10), decide ((k - 0x3400) % 0x10 < 12))
  else if k < 0x4000 then none
  else if k < 0x8000 then some (.port ((k - 0x4000) / 0x40), decide ((k - 0x4000) % 0x40 < 39))
  else if k < 0xA000 then
    (let i := (k - 0x8000) % 0x200
     some (.page ((k - 0x8000) / 0x200), decide (0x20 ≤ i) && decide (i < 0x40) && !decide (i = 0x2F)))
  else none

/-- Unassigned nodes, and port numbers that are no lowest lane, read zero and take no write (R574). -/
def State.cntDead (s : State) (c : CntOf) : Bool :=
  match c with
  | .glb | .page _ => false
  | .node n => (s.nodeDom n).isNone
  | .port p => (s.portDom p).isNone || !s.isPort p

/-! ### Units that are not there (R27, R97, R283, R382) -/

/-- Registers that read their reset values and drop writes. -/
def State.blkDead (s : State) (b : Blk) (o : Nat) : Bool :=
  match b with
  | .slc n | .hom n | .rtr n => (s.nodeDom n).isNone
  | .gate n => (s.nodeDom n).isNone || (!decide (o = 0) && !s.gateServes n)
  | .port p => (s.portDom p).isNone || !s.isPort p
  | .slow k => decide (16 ≤ k) && (s.nodeDom (k - 16)).isNone
  | _ => false

/-- The command register of a fenced unit drops writes. -/
def State.blkFenced (s : State) (b : Blk) (o : Nat) : Bool :=
  match b with
  | .slc n => decide (o = 4) && s.isFenced (.slice n)
  | .hom n => (decide (o = 4) || decide (o = 0x28)) && s.isFenced (.home n)
  | .rtr n => decide (o = 4) && s.isFenced (.router n)
  | .port p => decide (o = 4) && s.isFenced (.port p)
  | _ => false

/-! ### Documented pairs (R551) -/

/-- Is there a documented pair whose lower half stands at `o`? -/
def isPair (b : Blk) (o : Nat) : Bool :=
  decide (o % 8 = 0) && (match b with
    | .glb => (decide (0x100 ≤ o) && decide (o < 0x200) && decide (o % 16 = 0)) || decide (o = 0x2200)
        || (decide (0x3000 ≤ o) && decide (o < 0x4000)) || (decide (0x10000 ≤ o) && decide (o < 0x20000))
    | .img => decide (o = 0x10) || (decide (0x100 ≤ o) && decide (o < 0x180))
    | .gate _ => decide (0x10 ≤ o) && decide (o < 0x28)
    | .slc _ => decide (o = 0x20)
    | .prot => decide (o = 0x10) || decide (o = 0x18) || decide (o = 0x50)
        || (decide (0x1000 ≤ o) && decide (o < 0x5000) && decide (o % 0x20 < 0x10))
    | .flt => (decide (0x20 ≤ o) && decide (o < 0x40)) || decide (o = 0x68)
    | .cap => decide (o = 0x18) || decide (o = 0x48) || (cntAt o).any (fun c => c.2)
    | .mbx => decide (o = 0x10) || decide (o = 0x20)
    | _ => false)

/-! ### Reach (R549, R550, R591) -/

/-- The domain of a requester that is limited to one. -/
def State.reqDom (s : State) (who : Requester) : Option Nat :=
  match who with
  | .vf k => if k = 0 then none else (s.iten (k - 1)).map (·.domain)
  | .window d => some d
  | _ => none

/-- The domain by which a register of the global block is indexed. -/
def glbDom (o : Nat) : Option Nat :=
  if o < 0x100 then none
  else if o < 0x200 then some ((o - 0x100) / 16)
  else if o < 0x240 then some ((o - 0x200) / 4)
  else if 0x1000 ≤ o ∧ o < 0x2000 then some ((o - 0x1000) / 0x100)
  else if 0x2000 ≤ o ∧ o < 0x2040 then some ((o - 0x2000) / 4)
  else if 0x3000 ≤ o ∧ o < 0x4000 then some ((o - 0x3000) / 0x100)
  else if 0x10000 ≤ o ∧ o < 0x20000 then some ((o - 0x10000) / 0x1000)
  else none

/-- The lowest node of a tile, and the node of a tile's channel (R21). -/
def tileNode (t c : Nat) : Nat := (2 * (t % 4) + c % 2) + 8 * (2 * (t / 4) + c / 2)

/-- Registers that a requester limited to domain `d` reaches. -/
def State.reachDom (s : State) (who : Requester) (d : Nat) (b : Blk) (o : Nat) : Bool :=
  let mine (n : Nat) : Bool := match s.nodeDom n with | some x => decide (x.1 = d) | none => false
  match b with
  | .glb => !(decide (o / 4 = 5) || decide (o / 4 = 6) || decide (o / 4 = 0x1B) || (decide (0x2200 ≤ o) && decide (o < 0x2218)))
      && (match glbDom o with | some k => decide (k = d) | none => true)
  | .slc n => mine n && (decide (o < 0x40) || decide (0x74 ≤ o))
  | .slow k => if k < 16 then mine (tileNode k 0) else mine (k - 16)
  | .cap => decide (0x1000 ≤ o) && (match cntAt o, who with
      | some (.glb, _), _ => true
      | some (.node n, _), _ => mine n
      | some (.port p, _), _ => mine (portNode p)
      | some (.page t, _), .window _ => (match s.iten t with | some x => decide (x.domain = d) | none => false)
      | some (.page _, _), _ => false
      | none, _ => true)
  | _ => false

/-- R549. A VF writes nothing here. -/
def State.reach (s : State) (who : Requester) (b : Blk) (o : Nat) (wr : Bool) : Bool :=
  match who, s.reqDom who with
  | .pf0, _ => true
  | .medulla, _ => true
  | .vf _, some d => !wr && s.reachDom who d b o
  | .window _, some d => s.reachDom who d b o
  | _, none => false

/-- R550: what recovery Bare answers. -/
def recoveryReg (b : Blk) (o : Nat) : Bool :=
  match b with
  | .glb => decide (o / 4 = 0) || decide (o / 4 = 2) || decide (o / 4 = 3) || decide (o / 4 = 4)
  | .mbx => true
  | _ => false

/-! ### Register words -/

/-- A register from its fields, the lowest first. -/
def regw (fs : List (Nat × Nat)) : BitVec 32 := BitVec.ofNat 32 (packBits fs)
/-- Two's complement of `w` bits. -/
def twos (w : Nat) (v : Int) : Nat := (v % (2 ^ w : Nat)).toNat
/-- Half `hi` of a 64-bit number. -/
def half64 (v : Nat) (hi : Bool) : BitVec 32 := BitVec.ofNat 32 (if hi then v / 2 ^ 32 else v)

/-- Ports of an entry with their in-service bits and the count code: one, two, four. -/
def portCode (n : Nat) : Nat := if n ≤ 1 then 0 else if n = 2 then 1 else 2
def portBytes (ps : List Nat) : Nat := packBits (ps.map (fun p => (8, p)))
def State.svcBits (s : State) (ps : List Nat) : Nat := packBits (ps.map (fun p => (1, bit (s.inSvc p))))

/-! ### Global block -/

/-- GLB_KTIME_STAT(d). -/
def State.ktimeStat (s : State) (d : Nat) : BitVec 32 :=
  match s.idom d with
  | none => 0
  | some D =>
    let lone := !(s.iports.any (fun e => decide (e.2.role = .peer) && D.has (portNode e.1)))
    regw [(24, twos 24 (s.dom d).rateOfs), (5, 0), (1, 1), (1, bit lone), (1, bit (if lone then (s.dom d).running else (s.dom d).sync))]

/-- GLB_SPH_TEN(t). -/
def State.sphTen (s : State) (t : Nat) : BitVec 32 :=
  match s.iten t with
  | none => 0
  | some x => regw [(5, x.min), (3, 0), (5, x.max), (3, 0), (5, s.maxOf t), (3, 0), (4, x.domain), (3, 0), (1, 1)]

/-- GLB_NEAR(d, g). -/
def State.glbNear (s : State) (d g : Nat) (hi : Bool) : BitVec 32 :=
  let ps := s.groupPorts d g
  let known := s.nears.any (fun e => decide (e.domain = d) && decide (e.group = g))
  if !known then 0
  else if hi then regw [(2, portCode ps.length), (2, 0), (4, s.svcBits ps), (23, 0), (1, 1)] else BitVec.ofNat 32 (portBytes ps)

/-- GLB_ROUTE(d, e). -/
def State.glbRoute (s : State) (d e : Nat) (hi : Bool) : BitVec 32 :=
  match (s.routesOf d).find? (fun r => decide (r.dev = e)) with
  | none => 0
  | some r =>
    if hi then regw [(4, s.svcBits r.ports), (16, 0), (4, r.cmpx), (4, r.hops), (2, portCode r.ports.length), (1, bit r.loc), (1, 1)]
    else BitVec.ofNat 32 (portBytes r.ports)

/-- The registers of the global block below 0x100. -/
def State.glbLow (s : State) (o : Nat) : Option (BitVec 32) :=
  match o with
  | 0x00 => some (Config.hwRev ++ (0x9256#16 ++ 0x5A7#12))
  | 0x08 => some (s.accAddr.setWidth 32)
  | 0x0C => some (accWord (s.accOf 0))
  | 0x10 => some (BitVec.ofNat 32 s.glbState)
  | 0x14 => some (regw [(1, bit s.start.drainRun), (2, 0), (1, bit s.start.forceRun), (4, 0), (4, s.start.cmdst)])
  | 0x18 => some (regw [(2, slotNum s.mram.fwNext), (2, slotNum s.mram.mcNext), (2, slotNum s.start.fwUse), (2, slotNum s.start.mcUse),
      (2, slotNum s.mram.kgFw), (2, slotNum s.mram.kgMc)])
  | 0x1C => some (BitVec.ofNat 32 s.glbPair)
  | 0x20 => some (BitVec.ofNat 32 s.glbPairKg)
  | 0x24 => some (regw [(11, s.mram.peatHead), (5, 0), (16, s.mram.startNo.toNat)])
  | 0x40 => some (regw [(1, bit s.clk.rootLock), (1, bit s.clk.serdesLock), (2, s.clk.refSrc), (1, bit s.clk.aclkInternal), (1, bit s.clk.relockPend),
      (1, bit s.clk.holdover), (1, bit s.clk.refLost)])
  | 0x60 => some (regw [(7, 0), (1, bit s.pwr.ride), (3, 0), (1, bit s.pwr.refselS), (1, bit s.pwr.faultOut), (1, bit (!s.pwr.pfwHigh || s.pwr.pfwOut)),
      (1, bit s.pwr.pfwOut), (1, bit (decide (s.pwr.bank < 800000))), (8, 0),
      (4, match s.pwr.lastOff with | .none => 0 | .resetN => 1 | .pfwPlatform => 2 | .undervolt => 3 | .overvolt => 4 | .thermal => 5)])
  | 0x64 => some (regw [(16, s.pwr.iin), (16, s.pwr.vin / 10)])
  | 0x68 => some (regw [(6, 0), (1, bit s.pwr.warnSeen), (1, bit s.pwr.warn), (8, twos 8 (s.pwr.inlet.getD 0)), (8, twos 8 (Sys2Proof.Machine.maxOf s.pwr.tile)),
      (8, twos 8 (Sys2Proof.Machine.maxOf s.pwr.die))])
  | 0x6C => some (regw [(1, bit s.pwr.testEn), (1, bit (decide (s.tap.instr = .extest) || decide (s.tap.instr = .array)))])
  | 0x70 => some s.pwr.prsnt
  | _ => none

/-- The lock command's registers (R134, R135). -/
def State.lockReg (s : State) (o : Nat) : Option (BitVec 32) :=
  match o with
  | 0x2200 => some (half64 s.lock.base.toNat false)
  | 0x2204 => some (half64 s.lock.base.toNat true)
  | 0x2208 => some s.lock.cnt
  | 0x220C => some (regw [(1, bit s.lock.go), (1, bit s.lock.op), (2, 0), (4, s.lock.ten), (8, 0), (4, s.lock.status)])
  | 0x2210 => some (BitVec.ofNat 32 s.lock.done)
  | 0x2214 => some (BitVec.ofNat 32 s.lock.fail)
  | _ => none

/-- The word at `o` of the global block; none where no register stands. -/
def State.glbReg (s : State) (o : Nat) : Option (BitVec 32) :=
  if o < 0x100 then s.glbLow o
  else if o < 0x200 then
    (let d := (o - 0x100) / 16
     let k := o % 16
     if k = 0 then some (half64 (if (s.idom d).isSome then s.ktNs d else 0) false)
     else if k = 4 then some (half64 (if (s.idom d).isSome then s.ktNs d else 0) true)
     else if k = 8 then some (s.ktimeStat d) else none)
  else if o < 0x240 then
    some (match s.idom ((o - 0x200) / 4) with | some D => regw [(6, D.seed.toNat), (3, D.nlog), (3, D.wlog)] | none => 0)
  else if 0x400 ≤ o ∧ o < 0x42C then
    (let x := s.start.steps.getD ((o - 0x400) / 4) (.notRun, 0)
     some (regw [(24, x.2), (6, 0), (2, outcomeNum x.1)]))
  else if 0x1000 ≤ o ∧ o < 0x2000 then
    (let x := tget (0, 0) (s.dom ((o - 0x1000) / 0x100)).spread (o % 0x100 / 4)
     some (regw [(6, x.1), (2, 0), (6, x.2)]))
  else if 0x2000 ≤ o ∧ o < 0x2040 then
    (let d := (o - 0x2000) / 4
     some (match s.idom d with | some D => regw [(16, D.thresh), (15, 0), (1, bit (s.dom d).freeze)] | none => regw [(31, 0), (1, bit (s.dom d).freeze)]))
  else if 0x2100 ≤ o ∧ o < 0x2140 then some (s.sphTen ((o - 0x2100) / 4))
  else if 0x2200 ≤ o ∧ o < 0x2218 then s.lockReg o
  else if 0x3000 ≤ o ∧ o < 0x4000 then some (s.glbNear ((o - 0x3000) / 0x100) (o % 0x100 / 8) (decide (o % 8 = 4)))
  else if 0x10000 ≤ o ∧ o < 0x20000 then some (s.glbRoute ((o - 0x10000) / 0x1000) (o % 0x1000 / 8) (decide (o % 8 = 4)))
  else none

/-! ### Image control block (R492) -/

/-- SEQ of an image slot, 0 when it is EMPTY. -/
def State.slotSeq (s : State) (k : SlotName) : Nat := if s.slotState k = .empty then 0 else rdN (s.slotBytes k) 16 4

def slotStNum : SlotState → Nat | .empty => 0 | .valid => 1 | .writing => 2

/-- The word at `o` of the image control block. -/
def State.imgReg (s : State) (o : Nat) : Option (BitVec 32) :=
  match o with
  | 0x00 => some (regw [(16, 0), (2, slotStNum s.flash.stB), (2, slotStNum s.flash.stA), (2, slotNum s.mram.trial), (2, slotNum s.mram.confirmed),
      (2, slotNum s.imgc.inForce), (3, 0), (1, bit s.imgc.routeOvr.isSome), (1, bit s.trialRun), (1, bit (s.mram.owners.any (·.isSome)))])
  | 0x04 => some (regw [(1, bit s.imgc.run), (1, bit s.imgc.slotB), (2, 0), (4, s.imgc.op)])
  | 0x0C => some (accWord (s.accOf 0x100000))
  | 0x10 => some (half64 s.imgc.src.toNat false)
  | 0x14 => some (half64 s.imgc.src.toNat true)
  | 0x18 => some (s.imgc.len.setWidth 32)
  | 0x1C => some (regw [(20, s.imgc.off), (1, 0), (6, s.imgc.sect), (5, imgStNum s.imgc.status)])
  | 0x20 => some (BitVec.ofNat 32 (match s.imgc.img with | some i => i.seq | none => 0))
  | 0x24 => some (BitVec.ofNat 32 s.mram.floor)
  | 0x28 => some (BitVec.ofNat 32 (s.slotSeq .a))
  | 0x2C => some (BitVec.ofNat 32 (s.slotSeq .b))
  | _ =>
    if 0x100 ≤ o ∧ o < 0x180 then
      some (half64 (match s.idom ((o - 0x100) / 8) with | some D => D.cfgwin.toNat | none => 0) (decide (o % 8 = 4)))
    else if 0x200 ≤ o ∧ o < 0x240 then some (s.imgDigest.extractLsb' (8 * (o - 0x200)) 32)
    else none

end Sys2Proof.Machine
end

