-- ==== Sys2Proof/Machine/RegRead.lean ====
section
/-! DEFINITION. The words that the registers of the nodes, ports, protection, faults, counters, mailbox and slow domain read
(R95, R133, R178, R218, R242, R283, R311, R343, R382, R430, R462, R515, R557, R566, R590, R593, R595 to R597). -/

namespace Sys2Proof.Machine

open Sys2Proof

/-! ### Gates (R283, R311) -/

/-- GATE_BAR(k): PEND counts the barriers of the slot's agent. -/
def State.gateBar (s : State) (g k : Nat) : BitVec 32 :=
  let b := (s.gate g).bars.getD k {}
  let pend : Nat := match s.nodeDom g with | some (d, _) => (s.barriersOf (s.agentPorts d (4 * g + k))).length | none => 0
  regw [(17, b.tgt.toNat), (10, b.cnt), (3, pend), (2, bstatNum b.status)]

/-- Bounds of a class, hit, near, miss. -/
def State.gateBound (s : State) (d c : Nat) (hi : Bool) : BitVec 32 :=
  let v := s.isvc d
  if hi then regw [(24, v.miss.getD c 0)] else regw [(16, v.hit.getD c 0), (16, v.near.getD c 0)]

/-- The word at `o` of Gate `g`'s block. -/
def State.gateReg (s : State) (g o : Nat) : Option (BitVec 32) :=
  let G := s.gate g
  let dm := s.nodeDom g
  let d : Nat := match dm with | some x => x.1 | none => 0
  match o with
  | 0x00 => some (regw [(1, bit dm.isSome), (1, bit (s.isFenced (.router g))), (1, bit (s.gateServes g)), (1, bit (s.isBalancer g)), (1, bit G.voidedSeen),
      (1, bit G.missSeen), (1, bit G.audDone), (1, bit G.audBad)])
  | 0x04 => some (regw [(1, bit G.audRun)])
  | 0x0C => some (accWord (s.accOf (0x200000 + 0x8000 * g)))
  | 0x28 => some (match dm with
      | some (d, D) => regw [(6, 48), (1, bit D.compact), (1, 0), (4, (s.isvc d).span), (10, (s.isvc d).retryFloor)]
      | none => 0)
  | 0x2C => some (regw [(11, G.t2), (4, 0), (6, G.holds.length), (11, G.watch.length)])
  | 0x30 => some (let a : Agent := if G.lastVoid = .sync ∨ G.lastVoid = .promiseMiss then 0 else G.lastAgent
                  regw [(9, 0), (8, a.toNat), (9, a.toNat / 256), (3, 0), (3, causeNum G.lastVoid)])
  | _ =>
    if 0x10 ≤ o ∧ o < 0x28 then some (s.gateBound d ((o - 0x10) / 8) (decide (o % 8 = 4)))
    else if 0x40 ≤ o ∧ o < 0x50 then some (s.gateBar g ((o - 0x40) / 4))
    else none

/-! ### Slices and cushion pools (R95, R133, R178, R242) -/

/-- Does position `p` hold lines of a fenced share? -/
def State.spreadIn (s : State) (d : Nat) (D : ImgDomain) (n : Nat) (home : Bool) : Bool :=
  let t := (s.dom d).spread
  if home then !(s.dom d).homeSpread.isEmpty && !s.isFenced (.home n) && (List.range 64).any (fun k => decide ((tget (0, 0) t k).2 = D.pos n))
  else !(s.dom d).sliceSpread.isEmpty && !s.isFenced (.slice n) && (List.range 64).any (fun k => decide ((tget (0, 0) t k).1 = D.pos n))

/-- SLC_QUAR and HOM_DIR_QUAR. -/
def quarWord : List (Nat × Nat) → BitVec 32
  | [] => 0
  | (set, w) :: t => regw [(15, set), (1, 0), (4, w), (10, 0), (1, bit (!t.isEmpty)), (1, 1)]

/-- A ledger of FREE, BUSY and RESV. -/
def ledgerWord (w cap busy resv : Nat) : BitVec 32 := regw [(w, cap - busy), (w, busy), (w, resv)]

/-- The word at `o` of slice `n`'s block, for a node of domain `d`. -/
def State.slcReg (s : State) (d : Nat) (D : ImgDomain) (n o : Nat) : Option (BitVec 32) :=
  let x := s.slice n
  let p := s.pool n
  match o with
  | 0x00 => some (regw [(1, bit (!s.isFenced (.slice n) && !s.stopped d)), (1, bit (s.isFenced (.slice n))), (1, bit (s.spreadIn d D n false)), (1, bit x.corr),
      (1, bit x.presUe), (1, bit x.tagUe), (1, bit x.lstepErr), (1, bit (!x.quar.isEmpty))])
  | 0x04 => some (regw [(1, bit x.predClr), (1, bit x.lstestRun)])
  | 0x08 => some (regw [(1, 1), (6, D.pos n), (4, d)])
  | 0x0C => some (accWord (s.accOf (slcBase n)))
  | 0x10 => some (quarWord x.quar)
  | 0x14 => some (regw [(6, 0), (1, bit x.lstestDone), (1, bit x.lstestOk), (8, 0), (8, min 255 (s.winCnt 5 (.slice n)))])
  | 0x20 => some (BitVec.ofNat 32 (packBits ((List.range 8).map (fun k => (4, x.wayOwn.getD k 0)))))
  | 0x24 => some (BitVec.ofNat 32 (packBits ((List.range 8).map (fun k => (4, x.wayOwn.getD (8 + k) 0)))))
  | 0x28 => some (x.floor.setWidth 32)
  | 0x2C => some (match x.sphLast with | some (e, f, t, w) => regw [(4, w), (4, 0), (4, t), (4, f), (15, e), (1, 1)] | none => 0)
  | 0x30 => some (x.umonSel.setWidth 32)
  | 0x34 => some (let t := x.umonSel.toNat / 16
                  if (s.iten t).isSome && decide (x.umonSel.toNat % 16 < D.ways) then BitVec.ofNat 32 (x.uhAt t (x.umonSel.toNat % 16) % 65536) else 0)
  | 0x40 => some (ledgerWord 8 192 (tbusy x.mshrs) (s.mshrResv n))
  | 0x44 => some (ledgerWord 9 256 (tbusy x.wbuf) (s.wbResv n))
  | 0x48 => some (ledgerWord 8 128 (s.vbBusy n) (s.vbResv n))
  | 0x4C => some (regw [(1, bit x.audRun), (1, 0), (4, x.audBad.toNat), (1, bit x.audWindow), (1, bit x.audDone)])
  | 0x50 => some (regw [(4, x.dist)])
  | 0x60 => some (regw [(13, 4096 - s.poolUsed n), (3, 0), (13, s.poolUsed n)])
  | 0x64 => some (p.qsel.setWidth 32)
  | 0x68 => some (let q := p.qsel.toNat
                  regw [(7, queueResv q), (9, 0), (13, s.qCount n q), (2, 0), (1, bit (decide (q ∈ p.flushing)))])
  | 0x6C => some (regw [(8, p.cmdq.toNat), (1, bit (decide (p.cmdq.toNat ∈ p.flushing)))])
  | 0x70 => some (let w := x.sweep
                  regw [(16, w.next), (4, 0), (8, s.sweepPre n d), (2, w.kind.toNat), (1, bit w.done), (1, bit w.active)])
  | _ => none

/-! ### Home shards (R218, R430) -/

/-- The word at `o` of home shard `n`'s block. -/
def State.homReg (s : State) (d : Nat) (D : ImgDomain) (n o : Nat) : Option (BitVec 32) :=
  let x := s.home n
  let crown := (x.nc.filter (·.crown)).length
  let used := (ncPool x.nc).length
  match o with
  | 0x00 => some (regw [(1, bit (!s.isFenced (.home n) && !s.stopped d)), (1, bit (s.isFenced (.home n))), (1, bit (s.spreadIn d D n true)),
      (1, bit (!x.quar.isEmpty)), (1, bit x.dirCorr), (1, bit x.dirUe)])
  | 0x04 => some 0
  | 0x0C => some (accWord (s.accOf (homBase n)))
  | 0x10 => some (x.ptr.setWidth 32)
  | 0x14 => some (regw [(8, x.lineq.length), (8, 0), (9, s.activeTxs n)])
  | 0x18 => some (regw [(16, tbusy x.dir)])
  | 0x1C => some (quarWord x.quar)
  | 0x20 => some (regw [(10, 512 - used - crown), (10, used), (10, crown)])
  | 0x24 => some (regw [(9, s.ncPins n)])
  | 0x28 => some (regw [(1, bit x.ncAudRun), (4, 0), (1, bit x.ncBad), (1, bit x.ncWindow), (1, bit x.ncDone)])
  | _ => none

/-! ### Routers (R343) -/

/-- Is the link of direction `i` the wrap link of its ring? -/
def ringWrap (D : ImgDomain) (n : Nat) (i : Dir) : Bool :=
  let p := D.pos n % shapeW D.nlog
  let q := D.pos n / shapeW D.nlog
  match i with
  | .px => decide (p + 1 = shapeW D.nlog) | .mx => decide (p = 0) | .py => decide (q + 1 = shapeH D.nlog) | .my => decide (q = 0)

/-- RTR_LINK. -/
def State.rtrLink (s : State) (D : ImgDomain) (n : Nat) : BitVec 32 :=
  BitVec.ofNat 32 (packBits (dirs.flatMap (fun i =>
    [(6, D.next n i), (1, bit (ringWrap D n i)), (1, bit (!s.isFenced (.router n) && !s.isFenced (.router (D.next n i))))])))

/-- The word at `o` of router `n`'s block. -/
def State.rtrReg (s : State) (d : Nat) (D : ImgDomain) (n o : Nat) : Option (BitVec 32) :=
  let r := s.router n
  match o with
  | 0x00 => some (regw [(1, 1), (1, bit (s.isFenced (.router n))), (2, if D.compact then 2 else 1), (1, bit (s.dom d).detour), (1, bit r.hdrCe), (1, bit r.hdrUe),
      (1, bit r.payPar), (1, bit r.bound)])
  | 0x04 => some (regw [(1, bit r.audRun)])
  | 0x0C => some (accWord (s.accOf (rtrBase n)))
  | 0x10 => some (s.rtrLink D n)
  | 0x14 => some (r.ejSel.setWidth 32)
  | 0x18 => some (let q := r.ejSel.toNat % 256
                  if q ∈ sinkQueues then
                    regw [(8, if D.compact then 4 - s.resvUsed D (r.ejSel.toNat / 256) n q else queueResv q - s.ejOut n q), (23, 0), (1, 1)]
                  else 0)
  | 0x30 => some (regw [(4, 0), (1, bit r.credBad), (1, bit r.ejBad), (1, bit r.audWindow), (1, bit r.audDone)])
  | 0x34 => some (regw [(8, r.ageMax), (8, r.injMax)])
  | _ =>
    if 0x20 ≤ o ∧ o < 0x30 then
      some (if D.compact then 0 else BitVec.ofNat 32 (packBits ((List.range 5).map (fun v => (5, s.credits D n (dirs.getD ((o - 0x20) / 4) .px) v)))))
    else none

/-! ### Ports (R382) -/

def portStNum : PortState → Nat
  | .off => 0 | .detect => 1 | .train => 2 | .find => 3 | .service => 4 | .standby => 5 | .draining => 6 | .isolating => 7 | .retrain => 8 | .failed => 9
def drainStNum : DrainSt → Nat | .none => 0 | .done => 1 | .inuse => 2 | .fallback => 3

/-- Mean of the last offsets in ps, saturated. -/
def offsetPs (l : List Int) : Int := max (-8388607) (min 8388607 (meanOf l * 1000 / 16777216))

/-- The word at `o` of port `p`'s block, for a port of domain `d`. -/
def State.portReg (s : State) (d p o : Nat) : Option (BitVec 32) :=
  let x := s.port p
  let P := s.iport p
  match o with
  | 0x00 => some (regw [(4, portStNum x.state), (3, match x.wact with | some k => k + 1 | none => 0), (1, bit x.retrained), (1, bit x.dead), (1, bit x.authFail),
      (1, bit (decide ((s.dom d).upstream = some p))), (1, bit x.enc)])
  | 0x04 => some (regw [(1, bit x.drainRun), (1, bit x.retrainRun), (1, bit x.force)])
  | 0x0C => some (accWord (s.accOf (0xD00000 + 0x1000 * p)))
  | 0x10 => some (regw [(3, roleNum P.role), (1, 0), (3, P.wlog + 1), (2, 0), (5, P.group), (1, bit P.encReq), (1, bit P.reduce)])
  | 0x14 => some (regw [(17, x.pagent.toNat), (7, 0), (8, x.pkind.toNat)])
  | 0x18 => some (regw [(8, 0), (8, min 255 x.rej), (8, x.plink.toNat), (2, 0), (2, drainStNum x.drainSt), (4, x.reason)])
  | 0x1C => some (regw [(24, if P.role = .peer then twos 24 (offsetPs x.offsets) else 0), (2, 0), (2, x.prootIdx), (4, x.prootHops)])
  | _ =>
    if 0x20 ≤ o ∧ o < 0x34 then
      (let v := (o - 0x20) / 4
       some (regw [(8, P.cred.getD v 0), (8, x.padv.getD v 0 - x.used.getD v 0), (8, x.padv.getD v 0)]))
    else none

/-! ### Protection (R430) -/

def keyStNum : KeySt → Nat | .free => 0 | .active => 1 | .retiring => 2
def ownerNum : ProtOwner → Nat | .none => 0 | .pf0 => 1 | .medulla => 2

/-- PERM_ACT(p) and PERM_SHD(p). -/
def permWord (e : PermEnt) : BitVec 32 :=
  regw [(4, 0), (4, e.ten.toNat), (19, 0), (1, bit e.trust), (1, bit e.cfg), (1, bit e.wr), (1, bit e.rd), (1, bit e.valid)]

/-- Word `k` of a range entry. -/
def rngWord (e : RngEnt) (job closed : Bool) (k : Nat) : Option (BitVec 32) :=
  match k with
  | 0 => some (half64 e.base.toNat false) | 1 => some (half64 e.base.toNat true)
  | 2 => some (half64 e.lim.toNat false) | 3 => some (half64 e.lim.toNat true)
  | 4 => some (regw [(6, e.keyid.toNat), (9, e.home.toNat), (5, 0), (4, e.ten.toNat), (2, e.cap.toNat), (1, 0), (1, bit closed), (1, bit job), (1, bit e.record),
      (1, bit e.priv), (1, bit e.valid)])
  | _ => none

/-- LOST(e). -/
def lostWord (e : Option LostEnt) (hi : Bool) : BitVec 32 :=
  match e with
  | none => 0
  | some x => if hi then BitVec.ofNat 32 x.index else regw [(19, 0), (3, x.level), (6, x.pos), (3, x.tree), (1, 1)]

/-- The registers of the protection block below 0x100. -/
def State.protLow (s : State) (o : Nat) : Option (BitVec 32) :=
  let p := s.prot
  let j := s.job p.crozSel
  match o with
  | 0x00 => some (regw [(6, 0), (2, ownerNum p.owner), (4, p.cstat), (3, 0), (1, bit p.drained), (16, p.epoch.toNat)])
  | 0x04 => some 0
  | 0x0C => some (accWord (s.accOf 0xE00000))
  | 0x10 => some (half64 p.invBase.toNat false)
  | 0x14 => some (half64 p.invBase.toNat true)
  | 0x18 => some (half64 p.invLim.toNat false)
  | 0x1C => some (half64 p.invLim.toNat true)
  | 0x20 => some (regw [(1, bit p.invRun), (15, 0), (4, p.invDom), (8, 0), (4, p.invStat)])
  | 0x30 => some (regw [(1, bit p.keyRun), (3, 0), (2, p.keyOp), (2, 0), (6, p.keyId), (14, 0), (4, p.keyStat)])
  | 0x40 => some (regw [(1, 0), (2, p.crozOp), (5, 0), (6, p.crozNew.toNat), (2, 0), (8, p.crozRng), (4, p.crozJobF), (4, p.crozStat)])
  | 0x44 => some (regw [(3, p.crozSel)])
  | 0x48 => some (regw [(8, 0), (6, j.new.toNat), (6, j.old.toNat), (8, j.rng), (2, bit j.reseed), (1, bit j.done), (1, bit j.active)])
  | 0x50 => some (half64 j.cl false)
  | 0x54 => some (half64 j.cl true)
  | 0x60 => some (regw [(1, bit p.flushing), (1, bit p.stipeResumed), (1, bit p.stipeFixed), (1, bit p.stipeLost)])
  | _ => none

/-- The word at `o` of the protection block. -/
def State.protReg (s : State) (o : Nat) : Option (BitVec 32) :=
  let p := s.prot
  if o < 0x100 then s.protLow o
  else if o < 0x200 then
    (let k := (o - 0x100) / 4
     let e := s.key k
     some (regw [(16, e.gen.toNat), (9, (p.rngAct.filter (fun r => r.2.valid && decide (r.2.keyid.toNat = k))).length), (5, 0), (2, keyStNum e.st)]))
  else if 0x400 ≤ o ∧ o < 0x800 then some (permWord (tget {} p.permAct ((o - 0x400) / 4)))
  else if 0x800 ≤ o ∧ o < 0xC00 then some (permWord (tget {} p.permShd ((o - 0x800) / 4)))
  else if 0x1000 ≤ o ∧ o < 0x3000 then
    (let r := (o - 0x1000) / 0x20
     let e := tget {} p.rngAct r
     rngWord e (s.rngJob r e) (decide (r ∈ p.closed)) (o % 0x20 / 4))
  else if 0x3000 ≤ o ∧ o < 0x5000 then rngWord (tget {} p.rngShd ((o - 0x3000) / 0x20)) false false (o % 0x20 / 4)
  else if 0x5000 ≤ o ∧ o < 0x5800 then some (lostWord (tget none p.lost ((o - 0x5000) / 8)) (decide (o % 8 = 4)))
  else none

/-! ### Faults (R462) -/

/-- Half `hi` of a fence map. -/
def mapHalf (l : List Nat) (hi : Bool) : BitVec 32 := half64 (mapBits l) hi

/-- FLT_SPARE(c). -/
def spareWord (l : List SpareUse) : BitVec 32 :=
  let rows := l.filter (fun x => !x.col)
  let cols := l.filter (fun x => x.col)
  regw [(5, cols.length), (3, 0), (5, (cols.filter (·.runtime)).length), (3, 0), (8, rows.length), (6, (rows.filter (·.runtime)).length)]

/-- FLT_WIN(k): what the image in force gives. -/
def State.winWord (s : State) (k : Nat) : BitVec 32 :=
  if s.imgc.img.isNone ∨ 14 ≤ k then 0
  else
    let (t, l) := s.winPar k
    regw [(24, if t ≤ 1 then 0 else l), (5, t)]

/-- The word at `o` of the faults block. -/
def State.fltReg (s : State) (o : Nat) : Option (BitVec 32) :=
  let f := s.flt
  match o with
  | 0x00 => some (regw [(3, 0), (1, bit f.lostRec), (1, bit (!f.fifo.isEmpty)), (1, bit s.fencedAny), (1, bit (!f.dstop.isEmpty)),
      (1, bit (s.slices.any (fun x => x.2.drain.running) || s.homes.any (fun x => x.2.handover)))])
  | 0x04 => some 0
  | 0x0C => some (accWord (s.accOf 0xF00000))
  | 0x10 => some (regw [(16, f.lost), (9, f.fifo.length)])
  | 0x14 => some (f.intEn.setWidth 32)
  | 0x20 => some (mapHalf f.fslc false) | 0x24 => some (mapHalf f.fslc true)
  | 0x28 => some (mapHalf f.fhom false) | 0x2C => some (mapHalf f.fhom true)
  | 0x30 => some (mapHalf f.fchn false) | 0x34 => some (mapHalf f.fchn true)
  | 0x38 => some (mapHalf f.frtr false) | 0x3C => some (mapHalf f.frtr true)
  | 0x60 => some (BitVec.ofNat 32 s.fltMisc)
  | 0x64 => some (regw [(8, f.clrIdx), (2, f.clrKind), (18, 0), (3, f.clrStat), (1, bit f.clrRun)])
  | 0x68 => some (mapHalf f.fkey false) | 0x6C => some (mapHalf f.fkey true)
  | _ =>
    if 0x40 ≤ o ∧ o < 0x60 then some (BitVec.ofNat 32 (mapBits f.fport / 2 ^ (8 * (o - 0x40))))
    else if 0x80 ≤ o ∧ o < 0xC0 then some (s.winWord ((o - 0x80) / 4))
    else if 0x100 ≤ o ∧ o < 0x140 then some (match f.fifo.head? with | some r => BitVec.ofNat 32 (rdN (recBytes r) (o - 0x100) 4) | none => 0)
    else if 0x200 ≤ o ∧ o < 0x300 then some (spareWord (s.slice ((o - 0x200) / 4)).spares)
    else none

/-! ### Counters, Capsule, spore tagging, pages (R572, R590, R593) -/

/-- Registers of a tenancy page below its counters. -/
def State.pageReg (s : State) (t o : Nat) : Option (BitVec 32) :=
  match o with
  | 0 => some (match s.iten t with | some x => regw [(4, t), (20, 0), (4, x.domain), (3, 0), (1, 1)] | none => 0)
  | 4 => some (BitVec.ofNat 32 (s.tpage t).ways)
  | 8 => some (regw [(1, 0), (1, bit (s.tpage t).fired)])
  | _ => none

/-- Capsule and spore registers. -/
def State.capLow (s : State) (o : Nat) : Option (BitVec 32) :=
  let c := s.cap
  match o with
  | 0x00 => some (regw [(1, bit c.armed), (1, bit c.dumping), (1, bit c.snapWait), (1, bit c.dmaErr), (8, 0), (4, c.status), (4, c.errcode)])
  | 0x04 => some (regw [(1, 0), (1, bit c.disarming), (1, bit c.snapBusy)])
  | 0x0C => some (accWord (s.accOf 0x1000000))
  | 0x10 => some c.ctl
  | 0x14 => some (c.period.setWidth 32)
  | 0x18 => some (half64 c.base.toNat false)
  | 0x1C => some (half64 c.base.toNat true)
  | 0x20 => some (BitVec.ofNat 32 c.slots)
  | 0x24 => some (regw [(16, c.head)])
  | 0x28 => some (BitVec.ofNat 32 c.seq)
  | 0x40 => some (regw [(1, bit s.spore.enable), (7, 0), (5, s.spore.k), (3, 0), (16, s.spore.int.toNat)])
  | 0x44 => some (regw [(16, s.spore.seq), (15, 0), (1, bit s.spore.dmaErr)])
  | 0x48 => some (half64 s.spore.base.toNat false)
  | 0x4C => some (half64 s.spore.base.toNat true)
  | 0x50 => some (BitVec.ofNat 32 s.spore.slots)
  | _ =>
    if 0x100 ≤ o ∧ o < 0x180 then
      (let g := s.tpage ((o - 0x100) / 8)
       if o % 8 = 4 then some g.thr else some (regw [(5, g.idx), (23, 0), (1, bit g.fired), (1, bit g.alarmEn), (1, bit g.zeroOk), (1, bit g.map)]))
    else none

/-- The word at `o` of the counters and Capsule block. -/
def State.capReg (s : State) (o : Nat) : Option (BitVec 32) :=
  if o < 0x1000 then s.capLow o
  else if 0x40000 ≤ o ∧ o < 0x50000 ∧ o % 0x1000 < 0x100 then s.pageReg ((o - 0x40000) / 0x1000) (o % 0x1000)
  else match cntAt o with
    | some (c, true) => some (half64 (if s.cntDead c then 0 else tget 0 s.cnt (o / 8)) (decide (o % 8 = 4)))
    | _ => none

/-! ### Mailbox (R566, R515) -/

/-- The word at `o` of the mailbox block. -/
def State.mbxReg (s : State) (o : Nat) : Option (BitVec 32) :=
  let m := s.mbx
  match o with
  | 0x00 => some (regw [(1, 0), (1, bit s.mbxReady), (1, bit m.done), (1, bit s.start.recovery)])
  | 0x04 => some (regw [(1, bit m.run), (1, bit m.slotB), (6, 0), (8, m.op)])
  | 0x0C => some (accWord (s.accOf 0x1100000))
  | 0x10 => some (half64 m.req.toNat false)
  | 0x14 => some (half64 m.req.toNat true)
  | 0x18 => some (m.reqLen.setWidth 32)
  | 0x20 => some (half64 m.rsp.toNat false)
  | 0x24 => some (half64 m.rsp.toNat true)
  | 0x28 => some (m.rspLen.setWidth 32)
  | 0x2C => some (regw [(23, m.rspN), (5, 0), (4, mbxStNum m.status)])
  | _ =>
    if 0x80000 ≤ o ∧ o < 0x90000 then some (BitVec.ofNat 32 (rdN (peatBytes (tget {} s.mram.peat ((o - 0x80000) / 32))) (o % 32) 4))
    else none

/-! ### Slow domain (R557, R595 to R597) -/

/-- TIL_MAP_DATA: the spare of the row or column in force. -/
def State.tilData (s : State) (t : Nat) : BitVec 32 :=
  let v := (s.slowB t).sel.toNat
  let n := tileNode t (v / 2 ^ 20 % 4)
  if (s.nodeDom n).isNone then 0
  else match (s.slice n).spares.find? (fun x => x.live && decide (x.col = decide (v / 2 ^ 24 % 2 = 1)) && decide (x.bank = v / 2 ^ 16 % 8) && decide (x.idx = v % 32768)) with
    | some x => regw [(16, 0), (2, x.spare), (12, 0), (1, bit x.runtime), (1, 1)]
    | none => 0

/-- The port that holds a lane, with the lane's place in it. -/
def State.lanePort (s : State) (l : Nat) : Option (Nat × Nat) :=
  (s.iports.find? (fun e => decide (e.1 ≤ l) && decide (l < e.1 + 2 ^ e.2.wlog))).map (fun e => (e.1, l - e.1))

/-- TRAIN of a lane: a lane beyond the trained width is idle. -/
def State.laneTrain (s : State) (l : Nat) : Nat :=
  match s.lanePort l with
  | none => 0
  | some (p, i) =>
    let x := s.port p
    if x.wact.any (fun k => decide (2 ^ k ≤ i)) then 0
    else match x.state with
      | .off | .failed | .isolating => 0
      | .detect => 1
      | .train | .retrain => (match x.train with | .idle => 0 | .detect => 1 | .eq => 2 | .lock => 3 | .deskew => 4 | .flit => 5)
      | .find | .service | .standby | .draining => 5

/-- The word at `o` of slow-domain sub-block `k`. A read of SDS_EYE or SDS_TAPS takes a free value. -/
def State.slowReg (s : State) (k o : Nat) : Option (BitVec 32) :=
  let x := s.slowB k
  if o = 0 then some (regw [(1, bit x.busy)])
  else if o = 0x0C then some (accWord (s.accOf (0x1200000 + 0x1000 * k)))
  else if o = 0x10 then some x.sel
  else if k < 16 then
    (if o = 0x14 then some (s.tilData k)
     else if o = 0x18 then some (regw [(8, twos 8 (s.pwr.tile.getD k 0))])
     else none)
  else
    let tr := s.laneTrain (4 * (k - 16) + x.sel.toNat % 4)
    if o = 0x14 then some (if tr = 0 then 0 else Config.sdsEye s.free &&& 0xFFFF)
    else if o = 0x18 then some (if tr = 0 then 0 else Config.sdsTaps s.free &&& 0xFFFFFF)
    else if o = 0x1C then
      some (regw [(4, tr), (2, 0), (1, bit (decide (4 ≤ tr))), (1, bit (decide (3 ≤ tr))), (8, 0), (16, s.start.mcVer.toNat)])
    else none

/-! ### Any register -/

/-- A block of a node whose registers read their reset values: the word stands where the block has a register (R27). -/
def deadReg (w : Option (BitVec 32)) : Option (BitVec 32) := w.map (fun _ => 0)

/-- The word at the aligned offset `o` of a block; none where no register stands. -/
def State.regWord (s : State) (b : Blk) (o : Nat) : Option (BitVec 32) :=
  let at_ (n : Nat) (f : Nat → ImgDomain → Option (BitVec 32)) : Option (BitVec 32) :=
    match s.nodeDom n with | some (d, D) => f d D | none => deadReg (f 0 {})
  match b with
  | .glb => s.glbReg o
  | .img => s.imgReg o
  | .gate n => if s.blkDead b o then deadReg (s.gateReg n o) else s.gateReg n o
  | .slc n => at_ n (fun d D => s.slcReg d D n o)
  | .hom n => at_ n (fun d D => s.homReg d D n o)
  | .rtr n => at_ n (fun d D => s.rtrReg d D n o)
  | .port p => if s.blkDead b o then deadReg (s.portReg 0 p o) else s.portReg (match s.portDom p with | some x => x.1 | none => 0) p o
  | .prot => s.protReg o
  | .flt => s.fltReg o
  | .cap => s.capReg o
  | .mbx => s.mbxReg o
  | .slow k => if s.blkDead b o then deadReg (s.slowReg k o) else s.slowReg k o

end Sys2Proof.Machine
end

