-- ==== Sys2Proof/Machine/RegWrite.lean ====
section
/-! DEFINITION. What a write to a register does: the checks that drop it, and its effect by field kind
(R13, R15, R27, R85, R96, R97, R102, R134, R175, R181, R283, R382, R390, R462, R487, R514, R538, R556, R560, R566, R585, R589, R593). -/

namespace Sys2Proof.Machine

open Sys2Proof

/-- A write of one 32-bit register as its fields meet it: the value RW fields take, the bits that reach W1C and SC fields as 1,
and the bits the write acts on (R556). -/
structure Wr where
  who : Requester
  nv : BitVec 32
  ones : BitVec 32
  touch : BitVec 32
deriving DecidableEq, Repr

/-- A write through a view (R556). -/
def wrOf (who : Requester) (v : View) (old x : BitVec 32) : Wr :=
  match v with
  | .normal => { who := who, nv := x, ones := x, touch := BitVec.allOnes 32 }
  | .set => { who := who, nv := old ||| x, ones := x, touch := x }
  | .clr => { who := who, nv := old &&& ~~~x, ones := 0, touch := x }
  | .tgl => { who := who, nv := old ^^^ x, ones := 0, touch := x }

/-- Field `[lo + n - 1 : lo]` of the value that RW fields take. -/
def Wr.f (w : Wr) (lo n : Nat) : Nat := bitsN w.nv.toNat lo n
/-- Is bit `i` written as 1 to a W1C or SC field? -/
def Wr.one (w : Wr) (i : Nat) : Bool := w.ones.getLsbD i
/-- Does the write act on a bit of the mask? -/
def Wr.acts (w : Wr) (mask : BitVec 32) : Bool := !decide (w.touch &&& mask = 0)

/-! ### What drops a write (R13, R560) -/

/-- R102: a working maximum that may not be written. -/
def State.sphMaxBad (s : State) (t v : Nat) : Bool :=
  match s.iten t with
  | none => true
  | some x =>
    let w := match s.idom x.domain with | some D => D.ways | none => 0
    decide (v < x.min) || decide (x.max < v) || decide (sumL ((s.tensOf x.domain).map (fun u => if u = t then v else s.maxOf u)) < w)

/-- A shadow write: OWNER is not PF0, or COMMIT runs (R390). COMMIT ends on its own edge here, so it never reads 1. -/
def State.shadowBad (s : State) : Option AccCause := if s.prot.owner = .pf0 then none else some .denied

/-- `c` when the condition holds. -/
def dropIf (b : Bool) (c : AccCause) : Option AccCause := if b then some c else none

/-- Global block. -/
def State.glbDrop (s : State) (o : Nat) (w : Wr) : Option AccCause :=
  if o = 0x14 then dropIf (decide (1 < ((List.range 6).filter w.one).length)) .encoding
  else if o = 0x18 then dropIf (decide (w.f 0 2 = 3) || decide (w.f 2 2 = 3)) .encoding
  else if o = 0x6C then dropIf (w.acts 1 && !decide (s.start.mode = .maintenance)) .denied
  else if 0x2100 ≤ o ∧ o < 0x2140 then dropIf (w.acts 0x1F0000 && s.sphMaxBad ((o - 0x2100) / 4) (w.f 16 5)) .encoding
  else if o = 0x2200 ∨ o = 0x2204 ∨ o = 0x2208 then dropIf s.lock.go .busy
  else if o = 0x220C then dropIf (s.lock.go && w.acts 0xF2) .busy
  else none

/-- Image control block. -/
def State.imgDrop (s : State) (o : Nat) (w : Wr) : Option AccCause :=
  if o = 4 then (if s.imgc.run then some .busy else dropIf (decide (6 < w.f 4 4)) .encoding)
  else if o = 0x10 ∨ o = 0x14 ∨ o = 0x18 then dropIf s.imgc.run .busy
  else none

/-- Slice block. -/
def State.slcDrop (s : State) (n o : Nat) (w : Wr) : Option AccCause :=
  if o = 0x50 then dropIf (decide (8 < w.f 0 4)) .encoding
  else if o = 0x6C then
    dropIf ((w.acts 0xFF && decide ((s.pool n).cmdq.toNat ∈ (s.pool n).flushing)) || (w.one 8 && !s.flushAllowed n (w.f 0 8))) .busy
  else none

/-- Protection block. -/
def State.protDrop (s : State) (o : Nat) (w : Wr) : Option AccCause :=
  if o = 0x30 then dropIf (decide (1 < w.f 4 2)) .encoding
  else if o = 0x40 then dropIf (decide (7 < w.f 24 4) || decide (1 < w.f 1 2)) .encoding
  else if (0x800 ≤ o ∧ o < 0xC00) ∨ (0x3000 ≤ o ∧ o < 0x5000) then
    match s.shadowBad with
    | some c => some c
    | none => dropIf (decide (0x3000 ≤ o) && decide (o % 0x20 = 0x10) && decide (w.f 24 2 = 3)) .encoding
  else none

/-- Counters and Capsule block, counters apart. -/
def State.capDrop (s : State) (o : Nat) (w : Wr) : Option AccCause :=
  if o = 0x10 ∨ o = 0x18 ∨ o = 0x1C then dropIf s.cap.armed .busy
  else if o = 0x14 then (if s.cap.armed then some .busy else dropIf (decide (1000000 < w.f 0 20)) .encoding)
  else if o = 0x20 then (if s.cap.armed then some .busy else dropIf (decide (65536 < w.f 0 17)) .encoding)
  else if o = 0x40 then dropIf (decide (w.f 8 5 < 6) || decide (24 < w.f 8 5)) .encoding
  else if o = 0x48 ∨ o = 0x4C then dropIf s.spore.enable .busy
  else if o = 0x50 then (if s.spore.enable then some .busy else dropIf (decide (1048576 < w.f 0 21)) .encoding)
  else if 0x100 ≤ o ∧ o < 0x180 ∧ o % 8 = 0 then
    dropIf (decide (w.f 0 5 = 15) || (decide (w.f 31 1 = 1) && (s.iten ((o - 0x100) / 8)).isNone)) .encoding
  else none

/-- Slow domain: busy, or an index that no row or column has. -/
def State.slowDrop (s : State) (k o : Nat) (w : Wr) : Option AccCause :=
  if (s.slowB k).busy then some .busy
  else dropIf (decide (o = 0x10) && decide (k < 16) && decide ((if w.f 24 1 = 1 then 20479 else 511) < w.f 0 15)) .encoding

/-- Why a write of an existing register is dropped, if it is. -/
def State.regDrop (s : State) (b : Blk) (o : Nat) (w : Wr) : Option AccCause :=
  if s.blkDead b o || s.blkFenced b o then some .unassigned
  else match b with
    | .glb => s.glbDrop o w
    | .img => s.imgDrop o w
    | .gate n => dropIf (decide (o = 4) && w.one 0 && !s.isBalancer n) .encoding
    | .slc n => s.slcDrop n o w
    | .hom _ => none
    | .rtr _ => none
    | .port p => dropIf (decide (o = 4) && w.acts 4 && (s.port p).drainRun) .busy
    | .prot => s.protDrop o w
    | .flt => if o = 0x64 then (if s.flt.clrRun then some .busy else dropIf (decide (1 < w.f 8 2)) .encoding) else none
    | .cap => s.capDrop o w
    | .mbx => if 0x80000 ≤ o then some .unassigned else dropIf s.mbx.run .busy
    | .slow k => s.slowDrop k o w

/-! ### Effects -/

/-- Apply `f` when the bit is set. -/
def State.when_ (s : State) (b : Bool) (f : State → State) : State := if b then f s else s

/-- A 64-bit field with one half written. -/
def putHalf {n : Nat} (v : BitVec n) (hi : Bool) (x : BitVec 32) : BitVec n :=
  BitVec.ofNat n (if hi then v.toNat % 2 ^ 32 + 2 ^ 32 * x.toNat else v.toNat / 2 ^ 32 * 2 ^ 32 + x.toNat)

/-- LOGGED and MORE of a block's access-error field (R560). -/
def State.accPut (s : State) (base : Nat) (w : Wr) : State :=
  let s := s.modAcc (base / 0x1000) (fun a => accClear a w.ones)
  if base = 0 ∧ w.one 31 = true then { s with accAddr := 0 } else s

/-- GLB_MODE_CMD: at most one bit is written. FORCE_PAIR runs until its start's answers come. -/
def State.modeCmd (s : State) (w : Wr) : State :=
  if w.one 0 then s.doDrain
  else if w.one 1 then s.doMaint
  else if w.one 2 then s.doResume
  else if w.one 3 then
    (if s.start.mode = .bare ∧ s.start.stopWhy = .pair then ({ s with start := { s.start with forceRun := true } }).cmdst 1 else s.cmdst 2)
  else if w.one 4 then s.doPairGood
  else if w.one 5 then s.doFenceForget
  else s

def slotOfNum (k : Nat) : SlotName := if k = 1 then .a else if k = 2 then .b else .none

/-- SPH_MAX of a tenancy. -/
def State.setSphMax (s : State) (k v : Nat) : State := { s with sphMax := tset 0 s.sphMax k v }

/-- The fields of the lock command; GO starts it. -/
def State.lockPut (s : State) (w : Wr) : State :=
  if s.lock.go then s
  else
    let s := { s with lock := { s.lock with ten := w.f 4 4, op := decide (w.f 1 1 = 1) } }
    s.when_ (w.one 0) (fun s => s.startLock s.lock.ten s.lock.op)

/-- Global block: allocator and lock registers. -/
def State.glbPutHi (s : State) (o : Nat) (w : Wr) : State :=
  if 0x2000 ≤ o ∧ o < 0x2040 then s.modDom ((o - 0x2000) / 4) (fun x => { x with freeze := decide (w.f 31 1 = 1) })
  else if 0x2100 ≤ o ∧ o < 0x2140 then (if (s.iten ((o - 0x2100) / 4)).isSome then s.setSphMax ((o - 0x2100) / 4) (w.f 16 5) else s)
  else if o = 0x2200 ∨ o = 0x2204 then { s with lock := { s.lock with base := putHalf s.lock.base (decide (o = 0x2204)) w.nv } }
  else if o = 0x2208 then { s with lock := { s.lock with cnt := w.nv } }
  else if o = 0x220C then s.lockPut w
  else s

/-- Global block. -/
def State.glbPut (s : State) (o : Nat) (w : Wr) : State :=
  if o = 0x0C then s.accPut 0 w
  else if o = 0x14 then s.modeCmd w
  else if o = 0x18 then { s with mram := { s.mram with fwNext := slotOfNum (w.f 0 2), mcNext := slotOfNum (w.f 2 2) } }
  else if o = 0x40 then { s with clk := { s.clk with refLost := s.clk.refLost && !w.one 7 } }
  else if o = 0x60 then { s with pwr := { s.pwr with ride := s.pwr.ride && !w.one 7 } }
  else if o = 0x68 then { s with pwr := { s.pwr with warnSeen := w1c s.pwr.warnSeen (w.one 6) s.pwr.warn } }
  else if o = 0x6C then { s with pwr := { s.pwr with testEn := decide (w.f 0 1 = 1) } }
  else s.glbPutHi o w

/-- GO of IMG_CMD: commands that need nothing from outside end here; the others run until their event, or end with DMA at once (R543). -/
def State.imgGo (s : State) (op : Nat) (b : Bool) : State :=
  let k := slotOfB b
  s.imgStart op b (fun s => match op with
    | 1 => s.imgVerify k
    | 2 => (s.nameTrial k).imgEnd .ok 0 0
    | 4 => s.imgConfirm
    | 5 => s.imgErase k
    | 0 => if s.dmaOk then s.imgRunning op b else s.imgWrite k [] false
    | 6 => if s.dmaOk then s.imgRunning op b else s.imgRoute [] false
    | _ => s.imgRunning op b)

/-- Image control block. -/
def State.imgPut (s : State) (o : Nat) (w : Wr) : State :=
  if o = 0x04 then
    (let op := w.f 4 4
     let b : Bool := decide (w.f 1 1 = 1)
     if w.one 0 then s.imgGo op b else { s with imgc := { s.imgc with op := op, slotB := b } })
  else if o = 0x0C then s.accPut 0x100000 w
  else if o = 0x10 then { s with imgc := { s.imgc with src := putHalf s.imgc.src false w.nv } }
  else if o = 0x14 then { s with imgc := { s.imgc with src := putHalf s.imgc.src true w.nv } }
  else if o = 0x18 then { s with imgc := { s.imgc with len := w.nv.setWidth 21 } }
  else s

/-- Gates. -/
def State.gatePut (s : State) (g o : Nat) (w : Wr) : State :=
  if o = 0 then s.modGate g (fun G => { G with audDone := G.audDone && !w.one 6, missSeen := G.missSeen && !w.one 5, voidedSeen := G.voidedSeen && !w.one 4 })
  else if o = 4 then (s.when_ (w.one 1) (fun s => s.doHoldClr g)).when_ (w.one 0) (fun s => s.doGateAudit g w.who)
  else if o = 0x0C then s.accPut (0x200000 + 0x8000 * g) w
  else s

/-- Slices and cushion pools: prefetch, pool and sweep registers. DIST 0 clears the stream entries (R178). -/
def State.slcPutHi (s : State) (n o : Nat) (w : Wr) : State :=
  if o = 0x50 then s.modSlice n (fun x => { x with dist := w.f 0 4, streams := if w.f 0 4 = 0 then [] else x.streams })
  else if o = 0x64 then s.modPool n (fun p => { p with qsel := w.nv.setWidth 8 })
  else if o = 0x6C then
    (s.modPool n (fun p => { p with cmdq := w.nv.setWidth 8 })).when_ (w.one 8) (fun s => s.doFlush n (w.f 0 8) w.who)
  else if o = 0x70 then s.modSlice n (fun x => { x with sweep := { x.sweep with done := x.sweep.done && !w.one 30 } })
  else s

/-- Slices and cushion pools. -/
def State.slcPut (s : State) (n o : Nat) (w : Wr) : State :=
  if o = 0 then s.modSlice n (fun x => { x with
    lstepErr := x.lstepErr && !w.one 6, tagUe := x.tagUe && !w.one 5, presUe := x.presUe && !w.one 4, corr := x.corr && !w.one 3 })
  else if o = 4 then
    ((s.when_ (w.one 2) (fun s => s.doQrel n)).when_ (w.one 1) (fun s => s.askLstest n)).when_ (w.one 0) (fun s => s.doPredClr n)
  else if o = 0x0C then s.accPut (slcBase n) w
  else if o = 0x14 then s.modSlice n (fun x => { x with lstestDone := x.lstestDone && !w.one 6 })
  else if o = 0x30 then s.modSlice n (fun x => { x with umonSel := w.nv.setWidth 8 })
  else if o = 0x4C then
    (s.modSlice n (fun x => { x with audDone := x.audDone && !w.one 7 })).when_ (w.one 0) (fun s => s.doSlcAudit n)
  else s.slcPutHi n o w

/-- Home shards. -/
def State.homPut (s : State) (n o : Nat) (w : Wr) : State :=
  if o = 0 then s.modHome n (fun x => { x with dirUe := x.dirUe && !w.one 5, dirCorr := x.dirCorr && !w.one 4 })
  else if o = 4 then s.when_ (w.one 0) (fun s => s.doHomQrel n)
  else if o = 0x0C then s.accPut (homBase n) w
  else if o = 0x28 then (s.modHome n (fun x => { x with ncDone := x.ncDone && !w.one 7 })).when_ (w.one 0) (fun s => s.doNcAudit n)
  else s

/-- Routers. -/
def State.rtrPut (s : State) (n o : Nat) (w : Wr) : State :=
  if o = 0 then s.modRouter n (fun r => { r with
    bound := r.bound && !w.one 8, payPar := r.payPar && !w.one 7, hdrUe := r.hdrUe && !w.one 6, hdrCe := r.hdrCe && !w.one 5 })
  else if o = 4 then s.when_ (w.one 0) (fun s => s.doRtrAudit n)
  else if o = 0x0C then s.accPut (rtrBase n) w
  else if o = 0x14 then s.modRouter n (fun r => { r with ejSel := w.nv.setWidth 14 })
  else if o = 0x30 then s.modRouter n (fun r => { r with audDone := r.audDone && !w.one 7 })
  else s

/-- Ports. -/
def State.portPut (s : State) (p o : Nat) (w : Wr) : State :=
  if o = 0 then s.modPort p (fun x => { x with authFail := x.authFail && !w.one 9, dead := x.dead && !w.one 8, retrained := x.retrained && !w.one 7 })
  else if o = 4 then
    ((s.modPort p (fun x => { x with force := decide (w.f 2 1 = 1) })).when_ (w.one 1) (fun s => s.doRetrain p)).when_ (w.one 0) (fun s => s.doPortDrain p)
  else if o = 0x0C then s.accPut (0xD00000 + 0x1000 * p) w
  else s

/-- Words of a shadow range entry. -/
def rngPut (e : RngEnt) (k : Nat) (v : BitVec 32) : RngEnt :=
  match k with
  | 0 => { e with base := putHalf e.base false v } | 1 => { e with base := putHalf e.base true v }
  | 2 => { e with lim := putHalf e.lim false v } | 3 => { e with lim := putHalf e.lim true v }
  | 4 => rngOfWords e.base.toNat e.lim.toNat v.toNat
  | _ => e

/-- Key and Crozier commands: the RW fields take the write, then GO starts what they name. -/
def State.keyCmd (s : State) (w : Wr) : State :=
  let s := { s with prot := { s.prot with keyId := w.f 8 6, keyOp := w.f 4 2 } }
  s.when_ (w.one 0) (fun s => if w.f 4 2 = 0 then s.doKeygen (w.f 8 6) else s.doRetire (w.f 8 6))
def State.crozCmd (s : State) (w : Wr) : State :=
  let s := s.crozFields (w.f 24 4) (w.f 16 8) (w.f 8 6) (w.f 1 2)
  s.when_ (w.one 0) (fun s => if w.f 1 2 = 0 then s.doRekey (w.f 24 4) (w.f 16 8) (w.f 8 6) else s.doReseed (w.f 24 4) (w.f 16 8) (w.f 8 6))

/-- Protection block: keys, the Crozier, the Stipe and the shadows. -/
def State.protPutHi (s : State) (o : Nat) (w : Wr) : State :=
  if o = 0x30 then s.keyCmd w
  else if o = 0x40 then s.crozCmd w
  else if o = 0x44 then { s with prot := { s.prot with crozSel := w.f 0 3 } }
  else if o = 0x48 then s.modJob s.prot.crozSel (fun j => { j with done := j.done && !w.one 30 })
  else if o = 0x60 then { s with prot := { s.prot with stipeLost := s.prot.stipeLost && !w.one 3, stipeFixed := s.prot.stipeFixed && !w.one 2 } }
  else if 0x800 ≤ o ∧ o < 0xC00 then { s with prot := { s.prot with permShd := tset {} s.prot.permShd ((o - 0x800) / 4) (permOf w.nv.toNat) } }
  else if 0x3000 ≤ o ∧ o < 0x5000 then
    { s with prot := { s.prot with rngShd := tmod {} s.prot.rngShd ((o - 0x3000) / 0x20) (fun e => rngPut e (o % 0x20 / 4) w.nv) } }
  else s

/-- Protection block. -/
def State.protPut (s : State) (o : Nat) (w : Wr) : State :=
  if o = 4 then ((s.when_ (w.one 0) (fun s => s.doClaim)).when_ (w.one 2) (fun s => s.doCommit)).when_ (w.one 1) (fun s => s.doRelease)
  else if o = 0x0C then s.accPut 0xE00000 w
  else if o = 0x10 ∨ o = 0x14 then
    { s with prot := { s.prot with invBase := putHalf s.prot.invBase (decide (o = 0x14)) (if o = 0x14 then w.nv &&& 0xFF else w.nv) } }
  else if o = 0x18 ∨ o = 0x1C then
    { s with prot := { s.prot with invLim := putHalf s.prot.invLim (decide (o = 0x1C)) (if o = 0x1C then w.nv &&& 0xFF else w.nv) } }
  else if o = 0x20 then
    (let s := { s with prot := { s.prot with invDom := w.f 16 4 } }
     s.when_ (w.one 0) (fun s => s.doInv (w.f 16 4)))
  else s.protPutHi o w

/-- Faults block. -/
def State.fltPut (s : State) (o : Nat) (w : Wr) : State :=
  if o = 0 then { s with flt := { s.flt with lostRec := s.flt.lostRec && !w.one 3 } }
  else if o = 4 then s.when_ (w.one 0) (fun s => s.doPop)
  else if o = 0x0C then s.accPut 0xF00000 w
  else if o = 0x14 then { s with flt := { s.flt with intEn := w.nv.setWidth 7 } }
  else if o = 0x64 then
    (let s := { s with flt := { s.flt with clrKind := w.f 8 2, clrIdx := w.f 0 8 } }
     s.when_ (w.one 31) (fun s => s.doUnfence (decide (w.f 8 2 = 1)) (w.f 0 8)))
  else s

/-- Capsule commands, in the order of their bits. -/
def State.capCmd (s : State) (w : Wr) : State :=
  (((s.when_ (w.one 0) (fun s => s.doArm)).when_ (w.one 1) (fun s => s.doDisarm)).when_ (w.one 2) (fun s => s.doSnap)).when_ (w.one 3) (fun s => s.doZero [])

/-- CAP_TPAGE(t). -/
def tpagePut (g : TPage) (w : Wr) : TPage :=
  { g with map := decide (w.f 31 1 = 1), zeroOk := decide (w.f 30 1 = 1), alarmEn := decide (w.f 29 1 = 1), fired := g.fired && !w.one 28, idx := w.f 0 5 }

/-- Counters and Capsule block: spore tagging and tenancy pages. -/
def State.capPutHi (s : State) (o : Nat) (w : Wr) : State :=
  if o = 0x40 then { s with spore := { s.spore with enable := decide (w.f 0 1 = 1), k := w.f 8 5, int := BitVec.ofNat 16 (w.f 16 16) } }
  else if o = 0x44 then { s with spore := { s.spore with dmaErr := s.spore.dmaErr && !w.one 31 } }
  else if o = 0x48 ∨ o = 0x4C then { s with spore := { s.spore with base := putHalf s.spore.base (decide (o = 0x4C)) w.nv } }
  else if o = 0x50 then { s with spore := { s.spore with slots := w.f 0 21 } }
  else if 0x100 ≤ o ∧ o < 0x180 then
    s.modPage ((o - 0x100) / 8) (fun g => if o % 8 = 4 then { g with thr := w.nv } else tpagePut g w)
  else if 0x40000 ≤ o ∧ o < 0x50000 ∧ o % 0x1000 = 8 then s.when_ (w.one 0) (fun s => s.pageZero ((o - 0x40000) / 0x1000) [])
  else s

/-- Counters and Capsule block, counters apart. -/
def State.capPut (s : State) (o : Nat) (w : Wr) : State :=
  if o = 0 then s.modCap (fun c => { c with dmaErr := c.dmaErr && !w.one 3 })
  else if o = 4 then s.capCmd w
  else if o = 0x0C then s.accPut 0x1000000 w
  else if o = 0x10 then s.modCap (fun c => { c with ctl := w.nv &&& 0xFFFFFF01 })
  else if o = 0x14 then s.modCap (fun c => { c with period := w.nv.setWidth 20 })
  else if o = 0x18 ∨ o = 0x1C then s.modCap (fun c => { c with base := putHalf c.base (decide (o = 0x1C)) w.nv })
  else if o = 0x20 then s.modCap (fun c => { c with slots := w.f 0 17 })
  else s.capPutHi o w

/-- GO of MBX_CMD: verifies end here; commands with DMA run until their event, or end with DMA at once (R543). -/
def State.mbxGo (s : State) (op : Nat) (b : Bool) : State :=
  let k := slotOfB b
  if op = 0 ∨ 8 ≤ op then s.mbxBad op
  else s.mbxStart op b (fun s => match op with
    | 3 => s.fileVerify true k
    | 5 => s.fileVerify false k
    | 2 => if s.start.fwUse = k then s.mbxEnd .slot 0 else if s.dmaOk then s.mbxRunning else s.mbxEnd .dma 0
    | 4 => if s.start.mcUse = k then s.mbxEnd .slot 0 else if s.dmaOk then s.mbxRunning else s.mbxEnd .dma 0
    | 6 => if s.dmaOk then s.mbxRunning else (s.mbxEnd .dma 0).newNonce
    | _ => if s.dmaOk then s.mbxRunning else s.mbxEnd .dma 0)

/-- Mailbox. -/
def State.mbxPut (s : State) (o : Nat) (w : Wr) : State :=
  if o = 0 then { s with mbx := { s.mbx with done := s.mbx.done && !w.one 2 } }
  else if o = 4 then
    (let op := w.f 8 8
     let b : Bool := decide (w.f 1 1 = 1)
     if w.one 0 then s.mbxGo op b else { s with mbx := { s.mbx with op := op, slotB := b } })
  else if o = 0x0C then s.accPut 0x1100000 w
  else if o = 0x10 ∨ o = 0x14 then { s with mbx := { s.mbx with req := putHalf s.mbx.req (decide (o = 0x14)) w.nv } }
  else if o = 0x18 then { s with mbx := { s.mbx with reqLen := w.nv.setWidth 23 } }
  else if o = 0x20 ∨ o = 0x24 then { s with mbx := { s.mbx with rsp := putHalf s.mbx.rsp (decide (o = 0x24)) w.nv } }
  else if o = 0x28 then { s with mbx := { s.mbx with rspLen := w.nv.setWidth 23 } }
  else s

/-- Slow domain: the write is posted (R558). -/
def State.slowPut (s : State) (k o : Nat) (w : Wr) : State :=
  s.modSlow k (fun x => { x with busy := true, posted := if o = 0x0C then w.ones else w.nv, postOff := o })

/-- The effect of a write of the register at aligned offset `o` of a block. -/
def State.regPut (s : State) (b : Blk) (o : Nat) (w : Wr) : State :=
  match b with
  | .glb => s.glbPut o w | .img => s.imgPut o w | .gate n => s.gatePut n o w | .slc n => s.slcPut n o w | .hom n => s.homPut n o w
  | .rtr n => s.rtrPut n o w | .port p => s.portPut p o w | .prot => s.protPut o w | .flt => s.fltPut o w | .cap => s.capPut o w
  | .mbx => s.mbxPut o w | .slow k => s.slowPut k o w

/-! ### Counters (R572 to R574) -/

/-- Load a counter with the low 48 bits of a value. -/
def State.loadCnt (s : State) (k v : Nat) : State := { s with cnt := tset 0 s.cnt k (v % 2 ^ 48) }

/-- A counter write loads the written half or the whole, and the increment of its edge is added. -/
def State.cntPut (s : State) (o size : Nat) (val : BitVec 64) (inc : Nat) : State :=
  let k := o / 8
  let old := tget 0 s.cnt k
  let v := if size = 8 then val.toNat
    else if o % 8 = 0 then old / 2 ^ 32 * 2 ^ 32 + val.toNat % 2 ^ 32
    else old % 2 ^ 32 + 2 ^ 32 * (val.toNat % 2 ^ 16)
  let s := s.loadCnt k v
  match cntAt o with
  | some (.page t, _) => s.pageN t ((k - 0x8020) % 0x200) (inc % 4096)
  | _ => s.bumpN k (inc % 4096)

end Sys2Proof.Machine
end

