-- ==== Sys2Proof/Machine/Regs.lean ====
section
/-! DEFINITION. Register accesses: through a BAR, through a configuration window, and the posted writes of the slow domain
(R15, R29, R309, R310, R353, R388, R541, R543 to R560, R573, R591). -/

namespace Sys2Proof.Machine

open Sys2Proof

/-! ### One access of the register network -/

/-- An access: who, where, how wide, what it writes (none: a read), and the increment of its edge for a counter. -/
structure Access where
  who : Requester
  off : Nat
  size : Nat
  wr : Option (BitVec 64) := none
  inc : Nat := 0
deriving DecidableEq, Repr

/-- What an access answers: the state after it, its status, and the data of a read. -/
abbrev Reply := State × RegStatus × BitVec 64

/-- A requester's answer to an access that no block takes, and to one it may not make. -/
def abortOf : Requester → RegStatus | .window _ => .errProtocol | _ => .completerAbort
def deniedOf : Requester → RegStatus | .window _ => .errDenied | _ => .completerAbort

/-- The widths of R552. -/
inductive Width | word | pair | part | bad
deriving DecidableEq, Repr

/-- The case of R552 that an access falls into. -/
def widthOf (b : Blk) (o size : Nat) : Width :=
  if size = 4 ∧ o % 4 = 0 then .word
  else if size = 8 ∧ isPair b o = true then .pair
  else if size = 1 ∨ (size = 2 ∧ o % 2 = 0) then .part
  else .bad

/-- Data of a read at `o`, and whether a free value was drawn for it. -/
def State.readAt (s : State) (b : Blk) (o size : Nat) : State × BitVec 64 :=
  let word (k : Nat) : Nat := ((s.regWord b k).getD 0).toNat
  let lo := word (o / 4 * 4)
  let v := match widthOf b o size with
    | .word => lo
    | .pair => lo + 2 ^ 32 * word (o + 4)
    | .part => lo / 2 ^ (8 * (o % 4)) % 2 ^ (8 * size)
    | .bad => 0
  let drawn : Bool := match b with | .slow k => decide (16 ≤ k) && (decide (o / 4 = 5) || decide (o / 4 = 6)) | _ => false
  (if drawn then s.drawn else s, BitVec.ofNat 64 v)

/-- A write of a whole register or pair: one that no register takes, or that is dropped, is logged once; else every half takes effect. -/
def State.writeAt (s : State) (a : Access) (v : View) (b : Blk) (o : Nat) (val : BitVec 64) : State :=
  let log (c : AccCause) : State := s.logAcc b.base a.who c true o a.off
  match s.regWord b o with
  | none => log .unassigned
  | some old =>
    match (match b with | .cap => cntAt o | _ => none) with
    | some (c, true) => if s.cntDead c then log .unassigned else s.cntPut o a.size val a.inc
    | _ =>
      let w0 := wrOf a.who v old (val.setWidth 32)
      match s.regDrop b o w0 with
      | some c => log c
      | none =>
        if a.size = 8 then
          (let w1 := wrOf a.who v ((s.regWord b (o + 4)).getD 0) (val.extractLsb' 32 32)
           match s.regDrop b (o + 4) w1 with
           | some c => log c
           | none => (s.regPut b o w0).regPut b (o + 4) w1)
        else s.regPut b o w0

/-- An access that its requester reaches, by the cases of R552. -/
def State.perform (s : State) (a : Access) (v : View) (b : Blk) (o : Nat) : Reply :=
  match widthOf b o a.size, a.wr with
  | .bad, w => (s.logAcc b.base a.who .align w.isSome o a.off, abortOf a.who, 0)
  | .part, some _ => (s.logAcc b.base a.who .narrow true o a.off, .ok, 0)
  | _, some val => (s.writeAt a v b o val, .ok, 0)
  | _, none => let r := s.readAt b o a.size; (r.1, .ok, r.2)

/-- Is the controller in recovery Bare (R502)? -/
def State.inRecovery (s : State) : Bool := s.start.recovery && decide (s.start.mode = .bare)

/-- One access: reserved regions (R547, R548), recovery Bare (R550), reach (R549), then the access itself. -/
def State.access (s : State) (a : Access) : Reply :=
  match locate a.off with
  | none => (s.logAcc 0 a.who .unassigned a.wr.isSome a.off a.off, abortOf a.who, 0)
  | some (v, b, o) =>
    if s.inRecovery && !decide (a.who = .medulla) && !recoveryReg b o then (s.logAcc 0 a.who .unassigned a.wr.isSome a.off a.off, abortOf a.who, 0)
    else if !s.reach a.who b o a.wr.isSome then (s.logAcc b.base a.who .denied a.wr.isSome o a.off, deniedOf a.who, 0)
    else s.perform a v b o

/-! ### Through the endpoint (R541, R543 to R545) -/

/-- The function of a requester: 0 PF0, k VF k. -/
def fnOf : Requester → Option Nat | .pf0 => some 0 | .vf k => if 1 ≤ k ∧ k ≤ 16 then some k else none | _ => none

/-- Whether a memory request of a function reaches a BAR: FIRM has ended, the function is not in D3hot, and its BARs are mapped. -/
def State.barUp (s : State) (fn : Nat) : Bool := s.start.firmDone && !s.host.d3hot && decide (fn ∈ s.host.bars)

/-- Send the completion of an access of a function. -/
def State.complete (r : Reply) (write : Bool) : State := r.1.emit (if write then .hostDone r.2.1 else .hostRead r.2.2 r.2.1)

/-- A BAR0 access of a function, or an access of the Medulla or of a window's register network, which complete elsewhere. -/
def State.regAccess (s : State) (a : Access) : State :=
  match a.who with
  | .medulla => if s.start.firmDone then (s.access a).1 else s
  | .window _ => (s.access a).1
  | _ =>
    if s.host.inReset || decide (s.start.mode = .dormant) then s
    else match fnOf a.who with
      | none => State.complete (s, .unsupported, 0) a.wr.isSome
      | some fn => State.complete (if s.barUp fn && decide (a.off < 0x4000000) then s.access a else (s, .unsupported, 0)) a.wr.isSome

/-- The counter page through BAR2 of VF k (R591): reads while MAP is set. -/
def State.pageRead (s : State) (k off size : Nat) : Reply :=
  let o := 0x40000 + 0x1000 * (k - 1) + off
  if (s.tpage (k - 1)).map then s.perform { who := .vf k, off := 0x1000000 + o, size := size } .normal .cap o
  else (s.capDenied (.vf k) false o, .completerAbort, 0)

/-- A word of a function's MSI-X table or PBA (BAR4): vector control of an entry, or 64 pending bits. Message addresses and data are the host's. -/
def State.msixWord (s : State) (fn off : Nat) : BitVec 64 :=
  let m := s.msix fn
  let pba := if fn = 0 then 0x8000 else 0x1000
  if pba ≤ off ∧ off < pba + vecsOf fn / 8 then BitVec.ofNat 64 (mapBits (m.pba.filter (fun v => decide (off - pba ≤ v / 8) && decide (v / 64 = (off - pba) / 8))) / 2 ^ (8 * (off - pba)))
  else if off < 16 * vecsOf fn ∧ off % 16 = 12 then (if off / 16 ∈ m.unmasked then 0 else 1)
  else 0

/-- A read through BAR `bar`. -/
def State.barRead (s : State) (who : Requester) (bar off size : Nat) : State :=
  if bar = 0 then s.regAccess { who := who, off := off, size := size }
  else if s.host.inReset || decide (s.start.mode = .dormant) then s
  else match fnOf who with
    | none => s
    | some fn =>
      State.complete (
        if !s.barUp fn then (s, .unsupported, 0)
        else if bar = 2 ∧ 1 ≤ fn ∧ off < 0x1000 then s.pageRead fn off size
        else if bar = 4 ∧ off < (if fn = 0 then 0x10000 else 0x2000) then (s, .ok, s.msixWord fn off &&& BitVec.ofNat 64 (2 ^ (8 * size) - 1))
        else (s, .unsupported, 0)) false

/-! ### The commands -/

/-- REGISTER_WRITE. -/
def execRegisterWrite (who : Requester) (off : BitVec 26) (size : Nat) (val : BitVec 64) (s : State) : Ans :=
  .next (s.regAccess { who := who, off := off.toNat, size := size, wr := some val })

/-- Does an offset lie in a SET, CLR or TGL view? -/
def inAlias (a : Nat) : Bool := match viewAt a with | some (.normal, _) => false | some _ => true | none => false

/-- ALIAS_WRITE: a write through the SET, CLR or TGL view. -/
def execAliasWrite (who : Requester) (off : BitVec 26) (size : Nat) (val : BitVec 64) (s : State) : Ans :=
  .next (if inAlias off.toNat then s.regAccess { who := who, off := off.toNat, size := size, wr := some val } else s)

/-- Does an offset lie among the counters? -/
def inCounters (a : Nat) : Bool := decide (0x1000000 ≤ a) && decide (a < 0x1100000) && (cntAt (a - 0x1000000)).isSome

/-- COUNTER_WRITE. -/
def execCounterWrite (who : Requester) (off : BitVec 26) (size : Nat) (val : BitVec 64) (inc : Nat) (s : State) : Ans :=
  .next (if inCounters off.toNat then s.regAccess { who := who, off := off.toNat, size := size, wr := some val, inc := inc } else s)

/-- SLOW_WRITE. -/
def execSlowWrite (who : Requester) (off : BitVec 26) (size : Nat) (val : BitVec 64) (s : State) : Ans :=
  .next (match locate off.toNat with
    | some (.normal, .slow _, _) => s.regAccess { who := who, off := off.toNat, size := size, wr := some val }
    | _ => s)

/-- SLOW_WRITE_DONE: the selection or the access-error bits take the posted write, and BUSY clears. -/
def execSlowWriteDone (k : Nat) (s : State) : Ans :=
  .next (
    let x := s.slowB k
    if !x.busy then s
    else
      let y : Slow := { sel := if x.postOff = 0x10 then x.posted &&& (if k < 16 then 0x01377FFF else 3) else x.sel }
      let s := s.modSlow k (fun _ => y)
      if x.postOff = 0x0C then s.accPut (0x1200000 + 0x1000 * k) { who := .pf0, nv := 0, ones := x.posted, touch := 0 } else s)

/-- Does an access fall on PERM_SHD or RNG_SHD, in any view? -/
def inShadow (a : Nat) : Bool :=
  match locate a with
  | some (_, .prot, o) => (decide (0x800 ≤ o) && decide (o < 0xC00)) || (decide (0x3000 ≤ o) && decide (o < 0x5000))
  | _ => false

/-- SHADOW_WRITE. -/
def execShadowWrite (who : Requester) (off : BitVec 26) (size : Nat) (val : BitVec 64) (s : State) : Ans :=
  .next (if inShadow off.toNat then s.regAccess { who := who, off := off.toNat, size := size, wr := some val } else s)

/-- SPH_MAX_WRITE: a write of GLB_SPH_TEN(t). -/
def execSphMaxWrite (who : Requester) (t : Nat) (val : BitVec 32) (s : State) : Ans :=
  .next (if t < 16 then s.regAccess { who := who, off := 0x2100 + 4 * t, size := 4, wr := some (val.setWidth 64) } else s)

/-- REGISTER_READ. -/
def execRegisterRead (who : Requester) (bar : Nat) (off : BitVec 26) (size : Nat) (s : State) : Ans := .next (s.barRead who bar off.toNat size)

/-! ### Configuration windows (R29, R309, R310, R353) -/

/-- Steps 1 and 2 of R388 for a register access at port `p`. -/
def State.cfgFail (s : State) (p : Nat) (D : ImgDomain) : Option Nat :=
  let e := s.permOfPort p
  if !e.valid then some 1 else if !e.cfg || decide (D.cfgwin = 0) then some 2 else none

/-- The answer to a register access of an agent. -/
def cfgAnswer (m : Msg) (write : Bool) (st : RegStatus) (v : BitVec 64) : Msg :=
  match st with
  | .ok => { op := if write then .cfgAck else .cfgData, line := m.line, txn := m.txn, requester := m.requester, destDev := epDev m.requester
             cfgData := if write then 0 else v, cfgEight := m.cfgEight, cfgOff := m.cfgOff }
  | .errDenied => errFor m .denied
  | _ => errFor m .protocol

/-- An answer to a register access waits at its Gate, in no queue of the cushion pool (R29), until it leaves by the port. -/
def State.cfgReply (s : State) (p : Nat) (at_ : KTime) (m : Msg) : State :=
  s.modGate (portNode p) (fun G => { G with cfgOut := G.cfgOut ++ [(p, at_, m)] })

/-- CFG_RD or CFG_WR at port `p`: the mode check, the role, steps 1 and 2 of R388, then the register network. After DETACH_ACK a request from the port is
UNREACHABLE (R376). -/
def State.cfgAccess (s : State) (p : Nat) (m : Msg) (write : Bool) : State :=
  match s.portDom p with
  | none => s
  | some (d, D) =>
    let g := portNode p
    let i := s.ingressEdge g (portSlot p)
    let s := i.1
    let now := s.kt d + fclks (i.2 - s.clk.fclk)
    let role := (s.iport p).role
    let m := { m with op := if write then .cfgWr else .cfgRd, requester := if role = .peer then m.requester else portEp D.device p }
    let no (e : ErrCode) (k : Nat) (s : State) : State := (s.cfgReply p now (refusal m e)).bump (cGate g k)
    if !s.open_ || s.stopped d then no .notServing 14 s
    else if (s.port p).state = .draining ∧ (s.port p).detach = .acked then (s.cfgReply p now (refusal m .unreachable)).bump (cPort p 38)
    else if role = .memory ∨ role = .off then no .protocol 15 s
    else match s.cfgFail p D with
      | some k => (no .denied 13 s).bump (cGlb (16 + k))
      | none =>
        let r := s.access { who := .window d, off := m.cfgOff.toNat, size := if m.cfgEight then 8 else 4, wr := if write then some m.cfgData else none }
        r.1.cfgReply p now (cfgAnswer m write r.2.1 r.2.2)

/-- CFG_RD. -/
def execCfgRd (port : Nat) (m : Msg) (s : State) : Ans := .next (s.atPort port { m with op := .cfgRd } (fun s => s.cfgAccess port m false))
/-- CFG_WR. -/
def execCfgWr (port : Nat) (m : Msg) (s : State) : Ans := .next (s.atPort port { m with op := .cfgWr } (fun s => s.cfgAccess port m true))

end Sys2Proof.Machine
end

