-- ==== Sys2Proof/Machine/Dispatch.lean ====
section
/-! DEFINITION. One arm per command: a direct call of its meaning, or a rejection by name. -/

namespace Sys2Proof.Machine

open Sys2Proof

def exec (i : Instr) (s : State) : Host.Outcome State Fault Refusal :=
  match i with
  | .start x => Sys2Proof.Machine.execStart x s
  | .supplyRetry x => Sys2Proof.Machine.execSupplyRetry x s
  | .resetN flushUs durable => Sys2Proof.Machine.execResetN flushUs durable s
  | .pfwN byPlatform flushUs durable => Sys2Proof.Machine.execPfwN byPlatform flushUs durable s
  | .inputInvalid mv bank => Sys2Proof.Machine.execInputInvalid mv bank s
  | .vinDip mv => Sys2Proof.Machine.execVinDip mv s
  | .dipTimer => Sys2Proof.Machine.execDipTimer s
  | .eWarn bank => Sys2Proof.Machine.execEWarn bank s
  | .ride mv bank => Sys2Proof.Machine.execRide mv bank s
  | .overvolt mv => Sys2Proof.Machine.execOvervolt mv s
  | .thermal x c => Sys2Proof.Machine.execThermal x c s
  | .warn x c => Sys2Proof.Machine.execWarn x c s
  | .pfwRelease mv heldUs => Sys2Proof.Machine.execPfwRelease mv heldUs s
  | .perstN low => Sys2Proof.Machine.execPerstN low s
  | .flr => Sys2Proof.Machine.execFlr s
  | .flrVf k => Sys2Proof.Machine.execFlrVf k s
  | .refLost noEdge ppm => Sys2Proof.Machine.execRefLost noEdge ppm s
  | .refReturn => Sys2Proof.Machine.execRefReturn s
  | .drain => Sys2Proof.Machine.execDrain s
  | .quiescent durable => Sys2Proof.Machine.execQuiescent durable s
  | .maint => Sys2Proof.Machine.execMaint s
  | .resume => Sys2Proof.Machine.execResume s
  | .forcePair x => Sys2Proof.Machine.execForcePair x s
  | .pairGood => Sys2Proof.Machine.execPairGood s
  | .fenceForget => Sys2Proof.Machine.execFenceForget s
  | .knownGood => Sys2Proof.Machine.execKnownGood s
  | .imgWrite slotB bytes dmaOk => Sys2Proof.Machine.execImgWrite slotB bytes dmaOk s
  | .imgVerify slotB => Sys2Proof.Machine.execImgVerify slotB s
  | .imgTrial slotB => Sys2Proof.Machine.execImgTrial slotB s
  | .imgApply slotB x y => Sys2Proof.Machine.execImgApply slotB x y s
  | .imgConfirm => Sys2Proof.Machine.execImgConfirm s
  | .imgErase slotB => Sys2Proof.Machine.execImgErase slotB s
  | .imgRoute bytes dmaOk => Sys2Proof.Machine.execImgRoute bytes dmaOk s
  | .getInfo dmaOk => Sys2Proof.Machine.execGetInfo dmaOk s
  | .fwWrite slotB bytes dmaOk => Sys2Proof.Machine.execFwWrite slotB bytes dmaOk s
  | .fwVerify slotB => Sys2Proof.Machine.execFwVerify slotB s
  | .mcWrite slotB bytes dmaOk => Sys2Proof.Machine.execMcWrite slotB bytes dmaOk s
  | .mcVerify slotB => Sys2Proof.Machine.execMcVerify slotB s
  | .ownerFill bytes dmaOk => Sys2Proof.Machine.execOwnerFill bytes dmaOk s
  | .ownerEmpty bytes dmaOk => Sys2Proof.Machine.execOwnerEmpty bytes dmaOk s
  | .peatRead dmaOk => Sys2Proof.Machine.execPeatRead dmaOk s
  | .measurements blocks => Sys2Proof.Machine.execMeasurements blocks s
  | .cert slot => Sys2Proof.Machine.execCert slot s
  | .chal nonce => Sys2Proof.Machine.execChal nonce s
  | .keyEx share => Sys2Proof.Machine.execKeyEx share s
  | .hbeat session => Sys2Proof.Machine.execHbeat session s
  | .ideKm session key => Sys2Proof.Machine.execIdeKm session key s
  | .ideCheckFail => Sys2Proof.Machine.execIdeCheckFail s
  | .msixPendingSend fn vec => Sys2Proof.Machine.execMsixPendingSend fn vec s
  | .registerWrite who off size val => Sys2Proof.Machine.execRegisterWrite who off size val s
  | .aliasWrite who off size val => Sys2Proof.Machine.execAliasWrite who off size val s
  | .counterWrite who off size val inc => Sys2Proof.Machine.execCounterWrite who off size val inc s
  | .slowWrite who off size val => Sys2Proof.Machine.execSlowWrite who off size val s
  | .slowWriteDone k => Sys2Proof.Machine.execSlowWriteDone k s
  | .shadowWrite who off size val => Sys2Proof.Machine.execShadowWrite who off size val s
  | .sphMaxWrite who t val => Sys2Proof.Machine.execSphMaxWrite who t val s
  | .cfgRd port m => Sys2Proof.Machine.execCfgRd port m s
  | .cfgWr port m => Sys2Proof.Machine.execCfgWr port m s
  | .qrel n => Sys2Proof.Machine.execQrel n s
  | .homQrel n => Sys2Proof.Machine.execHomQrel n s
  | .lstest n squashed => Sys2Proof.Machine.execLstest n squashed s
  | .predClr n => Sys2Proof.Machine.execPredClr n s
  | .predClrDone n => Sys2Proof.Machine.execPredClrDone n s
  | .slcAudit n => Sys2Proof.Machine.execSlcAudit n s
  | .slcAuditEnd n => Sys2Proof.Machine.execSlcAuditEnd n s
  | .flush n q => Sys2Proof.Machine.execFlush n q s
  | .flushDone n q => Sys2Proof.Machine.execFlushDone n q s
  | .holdClr g => Sys2Proof.Machine.execHoldClr g s
  | .gateAudit g => Sys2Proof.Machine.execGateAudit g s
  | .gateAuditEnd g => Sys2Proof.Machine.execGateAuditEnd g s
  | .rtrAudit n => Sys2Proof.Machine.execRtrAudit n s
  | .rtrAuditEnd n => Sys2Proof.Machine.execRtrAuditEnd n s
  | .homNcAudit n => Sys2Proof.Machine.execHomNcAudit n s
  | .homNcAuditEnd n => Sys2Proof.Machine.execHomNcAuditEnd n s
  | .lock ten => Sys2Proof.Machine.execLock ten s
  | .unlock ten => Sys2Proof.Machine.execUnlock ten s
  | .lockPass p line ten => Sys2Proof.Machine.execLockPass p line ten s
  | .unlockPass p line ten => Sys2Proof.Machine.execUnlockPass p line ten s
  | .claim => Sys2Proof.Machine.execClaim s
  | .release => Sys2Proof.Machine.execRelease s
  | .commit => Sys2Proof.Machine.execCommit s
  | .epochDrained => Sys2Proof.Machine.execEpochDrained s
  | .keygen k => Sys2Proof.Machine.execKeygen k s
  | .retire k => Sys2Proof.Machine.execRetire k s
  | .retireEnd k => Sys2Proof.Machine.execRetireEnd k s
  | .rangeInvalidation d => Sys2Proof.Machine.execRangeInvalidation d s
  | .rekey job rng newkey => Sys2Proof.Machine.execRekey job rng newkey s
  | .reseed job rng newkey => Sys2Proof.Machine.execReseed job rng newkey s
  | .crozierPass job line => Sys2Proof.Machine.execCrozierPass job line s
  | .pop => Sys2Proof.Machine.execPop s
  | .unfence frond index => Sys2Proof.Machine.execUnfence frond index s
  | .arm => Sys2Proof.Machine.execArm s
  | .disarm => Sys2Proof.Machine.execDisarm s
  | .snap => Sys2Proof.Machine.execSnap s
  | .zero incs => Sys2Proof.Machine.execZero incs s
  | .capsuleLatch => Sys2Proof.Machine.execCapsuleLatch s
  | .dumpEnd x => Sys2Proof.Machine.execDumpEnd x s
  | .pageZero who t incs => Sys2Proof.Machine.execPageZero who t incs s
  | .rdSh port m => Sys2Proof.Machine.execRdSh port m s
  | .rdOwn port m => Sys2Proof.Machine.execRdOwn port m s
  | .ownUpg port m => Sys2Proof.Machine.execOwnUpg port m s
  | .ownNodata port m => Sys2Proof.Machine.execOwnNodata port m s
  | .rdNa port m => Sys2Proof.Machine.execRdNa port m s
  | .wr port m => Sys2Proof.Machine.execWr port m s
  | .carriedRequest port m => Sys2Proof.Machine.execCarriedRequest port m s
  | .holdExpire g h => Sys2Proof.Machine.execHoldExpire g h s
  | .retryOrderClose g slot j => Sys2Proof.Machine.execRetryOrderClose g slot j s
  | .balancer d => Sys2Proof.Machine.execBalancer d s
  | .slotAdvance d => Sys2Proof.Machine.execSlotAdvance d s
  | .watchTimeout g j => Sys2Proof.Machine.execWatchTimeout g j s
  | .tailExpire g j => Sys2Proof.Machine.execTailExpire g j s
  | .completionEgress port m => Sys2Proof.Machine.execCompletionEgress port m s
  | .barrier port m => Sys2Proof.Machine.execBarrier port m s
  | .barDone g j => Sys2Proof.Machine.execBarDone g j s
  | .lookupPass n m x => Sys2Proof.Machine.execLookupPass n m x s
  | .pfHint n m => Sys2Proof.Machine.execPfHint n m s
  | .runAheadExpire n line => Sys2Proof.Machine.execRunAheadExpire n line s
  | .tileData n slot upper flips used m => Sys2Proof.Machine.execTileData n slot upper flips used m s
  | .halfFill n m => Sys2Proof.Machine.execHalfFill n m s
  | .snpSh n m x => Sys2Proof.Machine.execSnpSh n m x s
  | .snpOwn n m x => Sys2Proof.Machine.execSnpOwn n m x s
  | .snpInv n m x => Sys2Proof.Machine.execSnpInv n m x s
  | .snpCur n m x => Sys2Proof.Machine.execSnpCur n m x s
  | .rspI atHome n m x => Sys2Proof.Machine.execRspI atHome n m x s
  | .rspS atHome n m x => Sys2Proof.Machine.execRspS atHome n m x s
  | .rspFwd atHome n m x => Sys2Proof.Machine.execRspFwd atHome n m x s
  | .sdata atHome n m x => Sys2Proof.Machine.execSdata atHome n m x s
  | .compAck atHome p m => Sys2Proof.Machine.execCompAck atHome p m s
  | .data n m x => Sys2Proof.Machine.execData n m x s
  | .grant p m => Sys2Proof.Machine.execGrant p m s
  | .cmp p m => Sys2Proof.Machine.execCmp p m s
  | .dur p m => Sys2Proof.Machine.execDur p m s
  | .err p m => Sys2Proof.Machine.execErr p m s
  | .wbAck n m => Sys2Proof.Machine.execWbAck n m s
  | .wbSuperseded n m => Sys2Proof.Machine.execWbSuperseded n m s
  | .wb atHome p m => Sys2Proof.Machine.execWb atHome p m s
  | .evn atHome p m => Sys2Proof.Machine.execEvn atHome p m s
  | .rolloverEnd n key => Sys2Proof.Machine.execRolloverEnd n key s
  | .homeSequence n m src => Sys2Proof.Machine.execHomeSequence n m src s
  | .activation p line => Sys2Proof.Machine.execActivation p line s
  | .memData n m ing => Sys2Proof.Machine.execMemData n m ing s
  | .memAck n m => Sys2Proof.Machine.execMemAck n m s
  | .memDur n m ing => Sys2Proof.Machine.execMemDur n m ing s
  | .memWrEjected n line => Sys2Proof.Machine.execMemWrEjected n line s
  | .mshrTimeout n j => Sys2Proof.Machine.execMshrTimeout n j s
  | .nodeClean n key => Sys2Proof.Machine.execNodeClean n key s
  | .epoch n => Sys2Proof.Machine.execEpoch n s
  | .sphagnumMove n => Sys2Proof.Machine.execSphagnumMove n s
  | .sweepMarker n => Sys2Proof.Machine.execSweepMarker n s
  | .sweepPass p => Sys2Proof.Machine.execSweepPass p s
  | .sweepEnd n => Sys2Proof.Machine.execSweepEnd n s
  | .patrolScrub n flips x => Sys2Proof.Machine.execPatrolScrub n flips x s
  | .dirScrub n x => Sys2Proof.Machine.execDirScrub n x s
  | .ncScrub n correctable uncorrectable => Sys2Proof.Machine.execNcScrub n correctable uncorrectable s
  | .stipeScrub disagree badKeys => Sys2Proof.Machine.execStipeScrub disagree badKeys s
  | .spareRemap n => Sys2Proof.Machine.execSpareRemap n s
  | .sliceDrainStep n => Sys2Proof.Machine.execSliceDrainStep n s
  | .drainEnd n => Sys2Proof.Machine.execDrainEnd n s
  | .handoverEnd n => Sys2Proof.Machine.execHandoverEnd n s
  | .detour d => Sys2Proof.Machine.execDetour d s
  | .detourReorderEnd d => Sys2Proof.Machine.execDetourReorderEnd d s
  | .unitArrival n a x => Sys2Proof.Machine.execUnitArrival n a x s
  | .detect p awake => Sys2Proof.Machine.execDetect p awake s
  | .train p x => Sys2Proof.Machine.execTrain p x s
  | .discId p x => Sys2Proof.Machine.execDiscId p x s
  | .discCfg p x => Sys2Proof.Machine.execDiscCfg p x s
  | .discKeyx p share sig chainRoot => Sys2Proof.Machine.execDiscKeyx p share sig chainRoot s
  | .discDone p offset => Sys2Proof.Machine.execDiscDone p offset s
  | .discRej p reason => Sys2Proof.Machine.execDiscRej p reason s
  | .discTimeout p => Sys2Proof.Machine.execDiscTimeout p s
  | .failedReturn p => Sys2Proof.Machine.execFailedReturn p s
  | .timeStep d => Sys2Proof.Machine.execTimeStep d s
  | .tsyncExchange p t1 => Sys2Proof.Machine.execTsyncExchange p t1 s
  | .tsyncReq p t1 t2 t3 => Sys2Proof.Machine.execTsyncReq p t1 t2 t3 s
  | .tsyncRsp p t1 t2 t3 t4 sync rootIdx rootHops => Sys2Proof.Machine.execTsyncRsp p t1 t2 t3 t4 sync rootIdx rootHops s
  | .syncLost d => Sys2Proof.Machine.execSyncLost d s
  | .lack p seq => Sys2Proof.Machine.execLack p seq s
  | .lnak p seq => Sys2Proof.Machine.execLnak p seq s
  | .tag p block flits tagBits newKey => Sys2Proof.Machine.execTag p block flits tagBits newKey s
  | .linkKeyExchange p share sig chainRoot => Sys2Proof.Machine.execLinkKeyExchange p share sig chainRoot s
  | .retrain p => Sys2Proof.Machine.execRetrain p s
  | .fastRetrainEnd p ok => Sys2Proof.Machine.execFastRetrainEnd p ok s
  | .portDrain p => Sys2Proof.Machine.execPortDrain p s
  | .detachReq p => Sys2Proof.Machine.execDetachReq p s
  | .detachAck p => Sys2Proof.Machine.execDetachAck p s
  | .detachDone p => Sys2Proof.Machine.execDetachDone p s
  | .drainFallback p => Sys2Proof.Machine.execDrainFallback p s
  | .partnerDead p => Sys2Proof.Machine.execPartnerDead p s
  | .isolationEnd p => Sys2Proof.Machine.execIsolationEnd p s
  | .sensorRefresh x => Sys2Proof.Machine.execSensorRefresh x s
  | .page v pecOk => Sys2Proof.Machine.execPage v pecOk s
  | .clearFaults pecOk => Sys2Proof.Machine.execClearFaults pecOk s
  | .capability pecOk => Sys2Proof.Machine.execCapability pecOk s
  | .voutMode pecOk => Sys2Proof.Machine.execVoutMode pecOk s
  | .statusByte pecOk => Sys2Proof.Machine.execStatusByte pecOk s
  | .statusWord pecOk => Sys2Proof.Machine.execStatusWord pecOk s
  | .statusVout pecOk => Sys2Proof.Machine.execStatusVout pecOk s
  | .statusIout pecOk => Sys2Proof.Machine.execStatusIout pecOk s
  | .statusInput pecOk => Sys2Proof.Machine.execStatusInput pecOk s
  | .statusTemperature pecOk => Sys2Proof.Machine.execStatusTemperature pecOk s
  | .statusCml pecOk => Sys2Proof.Machine.execStatusCml pecOk s
  | .readVin pecOk => Sys2Proof.Machine.execReadVin pecOk s
  | .readIin pecOk => Sys2Proof.Machine.execReadIin pecOk s
  | .readVout pecOk => Sys2Proof.Machine.execReadVout pecOk s
  | .readIout pecOk => Sys2Proof.Machine.execReadIout pecOk s
  | .readTemperature1 pecOk => Sys2Proof.Machine.execReadTemperature1 pecOk s
  | .readTemperature2 pecOk => Sys2Proof.Machine.execReadTemperature2 pecOk s
  | .readTemperature3 pecOk => Sys2Proof.Machine.execReadTemperature3 pecOk s
  | .readPout pecOk => Sys2Proof.Machine.execReadPout pecOk s
  | .readPin pecOk => Sys2Proof.Machine.execReadPin pecOk s
  | .pmbusRevision pecOk => Sys2Proof.Machine.execPmbusRevision pecOk s
  | .mfrId pecOk => Sys2Proof.Machine.execMfrId pecOk s
  | .mfrModel pecOk => Sys2Proof.Machine.execMfrModel pecOk s
  | .mfrRevision pecOk => Sys2Proof.Machine.execMfrRevision pecOk s
  | .alertResponse => Sys2Proof.Machine.execAlertResponse s
  | .idcode => Sys2Proof.Machine.execIdcode s
  | .bypass tdi => Sys2Proof.Machine.execBypass tdi s
  | .samplePreload cells => Sys2Proof.Machine.execSamplePreload cells s
  | .extest cells => Sys2Proof.Machine.execExtest cells s
  | .arrayInstruction x => Sys2Proof.Machine.execArrayInstruction x s
  | .linkCheckFail p f => Sys2Proof.Machine.execLinkCheckFail p f s
  | .trainingBudget p x => Sys2Proof.Machine.execTrainingBudget p x s
  | .registerRead who bar off size => Sys2Proof.Machine.execRegisterRead who bar off size s
  | .configurationRequest x => Sys2Proof.Machine.execConfigurationRequest x s
  | .vectorUnmask fn vec => Sys2Proof.Machine.execVectorUnmask fn vec s
  | .alwaysOnDomainStart smbAddr => Sys2Proof.Machine.execAlwaysOnDomainStart smbAddr s
  | .retryResend d => Sys2Proof.Machine.execRetryResend d s
  | .pmbusInvalidCommand code write => Sys2Proof.Machine.execPmbusInvalidCommand code write s

end Sys2Proof.Machine
end

