-- ==== Sys2Proof/Safety.lean ====
section
/-! DEFINITION. What a step does when nothing goes wrong, in the terms that statements use. -/

namespace Sys2Proof.Machine

open Sys2Proof

/-- A command completes in `t`. -/
def Completes (c : Instr) (s t : State) : Prop := exec c s = .next t

/-- A step that neither faults nor is refused. -/
def StepsTo (s t : State) : Prop := step s = .next t

/-- Do the credits that port `p` granted cover a message that arrives (R358, R359)? -/
def State.covered (s : State) (p : Nat) (m : Msg) : Bool :=
  decide ((s.port p).inHeld.getD (vnNum (vnOf m.op)) 0 + costOf m ≤ (s.iport p).cred.getD (vnNum (vnOf m.op)) 0)

/-- The state in which a message that arrives under a credit is taken: its flits have been counted and acknowledged, and its cells have left the ingress queue (R351, R358). -/
def State.landed (s : State) (p : Nat) (m : Msg) : State := (s.takeCredit p m).1.leaveIngress p m

/-- `t` is `s` but for slice, home shard, Gate or router `n`. -/
def SliceOnly (n : Nat) (s t : State) : Prop := t = { s with slices := t.slices } ∧ ∀ m, m ≠ n → t.slice m = s.slice m
def HomeOnly (n : Nat) (s t : State) : Prop := t = { s with homes := t.homes } ∧ ∀ m, m ≠ n → t.home m = s.home m
def GateOnly (g : Nat) (s t : State) : Prop := t = { s with gates := t.gates } ∧ ∀ m, m ≠ g → t.gate m = s.gate m
def RouterOnly (n : Nat) (s t : State) : Prop := t = { s with routers := t.routers } ∧ ∀ m, m ≠ n → t.router m = s.router m

/-- No request stands between its ingress edge and its admission edge (R266, R392). -/
def State.settled (s : State) : Prop := ∀ g, ∀ w ∈ (s.gate g).watch, w.admAt < s.clk.fclk

/-- The tables of the state are in canonical form: keys strictly rise, and no entry holds the value that an unlisted one reads as. -/
def State.canonical (s : State) : Bool :=
  twf {} s.doms && twf 0 s.sphMax && twf {} s.slices && twf {} s.homes && twf {} s.gates && twf {} s.routers && twf {} s.pools && twf {} s.ports
    && twf 0 s.cnt && twf {} s.tpages && twf {} s.slow && twf {} s.acc

end Sys2Proof.Machine
end

