-- ==== Sys2Proof/Certificates/Slice0/Obligations.lean ====
section
/-! DEFINITION. The statements for the provers. Most say of a command, for every state and operands that meet conditions on them alone, which next state it
answers; an equation with the whole next state says at once what the command changes and that it changes nothing else. -/

open Sys2Proof Sys2Proof.Machine

/-- R6, R493, R515: when the conditions of a start hold and SUPPLY passes, the start runs through its steps and ends in Bare, Serving or Degraded;
the same holds when a waiting SUPPLY is tried again.
Readings of the model that it rests on: log entries 8 and 140. -/
def Obligations.StartEndsInBareServingOrDegraded : Prop :=
  (∀ (x : StartIn) (s : State), s.start.mode = .dormant → s.pwr.pfwOut = false → x.resetHigh = true → x.pfwHigh = true →
    s.pfwSettled x.pfwHighUs = true → s.inputOk x.vin x.heldUs = true → x.railsOk = true → x.rootLocks = true →
    ∃ t, exec (.start x) s = .next t ∧ (t.start.mode = .bare ∨ t.start.mode = .serving ∨ t.start.mode = .degraded))
  ∧ (∀ (x : StartIn) (s : State), s.start.mode = .rising → s.start.supplyWait = true → x.railsOk = true → x.rootLocks = true →
    ∃ t, exec (.supplyRetry x) s = .next t ∧ (t.start.mode = .bare ∨ t.start.mode = .serving ∨ t.start.mode = .degraded))

/-- R516, R520, R521, R537: the conditions of a dip, of its end and of a trip, as the power supervisor takes them.
Readings of the model that it rests on: log entries 8 and 151. -/
def Obligations.SupervisorEvents : Prop :=
  (∀ (mv : Nat) (s : State), s.pwr.inputValid = true → mv < 8400 →
    exec (.vinDip mv) s = .next { s with
      pwr := { s.pwr with dip := true, dipAt := if s.pwr.dip then s.pwr.dipAt else s.clk.aclk }, pmb := { s.pmb with stInput := s.pmb.stInput ||| 0x20#8, alert := true } })
  ∧ (∀ s : State, s.pwr.inputValid = true → s.pwr.dip = true → s.pwr.dipAt + 5000 ≤ s.clk.aclk → s.pwr.offCause = .none →
    exec .dipTimer s = .next { s with pwr := { s.pwr with pfwOut := true, offCause := .undervolt } })
  ∧ (∀ (bank : Nat) (s : State), s.pwr.inputValid = true → s.pwr.dip = true → bank ≤ 720000 → s.pwr.offCause = .none →
    exec (.eWarn bank) s = .next { s with pwr := { s.pwr with bank := bank, pfwOut := true, offCause := .undervolt } })
  ∧ (∀ (mv bank : Nat) (s : State), s.pwr.dip = true → 8400 ≤ mv → s.pwr.pfwOut = false →
    exec (.ride mv bank) s = .next
      ((({ s with pwr := { s.pwr with dip := false, ride := true, bank := bank } }).bump (cGlb 67)).irq 0 5))
  ∧ (∀ (mv : Nat) (s : State), 63000 < mv → s.pwr.offCause = .none →
    exec (.overvolt mv) s = .next { s with
      pwr := { s.pwr with pfwOut := true, offCause := .overvolt }, pmb := { s.pmb with stInput := s.pmb.stInput ||| 0x80#8, alert := true } })
  ∧ (∀ (c : Int) (s : State), 45 < c →
    exec (.warn .inlet c) s = .next
      ((({ s with pwr := { s.pwr with warn := true, warnSeen := true, inlet := some c },
                  pmb := { s.pmb with stTemp := s.pmb.stTemp ||| 0x40#8, alert := true } }).bump (cGlb 94)).irq 0 5))
  ∧ (∀ (k : Nat) (c : Int) (s : State), k < 8 → 105 ≤ c → s.pwr.offCause = .none → s.pwr.die.length = 8 →
    exec (.thermal (.die k) c) s = .next { s with
      pwr := { s.pwr with warn := true, warnSeen := true, die := setAt s.pwr.die k c, pfwOut := true, offCause := .thermal },
      pmb := { s.pmb with stTemp := s.pmb.stTemp ||| 0x80#8, alert := true } })

/-- R513, R517, R521, R522, R598: what takes the module down, what ends a power fail, and what the always-on domain does when it starts.
Readings of the model that it rests on: log entry 142. -/
def Sys2Proof.Claims.ResetAndPowerFail : Prop :=
  (∀ (us : Nat) (dur : Bool) (s : State), s.start.mode ≠ .dormant → s.pwr.pfwOut = false →
    ∃ t, exec (.resetN us dur) s = .next t ∧ t.start.mode = .dormant ∧ t.pwr.lastOff = .resetN ∧ t.pwr.resetHigh = false
      ∧ t.flash = s.flash ∧ t.slices = [] ∧ t.homes = [] ∧ t.gates = [] ∧ t.prot = {} ∧ t.pending = s.pending)
  ∧ (∀ (us : Nat) (dur : Bool) (s : State), s.start.mode ≠ .dormant → s.pwr.offCause = .none →
    ∃ t, exec (.pfwN true us dur) s = .next t ∧ t.start.mode = .dormant ∧ t.pwr.lastOff = .pfwPlatform ∧ t.pwr.inputValid = false
      ∧ t.flash = s.flash ∧ t.slices = [] ∧ t.homes = [] ∧ t.gates = [] ∧ t.prot = {} ∧ t.pending = s.pending)
  ∧ (∀ (mv : Nat) (s : State), mv < 2000 →
    exec (.inputInvalid mv 0) s = .next
      { State.reset with mram := s.mram, flash := s.flash, out := s.out, free := s.free, pending := s.pending })
  ∧ (∀ (mv us : Nat) (s : State), s.start.mode = .dormant → s.pwr.pfwOut = true → 8700 ≤ mv → mv ≤ 61000 → 1000 ≤ us →
    (∀ c ∈ s.pwr.die, c ≤ 85) → (∀ c ∈ s.pwr.tile, c ≤ 75) → (∀ c ∈ s.pwr.pstage, c ≤ 95) →
    exec (.pfwRelease mv us) s = .next
      { s with pwr := { s.pwr with pfwOut := false, pfwHigh := true, inputValid := true, dip := false, offCause := .none } })
  ∧ (∀ (a : BitVec 3) (s : State), s.start.mode = .dormant → s.pwr.inputValid = false →
    ∃ t, exec (.alwaysOnDomainStart a) s = .next t ∧ t.pwr = { s.pwr with lastOff := .none }
      ∧ t.pmb = { addr := 0x48 + a.setWidth 7 } ∧ t.mram = s.mram ∧ t.flash = s.flash
      ∧ (∀ k, alwaysOnCnt k = true → tget 0 t.cnt k = 0) ∧ (∀ k, alwaysOnCnt k = false → tget 0 t.cnt k = tget 0 s.cnt k))

/-- R34, R36, R542: resets of the endpoint, and the loss and return of the reference while the module serves.
Readings of the model that it rests on: log entries 151 and 161. -/
def Sys2Proof.Claims.EndpointResetsAndReference : Prop :=
  (∀ s : State, s.imgc.run = false → s.mbx.run = false → s.cap.dumping = false →
    exec (.perstN true) s = .next { s with
      pwr := { s.pwr with perstHigh := false }, host := { nextSession := s.host.nextSession, inReset := true } })
  ∧ (∀ s : State, s.imgc.run = false → s.mbx.run = false → s.cap.dumping = false → s.host.inReset = false →
    exec .flr s = .next { s with host := { nextSession := s.host.nextSession, inReset := false } })
  ∧ (∀ (k : Nat) (s : State), s.host.inReset = false → 1 ≤ k → k ≤ 16 →
    exec (.flrVf k) s = .next { s with
      host := { s.host with msix := tset {} s.host.msix k {} }, tpages := tset {} s.tpages (k - 1) { s.tpage (k - 1) with map := false } })
  ∧ (∀ (ppm : Nat) (s : State), s.clk.rootLock = true → s.clk.holdover = false →
    exec (.refLost true ppm) s = .next
      ((({ s with clk := { s.clk with refLost := true, holdover := true, relockPend := false, aclkInternal := true } }).rep .global 0 .refLost).irq 0 5))
  ∧ (∀ s : State, s.clk.holdover = true → s.clk.relockPend = false → s.start.mode = .serving →
    exec .refReturn s = .next ({ s with clk := { s.clk with relockPend := true } }.irq 0 5))

/-- What resets do: the module, the endpoint and its functions; and what the loss and return of the reference does. -/
def Obligations.ResetsAndPowerFail : Prop := Claims.ResetAndPowerFail ∧ Claims.EndpointResetsAndReference

/-- R504, R505, R510, R511, R514: a mode command in a mode that allows it, and what it answers in CMDST (0 OK, 1 RUNNING). -/
def Sys2Proof.Claims.ModeCommandsPart : Prop :=
  (∀ s : State, s.start.mode = .serving ∨ s.start.mode = .degraded →
    exec .drain s = .next (((({ s with start := { s.start with drainRun := true } }).setMode .draining 1).cmdst 1).revokeAll))
  ∧ (∀ s : State, s.start.mode = .quiescent →
    exec .maint s = .next (((s.setMode .maintenance 1).relock.standbyIn).cmdst 0))
  ∧ (∀ s : State, s.start.mode = .quiescent ∨ s.start.mode = .maintenance → s.imgc.img.isSome = true →
    exec .resume s = .next ((s.setMode (if s.fencedAny then .degraded else .serving) 1).cmdst 0))
  ∧ (∀ s : State, s.start.mode = .serving ∨ s.start.mode = .degraded → s.isKnownGood = false →
    exec .pairGood s = .next ((({ s with mram := { s.mram with
      kgFw := s.start.fwUse, kgMc := s.start.mcUse, kgFwVer := s.start.fwVer, kgMcVer := s.start.mcVer } }).pairEntry 4).cmdst 0))
  ∧ (∀ s : State, s.start.mode = .serving ∨ s.start.mode = .degraded → s.start.forced = false → 15000000000 ≤ s.start.kgTime →
    s.isKnownGood = false →
    exec .knownGood s = .next (({ s with mram := { s.mram with
      kgFw := s.start.fwUse, kgMc := s.start.mcUse, kgFwVer := s.start.fwVer, kgMcVer := s.start.mcVer } }).pairEntry 4))
  ∧ (∀ s : State, s.start.mode = .maintenance →
    exec .fenceForget s = .next ((s.peat 0x0A 0).cmdst 0))
  ∧ (∀ (x : StartIn) (s : State), s.start.mode = .bare → s.start.stopWhy = .pair →
    ∃ t, exec (.forcePair x) s = .next t ∧ (t.start.mode = .bare ∨ t.start.mode = .serving ∨ t.start.mode = .degraded)
      ∧ t = ((({ (s.pairEntry 3).cmdst 0 with start := { (s.pairEntry 3).start with
          cmdst := 0, forced := true, forceRun := false, stopWhy := .none, steps := (s.pairEntry 3).start.steps.take 7 } }).setMode .rising 1).runImage x))

/-- R510, R413: when nothing is left in Draining, the flush runs and the mode becomes Quiescent, with the clocks relocked and the ports in STANDBY. -/
def Sys2Proof.Claims.DrainingEndsInQuiescent : Prop :=
  ∀ s : State, s.start.mode = .draining → s.allQuiet = true → s.protBusy = false →
    ∃ t, exec (.quiescent true) s = .next t ∧ t.start.mode = .quiescent ∧ t.start.drainRun = false ∧ t.start.cmdst = 0

/-- What the mode commands do, and how Draining ends. -/
def Obligations.ModeCommands : Prop := Claims.ModeCommandsPart ∧ Claims.DrainingEndsInQuiescent

/-- R480, R484 to R486, R488, R491: the image commands that GO has started, on what their checks find. Whether a file passes is the check of R480;
here the statement says what each outcome does to the slot, to IMG_RESULT and to the log.
Readings of the model that it rests on: log entries 130, 131 and 133. -/
def Obligations.ImageCommands : Prop :=
  (∀ (b : Bool) (bytes : List Byte) (s : State), s.start.mode ≠ .dormant → s.start.recovery = false → s.imgc.run = true → s.imgc.op = 0 →
    s.imgc.slotB = b → s.mram.trial = .none → s.host.bme = true → s.host.d3hot = false →
    exec (.imgWrite b bytes true) s = .next (
      let bs := bytes.take s.imgc.len.toNat
      let w := s.setSlot (slotOfB b) .writing []
      match checkImage (w.imgEnv (some s.imgc.len.toNat) false) bs with
      | .ok i => ((w.setSlot (slotOfB b) .valid bs).imgLog 0 (slotOfB b) .ok i.seq).imgEnd .ok 0 0
      | .error e => ((w.setSlot (slotOfB b) .empty []).imgLog 0 (slotOfB b) e.st (readHeader bs).seq).imgEnd e.st e.sect e.off))
  ∧ (∀ (b : Bool) (s : State), s.start.mode ≠ .dormant → s.start.recovery = false → s.imgc.run = true → s.imgc.op = 1 → s.imgc.slotB = b →
    exec (.imgVerify b) s = .next (match s.checkSlot (slotOfB b) with
      | .ok _ => s.imgEnd .ok 0 0
      | .error e => ((s.setSlot (slotOfB b) .empty []).imgLog 1 (slotOfB b) e.st (readHeader (s.slotBytes (slotOfB b))).seq).imgEnd e.st e.sect e.off))
  ∧ (∀ (b : Bool) (s : State), s.start.mode = .serving → s.start.recovery = false → s.imgc.run = false → s.slotState (slotOfB b) = .valid →
    exec (.imgTrial b) s = .next (
      let u := ({ s with imgc := { s.imgc with op := 2, slotB := b } }).bump (cGlb 34)
      { u with mram := { s.mram with trial := if slotOfB b = s.mram.confirmed then .none else slotOfB b, tried := false } }.imgEnd .ok 0 0))
  ∧ (∀ s : State, s.start.mode = .serving → s.start.recovery = false → s.imgc.run = false → s.imgc.inForce ≠ .none →
    s.mram.trial = s.imgc.inForce →
    exec .imgConfirm s = .next (
      let u := ({ s with imgc := { s.imgc with op := 4 } }).bump (cGlb 36)
      (({ u with mram := { s.mram with confirmed := s.imgc.inForce, trial := .none,
                                       floor := (match s.imgc.img with | some i => i.seq | none => s.mram.floor) } }).bump (cGlb 66)).imgEnd .ok 0 0))
  ∧ (∀ (b : Bool) (s : State), s.start.mode = .serving → s.start.recovery = false → s.imgc.run = false → s.slotHeld (slotOfB b) = false →
    exec (.imgErase b) s = .next (
      let u := ({ s with imgc := { s.imgc with op := 5, slotB := b } }).bump (cGlb 37)
      ((u.setSlot (slotOfB b) .empty []).imgLog 5 (slotOfB b) .ok 0).imgEnd .ok 0 0))
  ∧ (∀ (bytes : List Byte) (s : State), s.start.mode ≠ .dormant → s.start.recovery = false → s.imgc.run = true → s.imgc.op = 6 →
    s.host.bme = true → s.host.d3hot = false →
    exec (.imgRoute bytes true) s = .next (match checkImage (s.imgEnv (some s.imgc.len.toNat) true) (bytes.take s.imgc.len.toNat) with
      | .error e => s.imgEnd e.st e.sect e.off
      | .ok i => ({ s with imgc := { s.imgc with
          routeOvr := some (i.routes ++ (s.imgc.routeOvr.getD []).filter (fun (e : Nat × List RouteEnt) => (alook e.1 i.routes).isNone)), routeDigest := i.digest } }).imgEnd .ok 0 0))
  ∧ (∀ (b : Bool) (x : ApplyIn) (y : StartIn) (s : State), s.start.mode = .maintenance → s.start.recovery = false → s.imgc.run = true →
    s.imgc.op = 3 → s.imgc.slotB = b →
    exec (.imgApply b x y) s = .next (match s.checkSlot (slotOfB b) with
      | .error e => s.imgEnd e.st e.sect e.off
      | .ok i => (((((s.applyClean x).applyDetach x).loadImage i (slotOfB b)).applyDone (slotOfB b) i.seq)).bump (cGlb 65)))

/-- R502, R566 to R570: mailbox commands that GO has started end with what they did in MBX_RESULT; what OWNER answers is `ownerResult`, and it draws a new NONCE.
Readings of the model that it rests on: log entry 163. -/
def Obligations.MailboxCommands : Prop :=
  ∀ s : State, s.start.mode ≠ .dormant → s.start.firmDone = true → s.mbx.run = true → s.host.bme = true → s.host.d3hot = false →
    (s.mbx.op = 1 → exec (.getInfo true) s = .next ((s.emit (.dma s.mbx.rsp s.infoBytes)).mbxEnd .ok s.infoBytes.length))
    ∧ (s.mbx.op = 7 → exec (.peatRead true) s = .next ((s.emit (.dma s.mbx.rsp s.peatRing)).mbxEnd .ok s.peatRing.length))
    ∧ (∀ (b : Bool) (bytes : List Byte), s.mbx.op = 2 → s.mbx.slotB = b → s.start.fwUse ≠ slotOfB b →
      exec (.fwWrite b bytes true) s = .next (
        let bs := bytes.take s.mbx.reqLen.toNat
        if fileFormat true s.mbx.reqLen.toNat bs = false then (s.setFile true (slotOfB b) none).mbxEnd .format 0
        else if fileSigned bs = false then (s.setFile true (slotOfB b) none).mbxEnd .signature 0
        else if fileRev (readFile bs) = false then (s.setFile true (slotOfB b) none).mbxEnd .hwrev 0
        else (s.setFile true (slotOfB b) (some (readFile bs))).mbxEnd .ok 0))
    ∧ (∀ (b : Bool) (bytes : List Byte), s.mbx.op = 4 → s.mbx.slotB = b → s.start.mcUse ≠ slotOfB b →
      exec (.mcWrite b bytes true) s = .next (
        let bs := bytes.take s.mbx.reqLen.toNat
        if fileFormat false s.mbx.reqLen.toNat bs = false then (s.setFile false (slotOfB b) none).mbxEnd .format 0
        else if fileSigned bs = false then (s.setFile false (slotOfB b) none).mbxEnd .signature 0
        else if fileRev (readFile bs) = false then (s.setFile false (slotOfB b) none).mbxEnd .hwrev 0
        else (s.setFile false (slotOfB b) (some (readFile bs))).mbxEnd .ok 0))
    ∧ (∀ (b : Bool) (f : CodeFile), s.mbx.op = 3 → s.mbx.slotB = b → s.codeFile true (slotOfB b) = some f →
      exec (.fwVerify b) s = .next (if fileRev f then s.mbxEnd .ok 0 else (s.setFile true (slotOfB b) none).mbxEnd .hwrev 0))
    ∧ (∀ (b : Bool) (f : CodeFile), s.mbx.op = 5 → s.mbx.slotB = b → s.codeFile false (slotOfB b) = some f →
      exec (.mcVerify b) s = .next (if fileRev f then s.mbxEnd .ok 0 else (s.setFile false (slotOfB b) none).mbxEnd .hwrev 0))
    ∧ (∀ bytes : List Byte, s.mbx.op = 6 → ∀ bs, bs = bytes.take s.mbx.reqLen.toNat →
      exec (.ownerFill bytes true) s = .next (
        if s.ownerResult true bs = .ok then ((s.setOwner (rdB bs 0) (some (BitVec.ofNat 512 (rdN bs 20 64)))).mbxEnd .ok 0).newNonce
        else (s.mbxEnd (s.ownerResult true bs) 0).newNonce)
      ∧ exec (.ownerEmpty bytes true) s = .next (
        if s.ownerResult false bs = .ok then ((s.setOwner (rdB bs 0) none).mbxEnd .ok 0).newNonce
        else (s.mbxEnd (s.ownerResult false bs) 0).newNonce))

/-- R540, R563 to R565, and MSI-X under R561 and R562: how the functions identify themselves, the SPDM answers and the IDE stream, and a vector held 10 µs that then leaves. The model's choices: the SPDM codes
and block layouts and the numbering of sessions (PRESUMED, log entry 162), measurement 4 under a ROUTE (DESIGN CHOICE, log entry 17), and the mask bits and the 250
ACLK edges of a held vector (PRESUMED, log entry 160). -/
def Obligations.AttestationAndIde : Prop :=
  (∀ s : State, s.host.inReset = false → s.start.firmDone = true →
    (∀ bl, exec (.measurements bl) s = .next (s.emit (.spdm 0x60 (bl.filterMap s.measure) (some (Config.spdmSign (bl.filterMap s.measure))))))
    ∧ exec (.cert 0) s = .next (s.emit (.spdm 0x02 (Config.certChain.map wide) none))
    ∧ (∀ nonce, exec (.chal nonce) s = .next (s.emit (.spdm 0x03 (wide nonce :: Config.certChain.map wide)
        (some (Config.spdmSign (wide nonce :: Config.certChain.map wide))))))
    ∧ (∀ share, ∃ t, exec (.keyEx share) s = .next t ∧ t.host.sessions = s.host.sessions ++ [s.host.nextSession]
        ∧ t.host.nextSession = s.host.nextSession + 1 ∧ t.free = s.free + 1 ∧ t.out.length = s.out.length + 1)
    ∧ (∀ k, k ∈ s.host.sessions →
        exec (.hbeat k) s = .next (s.emit (.spdm 0x68 [BitVec.ofNat 1024 k] none))
        ∧ ∀ key, exec (.ideKm k key) s = .next { s with host := { s.host with ide := .secure, ideKey := key } }))
  ∧ (∀ s : State, s.host.ide = .secure → exec .ideCheckFail s = .next { s with host := { s.host with ide := .insecure, aerIde := true } })
  ∧ (∀ (fn vec : Nat) (s : State), vec ∈ (s.msix fn).held → tget 0 (s.msix fn).sent vec + 250 ≤ s.clk.aclk + 1 →
    exec (.msixPendingSend fn vec) s = .next ((s.modMsix fn (fun m => { m with held := m.held.filter (fun v => decide (v ≠ vec)) })).irq fn vec))
  ∧ (∀ (fn vec : Nat) (s : State), s.host.inReset = false → vec < vecsOf fn → vec ∉ (s.msix fn).pba →
    exec (.vectorUnmask fn vec) s = .next (s.modMsix fn (fun m => { m with unmasked := insNat vec m.unmasked })))
  ∧ (∀ s : State, s.host.inReset = false → s.start.firmDone = true →
    exec (.configurationRequest (.setPower true)) s = .next ((({ s with host := { s.host with d3hot := true } }).dumpDmaErr).emit (.cfgDone .ok))
    ∧ exec (.configurationRequest (.read 0)) s = .next ((s.emit (.cfgRead 0 [Config.vendor.toNat, 0x9256, 0x058000, Config.hwRev.toNat])).emit (.cfgDone .ok))
    ∧ ∀ k, 1 ≤ k → k ≤ 16 → exec (.configurationRequest (.read k)) s =
        .next ((s.emit (.cfgRead k [Config.vendor.toNat, 0x9257, 0x058000, Config.hwRev.toNat])).emit (.cfgDone .ok)))

/-- PF0's BAR0 accesses reach the register network: the endpoint is out of reset, FIRM has ended, PF0 is not in D3hot, its BARs are mapped, and the
module is not in recovery Bare (R541 to R545, R550). -/
def Sys2Proof.Claims.hostUp (s : State) : Bool :=
  !s.host.inReset && !decide (s.start.mode = .dormant) && s.start.firmDone && !s.host.d3hot && decide (0 ∈ s.host.bars) && !s.start.recovery

/-- R15, R552, R556, R560: an aligned 32-bit write of PF0 to a register that no counter is takes effect as its view says, or is dropped and logged;
a read answers the register's word and changes nothing. `regPut` is the effect of each register, `regDrop` what drops a write.
Readings of the model that it rests on: log entries 164, 165, 166 and 167. -/
def Obligations.RegisterAccesses : Prop :=
  ∀ (s : State) (off : BitVec 26) (v : View) (b : Blk) (o : Nat) (old : BitVec 32), Claims.hostUp s = true →
    off.toNat < 0x4000000 → locate off.toNat = some (v, b, o) → o % 4 = 0 → s.regWord b o = some old → (b ≠ .cap ∨ cntAt o = none) →
    (∀ val, s.regDrop b o (wrOf .pf0 v old (val.setWidth 32)) = none →
      exec (.registerWrite .pf0 off 4 val) s = .next ((s.regPut b o (wrOf .pf0 v old (val.setWidth 32))).emit (.hostDone .ok)))
    ∧ (∀ val c, s.regDrop b o (wrOf .pf0 v old (val.setWidth 32)) = some c →
      exec (.registerWrite .pf0 off 4 val) s = .next ((s.logAcc b.base .pf0 c true o off.toNat).emit (.hostDone .ok)))
    ∧ (∀ val, v = .set → s.regDrop b o { who := .pf0, nv := old ||| val.setWidth 32, ones := val.setWidth 32, touch := val.setWidth 32 } = none →
      exec (.aliasWrite .pf0 off 4 val) s = .next ((s.regPut b o
        { who := .pf0, nv := old ||| val.setWidth 32, ones := val.setWidth 32, touch := val.setWidth 32 }).emit (.hostDone .ok)))
    ∧ (∀ val, v = .clr → s.regDrop b o { who := .pf0, nv := old &&& ~~~(val.setWidth 32), ones := 0, touch := val.setWidth 32 } = none →
      exec (.aliasWrite .pf0 off 4 val) s = .next ((s.regPut b o
        { who := .pf0, nv := old &&& ~~~(val.setWidth 32), ones := 0, touch := val.setWidth 32 }).emit (.hostDone .ok)))
    ∧ (∀ val, v = .tgl → s.regDrop b o { who := .pf0, nv := old ^^^ val.setWidth 32, ones := 0, touch := val.setWidth 32 } = none →
      exec (.aliasWrite .pf0 off 4 val) s = .next ((s.regPut b o
        { who := .pf0, nv := old ^^^ val.setWidth 32, ones := 0, touch := val.setWidth 32 }).emit (.hostDone .ok)))
    ∧ ((∀ k, b = .slow k → k < 16 ∨ (o ≠ 0x14 ∧ o ≠ 0x18)) →
      exec (.registerRead .pf0 0 off 4) s = .next (s.emit (.hostRead (BitVec.ofNat 64 old.toNat) .ok)))

/-- R15, R573: a 64-bit write of a global counter loads the written value plus the increment of that edge; the count is 48 bits wide.
Readings of the model that it rests on: log entries 167 and 170. -/
def Sys2Proof.Claims.CounterWriteLoadsValuePlusIncrement : Prop :=
  ∀ (s : State) (k : Nat) (val : BitVec 64) (inc : Nat), Claims.hostUp s = true → k < 106 → inc < 4096 →
    ∃ t, exec (.counterWrite .pf0 (BitVec.ofNat 26 (0x1001000 + 8 * k)) 8 val inc) s = .next t
      ∧ tget 0 t.cnt (cGlb k) = min (val.toNat % 2 ^ 48 + inc) (2 ^ 48 - 1)
      ∧ (∀ j, j ≠ cGlb k → tget 0 t.cnt j = tget 0 s.cnt j)
      ∧ t = { s with cnt := t.cnt, out := s.out ++ [.hostDone .ok] }

/-- R390, R558, R102: posted writes of the slow domain and their end, writes of the protection shadows under PF0's claim, and SPH_MAX.
Readings of the model that it rests on: log entries 166 and 167. -/
def Sys2Proof.Claims.PostedShadowAndQuotaWrites : Prop :=
  (∀ (s : State) (t : Nat) (val : BitVec 64), Claims.hostUp s = true → t < 16 → (s.slowB t).busy = false →
    s.regDrop (.slow t) 0x10 (wrOf .pf0 .normal ((s.slowReg t 0x10).getD 0) (val.setWidth 32)) = none →
    exec (.slowWrite .pf0 (BitVec.ofNat 26 (0x1200010 + 0x1000 * t)) 4 val) s
      = .next ((s.modSlow t (fun x => { x with busy := true, posted := val.setWidth 32, postOff := 0x10 })).emit (.hostDone .ok)))
  ∧ (∀ (s : State) (t : Nat), t < 16 → (s.slowB t).busy = true → (s.slowB t).postOff = 0x10 →
    exec (.slowWriteDone t) s = .next { s with slow := tset {} s.slow t { sel := (s.slowB t).posted &&& 0x01377FFF } })
  ∧ (∀ (s : State) (p : Nat) (val : BitVec 64), Claims.hostUp s = true → s.prot.owner = .pf0 → p < 256 →
    exec (.shadowWrite .pf0 (BitVec.ofNat 26 (0xE00800 + 4 * p)) 4 val) s
      = .next ({ s with prot := { s.prot with permShd := tset {} s.prot.permShd p (permOf (val.toNat % 2 ^ 32)) } }.emit (.hostDone .ok)))
  ∧ (∀ (s : State) (t : Nat) (val : BitVec 32), Claims.hostUp s = true → t < 16 → (s.iten t).isSome = true →
    s.sphMaxBad t (val.toNat / 2 ^ 16 % 2 ^ 5) = false →
    exec (.sphMaxWrite .pf0 t val) s
      = .next ({ s with sphMax := tset 0 s.sphMax t (val.toNat / 2 ^ 16 % 2 ^ 5) }.emit (.hostDone .ok)))

/-- Writes of counters, of the slow domain, of the protection shadows and of SPH_MAX. -/
def Obligations.RangedWrites : Prop := Claims.CounterWriteLoadsValuePlusIncrement ∧ Claims.PostedShadowAndQuotaWrites

/-- R29, R309, R310, R388: a register access of an agent that arrives under a credit at a port whose entry is VALID with CFG is, through its domain's window,
one access of the register network on its ingress edge; the answer waits at the Gate and leaves by the port.
Readings of the model that it rests on: log entries 165 and 168. -/
def Obligations.WindowAccesses : Prop :=
  ∀ (s : State) (p d : Nat) (D : ImgDomain) (m : Msg) (write : Bool),
    let m := { m with op := if write then Op.cfgWr else Op.cfgRd }
    s.inSvc p = true → s.covered p m = true → s.portDom p = some (d, D) → (s.port p).state ≠ .draining → s.open_ = true → s.stopped d = false →
    (s.iport p).role ≠ .memory → (s.iport p).role ≠ .off → (s.permOfPort p).valid = true → (s.permOfPort p).cfg = true → D.cfgwin ≠ 0 →
    let i := (s.landed p m).ingressEdge (portNode p) (portSlot p)
    let q := { m with requester := if (s.iport p).role = .peer then m.requester else portEp D.device p }
    let r := i.1.access { who := .window d, off := m.cfgOff.toNat, size := if m.cfgEight then 8 else 4, wr := if write then some m.cfgData else none }
    exec (if write then .cfgWr p m else .cfgRd p m) s
      = .next (r.1.cfgReply p (i.1.kt d + fclks (i.2 - i.1.clk.fclk)) (cfgAnswer q write r.2.1 r.2.2))

/-- R85, R90, R95, R96, R217: QREL of a slice or a home shard releases the way that the quarantine reports, the oldest, and does nothing while none is
reported; LSTEST whose marked pass is squashed sets LSTEST_DONE and LSTEST_OK, and one whose pass is not squashed clears LSTEST_OK, counts against window 6 and fences the slice; PRED_CLR runs until its end
invalidates every predictor entry, and asked while it runs it runs again.
Readings of the model that it rests on: log entries 21 and 123. -/
def Sys2Proof.Claims.SliceAndHomeCommands : Prop :=
  (∀ (s : State) (n d : Nat) (D : ImgDomain) (set w : Nat) (q : List (Nat × Nat)), s.nodeDom n = some (d, D) → s.isFenced (.slice n) = false →
    (s.slice n).quar = (set, w) :: q →
    exec (.qrel n) s = .next (s.modSlice n (fun x => { x with
      quar := q, tags := tset {} x.tags (set * D.ways + w) {}, pres := tset 0 x.pres (set * D.ways + w) 0, rrv := tset 3 x.rrv (set * D.ways + w) 3 })))
  ∧ (∀ (s : State) (n d : Nat) (D : ImgDomain), s.nodeDom n = some (d, D) → s.isFenced (.slice n) = false → (s.slice n).quar = [] → exec (.qrel n) s = .next s)
  ∧ (∀ (s : State) (n d : Nat) (D : ImgDomain) (set w : Nat) (q : List (Nat × Nat)), s.nodeDom n = some (d, D) → s.isFenced (.home n) = false →
    (s.home n).quar = (set, w) :: q →
    exec (.homQrel n) s = .next (s.modHome n (fun x => { x with quar := q, dir := tset none x.dir (16 * set + w) none })))
  ∧ (∀ (s : State) (n d : Nat) (D : ImgDomain), s.nodeDom n = some (d, D) → s.isFenced (.home n) = false → (s.home n).quar = [] → exec (.homQrel n) s = .next s)
  ∧ (∀ (s : State) (n d : Nat) (D : ImgDomain), s.nodeDom n = some (d, D) → s.isFenced (.slice n) = false →
    exec (.lstest n true) s = .next (s.modSlice n (fun x => { x with lstestRun := x.lstestAgain, lstestAgain := false, lstestDone := true, lstestOk := true }))
    ∧ (let r := (s.modSlice n (fun x => { x with lstestRun := x.lstestAgain, lstestAgain := false, lstestDone := true, lstestOk := false })).winHit 6 (.slice n)
       exec (.lstest n false) s = .next (r.1.fence (.slice n) .lstest (if r.2 then some 6 else none))))
  ∧ (∀ (s : State) (n d : Nat) (D : ImgDomain), s.nodeDom n = some (d, D) → s.isFenced (.slice n) = false →
    exec (.predClr n) s = .next (s.modSlice n (fun x => { x with predAgain := x.predClr, predClr := true })))
  ∧ (∀ (s : State) (n : Nat), (s.slice n).predClr = true →
    exec (.predClrDone n) s = .next (s.modSlice n (fun x => { x with predClr := x.predAgain, predAgain := false, pred := [] })))

/-- R137, R176, R177: an audit of a slice starts with bits [6:2] clear and changes the audit only; outside a flush or isolation window it latches the ledgers on
that edge, of which each bit says that the ledger's sum exceeds its capacity. 4,096 FCLK after the latch it ends with the bits latched, a bad ledger is
recorded, and vector 128 + n follows; 20 µs after a start that found no edge to latch it ends with WINDOW set and nothing compared. -/
def Sys2Proof.Claims.SliceAudit : Prop :=
  (∀ (s : State) (n d : Nat) (D : ImgDomain), s.nodeDom n = some (d, D) →
    ∃ t, exec (.slcAudit n) s = .next t ∧ SliceOnly n s t ∧ t.slice n = { s.slice n with
      audRun := true, audWindow := false, audBad := 0, audAt := s.clk.fclk, audLatch := if s.auditWindow n then none else some (s.clk.fclk, s.slcBalance n) })
  ∧ (∀ (s : State) (n : Nat),
    ((s.slcBalance n).getLsbD 0 = true ↔ 192 < tbusy (s.slice n).mshrs + s.mshrResv n) ∧ ((s.slcBalance n).getLsbD 1 = true ↔ 256 < tbusy (s.slice n).wbuf + s.wbResv n)
    ∧ ((s.slcBalance n).getLsbD 2 = true ↔ 128 < s.vbBusy n + s.vbResv n) ∧ ((s.slcBalance n).getLsbD 3 = true ↔ 4096 < s.poolUsed n))
  ∧ (∀ (s : State) (n d at_ : Nat) (D : ImgDomain), s.nodeDom n = some (d, D) → (s.slice n).audRun = true → (s.slice n).audLatch = some (at_, 0) →
    at_ + 4096 ≤ s.clk.fclk →
    exec (.slcAuditEnd n) s = .next ((s.modSlice n (fun x => { x with
      audRun := false, audDone := true, audWindow := false, audBad := 0, audLatch := none })).irq 0 (128 + n)))
  ∧ (∀ (s : State) (n d at_ : Nat) (b : BitVec 4) (D : ImgDomain), s.nodeDom n = some (d, D) → (s.slice n).audRun = true → (s.slice n).audLatch = some (at_, b) →
    at_ + 4096 ≤ s.clk.fclk → b ≠ 0 →
    exec (.slcAuditEnd n) s = .next (((s.modSlice n (fun x => { x with
      audRun := false, audDone := true, audWindow := false, audBad := b, audLatch := none })).rep .slice n .auditBad d).irq 0 (128 + n)))
  ∧ (∀ (s : State) (n d : Nat) (D : ImgDomain), s.nodeDom n = some (d, D) → (s.slice n).audRun = true → (s.slice n).audLatch = none →
    (s.slice n).audAt + 48000 ≤ s.clk.fclk →
    exec (.slcAuditEnd n) s = .next ((s.modSlice n (fun x => { x with
      audRun := false, audDone := true, audWindow := true, audBad := 0, audLatch := none })).irq 0 (128 + n)))

/-- R283, R342, R417: holds cleared, and audits of a Gate, a router and a node cache, started outside a window and ended 8,192, 1,024 and 4,096 FCLK after
their latch.
Readings of the model that it rests on: log entry 77. -/
def Sys2Proof.Claims.GateRouterAndNodeCacheAudits : Prop :=
  (∀ (s : State) (g : Nat), s.gateServes g = true → exec (.holdClr g) s = .next (s.modGate g (fun G => { G with holds := [] })))
  ∧ (∀ (s : State) (g d : Nat) (D : ImgDomain), s.gateServes g = true → s.isBalancer g = true → s.nodeDom g = some (d, D) → D.nodes.any s.auditWindow = false →
    ∃ t, exec (.gateAudit g) s = .next t ∧ GateOnly g s t ∧ t.gate g = { s.gate g with
      audRun := true, audAt := s.clk.fclk, audLatch := some (s.clk.fclk, !s.calBalanced d D) })
  ∧ (∀ (s : State) (g d at_ : Nat) (D : ImgDomain), s.nodeDom g = some (d, D) → (s.gate g).audRun = true → (s.gate g).audLatch = some (at_, false) →
    at_ + 8192 ≤ s.clk.fclk →
    exec (.gateAuditEnd g) s = .next ((s.modGate g (fun G => { G with audRun := false, audDone := true, audBad := false, audLatch := none })).irq 0 (128 + g)))
  ∧ (∀ (s : State) (n d : Nat) (D : ImgDomain), s.nodeDom n = some (d, D) → s.isFenced (.router n) = false → s.auditWindow n = false →
    ∃ t, exec (.rtrAudit n) s = .next t ∧ RouterOnly n s t ∧ t.router n = { s.router n with
      audRun := true, audWindow := false, ejBad := false, credBad := false, audAt := s.clk.fclk
      audLatch := some (s.clk.fclk, !s.ejBalanced D n, !s.credBalanced D n) })
  ∧ (∀ (s : State) (n d at_ : Nat) (D : ImgDomain), s.nodeDom n = some (d, D) → (s.router n).audRun = true → (s.router n).audLatch = some (at_, false, false) →
    at_ + 1024 ≤ s.clk.fclk →
    exec (.rtrAuditEnd n) s = .next ((s.modRouter n (fun r => { r with
      audRun := false, audDone := true, audWindow := false, ejBad := false, credBad := false, audLatch := none })).irq 0 (128 + n)))
  ∧ (∀ (s : State) (n d : Nat) (D : ImgDomain), s.nodeDom n = some (d, D) → s.isFenced (.home n) = false → s.auditWindow n = false →
    ∃ t, exec (.homNcAudit n) s = .next t ∧ HomeOnly n s t ∧ t.home n = { s.home n with
      ncAudRun := true, ncWindow := false, ncBad := false, ncAudAt := s.clk.fclk, ncLatch := some (s.clk.fclk, !s.ncBalanced d D n) })
  ∧ (∀ (s : State) (n d at_ : Nat) (D : ImgDomain), s.nodeDom n = some (d, D) → (s.home n).ncAudRun = true → (s.home n).ncLatch = some (at_, false) →
    at_ + 4096 ≤ s.clk.fclk →
    exec (.homNcAuditEnd n) s = .next ((s.modHome n (fun x => { x with
      ncAudRun := false, ncDone := true, ncWindow := false, ncBad := false, ncLatch := none })).irq 0 (128 + n)))

/-- Audits of slices, Gates, routers and node caches. -/
def Obligations.Audits : Prop := Claims.SliceAudit ∧ Claims.GateRouterAndNodeCacheAudits

/-- R174, R175, R181: FLUSH of a queue whose owner is gone puts its cells on the free list, reports its units to what tracks them, and closes it until
FLUSH_DONE; a queue whose owner is there is left alone, and a write while FLUSH reads 1 is dropped: either is logged BUSY.
Readings of the model that it rests on: log entry 48. -/
def Sys2Proof.Claims.QueueFlush : Prop :=
  (∀ (s : State) (n d q : Nat) (D : ImgDomain), s.nodeDom n = some (d, D) → (s.pool n).cmdq.toNat ∉ (s.pool n).flushing → q ∉ (s.pool n).flushing →
    s.flushAllowed n q = true →
    ∃ t, exec (.flush n q) s = .next t ∧ q ∈ (t.pool n).flushing ∧ (t.pool n).cmdq = BitVec.ofNat 8 q
      ∧ t = ((s.qOf n q).foldl (fun s u => s.report u .unreachable) (s.splice n q)).modPool n (fun p => { p with
          flushing := insNat q p.flushing, cmdq := BitVec.ofNat 8 q }))
  ∧ (∀ (s : State) (n q : Nat), (s.splice n q).qOf n q = [] ∧ q ∈ ((s.splice n q).pool n).flushing)
  ∧ (∀ (s : State) (n d q : Nat) (D : ImgDomain), s.nodeDom n = some (d, D) →
    ((s.pool n).cmdq.toNat ∈ (s.pool n).flushing ∨ q ∉ (s.pool n).flushing ∧ s.flushAllowed n q = false) →
    exec (.flush n q) s = .next (s.logAcc (slcBase n) .pf0 .busy true 0x6C (slcBase n + 0x6C)))
  ∧ (∀ (s : State) (n q : Nat), q ∈ (s.pool n).flushing →
    exec (.flushDone n q) s = .next (s.modPool n (fun p => { p with flushing := p.flushing.filter (fun x => decide (x ≠ q)) })))

/-- Commands of slices, home shards and cushion pools. -/
def Obligations.SliceHomeAndPoolCommands : Prop := Claims.SliceAndHomeCommands ∧ Claims.QueueFlush

/-- R113 to R115, R134, R135: a lock or unlock command that its checks let start; one that they do not, of which STATUS names the reason and nothing else
changes; and the passes, which met no fault. A pass of a line that is not present and whose tenancy has its floor ways reserved already ends Not locked; one that
finds a way that holds nothing reserves it; an unlock pass takes the lock off its line or frees its reservation.
Readings of the model that it rests on: log entry 30. -/
def Obligations.LockCommand : Prop :=
  (∀ (s : State) (t : Nat) (T : ImgTen) (b : Bool), s.lock.go = false → s.lock.base.toNat + s.lock.cnt.toNat ≤ 2 ^ 45 → s.iten t = some T →
    (b = false → 1 < T.min) → s.open_ = true → s.lock.cnt ≠ 0 →
    exec (if b then .unlock t else .lock t) s = .next { s with lock := { s.lock with
      ten := t, op := b, go := true, status := 1, done := 0, fail := 0, waitAt := s.clk.fclk, held := false } })
  ∧ (∀ (s : State) (t : Nat) (b : Bool), s.lock.go = false →
    (2 ^ 45 < s.lock.base.toNat + s.lock.cnt.toNat →
      exec (if b then .unlock t else .lock t) s = .next (State.irq { s with lock := { s.lock with ten := t, op := b, status := 2 } } 0 6))
    ∧ (s.lock.base.toNat + s.lock.cnt.toNat ≤ 2 ^ 45 → s.iten t = none →
      exec (if b then .unlock t else .lock t) s = .next (State.irq { s with lock := { s.lock with ten := t, op := b, status := 4 } } 0 6)))
  ∧ (∀ (s : State) (n t : Nat) (l : LineAddr) (a : At), s.lockAt n l t false = some a → s.setLost a = false → s.matchWay a = none →
    s.minOf t - 1 ≤ ((List.range a.D.ways).filter (fun w => (s.tagAt a.n (a.slot w)).lock && decide ((s.tagAt a.n (a.slot w)).ten.toNat = t))).length →
    exec (.lockPass { n := n } l t) s = .next (s.passDone n true))
  ∧ (∀ (s : State) (n t w : Nat) (fo : Bool) (l : LineAddr) (a : At), s.lockAt n l t false = some a → s.setLost a = false → s.matchWay a = none →
    ((List.range a.D.ways).filter (fun w => (s.tagAt a.n (a.slot w)).lock && decide ((s.tagAt a.n (a.slot w)).ten.toNat = t))).length < s.minOf t - 1 →
    (s.pickWay a (s.cands a t true)).2 = some (w, false, fo) →
    exec (.lockPass { n := n } l t) s = .next ((((s.pickWay a (s.cands a t true)).1.modTag a.n (a.slot w) (fun _ =>
      { tag := a.D.tag a.l, origin := BitVec.ofNat 6 (a.D.hash a.l), ten := BitVec.ofNat 4 t, lock := true })).setRrv a.n (a.slot w) 2).passDone n false))
  ∧ (∀ (s : State) (n t w : Nat) (l : LineAddr) (a : At), s.lockAt n l t true = some a → s.matchWay a = some w →
    (s.tagAt a.n (a.slot w)).lock = true → (s.tagAt a.n (a.slot w)).ten.toNat = t →
    exec (.unlockPass { n := n } l t) s = .next ((if (s.tagAt a.n (a.slot w)).state = .i then (s.modTag a.n (a.slot w) (fun _ => {})).setRrv a.n (a.slot w) 3
      else s.modTag a.n (a.slot w) (fun y => { y with lock := false })).passDone n false))

/-- R390 to R394: ownership of the shadows, the commit edge and the end of the older requests.
Readings of the model that it rests on: log entry 110. -/
def Sys2Proof.Claims.ProtectionCommits : Prop :=
  (∀ s : State, s.prot.owner = .none → exec .claim s = .next { s with prot := { s.prot with owner := .pf0 } })
  ∧ (∀ s : State, s.prot.owner = .medulla → exec .claim s = .next s)
  ∧ (∀ s : State, s.prot.owner = .pf0 → exec .release s = .next { s with prot := { s.prot with owner := .none } })
  ∧ (∀ s : State, s.commitCheck = 0 → s.settled →
    ∃ t, exec .commit s = .next t ∧ t.prot.cstat = 0 ∧ t.prot.epoch = s.prot.epoch + 1
      ∧ t.prot.permAct = s.prot.permShd ∧ t.prot.rngAct = s.prot.rngShd ∧ t.prot.permPrev = s.prot.permAct ∧ t.prot.rngPrev = s.prot.rngAct
      ∧ t.prot.keys = s.prot.keys ∧ t.slices = s.slices ∧ t.ports = s.ports ∧ t.mram = s.mram)
  ∧ (∀ s : State, s.commitCheck ≠ 0 →
    exec .commit s = .next ((({ s with prot := { s.prot with cstat := s.commitCheck } }).bump (cGlb 26)).irq 0 4))
  ∧ (∀ s : State, s.prot.drained = false → (∀ g ∈ s.gates, ∀ w ∈ g.2.watch, w.epoch = s.prot.epoch) →
    exec .epochDrained s = .next (({ s with prot := { s.prot with drained := true } }).irq 0 4))

/-- R396, R397, R399: KEYGEN draws both keys of a free entry, makes it ACTIVE and counts its generation; the end of a retire zeroes both keys.
Readings of the model that it rests on: log entry 111. -/
def Sys2Proof.Claims.KeyCommands : Prop :=
  (∀ (s : State) (k : Nat), s.open_ = true → 0 < k → k < 64 → (s.key k).st = .free →
    ∃ t, exec (.keygen k) s = .next t ∧ (t.key k).st = .active ∧ (t.key k).kd = Config.draw s.free ∧ (t.key k).km = Config.draw (s.free + 1)
      ∧ (t.key k).gen = (s.key k).gen + 1 ∧ t.free = s.free + 2 ∧ t.prot.keyStat = 0 ∧ (∀ j, j ≠ k → t.key j = s.key j)
      ∧ t.slices = s.slices ∧ t.homes = s.homes ∧ t.mram = s.mram)
  ∧ (∀ (s : State) (k : Nat), s.open_ = true → s.sweepBusy = false → 0 < k → k < 64 → (s.key k).st = .active →
    (∀ j ∈ s.prot.jobs, j.2.active = true → j.2.old.toNat ≠ k ∧ j.2.new.toNat ≠ k) →
    exec (.retire k) s = .next
      ((({ s with prot := { s.prot with keyId := k, keyOp := 1, keyRun := true, keyStat := 1, keyJob := k } }).modKey k (fun e => { e with st := .retiring })).recheckAll.keyRetire k))
  ∧ (∀ (s : State) (k : Nat), (s.key k).st = .retiring → s.sweeping (.key k) = false →
    (∀ x ∈ s.slices, x.2.sweep.waiting ≠ some (.key k)) → s.keyAtHomes k = false → k ∉ s.flt.fkey → s.prot.keyRun = true → s.prot.keyJob = k →
    exec (.retireEnd k) s = .next
      ((({ (s.modKey k (fun e => { e with st := .free, kd := 0, km := 0, fenced := false })).bump (cGlb 28) with
        prot := { (s.modKey k (fun e => { e with st := .free, kd := 0, km := 0, fenced := false })).prot with keyRun := false, keyStat := 0 } }).irq 0 4)))

/-- The protection block: shadows, commits and keys. -/
def Obligations.CommitsAndKeys : Prop := Claims.ProtectionCommits ∧ Claims.KeyCommands

/-- R424, R427, R428: a range invalidation, a REKEY job and a RESEED job that their checks let start.
Readings of the model that it rests on: log entry 112. -/
def Obligations.InvalidationAndCrozierJobs : Prop :=
  (∀ (s : State) (d : Nat) (D : ImgDomain), s.open_ = true → s.sweepBusy = false → s.idom d = some D →
    s.prot.invBase.toNat % 2 ^ 40 ≤ s.prot.invLim.toNat % 2 ^ 40 →
    exec (.rangeInvalidation d) s = .next
      (({ s with prot := { s.prot with invDom := d, invRun := true, invStat := 1, invJob := some (d, s.prot.invBase.toNat % 2 ^ 40, s.prot.invLim.toNat % 2 ^ 40) } }).sweepAll D
        (.range d (BitVec.ofNat 40 (s.prot.invBase.toNat % 2 ^ 40)) (BitVec.ofNat 40 (s.prot.invLim.toNat % 2 ^ 40)) false)))
  ∧ (∀ (s : State) (j r new : Nat) (x : Nat × ImgDomain), s.crozCheck j r new false = .ok x →
    exec (.rekey j r new) s = .next { s with prot := { s.prot with
      crozJobF := j, crozRng := r, crozNew := BitVec.ofNat 6 new, crozOp := 0, crozStat := 0,
      jobs := tset {} s.prot.jobs j
        { active := true, done := (s.job j).done, rng := r, old := (tget {} s.prot.rngAct r).keyid, new := BitVec.ofNat 6 new, cl := rngLo (tget {} s.prot.rngAct r) } } })
  ∧ (∀ (s : State) (j r new d : Nat) (D : ImgDomain), s.crozCheck j r new true = .ok (d, D) → s.settled →
    ∃ t, exec (.reseed j r new) s = .next t ∧ r ∈ t.prot.closed ∧ t.prot.crozStat = 0
      ∧ (∀ n ∈ D.nodes, s.isFenced (.slice n) = false →
          (t.slice n).sweep.job = some (.range d (tget {} s.prot.rngAct r).base (tget {} s.prot.rngAct r).lim true)))

/-- R445, R462: POP gives up the oldest record; UNFENCE of a Frond range or a port clears its bit.
Readings of the model that it rests on: log entry 122. -/
def Sys2Proof.Claims.FaultCommands : Prop :=
  (∀ (s : State) (r : ErrRec) (rs : List ErrRec), s.flt.fifo = r :: rs → exec .pop s = .next { s with flt := { s.flt with fifo := rs } })
  ∧ (∀ (s : State) (i : Nat), s.open_ = true → i ∈ s.flt.frond →
    exec (.unfence true i) s = .next
      ((({ s with flt := { s.flt with clrKind := 1, clrIdx := i, frond := s.flt.frond.filter (fun x => decide (x ≠ i)) } }).unfenced).clrEnd 0))
  ∧ (∀ (s : State) (i : Nat), s.open_ = true → i ∈ s.flt.fport → (s.port i).state ≠ .off →
    exec (.unfence false i) s = .next
      ((({ s with flt := { s.flt with clrKind := 0, clrIdx := i, fport := s.flt.fport.filter (fun x => decide (x ≠ i)) } }).unfenced).clrEnd 0))

/-- R575, R579 to R585, R591: the Capsule commands; every counter outside the always-on domain, or of a page, is cleared on the edge of its ZERO.
Readings of the model that it rests on: log entries 78 and 171. -/
def Sys2Proof.Claims.CapsuleCommands : Prop :=
  (∀ s : State, s.cap.slots ≠ 0 → s.cap.base.toNat % 4096 = 0 → capDest s.cap = false → s.cap.snapWait = false → s.cap.period = 0 →
    exec .arm s = .next { s with cap := { s.cap with status := 0, armed := true, disarming := false, seq := 0, head := 0, skipped := 0, lastEdge := 0 } })
  ∧ (∀ s : State, s.cap.dumping = true → exec .disarm s = .next { s with cap := { s.cap with disarming := true } })
  ∧ (∀ s : State, s.cap.dumping = false → exec .disarm s = .next { s with cap := { s.cap with armed := false } })
  ∧ (∀ s : State, s.cap.dumping = true → s.cap.snapWait = false → exec .snap s = .next { s with cap := { s.cap with snapBusy := true, snapWait := true } })
  ∧ (∀ (s : State) (k : Nat), ∃ t, exec (.zero []) s = .next t
      ∧ tget 0 t.cnt k = (if alwaysOnCnt k then tget 0 s.cnt k else 0) ∧ t = { s with cnt := t.cnt })
  ∧ (∀ s : State, s.cap.armed = true → s.cap.disarming = false → s.cap.period ≠ 0 → s.cap.lastEdge < s.capTime / (1000 * s.cap.period.toNat) →
    s.cap.dumping = true →
    exec .capsuleLatch s = .next (((({ s with cap := { s.cap with
      lastEdge := s.capTime / (1000 * s.cap.period.toNat), skipped := s.cap.skipped + 1 } }).bump (cGlb 101)).irq 0 17)))
  ∧ (∀ s : State, s.cap.armed = true → s.cap.disarming = false → s.cap.period ≠ 0 → s.cap.lastEdge < s.capTime / (1000 * s.cap.period.toNat) →
    s.cap.dumping = false →
    exec .capsuleLatch s = .next (({ s with cap := { s.cap with lastEdge := s.capTime / (1000 * s.cap.period.toNat) } }).latch))
  ∧ (∀ (s : State) (h : CapHdr), s.cap.dumping = true → s.cap.hdr = some h → capDest s.cap = false → s.host.bme = true → s.host.d3hot = false →
    exec (.dumpEnd .done) s = .next (((s.emit (.dma (s.cap.base + BitVec.ofNat 64 (s.cap.head * capStride s.cap) + 64) (capBody s.cap))).emit
      (.dma (s.cap.base + BitVec.ofNat 64 (s.cap.head * capStride s.cap)) (capHeader s.cap h))).headerOut))
  ∧ (∀ (s : State) (d : Nat) (t : KTime), s.cap.retryAt = some t → s.cap.dumping = true → capDest s.cap = true → capCdom s.cap = d → t ≤ s.kt d →
    exec (.retryResend d) s = .next (({ s with cap := { s.cap with retryAt := none } }).writerSend))
  ∧ (∀ (s : State) (p k : Nat), p < 16 → ∃ t, exec (.pageZero .pf0 p []) s = .next t
      ∧ tget 0 t.cnt k = (if cPage p 0 ≤ k ∧ k < cPage p 32 then 0 else tget 0 s.cnt k) ∧ t = { s with cnt := t.cnt })

/-- Commands of the faults block and of the Capsule. -/
def Obligations.FaultAndCapsuleCommands : Prop := Claims.FaultCommands ∧ Claims.CapsuleCommands

/-- A request of kind `op` that completes ingress at port `p` of domain `d` under a credit, as the Gate takes it: the state with its cells off the ingress
queue and its ingress and admission edges fixed, and the request, whose requester its port names (R265, R281). -/
def Sys2Proof.Claims.taken (s : State) (op : Op) (p d : Nat) (D : ImgDomain) (m : Msg) : State × Adm :=
  let m := { m with op := op }
  let i := (s.landed p m).ingressEdge (portNode p) (portSlot p)
  let r := i.1.admEdge (portNode p) i.2
  let own : Bool := (s.iport p).role = .near || (s.iport p).role = .plain
  (r.1, { p := p, d := d, D := D, g := portNode p, now := s.kt d + fclks (i.2 - s.clk.fclk), adm := r.2
          m := if own then { m with requester := portEp D.device p } else m })

/-- A request at port `p` of domain `d` that a credit covers, the port in service and not past DETACH_ACK. -/
def Sys2Proof.Claims.arrives (s : State) (op : Op) (p d : Nat) (D : ImgDomain) (m : Msg) : Prop :=
  s.portDom p = some (d, D) ∧ p < 256 ∧ s.inSvc p = true ∧ s.covered p { m with op := op } = true ∧ ¬ ((s.port p).state = .draining ∧ (s.port p).detach = .acked)

/-- The steps of R265 that come before the calendars all pass: the module is Serving or Degraded, the role and the near group's line port allow the request,
class and permission are good, the line is homed here, no retry-order entry or hold concerns the port's requests, no drain, hand-over or time step is under way,
and a token, a watch entry, a tail entry and the counted entries are free. -/
def Sys2Proof.Claims.admissible (s : State) (a : Adm) (e : Nat × RngEnt) : Bool :=
  (decide ((s.iport a.p).role = .near) || decide ((s.iport a.p).role = .plain)) && s.open_ && !s.stopped a.d
    && roleAllows (s.iport a.p).role a.m.op && s.onLinePort a && decide (a.m.cls ≠ 3) && decide (s.permFail a false = none)
    && decide (s.rngOf a.d a.m.line = some e) && decide (e.2.home = a.D.device) && (s.gate a.g).holds.isEmpty && (s.gate a.g).retryOrd.isEmpty
    && !s.sliceDrains a.d a.D a.m.line && !s.homeHands a.d a.D a.m.line && (s.dom a.d).stepPend.isNone
    && hasToken (refill (s.isvc a.d) 0 (s.gate a.g).tokens (s.gate a.g).tokenAt a.now) (clsNum (s.targetOf a e.2).cls)
    && !s.watchFull a.g
    && decide (s.entsLack a.D a.g (s.targetOf a e.2).slice ((s.targetOf a e.2).home.getD 0)
        (entsFor a.m.op (s.targetOf a e.2).record (s.targetOf a e.2).home.isSome) = [])

/-- The command of a request kind. -/
def Sys2Proof.Claims.requestCmd (op : Op) (p : Nat) (m : Msg) : Instr :=
  match op with
  | .rdSh => .rdSh p m | .rdOwn => .rdOwn p m | .ownUpg => .ownUpg p m | .ownNodata => .ownNodata p m | .rdNa => .rdNa p m | _ => .wr p m

/-- R265, R266, R276: RD_SH, RD_OWN, OWN_UPG, OWN_NODATA, RD_NA and WR of class T2 that pass the test, with room under the T2 limit, are admitted with
no calendar unit; those of T0 and T1 are admitted with the units that their footprint finds at shift 0.
Readings of the model that it rests on: log entries 70 and 71. -/
def Obligations.RequestsAreAdmitted : Prop :=
  ∀ (s : State) (op : Op) (p d : Nat) (D : ImgDomain) (m : Msg) (e : Nat × RngEnt), op ∈ [Op.rdSh, .rdOwn, .ownUpg, .ownNodata, .rdNa, .wr] →
    Claims.arrives s op p d D m → s.open_ = true →
    let v := (Claims.taken s op p d D m).1
    let a := (Claims.taken s op p d D m).2
    let t := v.targetOf a e.2
    Claims.admissible v a e = true →
    (t.cls = .t2 → (v.gate a.g).t2 < (v.isvc d).t2Limit →
      exec (Claims.requestCmd op p m) s = .next (v.takeIn a t [] false))
    ∧ (t.cls ≠ .t2 → (v.pickAll d D a.g (slotOf (v.kt d + fclks (a.adm - v.clk.fclk))) 0 (slotOf (v.kt d + fclks (a.adm - v.clk.fclk)) + 4096)
          (a.foot t (v.fenceLate a t))).2 = [] →
      exec (Claims.requestCmd op p m) s = .next (v.takeIn a t (v.pickAll d D a.g (slotOf (v.kt d + fclks (a.adm - v.clk.fclk))) 0
          (slotOf (v.kt d + fclks (a.adm - v.clk.fclk)) + 4096) (a.foot t (v.fenceLate a t))).1 false))

/-- R7, R265: outside Serving and Degraded every request that a credit covers, at a port of any role in service, is answered NOT_SERVING and counted, and nothing
is admitted.
Readings of the model that it rests on: log entry 71. -/
def Obligations.RequestsOutsideServingAreRefused : Prop :=
  ∀ (s : State) (op : Op) (p d : Nat) (D : ImgDomain) (m : Msg), op ∈ [Op.rdSh, .rdOwn, .ownUpg, .ownNodata, .rdNa, .wr] →
    s.portDom p = some (d, D) → p < 256 → s.inSvc p = true → s.covered p { m with op := op } = true →
    s.start.mode ≠ .serving → s.start.mode ≠ .degraded →
    exec (Claims.requestCmd op p m) s
      = .next (((Claims.taken s op p d D m).1.gateAnswer p (refusal { m with op := op } .notServing)).bump (cGate (portNode p) 14))

/-- R270, R272: a request that arrives on a PEER port for a line of this device, within the carried credits and with a deadline, is taken with its
deadlines and goes to the line's home.
Readings of the model that it rests on: log entries 70 and 73. -/
def Obligations.CarriedRequestsAreTaken : Prop :=
  ∀ (s : State) (p d : Nat) (D : ImgDomain) (m : Msg), Claims.arrives s m.op p d D m → (s.iport p).role = .peer → s.open_ = true →
    carriedOp m.op = true → m.cls ≠ 3 → m.nodl = false → m.destDev = D.device →
    let v := (Claims.taken s m.op p d D m).1
    let a := (Claims.taken s m.op p d D m).2
    (v.port p).carriedIn < (v.iport p).carried → v.stopped d = false → v.permFail a false = none → v.homeHands d D m.line = false →
    exec (.carriedRequest p m) s = .next (v.takeCarried a none)

/-- R258, R259, R267, R268, R277, R293, R301: the events of a Gate's holds, retry-order entries, watch entries, tail entries and calendars.
Readings of the model that it rests on: log entry 72. -/
def Sys2Proof.Claims.GateEvents : Prop :=
  (∀ (s : State) (g d : Nat) (D : ImgDomain) (h : Hold), s.nodeDom g = some (d, D) → h ∈ (s.gate g).holds →
    (∀ y ∈ (s.gate g).holds, y.num = h.num → y = h) → h.retryAt + ns 5 + fclks 6 < s.kt d →
    exec (.holdExpire g h.num) s = .next
      ((s.modGate g (fun G => { G with holds := G.holds.filter (fun y => decide (y.num ≠ h.num)) })).bump (cGate g 12)))
  ∧ (∀ (s : State) (g slot k d : Nat) (D : ImgDomain) (e : RetryEnt), s.nodeDom g = some (d, D) →
    ((s.gate g).retryOrd.filter (fun e => decide (e.slot = slot)))[k]? = some e → e.retryAt + ns 5 < s.kt d →
    exec (.retryOrderClose g slot k) s = .next (s.modGate g (fun G => { G with retryOrd := rmFirst e G.retryOrd })))
  ∧ (∀ (s : State) (g k : Nat) (w : Watch), (s.gate g).watch[k]? = some w → w.queued = false → w.dl ≤ s.kt w.dom + fclks 29 →
    exec (.watchTimeout g k) s = .next ((s.timedOut g w).gateAnswer w.port (errWatch w .timeout)))
  ∧ (∀ (s : State) (g k d : Nat) (D : ImgDomain) (t : Tail), s.nodeDom g = some (d, D) → (s.gate g).tails[k]? = some t → t.dl + ns 20000 ≤ s.kt d →
    let q : Tail := { t with partner := match (s.tailWaits t d D).head? with | some p => (s.port p).pagent | none => t.partner }
    exec (.tailExpire g k) s = .next
      (((s.modGate g (fun G => { G with tails := modFirst (fun x => decide (x = t)) (fun _ => q) G.tails })).bump (cGate g 29)).freeTail g q t.write))
  ∧ (∀ (s : State) (d : Nat) (D : ImgDomain), s.idom d = some D →
    ∃ t, exec (.slotAdvance d) s = .next t ∧ (t.dom d).lastSlot = slotOf (s.kt d)
      ∧ (∀ n ∈ D.nodes, ∀ u ∈ (t.gate n).resv, ∀ r, u.res = .acc r ∨ u.res = .chan r ∨ u.res = .seqr r → slotOf (s.kt d) < u.slot)
      ∧ t = { s with doms := t.doms, gates := t.gates })
  ∧ (∀ (s : State) (d : Nat) (D : ImgDomain), s.idom d = some D → (s.dom d).lastBal < s.kt d / ns 1000 →
    exec (.balancer d) s = .next ((s.modDom d (fun x => { x with lastBal := s.kt d / ns 1000 })).balance d D))

/-- R29, R273, R274, R276, R297, R302, R305: the message that a port serves next leaves it, and with it what may leave after it; the controller writer takes
the oldest message of a line, and an answer to a register access leaves a port with nothing else to send; a barrier of an agent with fewer than four outstanding is
taken and covers what is under way; the oldest barrier that covers nothing any more is answered with its status.
Readings of the model that it rests on: log entry 80. -/
def Sys2Proof.Claims.CompletionsAndBarriers : Prop :=
  (∀ (s : State) (p : Nat) (u : FUnit), p < 256 → s.nextOut p = some u →
    exec (.completionEgress p u.msg) s = .next (
      let t := (s.qTake (portNode p) (egressQ p u.msg) u.msg).leave p u.msg
      (if completes u.msg then t.completed p u.msg else t).portOut p))
  ∧ (∀ (s : State) (p : Nat) (m : Msg), 256 ≤ p → (s.gate (s.gateOf p)).writerOut.find? (fun x => decide (x.line = m.line)) = some m →
    exec (.completionEgress p m) s = .next (
      let t := s.modGate (s.gateOf p) (fun G => { G with writerOut := rmFirst m G.writerOut })
      ((if completes m then t.completed p m else t).emit (.writerDone m.line (if m.op = .err then m.err else .none))).writerGot m))
  ∧ (∀ (s : State) (p : Nat) (at_ : KTime) (m : Msg), p < 256 → s.nextOut p = none →
    (s.gate (portNode p)).cfgOut.find? (fun c => decide (c.1 = p)) = some (p, at_, m) → s.sendable p m = true →
    exec (.completionEgress p m) s = .next (
      ((s.modGate (portNode p) (fun G => { G with cfgOut := rmFirst (p, at_, m) G.cfgOut })).handOver p m).modBarriers (barDrop p 0 at_ false false 0 0)))
  ∧ (∀ (s : State) (p d : Nat) (D : ImgDomain) (m : Msg), Claims.arrives s .barrier p d D m → s.open_ = true →
    (s.iport p).role ≠ .memory → (s.iport p).role ≠ .off →
    let i := (s.landed p { m with op := .barrier }).ingressEdge (portNode p) (portSlot p)
    let bs := i.1.barriersOf (i.1.agentPorts d p)
    bs.length < 4 → i.1.stopped d = false →
    exec (.barrier p m) s = .next (
      let r := if (s.iport p).role = .peer then m.requester else portEp D.device p
      (i.1.modGate (portNode p) (fun G => { G with barriers := G.barriers ++ [{
        port := p, agent := epAgent r, req := r
        cover := (i.1.underWay (i.1.agentPorts d p) i.2).filter (fun c => !(bs.any (fun b => decide (c ∈ b.cover))))
        ord := bs.foldl (fun k b => max k (b.ord + 1)) 0 }] })).bump (cGate (portNode p) 24)))
  ∧ (∀ (s : State) (g k d : Nat) (D : ImgDomain) (b : Barrier), s.nodeDom g = some (d, D) → (s.gate g).barriers[k]? = some b → b.cover = [] →
    (∀ x ∈ s.barriersOf (s.agentPorts d b.port), b.ord ≤ x.ord) → b.lost = 0 → b.late = false →
    exec (.barDone g k) s = .next ((s.modGate g (fun G => { G with
      barriers := rmFirst b G.barriers, bars := setAt G.bars (portSlot b.port) {} })).egress b.port
        { op := .barDone, requester := b.req, destDev := epDev b.req, nodl := true }))

/-- What ends and leaves at a Gate. -/
def Obligations.GateEventsAndCompletions : Prop := Claims.GateEvents ∧ Claims.CompletionsAndBarriers

/-- R59, R67 to R70, R116, R142: LOOKUP_PASS of a request that the accept stage takes, from the lookup queue of an unfenced slice or from reissue, in a pass without a
fault: the pass is decided by `look`, the read of the predicted way is cancelled or kept by it, what it counts and returns is `lookDone`, a pass with no prediction
counts counter 16, and counter 0 counts the pass.
Readings of the model that it rests on: log entries 20 and 23. -/
def Obligations.LookupPassCommits : Prop :=
  ∀ (s : State) (n d : Nat) (D : ImgDomain) (m : Msg), s.nodeDom n = some (d, D) → s.isFenced (.slice n) = false → s.accepts n 3 m = true →
    let a : At := { n := n, d := d, D := D, l := m.line }
    let q := if m ∈ (s.slice n).reissue then s.modSlice n (fun y => { y with reissue := rmFirst m y.reissue }) else s.qTake n 40 m
    let u := q.stamp d m.line (some m.requester) 2
    let v := if (u.predicted a).isNone then u.bump (cSlc n 16) else u
    let w := v.wayOf a
    let r := v.look a m none false false
    let t := (r.1.readsDone v a m (u.predicted a).toList (r.2.commits w) w ((r.1.slice n).reads ≠ (v.slice n).reads)).bump (cSlc n 0)
    exec (.lookupPass n m {}) s = .next (((t.lookDone a m w r.2).stamp d m.line (some m.requester) 3).workEnd n m.line)

/-- R142, R158, R161, R162, R198, R230: what a lookup decides for a line that the slice does not hold, with no MSHR, no victim entry and no drain of it:
reads and ownership requests miss as they are (OWN_UPG as RD_OWN), a write misses for ownership (without data when it is full), goes through when its
tenancy can take no way, and is durable in a record range, where an ownership request is a read.
Readings of the model that it rests on: log entries 24 and 40. -/
def Sys2Proof.Claims.LookupsOfAbsentLines : Prop :=
  ∀ (s : State) (a : At) (m : Msg), s.sweepDenies a = false → s.mshrOf a.n a.l = none → s.vbOf a.n a.l = none → s.drainPend a.n a.l = false →
    s.wayOf a = none → s.setLost a = false →
    (s.lineRecord a = false → m.op ∈ [Op.rdSh, .rdOwn, .ownNodata, .rdNa] → s.look a m none false false = s.missWith a m m.op false [])
    ∧ (s.lineRecord a = false → m.op = .ownUpg → s.look a m none false false = s.missWith a m .rdOwn false [])
    ∧ (s.lineRecord a = false → m.op = .wr → s.cands a (s.askTen a.d m.requester a.l) false ≠ [] →
        s.look a m none false false = s.missWith a m (if m.mask = fullMask then .ownNodata else .rdOwn) true [])
    ∧ (s.lineRecord a = false → m.op = .wr → s.cands a (s.askTen a.d m.requester a.l) false = [] → s.matchWay a = none →
        s.look a m none false false = s.missWith a m .wrThru true [])
    ∧ (s.lineRecord a = true → m.op = .wr → s.look a m none false false = s.missWith a m .wrDur true [])
    ∧ (s.lineRecord a = true → m.op ∈ [Op.rdSh, .rdOwn, .ownUpg, .ownNodata] → s.look a m none false false = s.missWith a m .rdSh false [])

/-- R62, R142, R158, R191, R198, R199, R203: what a lookup decides for a line that way `w` holds outside a record range, with no MSHR and no victim entry of it. A hit is
answered by its hit deadline.
Readings of the model that it rests on: log entries 24 and 50. -/
def Sys2Proof.Claims.LookupsOfPresentLines : Prop :=
  ∀ (s : State) (a : At) (m : Msg) (w : Nat), s.sweepDenies a = false → s.mshrOf a.n a.l = none → s.vbOf a.n a.l = none → s.drainPend a.n a.l = false →
    s.wayOf a = some w → s.lineRecord a = false →
    let k := a.slot w
    let t := s.tagAt a.n k
    let g := s.reqGroup m.requester
    let pr := s.presAt a.n k
    let h : Msg := { m with dl := m.hitDl }
    (t.near = none → t.state = .s → m.op = .rdSh →
      s.look a m none false false = ((s.setPres a.n k (adding pr g)).tileRead a.n k (dataFor a h .s false), .hit w))
    ∧ (t.near = none → m.op = .rdNa → s.look a m none false false = (s.tileRead a.n k (dataFor a h .i false), .hit w))
    ∧ (∀ o, t.near = some o → g ≠ some o → m.op = .rdSh → ∀ u i, s.openMiss a m .rdSh false
        (some { pend := [o], owner := some o, reqNear := g.isSome }) = some (u, i) →
        let v := u.setPres a.n k (adding (u.presAt a.n k) g)
        s.look a m none false false = (v.snoopNear a o .snpSh false m.requester (v.nearDl a m) m.cls, .near))
    ∧ (t.near = none → (t.state = .e ∨ t.state = .m) → s.othersOf a k m = 0 → m.op = .rdOwn →
        s.look a m none false false = ((s.takeOwn a k g).tileRead a.n k (dataFor a h .m false), .hit w))
    ∧ (t.near = none → (t.state = .s ∨ t.state = .o) → m.op ∈ [Op.rdOwn, .ownUpg] →
        s.look a m none false false = s.upgWith a k m false (nearSnoops t pr g .snpInv false) (only g))
    ∧ ((t.state = .e ∨ t.state = .m) → pr = 0 → t.near = none → m.op = .wr → m.mask = fullMask →
        s.look a m none false false =
          (((s.writeTile a.n k m.mask { bits := layBytes (tget {} (s.slice a.n).tile k).bits m.data.bits m.mask, marks := 0 }).modTag a.n k
            (fun t => { t with state := .m, subd := t.subd ||| subdOf m.mask })).answer a m (cmpFor a h), .hit w))
    ∧ ((t.state = .e ∨ t.state = .m) → pr = 0 → t.near = none → m.op = .wr → m.mask ≠ fullMask →
        let c := s.checkLine a.n a.d a.D k []
        let x := tget {} (c.slice a.n).tile k
        s.look a m none false false = if x.marks ≠ 0 then c.lookErr a m .poison else
          (((c.writeTile a.n k m.mask { bits := layBytes x.bits m.data.bits m.mask, marks := x.marks }).modTag a.n k
            (fun t => { t with state := .m, subd := t.subd ||| subdOf m.mask })).answer a m (cmpFor a h), .hit w))

/-- What a lookup decides. -/
def Obligations.LookupDecisions : Prop := Claims.LookupsOfAbsentLines ∧ Claims.LookupsOfPresentLines

/-- R69, R73 to R79, R436 to R438: TILE_DATA of the first half of a read that the channel serves keeps the half with what its codewords, as stored when the read was
issued and with the bit errors of the read, decode to; of the second half of a read that an answer waits for, sends the line; a predicted read that nobody used is counted
(counter 7) and dropped, and one that its pass kept for its errors alone is dropped.
Readings of the model that it rests on: log entry 22. -/
def Obligations.TileHalves : Prop :=
  ∀ (s : State) (n slot d : Nat) (D : ImgDomain) (upper used : Bool) (flips : List (BitVec 80)) (m : Msg) (r : TileRead),
    s.nodeDom n = some (d, D) → (s.slice n).reads.find? (readIs slot upper used m) = some r → readTurn (s.slice n).reads r = true →
    (∀ o ∈ (halfData r.line r.data upper flips).1, o = .clean ∨ o = .mark) →
    (r.first = none →
      exec (.tileData n slot upper flips used m) s = .next (s.modSlice n (fun x => { x with
        reads := modFirst (fun y => decide (y = r)) (fun y => { y with first := some (upper, (halfData r.line r.data upper flips).2, false) }) x.reads })))
    ∧ (∀ u h0 c0 m', r.first = some (u, h0, c0) → r.msg = some m' →
      exec (.tileData n slot upper flips used m) s = .next ((s.modSlice n (fun x => { x with reads := rmFirst r x.reads })).sendTile d D n slot m'
        (joinHalves h0 (halfData r.line r.data upper flips).2) none))
    ∧ (∀ u h0 c0, r.first = some (u, h0, c0) → r.msg = none →
      let t := s.modSlice n (fun x => { x with reads := rmFirst r x.reads })
      exec (.tileData n slot upper flips used m) s = .next (if r.kept then t else t.bump (cChn n 7)))

/-- A fill pass without a fault: `f` is what it commits; the read of the way predicted for it is cancelled, or kept for the way it commits (R69). -/
def Sys2Proof.Claims.passed (s : State) (a : At) (m : Msg) (f : State → State) : State :=
  let t := f s
  t.readsDone s a m (s.predicted a).toList (if (t.mshrOf a.n a.l).isSome then none else t.wayOf a) (if t.wayOf a = s.wayOf a then s.wayOf a else none) false

/-- R145 to R148, R159, R163, R164: what reaches an MSHR of the message's line, in a pass that the accept stage takes and that meets no fault. Line data and state without
data are kept and the fill pass runs when all has come; a first half is kept, and goes to nobody while a writer waits; CMP answers the writers, and reads that joined
go on as if they arrived now; DUR answers the writer; an error ends the MSHR.
Readings of the model that it rests on: log entries 41, 42, 43 and 44. -/
def Sys2Proof.Claims.FillsOfAnMshr : Prop :=
  ∀ (s : State) (n i d : Nat) (D : ImgDomain) (m : Msg) (e : Mshr), s.nodeDom n = some (d, D) → s.isFenced (.slice n) = false →
    (s.qOf n 43).any (fun u => decide (u.msg = m)) = true → s.mshrOf n m.line = some (i, e) → e.near = none →
    let a : At := { n := n, d := d, D := D, l := m.line }
    (s.accepts n 0 m = true →
      (m.op = .data → m.half = none →
        exec (.data n m {}) s = .next (Claims.passed s a m (fun s => ((s.qTake n 43 m).takeData a i m m.data).fillTry a)))
      ∧ (m.op = .grant → exec (.grant { n := n } m) s = .next (Claims.passed s a m (fun s => ((s.qTake n 43 m).modMshr n i (fun e => { e with
          grant := some m.grant, wt := e.wt || m.wt, bare := m.nodata, txn := m.txn, st := if e.st = .orphan then .orphan else .granted })).fillTry a)))
      ∧ (m.op = .cmp → e.req = .wrThru → exec (.cmp { n := n } m) s = .next (Claims.passed s a m (fun s =>
          e.waiters.foldl (fun s w => if w.op = .wr then s.answer a (msgOf m.line w) (cmpFor a (msgOf m.line w)) else s.waiterNew a w)
            (((s.qTake n 43 m).freeWb a).freeMshr a i e))))
      ∧ (m.op = .dur → e.req = .wrDur → e.durErr = false → exec (.dur { n := n } m) s = .next (Claims.passed s a m (fun s => (s.qTake n 43 m).durPass a i e m [])))
      ∧ (m.op = .err → e.durErr = false → (s.qOf n 47).any (fun u => decide (u.msg = m)) = false →
          exec (.err { n := n } m) s = .next (Claims.passed s a m (fun s => (s.qTake n 43 m).fillErr a i e m.err))))
    ∧ (m.op = .data → ∀ u, m.half = some u → (s.slice n).halves.any (fun h => decide (h.1 = m.line)) = false →
      e.waiters.any (fun w => decide (w.op = .wr)) = true →
      exec (.halfFill n m) s = .next (((s.qTake n 43 m).modSlice n (fun x => { x with halves := x.halves ++ [(m.line, u, m.data)] })).modMshr n i
        (fun e => { e with txn := m.txn, st := if e.st = .orphan then .orphan else .granted })))

/-- R162: a durable write's DUR whose line is not present answers the writers, frees their bytes and the MSHR, and COMP_ACK goes to the home. -/
def Sys2Proof.Claims.DurableWriteEnds : Prop :=
  ∀ (s : State) (a : At) (i : Nat) (e : Mshr) (m : Msg),
    let u := (s.stamp a.d a.l none 10).bump (cSlc a.n 8)
    u.wayOf a = none →
    s.durPass a i e m [] = (((e.waiters.foldl (fun s w => s.answer a (msgOf a.l w) (cmpFor a (msgOf a.l w))) u).freeWb a).freeMshr a i e).compAckHome a m.txn e.dl

/-- R146: an MSHR whose earliest waiter has a deadline no more than 29 FCLK away answers its waiters TIMEOUT, is counted and becomes an orphan.
Readings of the model that it rests on: log entry 46. -/
def Sys2Proof.Claims.MshrTimeoutOrphans : Prop :=
  ∀ (s : State) (n i d : Nat) (D : ImgDomain) (e : Mshr) (t : KTime), s.nodeDom n = some (d, D) → tget none (s.slice n).mshrs i = some e →
    firstDl e.waiters = some t → e.st ≠ .orphan → t ≤ s.kt d + fclks 29 →
    exec (.mshrTimeout n i) s = .next
      (((s.waitersErr { n := n, d := d, D := D, l := e.line } e.waiters .timeout).bump (cSlc n 12)).modMshr n i (fun x => { x with waiters := [], st := .orphan }))

/-- What reaches an MSHR, and its timeout. -/
def Obligations.MshrAnswersAndTimeouts : Prop := Claims.FillsOfAnMshr ∧ Claims.DurableWriteEnds ∧ Claims.MshrTimeoutOrphans

/-- The command by which a snoop of kind `op` reaches slice `n`. -/
def Sys2Proof.Claims.snoopCmd (op : Op) (n : Nat) (m : Msg) (x : PassFault) : Instr :=
  match op with | .snpSh => .snpSh n m x | .snpOwn => .snpOwn n m x | .snpInv => .snpInv n m x | _ => .snpCur n m x

/-- A snoop pass without a fault: `f` is what it does at COM; the read of the predicted way is cancelled, or kept for the way it commits (R68, R69). -/
def Sys2Proof.Claims.snooped (s : State) (a : At) (m : Msg) (f : State → State) : State :=
  let w := if (s.vbOf a.n a.l).isSome then none else s.wayOf a
  let t := f ((s.qTake a.n 41 m).bump (cSlc a.n 6))
  t.readsDone s a m (s.predicted a).toList w w (decide ((t.slice a.n).reads ≠ (s.slice a.n).reads))

/-- R59, R200 to R203, R227: a snoop that the accept stage takes and that finds its line idle at an unfenced slice is counted and answered in its pass: an absent
line with RSP_I, a line on its way home from the victim buffer, and a present line by its state: a shared one answers SNP_SH with RSP_S and SNP_CUR with its data's
absence, an exclusive or modified one without near owner forwards its data to the requester of SNP_SH and SNP_OWN and is left in S or O, or in I.
Readings of the model that it rests on: log entry 51. -/
def Obligations.SnoopsAreAnswered : Prop :=
  ∀ (s : State) (op : Op) (n d : Nat) (D : ImgDomain) (m : Msg), op ∈ [Op.snpSh, .snpOwn, .snpInv, .snpCur] → m.op = op →
    s.nodeDom n = some (d, D) → (s.qOf n 41).any (fun u => decide (u.msg = m)) = true → s.isFenced (.slice n) = false → s.accepts n 1 m = true →
    let a : At := { n := n, d := d, D := D, l := m.line }
    s.snoopHeld a = false →
    (s.vbOf n m.line = none → s.wayOf a = none → s.setLost a = false →
      exec (Claims.snoopCmd op n m {}) s = .next (Claims.snooped s a m (fun u => u.snpReply a m .rspI .i 0 false)))
    ∧ (∀ j v, s.vbOf n m.line = some (j, v) → exec (Claims.snoopCmd op n m {}) s = .next (Claims.snooped s a m (fun u => u.snpVictim a v m)))
    ∧ (∀ w, s.vbOf n m.line = none → s.wayOf a = some w →
      let k := a.slot w
      let t := s.tagAt n k
      (t.state = .s → op = .snpSh → exec (.snpSh n m {}) s = .next (Claims.snooped s a m (fun u => u.snpReply a m .rspS .s 0 false)))
      ∧ (t.state = .s ∨ t.state = .e → t.near = none → op = .snpCur →
        exec (.snpCur n m {}) s = .next (Claims.snooped s a m (fun u => u.snpReply a m .rspS t.state 0 false)))
      ∧ (t.state = .m ∨ t.state = .o → t.near = none → op = .snpCur →
        exec (.snpCur n m {}) s = .next (Claims.snooped s a m (fun u => (u.snpTile a k (fwdData a m .i false)).snpReply a m .rspFwd t.state 0 false)))
      ∧ (t.state = .e ∨ t.state = .m ∨ t.state = .o → t.near = none → op = .snpSh →
        let ns : CohState := if t.state = .e then .s else .o
        exec (.snpSh n m {}) s = .next (Claims.snooped s a m (fun u =>
          ((u.modTag n k (fun t => { t with state := ns })).snpTile a k (fwdData a m .s false)).snpReply a m .rspFwd ns 0 false)))
      ∧ (t.state = .e ∨ t.state = .m ∨ t.state = .o → t.near = none → op = .snpOwn →
        exec (.snpOwn n m {}) s = .next (Claims.snooped s a m (fun u =>
          let r := (u.snpTile a k (fwdData a m .m false)).snpTake a w m
          r.1.snpReply a m .rspFwd .i r.2 false)))
      ∧ (t.state = .e ∨ t.state = .m ∨ t.state = .o → t.near = none → m.nodata = false → op = .snpInv →
        exec (.snpInv n m {}) s = .next (Claims.snooped s a m (fun u =>
          let r := u.snpTake a w m
          r.1.snpTile a k (snpAnswer a m .sdata .i r.2 false))))
      ∧ (t.state = .s → op ∈ [Op.snpOwn, .snpInv] →
        exec (Claims.snoopCmd op n m {}) s = .next (Claims.snooped s a m (fun u =>
          let r := u.snpTake a w m
          r.1.snpReply a m .rspI .i r.2 false))))

/-- A pass of a message from a near cache without a fault: `f` is what it does at COM (R68, R69, R168). -/
def Sys2Proof.Claims.ran (s : State) (a : At) (m : Msg) (f : State → State) : State :=
  let t := f s
  t.readsDone s a m (s.predicted a).toList (s.wayOf a) (s.wayOf a) (decide ((t.slice a.n).reads ≠ (s.slice a.n).reads))

/-- The command by which a snoop answer of kind `op` reaches a home or a slice. -/
def Sys2Proof.Claims.answerCmd (op : Op) (atHome : Bool) (n : Nat) (m : Msg) : Instr :=
  match op with | .rspI => .rspI atHome n m {} | .rspS => .rspS atHome n m {} | .rspFwd => .rspFwd atHome n m {} | _ => .sdata atHome n m {}

/-- R199, R201, R209, R280: an answer to a snoop, at the home whose queue it stands in and at the unfenced slice whose near miss awaits it, judged by when it completed
ingress; and a requester's COMP_ACK at both.
Readings of the model that it rests on: log entry 53. -/
def Obligations.SnoopAnswersAreTaken : Prop :=
  ∀ (s : State) (op : Op) (n d : Nat) (D : ImgDomain) (m : Msg), op ∈ [Op.rspI, .rspS, .rspFwd, .sdata] → s.nodeDom n = some (d, D) →
    let a : At := { n := n, d := d, D := D, l := m.line }
    let qh := if op = .sdata then 48 else 47
    (∀ u, m.op = op → (s.qOf n qh).find? (fun u => decide (u.msg = m)) = some u →
      exec (Claims.answerCmd op true n m) s = .next (((s.qTake n qh m).homeAnswer n m u.ing).homeRun n))
    ∧ (∀ u i e nm g, m.op = op → (s.qOf n 43).find? (fun u => decide (u.msg = m)) = some u → s.isFenced (.slice n) = false → s.fromGroup D m = some g →
      s.mshrOf n m.line = some (i, e) → e.near = some nm → g ∈ nm.pend → u.ing ≤ nm.snpAt + ns 60 →
      exec (Claims.answerCmd op false n m) s = .next (Claims.ran s a m (fun s => (s.qTake n 43 m).nearAns a i e nm g m)))
    ∧ (∀ t x, m.op = .compAck → (s.qOf n 47).any (fun u => decide (u.msg = m)) = true → s.txOf n m.line = some t → t.txn = m.txn → t.kind = .request →
      exec (.compAck true { n := n, x := x } m) s = .next (((s.qTake n 47 m).modTx n m.line (fun x => { x with acked := true })).homeRun n))
    ∧ (∀ i e g, m.op = .compAck → (s.qOf n 43).any (fun u => decide (u.msg = m)) = true → s.isFenced (.slice n) = false → s.fromGroup D m = some g →
      s.mshrOf n m.line = some (i, e) →
      exec (.compAck false { n := n } m) s = .next (Claims.ran s a m (fun s => ((s.qTake n 43 m).modMshr n i
        (fun x => { x with near := e.near.map (fun nm => { nm with acks := nm.acks - 1 }) })).settle a)))

/-- The command by which a write-back or an eviction notice reaches a home or a slice. -/
def Sys2Proof.Claims.wbCmd (op : Op) (atHome : Bool) (n : Nat) (m : Msg) : Instr := if op = .wb then .wb atHome { n := n } m else .evn atHome { n := n } m

/-- R168, R206, R212: WB and EVN take their place in the order of a home; at an unfenced slice, in a pass that the accept stage takes, a WB of a line that no snoop of
its group concerns is written to the line's way and answered WB_ACK, the group no longer holding it; a superseded one is answered so.
Readings of the model that it rests on: log entries 52 and 54. -/
def Sys2Proof.Claims.WriteBacksAndNotices : Prop :=
  ∀ (s : State) (op : Op) (n d : Nat) (D : ImgDomain) (m : Msg), op ∈ [Op.wb, .evn] → m.op = op → s.nodeDom n = some (d, D) →
    let a : At := { n := n, d := d, D := D, l := m.line }
    (∀ r u, s.isFenced (.home n) = false → (s.orderEdge n d D).home n = r → r.order.head? = some (46, m) →
      (s.qOf n 46).find? (fun v => decide (v.msg = m)) = some u →
      exec (Claims.wbCmd op true n m) s = .next (((((s.orderEdge n d D).modHome n (fun y => { y with order := r.order.tail })).qTake n 46 m).seqOne a m
        (s.srcOf d D u).1).homeRun n))
    ∧ (s.isFenced (.slice n) = false → s.accepts n 2 m = true → ∀ g, (s.qOf n 42).any (fun u => decide (u.msg = m)) = true → s.fromGroup D m = some g →
      ((m.line, g) ∈ (s.slice n).evictDue →
        exec (Claims.wbCmd op false n m) s = .next (Claims.ran s a m (fun s => ((s.qTake n 42 m).wbSupersede a g m).settle a)))
      ∧ (∀ w, (m.line, g) ∉ (s.slice n).evictDue → s.askedNear a g = false → s.nearRuns a = false → s.wayOf a = some w →
        exec (Claims.wbCmd op false n m) s = .next (Claims.ran s a m (fun s =>
          let q := (s.qTake n 42 m).bump (cSlc n 7)
          let x := if op = .wb then ((q.nearDirty a).setTile n (a.slot w) m.data).modTag n (a.slot w) (fun t => { t with subd := 3 }) else q
          (x.nearGone a g).wbReply a m .wbAck))))

/-- R165, R166: WB_ACK and WB_SUPERSEDED free the entry that has been sent, and what waited for the line goes on; the second is counted.
Readings of the model that it rests on: log entry 54. -/
def Sys2Proof.Claims.VictimsAreAcknowledged : Prop :=
  ∀ (s : State) (n d j : Nat) (D : ImgDomain) (m : Msg) (v : VbEnt), s.nodeDom n = some (d, D) → (s.qOf n 43).any (fun u => decide (u.msg = m)) = true →
    s.vbOf n m.line = some (j, v) → v.sent = true →
    let a : At := { n := n, d := d, D := D, l := m.line }
    (m.op = .wbAck → m.err = .none →
      exec (.wbAck n m) s = .next (((s.qTake n 43 m).vbPut n j none).release a))
    ∧ (m.op = .wbSuperseded →
      exec (.wbSuperseded n m) s = .next ((((s.qTake n 43 m).bump (cSlc n 28)).vbPut n j none).release a))

/-- Write-backs and notices, and the acknowledgement of victims. -/
def Obligations.WriteBacksAndVictims : Prop := Claims.WriteBacksAndNotices ∧ Claims.VictimsAreAcknowledged

/-- R205 to R209: HOME_SEQUENCE takes the first message of the order of R206 when its SRC is the one named; ACTIVATION starts the transaction of a line
that has not started, while fewer than 256 transactions are active and its directory read meets no bad entry.
Readings of the model that it rests on: log entry 58. -/
def Obligations.SequencingAndActivation : Prop :=
  (∀ (s : State) (n d q : Nat) (D : ImgDomain) (m : Msg) (u : FUnit) (r : List (Nat × Msg)), s.nodeDom n = some (d, D) → s.isFenced (.home n) = false →
    ((s.orderEdge n d D).home n).order = (q, m) :: r → (s.qOf n q).find? (fun u => decide (u.msg = m)) = some u →
    exec (.homeSequence n m (s.srcOf d D u).1) s = .next (((((s.orderEdge n d D).modHome n (fun y => { y with order := r })).qTake n q m).seqOne
      { n := n, d := d, D := D, l := m.line } m (s.srcOf d D u).1).homeRun n))
  ∧ (∀ (s : State) (n d : Nat) (D : ImgDomain) (l : LineAddr) (t : Tx), s.nodeDom n = some (d, D) → s.txOf n l = some t → t.started = false →
    s.isFenced (.home n) = false → s.activeTxs n < 256 →
    exec (.activation { n := n } l) s = .next ((s.activate { n := n, d := d, D := D, l := l } t).homeRun n))

/-- R150, R197, R280: MEM_DATA of a whole line, whose port ingress is within 110 ns of its MEM_RD's egress, ends its read and the shard goes on; MEM_ACK is
taken; MEM_DUR whose ingress is within the durable bound sends DUR to the requester of the durable write it ends.
Readings of the model that it rests on: log entry 57. -/
def Sys2Proof.Claims.MemoryAnswers : Prop :=
  ∀ (s : State) (n d : Nat) (D : ImgDomain) (m : Msg) (u : FUnit), s.nodeDom n = some (d, D) →
    let a : At := { n := n, d := d, D := D, l := m.line }
    (m.op = .memData → m.half = none → (s.qOf n 48).find? (fun u => decide (u.msg = m)) = some u →
      (s.readAskedAt a m.txn = 0 ∨ u.ing ≤ s.readAskedAt a m.txn + ns 110) →
      (s.home n).fetches.any (fun f => decide (f.line = m.line) && decide (f.txn = m.txn)) = false →
      exec (.memData n m u.ing) s = .next ((((s.qTake n 48 m).stamp d m.line none 8).readDone a m.txn (some m.cw) none .none).homeRun n))
    ∧ (m.op = .memAck → (s.qOf n 47).any (fun u => decide (u.msg = m)) = true → exec (.memAck n m) s = .next (s.qTake n 47 m))
    ∧ (∀ t, m.op = .memDur → (s.qOf n 47).find? (fun u => decide (u.msg = m)) = some u → s.txOf n m.line = some t → t.durDue = true → t.txn = m.txn →
      u.ing ≤ t.memAt + ns (s.iport t.port).durable →
      exec (.memDur n m u.ing) s = .next (
        ((((s.qTake n 47 m).modTx n m.line (fun x => { x with durDue := false, answered := true })).homeSend a t { homeMsg a t .dur .i with wt := false })).homeRun n))

/-- R156, R193, R213: once the write of a request's transaction has left the fabric, CMP goes to the requester of a write sent through.
Readings of the model that it rests on: log entry 81. -/
def Sys2Proof.Claims.MemoryWritesLeave : Prop :=
  ∀ (s : State) (n d : Nat) (D : ImgDomain) (l : LineAddr) (t : Tx), s.nodeDom n = some (d, D) → s.txOf n l = some t → t.memWr = true →
    s.onWay (fun u => memUnit { n := n, d := d, D := D, l := l } t.txn .memWr u || memUnit { n := n, d := d, D := D, l := l } t.txn .memWrDur u) = false →
    exec (.memWrEjected n l) s = .next ((s.ejected { n := n, d := d, D := D, l := l } t).homeRun n)
    ∧ (t.kind = .request → t.err = .none → t.durDue = false →
        let a : At := { n := n, d := d, D := D, l := l }
        s.ejected a t = ((s.modTx n l (fun x => { x with memWr := false })).homeSend a t { homeMsg a t .cmp .i with wt := false }).homeAnswered a)

/-- Answers of memory devices, and writes that leave the fabric. -/
def Obligations.MemoryTraffic : Prop := Claims.MemoryAnswers ∧ Claims.MemoryWritesLeave

/-- R155, R156: a sequenced hint for a line with neither a transaction nor an entry starts a read of its own (counter 16) while fewer than 32 entries are held, and
is dropped and counted (counter 18) when all are; a hint for a line in work is dropped; an entry goes 4 µs after its data came.
Readings of the model that it rests on: log entry 61. -/
def Obligations.RunAheadOfTheHome : Prop :=
  (∀ (s : State) (n d i p : Nat) (D : ImgDomain) (e : RngEnt) (m : Msg), s.nodeDom n = some (d, D) → m ∈ (s.home n).hints →
    s.isFenced (.home n) = false →
    let a : At := { n := n, d := d, D := D, l := m.line }
    let q := s.modHome n (fun y => { y with hints := rmFirst m y.hints })
    ((s.txOf n m.line).isSome = true → exec (.pfHint n m) s = .next q)
    ∧ (s.txOf n m.line = none → (s.home n).ra.any (fun r => decide (r.line = m.line)) = false → 32 ≤ (s.home n).ra.length →
      exec (.pfHint n m) s = .next (q.bump (cHom n 18)))
    ∧ (s.txOf n m.line = none → (s.home n).ra.any (fun r => decide (r.line = m.line)) = false → (s.home n).ra.length < 32 →
      q.rngHome d m.line = some (i, e) → q.memPort a = some p → q.inSvc p = true → q.lostAt a = false →
      let r := ((q.bump (cHom n 16)).fetchPath a).newTxn n
      let v := r.1.modHome n (fun y => { y with ra := y.ra ++ [{
        line := m.line, from_ := m.requester, txn := r.2, key := r.1.keyAt i e m.line, epoch := r.1.prot.epoch, at_ := r.1.kt d }] })
      exec (.pfHint n m) s = .next ((if v.zeroAt a then v else v.toMem D n p { op := .memRd, line := m.line, txn := r.2, cls := 2 }).homeRun n)))
  ∧ (∀ (s : State) (n d : Nat) (D : ImgDomain) (l : LineAddr), s.nodeDom n = some (d, D) →
    exec (.runAheadExpire n l) s = .next (s.raDrop n (fun r => decide (r.line = l) && r.data.isSome && decide (r.at_ + ns 4000 ≤ s.kt d))))

/-- R411, R418, R419: a Crozier pass of a line of the job's block is taken by the line's home (counter 28); a dirty entry whose parent has room is
written out by the cleaner; a rollover with no slot left on the old major ends.
Readings of the model that it rests on: log entries 112 and 114. -/
def Obligations.HomePasses : Prop :=
  (∀ (s : State) (job d : Nat) (D : ImgDomain) (T : ImgTen) (l : LineAddr),
    let J := s.job job
    let e := tget {} s.prot.rngAct J.rng
    let n := s.homeNode d D l
    s.iten e.ten.toNat = some T → T.domain = d → s.idom d = some D → J.active = true → J.sweeping = false →
    J.cl ≤ l.toNat → l.toNat < J.cl + 64 → l.toNat ≤ rngHi e → l.toNat ∉ J.doneLines →
    (s.home n).passes.any (fun p => decide (p.line = l) && decide (p.job = some job)) = false →
    (s.home n).txs.any (fun t => decide (t.line = l) && decide (t.kind = .crozier (some job))) = false →
    exec (.crozierPass job l) s = .next
      ((((s.bump (cHom n 28)).raDrop n (fun r => decide (r.line = l))).modHome n (fun x => { x with passes := x.passes ++ [{ line := l, job := some job }] })).homeRun n))
  ∧ (∀ (s : State) (n k d : Nat) (D : ImgDomain) (e : NcEnt) (h : ImgHome), s.nodeDom n = some (d, D) → (s.home n).nc[k]? = some e → e.crown = false →
    e.dirty = true → e.pins = 0 → e.dirtyAt + ns 10000 ≤ s.kt d → s.treeHome e.tree = some h →
    (e.level = treeT D h → exec (.nodeClean n k) s = .next (s.writeNode d D h n e false))
    ∧ (∀ p, e.level ≠ treeT D h → s.nodeVal D h n e.pos 8 (e.level + 1) (e.index / 64) = some p → slotMinor (p.slot (e.index % 64)) ≠ 8191 →
      exec (.nodeClean n k) s = .next ((s.writeNode d D h n e false).homeRun n)))
  ∧ (∀ (s : State) (n k d : Nat) (D : ImgDomain) (e : NcEnt) (X : Bool), s.nodeDom n = some (d, D) → (s.home n).nc[k]? = some e → e.roll = some X →
    e.node.allOn (!X) = true → e.rollDue = false →
    exec (.rolloverEnd n k) s = .next ((s.modHome n (fun x => { x with nc := setAt x.nc k { e with
      node := { e.node with slots := e.node.full.map (fun v => if slotMinor v = 0 then (if X then 0#14 else 8192#14) else v) }
      roll := none, swept := false, dirty := true } })).homesRun D))

/-- R127 to R130: an epoch that ends decides at most one move by the rule of R129, halves every utility counter (a slice that is fenced, a frozen domain and a
module that is not open decide none), and the pages show the ways; the move takes effect 200 ns into the epoch and is counted (counter 18; R590: 11 of the tenancy that gains the way, 12 of the one that loses it).
Readings of the model that it rests on: log entry 31. -/
def Obligations.SphagnumEpochs : Prop :=
  (∀ (s : State) (n d : Nat) (D : ImgDomain), s.nodeDom n = some (d, D) → (s.slice n).lastEpoch < s.kt d / ns 1000000 →
    let e := s.kt d / ns 1000000
    let mv := if s.open_ = true ∧ s.isFenced (.slice n) = false ∧ (s.dom d).freeze = false
      then (s.sphDecide d D (s.slice n)).map (fun v => (e, v.1, v.2.1, v.2.2)) else none
    let t := s.modSlice n (fun x => { x with
      lastEpoch := e, sphPend := mv, uh := (x.uh.map (fun v => (v.1, v.2 / 2))).filter (fun v => decide (v.2 ≠ 0)) })
    exec (.epoch n) s = .next ((s.tensOf d).foldl (fun u t => u.modPage t (fun g => { g with ways := sumL (D.nodes.map (fun m => (u.slice m).owns D t)) })) t))
  ∧ (∀ (s : State) (n d e l g w : Nat) (D : ImgDomain), s.nodeDom n = some (d, D) → (s.slice n).sphPend = some (e, l, g, w) →
    ns (e * 1000000 + 200) ≤ s.kt d →
    exec (.sphagnumMove n) s = .next ((((s.modSlice n (fun x => { x with
      wayOwn := setAt x.wayOwn w g, sphLast := some (e, l, g, w), sphPend := none })).bump (cSlc n 18)).page g 11).page l 12))

/-- R60, R228 to R233: a sweep's marker marks the MSHRs that are open; the pass of the next set, once the accept stage takes it, invalidates every covered
line when each has a free and unreserved victim-buffer entry, marks the covered MSHRs of before the marker and moves on; without those entries it commits
nothing and waits; the sweep ends when every set is done and no covered MSHR of before the marker is left, raises vector 128 + n, and the job goes on when no
slice sweeps any more.
Readings of the model that it rests on: log entries 60 and 112. -/
def Obligations.Sweeps : Prop :=
  (∀ (s : State) (n d : Nat) (D : ImgDomain) (j : SweepJob), s.nodeDom n = some (d, D) → (s.slice n).sweep.job = some j →
    (s.slice n).sweep.active = false → s.isFenced (.slice n) = false →
    exec (.sweepMarker n) s = .next (s.modSlice n (fun x => { x with
      sweep := { x.sweep with active := true, kind := jobKind j, next := 0, waitAt := s.clk.fclk, held := false }
      mshrs := x.mshrs.map (fun e => (e.1, e.2.map (fun m => { m with preMarker := true }))) })))
  ∧ (∀ (s : State) (n d : Nat) (D : ImgDomain) (j : SweepJob), s.nodeDom n = some (d, D) → (s.slice n).sweep.job = some j →
    s.maintWaits n = true → s.isFenced (.slice n) = false → s.acceptsMaint n (s.slice n).sweep.waitAt = true →
    let set := (s.slice n).sweep.next
    let ws := s.sweepWays n d D set j
    (ws.length ≤ s.vbFree n →
      let u := ws.foldl (fun s w => match tfree (s.slice n).vbuf 128 with
        | some i => (s.takeVictim n d D (set * D.ways + w) i 64).bump (cSlc n 25)
        | none => s) (s.sweepMark n d D set j)
      exec (.sweepPass { n := n }) s = .next ((u.maintSet n d D set).modSlice n (fun x => { x with
        sweep := { x.sweep with next := set + 1, waitAt := u.clk.fclk, held := false } })))
    ∧ (s.vbFree n < ws.length → exec (.sweepPass { n := n }) s = .next (s.modSlice n (fun y => { y with sweep := { y.sweep with held := true } }))))
  ∧ (∀ (s : State) (n d : Nat) (D : ImgDomain) (j : SweepJob), s.nodeDom n = some (d, D) → (s.slice n).sweep.job = some j →
    (s.slice n).sweep.active = true → D.sets ≤ (s.slice n).sweep.next → s.sweepPre n d = 0 →
    exec (.sweepEnd n) s = .next (((s.modSlice n (fun y => { y with
      sweep := { y.sweep with active := false, done := true, job := y.sweep.waiting, waiting := none }
      mshrs := y.mshrs.map (fun e => (e.1, e.2.map (fun m => { m with preMarker := false }))) })).irq 0 (128 + n)).sweepsOver j))

/-- R76, R217, R412, R420, R436, R437, R441: what the scrubs of an unfenced unit find once their interval has passed. A slot whose scrub an error has
scheduled goes first, else the patrol's next slot, where a slot without a line only moves the patrol on; a directory set with a corrected word is counted
(counter 14) and recorded, a node-cache entry with a corrected word is counted (counter 25), a Stipe position two copies agree on is put right, and a finished
copy of a spare takes effect, is counted (counter 9 of a row, 10 of a column), with its Peat entry and its record.
Readings of the model that it rests on: log entries 114 and 115. -/
def Obligations.Scrubs : Prop :=
  (∀ (s : State) (n d : Nat) (D : ImgDomain) (flips : List (BitVec 80)), s.nodeDom n = some (d, D) → s.isFenced (.slice n) = false → s.chanFree n d = true →
    (∀ k r, (s.slice n).scrubDue = k :: r → exec (.patrolScrub n flips {}) s = .next (s.scrubSlot n d D k flips))
    ∧ ((s.slice n).scrubDue = [] → (s.slice n).scrubAt ≤ s.clk.aclk → (s.slice n).scrubNext % D.ways ≠ 0 → s.slotLine D n (s.slice n).scrubNext = none →
      exec (.patrolScrub n flips {}) s = .next (s.modSlice n (fun y => { y with
        scrubNext := ((s.slice n).scrubNext + 1) % 65536
        scrubAt := s.clk.aclk + (match s.imgc.img with | some i => i.scrubMs | none => 1250) * 25000 }))))
  ∧ (∀ (s : State) (n d w : Nat) (y : BitVec 15) (D : ImgDomain) (b : Bool), s.nodeDom n = some (d, D) → s.isFenced (.home n) = false →
    (s.home n).dirScrubAt ≤ s.clk.aclk → w < 16 →
    exec (.dirScrub n (if b then .corrected w y else .clean)) s = .next (
      let k := (s.home n).dirScrubNext
      let t := s.modHome n (fun y => { y with dirScrubNext := (k + 1) % 2048, dirScrubAt := s.clk.aclk + 62500000 })
      if b then ((t.modHome n (fun y => { y with dirCorr := true })).bump (cHom n 14)).raise {
        sev := 0, source := .home, inst := n, code := .ceTag, domain := d, set := k, way := w, syn := y.setWidth 16, addr := BitVec.ofNat 48 (16 * k + w) }
      else t))
  ∧ (∀ (s : State) (n d : Nat) (D : ImgDomain) (e : NcEnt) (b : Bool), s.nodeDom n = some (d, D) → s.isFenced (.home n) = false →
    (s.home n).ncScrubAt ≤ s.clk.aclk → (s.home n).nc[(s.home n).ncScrubNext]? = some e →
    exec (.ncScrub n b false) s = .next (
      let t := s.modHome n (fun y => { y with ncScrubNext := ((s.home n).ncScrubNext + 1) % 512, ncScrubAt := s.clk.aclk + 25000 })
      if b then t.bump (cHom n 25) else t))
  ∧ (∀ (s : State) (k c : Nat) (h : ImgHome), s.treeHome (k / 64) = some h → 2 ≤ c → s.prot.stipeAt ≤ s.clk.aclk →
    exec (.stipeScrub [(k, c)] []) s = .next { s with prot := { s.prot with stipeFixed := true, stipeAt := s.clk.aclk + 25000000 } })
  ∧ (∀ (s : State) (n d : Nat) (D : ImgDomain) (u : SpareUse), s.nodeDom n = some (d, D) → (s.slice n).spares.find? (fun u => !u.live) = some u →
    let v := (if u.col then 2 ^ 23 else 0) + u.bank * 2 ^ 20 + u.spare * 2 ^ 18 + u.idx
    exec (.spareRemap n) s = .next (((((s.modSlice n (fun x => { x with
      spares := modFirst (fun y => decide (y = u)) (fun y => { y with live := true }) x.spares })).bump (cChn n (if u.col then 10 else 9))).peat 0x05
        (bodyOf ([n, 1] ++ leBytes 3 v))).raise {
          sev := 1, source := .channel, inst := n, code := if u.col then .colSpared else .rowSpared, domain := d, set := u.idx, way := u.bank })))

/-- R447 to R450, R600: the drain engine of a fenced slice takes the next line's victim through an entry of its own and waits 16 FCLK, ends when nothing is left, spreads the slice's
lines and raises vector 128 + n; a hand-over ends when every recall has ended.
Readings of the model that it rests on: log entries 120 and 121. -/
def Obligations.DrainAndHandover : Prop :=
  (∀ (s : State) (n d k : Nat) (D : ImgDomain), s.nodeDom n = some (d, D) → (s.slice n).drain.running = true → (s.slice n).drain.startAt ≤ s.clk.fclk →
    s.isFenced (.router n) = false → (s.slice n).drain.poison = false → s.drainNext n D = some k →
    let tw := s.tagAt n k
    s.mshrOf n (D.lineOf tw.origin.toNat (k / D.ways) tw.tag) = none →
    let u := (s.modSlice n (fun y => { y with drain := { y.drain with next := k + 1, startAt := s.clk.fclk + 16 } })).bump (cSlc n 32)
    let v := u.modTag n k (fun t => { t with lock := false })
    exec (.sliceDrainStep n) s = .next (v.takeVictim n d D k (v.drainKey n) 64))
  ∧ (∀ (s : State) (n d : Nat) (D : ImgDomain), s.nodeDom n = some (d, D) → (s.slice n).drain.running = true → s.drainNext n D = none →
    (s.slice n).outs = [] → (s.slice n).mshrs.any (fun e => e.2.isSome) = false →
    exec (.drainEnd n) s = .next (((s.modSlice n (fun y => { y with
      drain := { y.drain with running := false }, tags := [], pres := [], rrv := [] })).modDom d
        (fun y => { y with sliceSpread := insNat (D.pos n) y.sliceSpread })).irq 0 (128 + n)))
  ∧ (∀ (s : State) (n d : Nat) (D : ImgDomain), s.nodeDom n = some (d, D) → (s.home n).handover = true → (s.home n).absorbed = [] →
    D.nodes.any (fun m => (s.home m).txs.any (fun t => decide (t.kind = .handover) && decide (t.fromNode = n))) = false →
    exec (.handoverEnd n) s = .next ((D.nodes.foldl (fun s m => s.resendWb d D n m)
      ((s.modHome n (fun x => { x with handover := false, dir := [] })).modDom d
        (fun y => { y with homeSpread := insNat (D.pos n) y.homeSpread }))).irq 0 (128 + n)))

/-- R173, R195, R312, R323 to R330, R374: UNIT_ARRIVAL. A near group's acknowledgement, write-back or notice that enters at its port under a credit goes to the
line's slice, and a memory device's answer to the home; in Full mode the unit of earliest deadline of a link that can move leaves the fabric at its destination
while the queue's allowance covers it and fewer than four have left on this edge, else goes on when it wins an output that has the credits, and one that turns
joins its turn queue where it cannot, or where others wait there; the unit of earliest deadline of the injection queues enters the fabric when it wins its
output; in Compact mode a router acts once on each edge. Last, a router whose pool found no cell is fenced.
Readings of the model that it rests on: log entries 90 and 91. -/
def Sys2Proof.Claims.UnitsMove : Prop :=
  (∀ (s : State) (n k d : Nat) (D : ImgDomain) (m : Msg), k < 4 → s.portDom (4 * n + k) = some (d, D) → s.inSvc (4 * n + k) = true →
    let p := 4 * n + k
    s.covered p m = true →
    ((s.iport p).role = .near → m.op ∈ [Op.compAck, .wb, .evn] →
      exec (.unitArrival n (.port k m) .clean) s
        = .next (((s.landed p m).enter p (s.sliceNode d D m.line) .slice { m with sender := portEp D.device p }).cellFences))
    ∧ ((s.iport p).role = .memory → m.op ∈ [Op.memData, .memAck, .memDur] →
      exec (.unitArrival n (.port k m) .clean) s = .next (((s.landed p m).enter p (s.memHome d D m) .home m).cellFences)))
  ∧ (∀ (s : State) (n v d : Nat) (D : ImgDomain) (dir : Dir) (u : FUnit), s.nodeDom n = some (d, D) → s.isFenced (.router n) = false →
    D.compact = false → s.earliest d ((s.linkHeads n dir).filter (fun e => decide (s.linkMove d D n dir e.1 e.2 ≠ .none))) = some (v, u) →
    let k := 5 * dirNum dir + v
    let turns := tget [] (s.router n).turn v
    (s.fullHop d D n u = .eject → s.allowed u = true → s.ejectRoom n = true →
      exec (.unitArrival n (.link dir) .clean) s = .next ((((s.dropIn n k).ejectOne n).eject d D u false).cellFences))
    ∧ (∀ o det c, s.fullHop d D n u = .go o det → (sameRing o dir = true ∨ turns = []) → s.candOf d D n (dirNum dir) (some dir) u = some c →
      s.candWins d D n c = true →
      exec (.unitArrival n (.link dir) .clean) s = .next ((s.candGo d D n c u (fun s => s.dropIn n k)).cellFences))
    ∧ (∀ o det, s.fullHop d D n u = .go o det → sameRing o dir = false → (turns ≠ [] ∨ s.candOf d D n (dirNum dir) (some dir) u = none) →
      exec (.unitArrival n (.link dir) .clean) s = .next ((((s.dropIn n k).modRouter n
        (fun r => { r with turn := tmod [] r.turn v (fun l => l ++ [u]) })).bump (cRtr n 23)).cellFences)))
  ∧ (∀ (s : State) (n q d det : Nat) (D : ImgDomain) (o : Dir) (u : FUnit) (c : Cand), s.nodeDom n = some (d, D) → s.isFenced (.router n) = false →
    D.compact = false → (∀ v, tget [] (s.router n).turn v = []) → s.goesDead u = false →
    s.earliest d ((s.injHeads d D n).filter (fun e => decide (s.entryMove d D n 5 e.2 ≠ .none))) = some (q, u) →
    s.fullHop d D n u = .go o det → s.candOf d D n 5 none u = some c → s.candWins d D n c = true →
    exec (.unitArrival n .inject .clean) s
      = .next ((s.candGo d D n c (s.injected d n q u).2 (fun s => (s.injected d n q u).1)).cellFences))
  ∧ (∀ (s : State) (n d : Nat) (D : ImgDomain) (dir : Dir) (x : HdrCheck), s.nodeDom n = some (d, D) → s.isFenced (.router n) = false → D.compact = true →
    (s.router n).edgeAt ≤ s.clk.fclk →
    exec (.unitArrival n .inject .clean) s = .next ((s.compactEdge d D n none .clean).cellFences)
    ∧ exec (.unitArrival n (.link dir) x) s = .next ((s.compactEdge d D n (some dir) x).cellFences))

/-- R337, R338: DETOUR puts the routes around every fenced router in effect for the whole domain at once, and for 48,000 FCLK requests leave the fabric in
the order of their numbers; at the end of that time what was held for order leaves.
Readings of the model that it rests on: log entry 97. -/
def Sys2Proof.Claims.Detours : Prop :=
  (∀ (s : State) (d : Nat), (s.dom d).detourPend ≠ [] →
    exec (.detour d) s = .next (s.modDom d (fun x => { x with detour := true, detourPend := [], reorderTill := s.clk.fclk + 48000 })))
  ∧ (∀ (s : State) (d : Nat) (D : ImgDomain), s.idom d = some D → D.compact = false → (s.dom d).reorderTill ≠ 0 → (s.dom d).reorderTill ≤ s.clk.fclk →
    exec (.detourReorderEnd d) s = .next (D.nodes.foldl (fun s n => (s.qOf n 49).foldl (fun s u => (s.qTake n 49 u.msg).ejectTo d u false) s)
      (s.modDom d (fun x => { x with reorderTill := 0 }))))

/-- Units and detours. -/
def Obligations.FabricMoves : Prop := Claims.UnitsMove ∧ Claims.Detours

/-- R361 to R363: training. DETECT goes on to EQ on a poll that finds the partner awake while the port may train; lanes that pass EQ, a skew of at most 64 ns
and the end of FLIT inside the budgets lead to discovery at the trained width; a state whose budget runs out leads back to DETECT; FAILED goes back too.
RETRAIN and the end of a good fast retrain leave and restore service, and what was not acknowledged is sent again.
Readings of the model that it rests on: log entry 101. -/
def Obligations.PortTraining : Prop :=
  (∀ (s : State) (p : Nat), p < 256 → s.polls p = true → s.mayTrain p = true →
    exec (.detect p true) s = .next (s.modPort p (fun x => { x with state := .train, train := .eq, trainAt := s.clk.aclk })))
  ∧ (∀ (s : State) (p k : Nat) (x : TrainResult), p < 256 → (s.port p).state = .train → s.clk.aclk ≤ (s.port p).trainAt + 250000 →
    trainWidth (s.iport p) x.eqOk = some k → x.lockOk = true → x.skew ≤ 64 → x.flitOk = true →
    exec (.train p x) s = .next ((s.modPort p (fun y => { y with eqPass := x.eqOk })).toFind p k))
  ∧ (∀ (s : State) (p : Nat) (x : TrainResult), p < 256 → (s.port p).state = .train → (s.iport p).reduce = false →
    (s.port p).trainAt + trainBudget (s.iport p) x ≤ s.clk.aclk →
    exec (.trainingBudget p x) s = .next ((s.modPort p (fun y => { y with eqPass := x.eqOk })).toDetect p))
  ∧ (∀ (s : State) (p : Nat), p < 256 → (s.port p).state = .failed → (s.port p).failedAt + 2500000 ≤ s.clk.aclk →
    exec (.failedReturn p) s = .next (s.toDetect p))
  ∧ (∀ (s : State) (p : Nat), p < 256 → (s.port p).state = .service →
    exec (.retrain p) s = .next (s.modPort p (fun x => { x with state := .retrain, train := .lock, retrainRun := true, retrainAt := s.clk.fclk })))
  ∧ (∀ (s : State) (p : Nat), p < 256 → (s.port p).state ≠ .service → exec (.retrain p) s = .next s)
  ∧ (∀ (s : State) (p : Nat), p < 256 → (s.port p).state = .retrain → (s.port p).drainRun = false → (s.port p).asked = false →
    s.clk.fclk ≤ (s.port p).retrainAt + 48000 →
    let u := (s.modPort p (fun x => { x with retrained := true, retrainRun := false, train := .idle, state := .service })).bump (cPort p 17)
    (u.winHit 11 (.port p)).2 = false →
    let v := (u.winHit 11 (.port p)).1
    exec (.fastRetrainEnd p true) s = .next ((v.modPort p (fun x => { x with
      unacked := x.unacked.map (fun f => { f with times := 1 }), lnakAt := [], goodAt := v.clk.fclk })).resendAll p (v.port p).unacked))

/-- R364 to R368, R379: discovery. A DISC_ID that passes the checks of R366 is kept and answered with DISC_CFG, one that fails is rejected with the first
reason that fails; a DISC_CFG that passes goes on; a share that authenticates makes the link's keys, and one that does not is rejected with KEYX; the end of
discovery of a port that is no PEER enters service; a rejection by the partner and the timeout end in FAILED. A rejection by the partner writes REASON and adds
to REJ as an own one does: that is the model's choice.
Readings of the model that it rests on: log entry 102. -/
def Obligations.PortDiscovery : Prop :=
  ∀ (s : State) (p : Nat), p < 256 → (s.port p).state = .find →
    let g := s.gotFlits p 0 0 1
    (∀ x, (s.port p).stage = .none →
      let u := g.modPort p (fun y => { y with
        pkind := x.kind, plink := x.linkver, linkver := 0x10#8 + BitVec.ofNat 8 (min 1 (x.linkver.toNat % 16)), puid := x.uid, pcaps := x.caps
        pagent := if (s.iport p).role = .peer then x.agent else epAgent (portEp (s.portDev p) p) })
      (u.idChecks p x = 0 → exec (.discId p x) s = .next (((u.modPort p (fun y => { y with stage := .id })).emit
        (.discCfg p (u.ownCfg p))).mgmtFlit p 2 (cfgBytes (u.ownCfg p))))
      ∧ (u.idChecks p x ≠ 0 → exec (.discId p x) s = .next (u.reject p (u.idChecks p x))))
    ∧ (∀ x, (s.port p).stage = .id → (s.iport p).encReq = false →
      let u := g.modPort p (fun y => { y with
        padv := (List.range 5).map (fun v => x.cred.getD v 0), pcarried := if (s.iport p).role = .peer then x.carried else 0
        pcontract := x.contract, pdurable := x.durable, psync := x.timeSync, prootIdx := x.rootIdx, prootHops := x.rootHops })
      (u.cfgChecks p x = 0 → exec (.discCfg p x) s = .next (u.modPort p (fun y => { y with stage := .cfg })))
      ∧ (u.cfgChecks p x ≠ 0 → exec (.discCfg p x) s = .next (u.reject p (u.cfgChecks p x))))
    ∧ (∀ share sig root, (s.port p).stage = .cfg →
      let u := if (s.iport p).encReq = true then s.gotFlits p 0 0 2 else (s.gotFlits p 0 0 2).ownShare p
      let k := u.keyxKeys p (u.port p).encPriv share
      exec (.discKeyx p share sig root) s = .next (if s.keyxAuth p share sig root = true then u.modPort p (fun x => { x with
          stage := .keyx, keyxOk := true, enc := x.pcaps.getLsbD 1, encKeyTx := k.1, encSaltTx := k.2.1, encKeyRx := k.2.2.1
          encSaltRx := k.2.2.2, encBlkTx := 0, encBlkRx := 0, nextTx := none, nextRx := none })
        else s.reject p 0xA))
    ∧ (∀ e o, s.portDom p = some e → (s.iport p).role ≠ .peer → (s.port p).stage = .cfg → (s.iport p).encReq = false →
      s.clk.aclk < (s.port p).flitAt + s.discLimit p →
      exec (.discDone p o) s = .next ((g.mgmt p 0x04 0).enterService p))
    ∧ (∀ r, exec (.discRej p r) s = .next ((g.modPort p (fun x => { x with
        state := .failed, train := .idle, reason := r % 16, rej := min (x.rej + 1) 255, failedAt := s.clk.aclk })).laneIrq p))
    ∧ ((s.port p).flitAt + s.discLimit p ≤ s.clk.aclk → exec (.discTimeout p) s = .next (s.reject p 9))

/-- R369 to R371: time. A step waits for an empty watch table and then moves the domain's time forward; an exchange leaves with T1 at most every 10 µs, is
answered with T1, T2 and T3, and its answer gives the link's delay, and the offset to the steering; a domain whose exchanges with its upstream have not ended
for 100 µs loses SYNC.
Readings of the model that it rests on: log entries 15 and 103. -/
def Obligations.TimeExchange : Prop :=
  (∀ (s : State) (d : Nat) (D : ImgDomain) (off : Int), s.idom d = some D → (s.dom d).stepPend = some off → s.watchesEmpty D = true →
    s.iports.all (fun e => !(decide ((s.port e.1).state = .find) && decide ((s.port e.1).stage = .done) && D.has (portNode e.1))) = true →
    exec (.timeStep d) s = .next (s.modDom d (fun x => { x with ktime := (Int.ofNat x.ktime + off).toNat, stepPend := none, sync := false })))
  ∧ (∀ (s : State) (p t1 t2 t3 t4 idx hops : Nat) (sy : Bool), s.peerUp p = true →
    (((s.port p).tsyncAt = 0 ∨ (s.port p).tsyncAt + ns 10000 ≤ s.portKt p) → exec (.tsyncExchange p t1) s
      = .next (((s.modPort p (fun x => { x with tsyncOut := some t1, tsyncAt := s.portKt p })).emit (.tsyncReq p t1)).mgmtFlit p 0x10 (leBytes 10 t1)))
    ∧ exec (.tsyncReq p t1 t2 t3) s = .next (((s.gotFlits p 0 0 1).emit (.tsyncRsp p t1 t2 t3)).mgmtFlit p 0x11
        (leBytes 10 t1 ++ leBytes 10 t2 ++ leBytes 10 t3))
    ∧ ((s.port p).tsyncOut = some t1 → exec (.tsyncRsp p t1 t2 t3 t4 sy idx hops) s
        = .next (((s.gotFlits p 0 0 1).modPort p (fun x => { x with delay := linkDelay t1 t2 t3 t4 })).tsyncIn p (theta t1 t2 t3 t4) sy idx hops)))
  ∧ (∀ (s : State) (d : Nat) (D : ImgDomain), s.idom d = some D → s.syncOver d D = true → s.isRoot d D = false →
    exec (.syncLost d) s = .next (s.syncLoss d))

/-- R351, R356, R358, R363, R378, R380, R381: replay and encryption on a port in service: LACK frees flits, LNAK counts and sends again, a flit that fails the
link check asks for the flit that is due once, an IDLE flit that passes returns its credits, a block whose tag fits is taken (and changes keys with NEWKEY),
and a new key exchange that authenticates keeps its keys until then.
Readings of the model that it rests on: log entry 106. -/
def Obligations.ReplayAndEncryption : Prop :=
  (∀ (s : State) (p : Nat) (q : BitVec 16), s.inSvc p = true →
    exec (.lack p q) s = .next ((s.modPort p (fun x => { x with
      unacked := x.unacked.filter (fun f => !seqLe f.seq q), goodAt := s.clk.fclk })).bump (cPort p 9)))
  ∧ (∀ (s : State) (p : Nat) (q : BitVec 16), p < 256 → s.inSvc p = true → (s.port p).lnakAt.length < 63 →
    exec (.lnak p q) s = .next ((((s.modPort p (fun x => { x with
      lnakAt := (s.clk.aclk :: x.lnakAt).take 64, goodAt := s.clk.fclk })).bump (cPort p 15)).bump (cPort p 9)).resendFrom p q))
  ∧ (∀ (s : State) (p : Nat) (q : BitVec 16) (f : BitVec 672), (s.port p).state = .service → (s.port p).train = .idle →
    (linkCheck (s.port p) q f 0 = false →
      let t := if f.extractLsb' 0 16 = flitCrc f then s else s.bump (cPort p 14)
      exec (.linkCheckFail p { seq := q, flit := f }) s = .next (if (s.port p).lnakSent = true then t
        else (t.modPort p (fun y => { y with lnakSent := true })).linkFlit p true (s.port p).rxSeq))
    ∧ (linkCheck (s.port p) q f 0 = true → flitFt f = 0 →
      exec (.linkCheckFail p { seq := q, flit := f }) s = .next
        ((((s.gotReturn p f).gotFlits p 0 0 0).modPort p (fun y => { y with rxSeq := y.rxSeq + 1 })).bump (cPort p 6))))
  ∧ (∀ (s : State) (p : Nat) (fl : List (BitVec 672)) (b : Bool), s.inSvc p = true → (s.port p).enc = true →
    exec (.tag p (s.port p).encBlkRx.toNat fl (Config.gcmTag (s.port p).encKeyRx (s.port p).encSaltRx (s.port p).encBlkRx fl) b) s = .next (s.tagGood p b))
  ∧ (∀ (s : State) (p : Nat) (share : BitVec 768) (sig : BitVec 4096) (root : BitVec 512), s.inSvc p = true → (s.port p).enc = true →
    let k := s.keyxKeys p (Config.draw s.free) share
    exec (.linkKeyExchange p share sig root) s = .next (if s.keyxAuth p share sig root = true then
      (((s.gotFlits p 0 0 2).modPort p (fun x => { x with nextTx := some (k.1, k.2.1), nextRx := some (k.2.2.1, k.2.2.2) })).sendShare p
        (Config.keyxShare (Config.draw s.free))).drawn
      else s))

/-- R373 to R377: leaving service. A drain that nothing forbids asks the partner and the port drains; a partner's request is acknowledged; the work of the
port's role runs once; the port leaves when it is quiet; a drain that runs out, and a partner that has sent no good flit for 1 µs, isolate the port, whose
queues then leave FLUSH and which polls DETECT.
Readings of the model that it rests on: log entries 104 and 105. -/
def Obligations.PortsLeaveService : Prop :=
  (∀ (s : State) (p : Nat), p < 256 → (s.port p).drainRun = false → (s.port p).state = .service →
    (s.drainInUse p = false → exec (.portDrain p) s = .next ((s.modPort p (fun x => { x with
        state := .draining, drainRun := true, drainSt := .none, detach := .asked, detachAt := s.clk.aclk, asked := false })).mgmt p 0x30 0)
      ∧ exec (.detachReq p) s = .next ((((s.gotFlits p 0 0 1).modPort p (fun x => { x with
        state := .draining, detach := .acked, detachAt := s.clk.aclk, asked := true })).mgmt p 0x31 0).detachWork p))
    ∧ (s.drainInUse p = true → exec (.portDrain p) s = .next (s.modPort p (fun x => { x with drainSt := .inuse }))))
  ∧ (∀ (s : State) (p : Nat), (s.port p).state = .draining →
    ((s.port p).detach = .asked → exec (.detachAck p) s = .next (((s.gotFlits p 0 0 1).modPort p (fun x => { x with detach := .acked })).detachWork p))
    ∧ ((s.port p).detach = .acked → s.detachQuiet p = true → exec (.detachDone p) s = .next (s.leaveService p))
    ∧ ((s.port p).detachAt + 50000 ≤ s.clk.aclk → exec (.drainFallback p) s = .next ((s.modPort p (fun x => { x with drainSt := .fallback })).isolate p))
    ∧ ((s.port p).goodAt + 2400 ≤ s.clk.fclk → exec (.partnerDead p) s = .next (s.partnerDied p)))
  ∧ (∀ (s : State) (p : Nat), (s.port p).state = .isolating → exec (.isolationEnd p) s = .next (
      let mine (q : Nat) : Bool := decide (20 + 5 * portSlot p ≤ q) && decide (q < 25 + 5 * portSlot p)
      let t := (s.modPool (portNode p) (fun x => { x with flushing := x.flushing.filter (fun q => !mine q) })).isolTails p
      if p ∈ s.flt.fport ∨ portNode p ∈ s.flt.frtr then t.modPort p (fun x => { x with state := .off, train := .idle, wact := none }) else t.toDetect p))

/-- R532 to R534: a PMBus read with a right PEC answers with its bytes and changes nothing else. The manual gives MFR_ID, MFR_MODEL and PMBUS_REVISION.
The model's choices: the bits of the status bytes, CAPABILITY 0xD0 and the MFR_REVISION block (PRESUMED, log entry 150), and the number formats, functions
of Config without a body (DESIGN CHOICE, log entry 13). -/
def Sys2Proof.Claims.PmbusReads : Prop :=
  ∀ (s : State),
    let word (v : BitVec 16) : State := s.emit (.pmbus (bytesLe 2 v.toNat))
    let bytes (b : List Byte) : State := s.emit (.pmbus b)
    exec (.statusByte true) s = .next (bytes [s.stByte]) ∧ exec (.statusWord true) s = .next (word s.stWord)
    ∧ exec (.statusVout true) s = .next (bytes [s.pmb.stVout.getD s.pmb.page.toNat 0]) ∧ exec (.statusIout true) s = .next (bytes [s.pmb.stIout.getD s.pmb.page.toNat 0])
    ∧ exec (.statusInput true) s = .next (bytes [s.pmb.stInput]) ∧ exec (.statusTemperature true) s = .next (bytes [s.pmb.stTemp])
    ∧ exec (.statusCml true) s = .next (bytes [s.pmb.stCml])
    ∧ exec (.readVin true) s = .next (word (Config.linear11 s.pwr.vin)) ∧ exec (.readIin true) s = .next (word (Config.linear11 (10 * s.pwr.iin)))
    ∧ exec (.readVout true) s = .next (word (if s.pmb.page = 0 then 0 else Config.linear16 (s.pmb.vout.getD (s.pmb.page.toNat - 1) 0)))
    ∧ exec (.readIout true) s = .next (word (if s.pmb.page = 0 then 0 else Config.linear11 (10 * s.pmb.iout.getD (s.pmb.page.toNat - 1) 0)))
    ∧ exec (.readTemperature1 true) s = .next (word (Config.linear11 (tempArg (maxOf s.pwr.die))))
    ∧ exec (.readTemperature2 true) s = .next (word (Config.linear11 (tempArg (maxOf s.pwr.tile))))
    ∧ exec (.readTemperature3 true) s = .next (word (Config.linear11 (tempArg (s.pwr.inlet.getD 0))))
    ∧ exec (.readPout true) s = .next (word (Config.linear11 s.pmb.pout)) ∧ exec (.readPin true) s = .next (word (Config.linear11 s.pmb.pin))
    ∧ exec (.voutMode true) s = .next (bytes [Config.voutExp.setWidth 8]) ∧ exec (.pmbusRevision true) s = .next (bytes [0x33])
    ∧ exec (.mfrId true) s = .next (bytes [9, 0x56, 0x41, 0x4C, 0x41, 0x53, 0x54, 0x49, 0x4E, 0x47])
    ∧ exec (.mfrModel true) s = .next (bytes [6, 0x56, 0x4C, 0x39, 0x32, 0x35, 0x36])
    ∧ exec (.mfrRevision true) s = .next (bytes [1, BitVec.ofNat 8 Config.hwRev.toNat]) ∧ exec (.capability true) s = .next (bytes [0xD0])

/-- The PMBus reads, by the right-PEC flag they carry. -/
def Sys2Proof.Claims.pmbusRead : List (Bool → Instr) :=
  [.capability, .voutMode, .statusByte, .statusWord, .statusVout, .statusIout, .statusInput, .statusTemperature, .statusCml, .readVin, .readIin, .readVout,
   .readIout, .readTemperature1, .readTemperature2, .readTemperature3, .readPout, .readPin, .pmbusRevision, .mfrId, .mfrModel, .mfrRevision, .clearFaults]

/-- R532 to R534, R537: the other PMBus transfers. A wrong PEC sets the invalid-data bit and nothing else happens; PAGE takes 0 to 4; CLEAR_FAULTS clears
the latched bits and a condition still present sets its bit again; a wrong code is not acknowledged and sets the command bit; the alert response names the
interface, and without a low ALERT_N is not acknowledged; a refresh takes every reading together. The places of the status bits are the model's (PRESUMED, log entry 150). -/
def Sys2Proof.Claims.PmbusTransfers : Prop :=
  ∀ (s : State),
    (∀ c ∈ Claims.pmbusRead, exec (c false) s = .next (s.pmbCml 6))
    ∧ (∀ v, exec (.page v false) s = .next (s.pmbCml 6))
    ∧ (∀ v, v.toNat ≤ 4 → exec (.page v true) s = .next { s with pmb := { s.pmb with page := v } })
    ∧ (∀ v, 4 < v.toNat → exec (.page v true) s = .next (s.pmbCml 6))
    ∧ exec (.clearFaults true) s = .next (({ s with pmb := { s.pmb with
        stVout := [0, 0, 0, 0, 0], stIout := [0, 0, 0, 0, 0], stInput := 0, stTemp := 0, stCml := 0, alert := false } }).latchStatus)
    ∧ (∀ c w, c.toNat ∉ pmbCodes ∨ (w = true ∧ c ≠ 0x00 ∧ c ≠ 0x03) → exec (.pmbusInvalidCommand c w) s = .next ((s.emit .pmbusNack).pmbCml 7))
    ∧ (s.pmb.alert = false → exec .alertResponse s = .next (s.emit .pmbusNack))
    ∧ (s.pmb.alert = true → s.anyCond = false → ∃ t, exec .alertResponse s = .next t ∧ t.pmb.alert = false
        ∧ t.out = (s.emit (.pmbus [(s.pmb.addr.setWidth 8) <<< 1])).out)
    ∧ (∀ x : Readings, ∃ t, exec (.sensorRefresh x) s = .next t ∧ t.pwr.vin = x.vin ∧ t.pwr.iin = x.iin ∧ t.pwr.bank = x.bank ∧ t.pwr.die = x.die
        ∧ t.pwr.tile = x.tile ∧ t.pwr.pstage = x.pstage ∧ t.pwr.inlet = some x.inlet ∧ t.pmb.vout = x.vout ∧ t.pmb.iout = x.iout ∧ t.pmb.pout = x.pout
        ∧ t.pmb.pin = x.pin ∧ (s.pmb.alert = true → t.pmb.alert = true))

/-- The PMBus interface. -/
def Obligations.PmbusCommands : Prop := Claims.PmbusReads ∧ Claims.PmbusTransfers

/-- R429, R535: the test port outside Dormant. IDCODE shifts out the identification word, BYPASS one bit late what comes in, SAMPLE/PRELOAD takes the cells;
EXTEST and the array instructions act only in Maintenance with TEST_EN, else as BYPASS; a line under an encryption key reads as zeros.
Readings of the model that it rests on: log entries 142 and 152. -/
def Obligations.TestPort : Prop :=
  (∀ (s : State), s.start.mode ≠ .dormant →
    exec .idcode s = .next ((s.tapLoad .idcode).emit (.tdo (bitsLsb idcodeWord)))
    ∧ (∀ b, s.tap.instr = .bypass → s.tap.zeros = false →
      exec (.bypass b) s = .next (({ s with tap := { s.tap with bypassBit := b } }).emit (.tdo [s.tap.bypassBit])))
    ∧ (∀ cs, ∃ t, exec (.samplePreload cs) s = .next t ∧ t.tap.instr = .sample ∧ t.tap.cells = cs)
    ∧ (∀ cs, s.tapTest = false → exec (.extest cs) s = .next (s.tapLoad .bypass))
    ∧ (∀ x, s.tapTest = false → exec (.arrayInstruction x) s = .next (s.tapLoad .bypass)))
  ∧ (∀ (s : State), s.tapTest = true →
    (∀ cs, ∃ t, exec (.extest cs) s = .next t ∧ t.tap.instr = .extest ∧ t.tap.cells = cs)
    ∧ (∀ n k, (s.tagAt n k).keyid = 0 → exec (.arrayInstruction (.readLine n k)) s
        = .next ((s.tapLoad .array).emit (.tdo (bitsLsb (tget {} (s.slice n).tile k).bits ++ bitsLsb (tget {} (s.slice n).tile k).marks))))
    ∧ (∀ n k, (s.tagAt n k).keyid ≠ 0 → exec (.arrayInstruction (.readLine n k)) s
        = .next ((s.tapLoad .array).emit (.tdo (List.replicate 1040 false))))
    ∧ (∀ n k v, n < 64 → (s.tagAt n k).keyid = 0 → exec (.arrayInstruction (.writeLine n k v)) s
        = .next ((s.tapLoad .array).modSlice n (fun y => { y with tile := tset {} y.tile k v })))
    ∧ (∀ n k v, (s.tagAt n k).keyid ≠ 0 → exec (.arrayInstruction (.writeLine n k v)) s = .next (s.tapLoad .array)))

/-- A step takes the command at the front of the queue and runs it on the state with the queue's rest; with no command waiting one clock edge passes (the model's
choice, log entries 1 and 2). -/
def Obligations.StepRunsTheFrontCommand : Prop :=
  (∀ (c : Instr) (s : State), step { s with pending := c :: s.pending } = exec c s)
  ∧ (∀ s : State, s.pending = [] → step s = .next s.tick)

/-- Every command completes: no command faults and none is refused. It leaves the commands that wait alone, takes back nothing that has left the
controller, and takes back no free value.
Readings of the model that it rests on: log entry 4. -/
def Obligations.EveryCommandCompletes : Prop :=
  ∀ (c : Instr) (s : State), ∃ t, exec c s = .next t ∧ t.pending = s.pending ∧ s.out <+: t.out ∧ s.free ≤ t.free

/-- R37, R38: an edge with no command moves time and nothing else; that an edge passes when no command waits is the model's choice (log entry 1). Outside Dormant FCLK gains one, each running domain's Karik time gains its rate word, and
a domain that does not run keeps its time; in Dormant neither moves. -/
def Obligations.IdleEdgesMoveOnlyTime : Prop :=
  ∀ s : State, s.pending = [] →
    (s.start.mode ≠ .dormant → ∃ t, step s = .next t ∧ t.clk.fclk = s.clk.fclk + 1
      ∧ (∀ d, (t.dom d).ktime = if (s.dom d).running then (s.dom d).ktime + rateWord (s.dom d) else (s.dom d).ktime)
      ∧ (∃ k, t = { s with doms := t.doms, clk := t.clk, start := { s.start with kgTime := k } }))
    ∧ (s.start.mode = .dormant → ∃ t, step s = .next t ∧ t.clk.fclk = s.clk.fclk ∧ t.doms = s.doms
      ∧ t = { s with clk := t.clk, start := t.start })

/-- R571: every counter is at most 2^48 - 1, whatever step is taken. -/
def Obligations.CountersStayWithin48Bits : Prop :=
  ∀ s t : State, (∀ k, tget 0 s.cnt k ≤ 2 ^ 48 - 1) → step s = .next t → ∀ k, tget 0 t.cnt k ≤ 2 ^ 48 - 1

/-- R460: the error FIFO never holds more than 256 records. -/
def Obligations.ErrorFifoHoldsAtMost256 : Prop :=
  ∀ s t : State, s.flt.fifo.length ≤ 256 → step s = .next t → t.flt.fifo.length ≤ 256

/-- The model's tables stay in their one canonical form, so that equal contents are equal states (a property of the model's own
representation and no rule of the manual: DESIGN CHOICE, log entry 5). -/
def Obligations.TablesStayCanonical : Prop :=
  ∀ s t : State, s.canonical = true → step s = .next t → t.canonical = true

/-- R506, R508: the numbering of the Peat log never goes back. -/
def Obligations.PeatNumbersNeverFall : Prop :=
  ∀ s t : State, step s = .next t → s.mram.peatSeq ≤ t.mram.peatSeq

/-- R6, R478, R571, R598: after reset the module is Dormant with no command waiting, no image, the rollback floor at 0, no command of the mailbox running, every
counter at zero, no fence and no record; the invariants of the statements above hold. That no slot is confirmed or on trial is the model's choice of a new module
(DESIGN CHOICE, log entry 3). -/
def Obligations.ResetState : Prop :=
  State.reset.start.mode = .dormant ∧ State.reset.pending = [] ∧ State.reset.imgc.img = none ∧ State.reset.mram.floor = 0
    ∧ State.reset.mram.confirmed = .none ∧ State.reset.mram.trial = .none ∧ (∀ k, tget 0 State.reset.cnt k = 0) ∧ State.reset.flt.fifo = []
    ∧ State.reset.fencedAny = false ∧ State.reset.canonical = true ∧ State.reset.flt.fifo.length ≤ 256 ∧ (∀ k, tget 0 State.reset.cnt k ≤ 2 ^ 48 - 1)
    ∧ State.reset.mbx.run = false

/-- The commands that can carry out a CONFIRM: the command itself, and a write of PF0, a VF or the Medulla that can reach IMG_CMD. -/
def Sys2Proof.Claims.mayConfirm : Instr → Bool
  | .imgConfirm | .registerWrite _ _ _ _ | .aliasWrite _ _ _ _ => true
  | _ => false

/-- R478, R486: the rollback floor changes only at a CONFIRM, and then to the SEQ of the image in force, which was the trial. -/
def Obligations.FloorChangesOnlyAtConfirm : Prop :=
  ∀ (c : Instr) (s t : State), exec c s = .next t → t.mram.floor ≠ s.mram.floor →
    Claims.mayConfirm c = true ∧ s.mram.trial = s.imgc.inForce ∧ ∃ i, s.imgc.img = some i ∧ t.mram.floor = i.seq

/-- R571: a counter that takes `n` events of an edge, at most 4,095, becomes the smaller of its value plus `n` and 2^48 - 1, and nothing else changes; at
2^48 - 1 it stays. -/
def Obligations.CountersAddAndStop : Prop :=
  ∀ (s : State) (k n : Nat), n ≤ 4095 →
    tget 0 (s.bumpN k n).cnt k = min (tget 0 s.cnt k + n) (2 ^ 48 - 1)
    ∧ (∀ j, j ≠ k → tget 0 (s.bumpN k n).cnt j = tget 0 s.cnt j)
    ∧ s.bumpN k n = { s with cnt := (s.bumpN k n).cnt }
    ∧ (tget 0 s.cnt k = 2 ^ 48 - 1 → tget 0 (s.bumpN k n).cnt k = 2 ^ 48 - 1)

/-- R575: ZERO sets every counter outside the always-on domain to zero and adds the increment of that edge; the always-on counters, and all other state, stay. -/
def Obligations.ZeroClearsCounters : Prop :=
  ∀ (s : State) (incs : List (Nat × Nat)), (incs.map (·.1)).Nodup → (∀ e ∈ incs, e.2 < 4096) →
    ∃ t, exec (.zero incs) s = .next t ∧ t = { s with cnt := t.cnt }
      ∧ (∀ k, alwaysOnCnt k = true → tget 0 t.cnt k = tget 0 s.cnt k)
      ∧ (∀ k n, alwaysOnCnt k = false → (k, n) ∈ incs → tget 0 t.cnt k = n)
      ∧ (∀ k, alwaysOnCnt k = false → k ∉ incs.map (·.1) → tget 0 t.cnt k = 0)

/-- R48: set index and tag of a line in a slice of 2^a ways of a domain of 2^n nodes, and the line's recovery from its position, set index and tag. -/
def Obligations.PositionSetAndTagRecoverTheLine : Prop :=
  ∀ (D : ImgDomain) (l : LineAddr), 2 ≤ D.nlog → D.nlog ≤ 6 → 1 ≤ D.wlog → D.wlog ≤ 4 →
    let i := 16 - D.wlog
    D.sets = 65536 / 2 ^ D.wlog ∧ D.sets = 2 ^ i
    ∧ D.set l = l.toNat / 2 ^ D.nlog % 2 ^ i
    ∧ (D.tag l).toNat = l.toNat / 2 ^ (D.nlog + i)
    ∧ (D.tag l).toNat < 2 ^ (45 - D.nlog - i)
    ∧ D.lineOf (D.hash l) (D.set l) (D.tag l) = l

/-- R458 to R460: a new record is numbered and goes to the end of the FIFO while it holds fewer than 256; a full FIFO gives up its oldest CORRECTED record to
one of SEV 2 or above, and else counts the new one as lost. After FIRM, SEV 1 and above also enter the Peat log. -/
def Obligations.ErrorRecords : Prop :=
  ∀ (s : State) (r : ErrRec),
    let t := s.enterRec r
    (s.flt.fifo.length < 256 → ∃ x, t.flt.fifo = s.flt.fifo ++ [x] ∧ x.code = r.code ∧ x.sev = r.sev ∧ x.seq = s.flt.seq + 1 ∧ t.flt.lost = s.flt.lost)
    ∧ (s.flt.fifo.length = 256 → ∀ a c b, 2 ≤ r.sev → s.flt.fifo = a ++ c :: b → c.sev = 0 → (∀ y ∈ a, y.sev ≠ 0) →
        ∃ x, t.flt.fifo = a ++ b ++ [x] ∧ x.code = r.code ∧ x.sev = r.sev ∧ x.seq = s.flt.seq + 1 ∧ t.flt.lost = s.flt.lost)
    ∧ (s.flt.fifo.length = 256 → (r.sev < 2 ∨ ∀ y ∈ s.flt.fifo, y.sev ≠ 0) →
        t.flt.fifo = s.flt.fifo ∧ t.flt.lost = min (s.flt.lost + 1) 65535)
    ∧ (1 ≤ r.sev → s.start.firmDone = true → s.mram.peatSeq < t.mram.peatSeq)
    ∧ (r.sev = 0 → t.mram = s.mram)

/-- R326: between unfenced routers a Full-mode unit travels its X ring first and then its Y ring, in the rising direction up to half of the ring. -/
def Obligations.FullModeRoutes : Prop :=
  ∀ (s : State) (d n : Nat) (D : ImgDomain) (u : FUnit), s.flt.frtr = [] → u.det = 0 →
    let W := shapeW D.nlog
    let H := shapeH D.nlog
    let dx := (D.pos u.dst % W + W - D.pos n % W) % W
    let dy := (D.pos u.dst / W + H - D.pos n / W) % H
    (n = u.dst → s.fullHop d D n u = .eject)
    ∧ (n ≠ u.dst → 0 < dx → 2 * dx ≤ W → s.fullHop d D n u = .go .px 0)
    ∧ (n ≠ u.dst → W < 2 * dx → s.fullHop d D n u = .go .mx 0)
    ∧ (n ≠ u.dst → dx = 0 → 0 < dy → 2 * dy ≤ H → s.fullHop d D n u = .go .py 0)
    ∧ (n ≠ u.dst → dx = 0 → H < 2 * dy → s.fullHop d D n u = .go .my 0)

/-- R431 to R435: every codeword decodes to its word, a codeword with one inverted position is corrected, and a poison mark is recognised, for both values of
the location bit. -/
def Obligations.CodewordsAreCorrected : Prop :=
  ∀ (loc : Bool) (d : BitVec 64),
    decodeCw loc (encodeCw loc d) = (.clean, d)
    ∧ (∀ p, p < 80 → decodeCw loc (flipPos (encodeCw loc d) p) = (.corrected p none, d))
    ∧ (decodeCw loc (markCw loc d)).1 = .mark
    ∧ decodeCw (!loc) (encodeCw loc d) = (.loc, d)

/-- R497: the eight vectors of CHECK have the outcomes and data of its table. -/
def Obligations.CheckVectors : Prop :=
  decodeCw false (encodeCw false 0) = (.clean, 0)
  ∧ decodeCw true (encodeCw true 0xFFFFFFFFFFFFFFFF) = (.clean, 0xFFFFFFFFFFFFFFFF)
  ∧ decodeCw false (flipPos (encodeCw false 0xA5A55A5AC33C0FF0) 15) = (.corrected 15 none, 0xA5A55A5AC33C0FF0)
  ∧ decodeCw false (flipPos (encodeCw false 0xA5A55A5AC33C0FF0) 79) = (.corrected 79 none, 0xA5A55A5AC33C0FF0)
  ∧ decodeCw false (flipPos (flipPos (encodeCw false 0xA5A55A5AC33C0FF0) 0) 78) = (.corrected 0 (some 78), 0xA5A55A5AC33C0FF0)
  ∧ (decodeCw false (flipPos (flipPos (flipPos (encodeCw false 0xA5A55A5AC33C0FF0) 3) 40) 77)).1 = .ue
  ∧ (decodeCw false (flipPos (flipPos (flipPos (encodeCw false 0) 0) 1) 2)).1 = .mark
  ∧ (decodeCw false (encodeCw true 0x0123456789ABCDEF)).1 = .loc

/-- R45 to R50, R546, R594: the placement worked for device 5 and the addresses worked for node 27. -/
def Obligations.WorkedAddresses : Prop :=
  (∀ (D : ImgDomain) (l : LineAddr), D = { nlog := 6, wlog := 4, seed := 0x32, device := 5 } → l = 0x065482F9 →
    D.hash l = 27 ∧ D.node (D.hash l) = 27 ∧ D.set l = 0x20B ∧ D.tag l = 0x195 ∧ D.g l = 21)
  ∧ locate 0x005B0000 = some (.normal, .slc 27, 0) ∧ locate 0x015B0000 = some (.set, .slc 27, 0) ∧ locate 0x005B0070 = some (.normal, .slc 27, 0x70)
  ∧ locate 0x009B0020 = some (.normal, .hom 27, 0x20) ∧ locate 0x002D8040 = some (.normal, .gate 27, 0x40) ∧ locate 0x00C6C034 = some (.normal, .rtr 27, 0x34)
  ∧ locate 0x00D6C02C = some (.normal, .port 108, 0x2C) ∧ locate 0x02D6C004 = some (.clr, .port 108, 4)
  ∧ locate 0x01005608 = some (.normal, .cap, 8 * cSlc 27 1) ∧ locate 0x01017B00 = some (.normal, .cap, 8 * cGate 27 0)
  ∧ locate 0x0101AD80 = some (.normal, .cap, 8 * cChn 27 0) ∧ locate 0x0102D800 = some (.normal, .cap, 8 * cPort 108 0)
  ∧ locate 0x01205010 = some (.normal, .slow 5, 0x10) ∧ locate 0x0122B01C = some (.normal, .slow 43, 0x1C)
end

