-- ==== Sys2Proof/Laws/Tab.lean ====
section
/-! SUPPORT. Laws of the sparse tables: reading after writing, and that every write keeps the canonical form. -/

namespace Sys2Proof.Machine

open Sys2Proof

variable {α : Type}

@[simp] theorem tget_nil (d : α) (k : Nat) : tget d [] k = d := rfl

@[simp] theorem tget_tdel_self (d : α) (t : Tab α) (k : Nat) : tget d (tdel t k) k = d := by
  induction t with
  | nil => rfl
  | cons e t ih =>
    obtain ⟨j, v⟩ := e
    by_cases h : j = k <;> simp [tdel, tget, h, ih]

theorem tget_tdel_ne (d : α) (t : Tab α) {k j : Nat} (h : j ≠ k) : tget d (tdel t k) j = tget d t j := by
  induction t with
  | nil => rfl
  | cons e t ih =>
    obtain ⟨i, v⟩ := e
    by_cases hi : i = k
    · simp [tdel, tget, hi, ih, h.symm]
    · by_cases hj : i = j
      · simp [tdel, tget, hj, h]
      · simp [tdel, tget, hi, hj, ih]

@[simp] theorem tget_tins_self (d : α) (t : Tab α) (k : Nat) (v : α) : tget d (tins t k v) k = v := by
  induction t with
  | nil => simp [tins, tget]
  | cons e t ih =>
    obtain ⟨j, w⟩ := e
    simp only [tins]
    split
    · simp [tget]
    · split
      · simp [tget]
      · rename_i h1 h2
        simp [tget, ih, Ne.symm h2]

theorem tget_tins_ne (d : α) (t : Tab α) {k j : Nat} (v : α) (h : j ≠ k) : tget d (tins t k v) j = tget d t j := by
  induction t with
  | nil => simp [tins, tget, h.symm]
  | cons e t ih =>
    obtain ⟨i, w⟩ := e
    simp only [tins]
    split
    · simp [tget, h.symm]
    · split
      · rename_i h1 h2
        subst h2
        simp [tget, h.symm]
      · by_cases hj : i = j <;> simp [tget, hj, ih]

variable [DecidableEq α]

/-- A read after a write of the same key gives the value written. -/
@[simp] theorem tget_tset_self (d : α) (t : Tab α) (k : Nat) (v : α) : tget d (tset d t k v) k = v := by
  unfold tset; split <;> simp_all

/-- A write leaves every other key alone. -/
theorem tget_tset_ne (d : α) (t : Tab α) {k j : Nat} (v : α) (h : j ≠ k) : tget d (tset d t k v) j = tget d t j := by
  unfold tset; split
  · exact tget_tdel_ne d t h
  · exact tget_tins_ne d t v h

@[simp] theorem tget_tmod_self (d : α) (t : Tab α) (k : Nat) (f : α → α) : tget d (tmod d t k f) k = f (tget d t k) := by
  simp [tmod]

theorem tget_tmod_ne (d : α) (t : Tab α) {k j : Nat} (f : α → α) (h : j ≠ k) : tget d (tmod d t k f) j = tget d t j :=
  tget_tset_ne d t _ h

theorem tget_tmod (d : α) (t : Tab α) (k j : Nat) (f : α → α) :
    tget d (tmod d t k f) j = if j = k then f (tget d t k) else tget d t j := by
  split
  · rename_i h; subst h; simp
  · rename_i h; exact tget_tmod_ne d t f h

/-! ### Canonical form -/

/-- Every key of a table lies above `k`. -/
def above (k : Nat) (t : Tab α) : Prop := ∀ e ∈ t, k < e.1

omit [DecidableEq α] in
theorem tsorted_cons (k : Nat) (v : α) (t : Tab α) : tsorted ((k, v) :: t) = true ↔ above k t ∧ tsorted t = true := by
  induction t generalizing k v with
  | nil => simp [tsorted, above]
  | cons e t ih =>
    obtain ⟨j, w⟩ := e
    simp only [tsorted, Bool.and_eq_true, decide_eq_true_eq]
    constructor
    · rintro ⟨h, hs⟩
      refine ⟨?_, hs⟩
      intro e he
      rcases List.mem_cons.1 he with rfl | he
      · exact h
      · exact Nat.lt_trans h (((ih j w).1 hs).1 e he)
    · rintro ⟨h, hs⟩
      exact ⟨h (j, w) (by simp), hs⟩

omit [DecidableEq α] in
theorem above_tdel {k : Nat} {t : Tab α} (h : above k t) (j : Nat) : above k (tdel t j) := by
  induction t with
  | nil => simpa [tdel] using h
  | cons e t ih =>
    obtain ⟨i, v⟩ := e
    have ht : above k t := fun x hx => h x (by simp [hx])
    have hi : k < i := h (i, v) (by simp)
    simp only [tdel]; split
    · exact ih ht
    · intro x hx
      rcases List.mem_cons.1 hx with rfl | hx
      · exact hi
      · exact ih ht x hx

omit [DecidableEq α] in
theorem above_tins {k : Nat} {t : Tab α} (h : above k t) {j : Nat} (hj : k < j) (v : α) : above k (tins t j v) := by
  induction t with
  | nil => intro x hx; simp [tins] at hx; subst hx; exact hj
  | cons e t ih =>
    obtain ⟨i, w⟩ := e
    have ht : above k t := fun x hx => h x (by simp [hx])
    have hi : k < i := h (i, w) (by simp)
    simp only [tins]; split
    · intro x hx
      rcases List.mem_cons.1 hx with rfl | hx
      · exact hj
      · exact h x hx
    · split
      · intro x hx
        rcases List.mem_cons.1 hx with rfl | hx
        · exact hj
        · exact ht x hx
      · intro x hx
        rcases List.mem_cons.1 hx with rfl | hx
        · exact hi
        · exact ih ht x hx

omit [DecidableEq α] in
theorem tsorted_tdel {t : Tab α} (h : tsorted t = true) (k : Nat) : tsorted (tdel t k) = true := by
  induction t with
  | nil => rfl
  | cons e t ih =>
    obtain ⟨j, v⟩ := e
    obtain ⟨ha, hs⟩ := (tsorted_cons j v t).1 h
    simp only [tdel]; split
    · exact ih hs
    · exact (tsorted_cons _ _ _).2 ⟨above_tdel ha k, ih hs⟩

omit [DecidableEq α] in
theorem tsorted_tins {t : Tab α} (h : tsorted t = true) (k : Nat) (v : α) : tsorted (tins t k v) = true := by
  induction t with
  | nil => rfl
  | cons e t ih =>
    obtain ⟨j, w⟩ := e
    obtain ⟨ha, hs⟩ := (tsorted_cons j w t).1 h
    simp only [tins]; split
    · rename_i hk
      refine (tsorted_cons _ _ _).2 ⟨?_, h⟩
      intro x hx
      rcases List.mem_cons.1 hx with rfl | hx
      · exact hk
      · exact Nat.lt_trans hk (ha x hx)
    · split
      · rename_i h1 h2
        subst h2
        exact (tsorted_cons _ _ _).2 ⟨ha, hs⟩
      · rename_i h1 h2
        exact (tsorted_cons _ _ _).2 ⟨above_tins ha (by omega) v, ih hs⟩

omit [DecidableEq α] in
theorem mem_tdel {t : Tab α} {k : Nat} {e : Nat × α} (h : e ∈ tdel t k) : e ∈ t := by
  induction t with
  | nil => simp [tdel] at h
  | cons x t ih =>
    obtain ⟨j, w⟩ := x
    simp only [tdel] at h
    split at h
    · exact List.mem_cons_of_mem _ (ih h)
    · rcases List.mem_cons.1 h with rfl | h
      · exact List.mem_cons_self
      · exact List.mem_cons_of_mem _ (ih h)

omit [DecidableEq α] in
theorem mem_tins {t : Tab α} {k : Nat} {v : α} {e : Nat × α} (h : e ∈ tins t k v) : e = (k, v) ∨ e ∈ t := by
  induction t with
  | nil => left; simpa [tins] using h
  | cons x t ih =>
    obtain ⟨j, w⟩ := x
    simp only [tins] at h
    split at h
    · simpa using h
    · split at h
      · rcases List.mem_cons.1 h with h | h
        · exact .inl h
        · exact .inr (List.mem_cons_of_mem _ h)
      · rcases List.mem_cons.1 h with rfl | h
        · exact .inr List.mem_cons_self
        · rcases ih h with h | h
          · exact .inl h
          · exact .inr (List.mem_cons_of_mem _ h)

/-- Every write keeps the canonical form. -/
theorem twf_tset {d : α} {t : Tab α} (h : twf d t = true) (k : Nat) (v : α) : twf d (tset d t k v) = true := by
  simp only [twf, Bool.and_eq_true, List.all_eq_true, decide_eq_true_eq] at h ⊢
  unfold tset
  split
  · exact ⟨tsorted_tdel h.1 k, fun e he => h.2 e (mem_tdel he)⟩
  · rename_i hv
    refine ⟨tsorted_tins h.1 k v, fun e he => ?_⟩
    rcases mem_tins he with rfl | he
    · exact hv
    · exact h.2 e he

theorem twf_tmod {d : α} {t : Tab α} (h : twf d t = true) (k : Nat) (f : α → α) : twf d (tmod d t k f) = true := twf_tset h k _

@[simp] theorem twf_nil (d : α) : twf d ([] : Tab α) = true := rfl

end Sys2Proof.Machine
end

