-- ==== Sys2Proof/Laws/State.lean ====
section
/-! SUPPORT. One lemma per field per update of the state, and what the accessors read after an update. -/

namespace Sys2Proof.Machine

open Sys2Proof

/-! ### State.modSlice -/

@[simp] theorem State.modSlice_pwr (s : State) (n : Nat) (f : Slice → Slice) : (s.modSlice n f).pwr = s.pwr := rfl
@[simp] theorem State.modSlice_pmb (s : State) (n : Nat) (f : Slice → Slice) : (s.modSlice n f).pmb = s.pmb := rfl
@[simp] theorem State.modSlice_tap (s : State) (n : Nat) (f : Slice → Slice) : (s.modSlice n f).tap = s.tap := rfl
@[simp] theorem State.modSlice_clk (s : State) (n : Nat) (f : Slice → Slice) : (s.modSlice n f).clk = s.clk := rfl
@[simp] theorem State.modSlice_start (s : State) (n : Nat) (f : Slice → Slice) : (s.modSlice n f).start = s.start := rfl
@[simp] theorem State.modSlice_mram (s : State) (n : Nat) (f : Slice → Slice) : (s.modSlice n f).mram = s.mram := rfl
@[simp] theorem State.modSlice_flash (s : State) (n : Nat) (f : Slice → Slice) : (s.modSlice n f).flash = s.flash := rfl
@[simp] theorem State.modSlice_imgc (s : State) (n : Nat) (f : Slice → Slice) : (s.modSlice n f).imgc = s.imgc := rfl
@[simp] theorem State.modSlice_mbx (s : State) (n : Nat) (f : Slice → Slice) : (s.modSlice n f).mbx = s.mbx := rfl
@[simp] theorem State.modSlice_lock (s : State) (n : Nat) (f : Slice → Slice) : (s.modSlice n f).lock = s.lock := rfl
@[simp] theorem State.modSlice_doms (s : State) (n : Nat) (f : Slice → Slice) : (s.modSlice n f).doms = s.doms := rfl
@[simp] theorem State.modSlice_sphMax (s : State) (n : Nat) (f : Slice → Slice) : (s.modSlice n f).sphMax = s.sphMax := rfl
@[simp] theorem State.modSlice_homes (s : State) (n : Nat) (f : Slice → Slice) : (s.modSlice n f).homes = s.homes := rfl
@[simp] theorem State.modSlice_gates (s : State) (n : Nat) (f : Slice → Slice) : (s.modSlice n f).gates = s.gates := rfl
@[simp] theorem State.modSlice_routers (s : State) (n : Nat) (f : Slice → Slice) : (s.modSlice n f).routers = s.routers := rfl
@[simp] theorem State.modSlice_pools (s : State) (n : Nat) (f : Slice → Slice) : (s.modSlice n f).pools = s.pools := rfl
@[simp] theorem State.modSlice_ports (s : State) (n : Nat) (f : Slice → Slice) : (s.modSlice n f).ports = s.ports := rfl
@[simp] theorem State.modSlice_prot (s : State) (n : Nat) (f : Slice → Slice) : (s.modSlice n f).prot = s.prot := rfl
@[simp] theorem State.modSlice_flt (s : State) (n : Nat) (f : Slice → Slice) : (s.modSlice n f).flt = s.flt := rfl
@[simp] theorem State.modSlice_cnt (s : State) (n : Nat) (f : Slice → Slice) : (s.modSlice n f).cnt = s.cnt := rfl
@[simp] theorem State.modSlice_cap (s : State) (n : Nat) (f : Slice → Slice) : (s.modSlice n f).cap = s.cap := rfl
@[simp] theorem State.modSlice_spore (s : State) (n : Nat) (f : Slice → Slice) : (s.modSlice n f).spore = s.spore := rfl
@[simp] theorem State.modSlice_tpages (s : State) (n : Nat) (f : Slice → Slice) : (s.modSlice n f).tpages = s.tpages := rfl
@[simp] theorem State.modSlice_host (s : State) (n : Nat) (f : Slice → Slice) : (s.modSlice n f).host = s.host := rfl
@[simp] theorem State.modSlice_slow (s : State) (n : Nat) (f : Slice → Slice) : (s.modSlice n f).slow = s.slow := rfl
@[simp] theorem State.modSlice_acc (s : State) (n : Nat) (f : Slice → Slice) : (s.modSlice n f).acc = s.acc := rfl
@[simp] theorem State.modSlice_accAddr (s : State) (n : Nat) (f : Slice → Slice) : (s.modSlice n f).accAddr = s.accAddr := rfl
@[simp] theorem State.modSlice_out (s : State) (n : Nat) (f : Slice → Slice) : (s.modSlice n f).out = s.out := rfl
@[simp] theorem State.modSlice_free (s : State) (n : Nat) (f : Slice → Slice) : (s.modSlice n f).free = s.free := rfl
@[simp] theorem State.modSlice_pending (s : State) (n : Nat) (f : Slice → Slice) : (s.modSlice n f).pending = s.pending := rfl
/-! ### State.modHome -/

@[simp] theorem State.modHome_pwr (s : State) (n : Nat) (f : Home → Home) : (s.modHome n f).pwr = s.pwr := rfl
@[simp] theorem State.modHome_pmb (s : State) (n : Nat) (f : Home → Home) : (s.modHome n f).pmb = s.pmb := rfl
@[simp] theorem State.modHome_tap (s : State) (n : Nat) (f : Home → Home) : (s.modHome n f).tap = s.tap := rfl
@[simp] theorem State.modHome_clk (s : State) (n : Nat) (f : Home → Home) : (s.modHome n f).clk = s.clk := rfl
@[simp] theorem State.modHome_start (s : State) (n : Nat) (f : Home → Home) : (s.modHome n f).start = s.start := rfl
@[simp] theorem State.modHome_mram (s : State) (n : Nat) (f : Home → Home) : (s.modHome n f).mram = s.mram := rfl
@[simp] theorem State.modHome_flash (s : State) (n : Nat) (f : Home → Home) : (s.modHome n f).flash = s.flash := rfl
@[simp] theorem State.modHome_imgc (s : State) (n : Nat) (f : Home → Home) : (s.modHome n f).imgc = s.imgc := rfl
@[simp] theorem State.modHome_mbx (s : State) (n : Nat) (f : Home → Home) : (s.modHome n f).mbx = s.mbx := rfl
@[simp] theorem State.modHome_lock (s : State) (n : Nat) (f : Home → Home) : (s.modHome n f).lock = s.lock := rfl
@[simp] theorem State.modHome_doms (s : State) (n : Nat) (f : Home → Home) : (s.modHome n f).doms = s.doms := rfl
@[simp] theorem State.modHome_sphMax (s : State) (n : Nat) (f : Home → Home) : (s.modHome n f).sphMax = s.sphMax := rfl
@[simp] theorem State.modHome_slices (s : State) (n : Nat) (f : Home → Home) : (s.modHome n f).slices = s.slices := rfl
@[simp] theorem State.modHome_gates (s : State) (n : Nat) (f : Home → Home) : (s.modHome n f).gates = s.gates := rfl
@[simp] theorem State.modHome_routers (s : State) (n : Nat) (f : Home → Home) : (s.modHome n f).routers = s.routers := rfl
@[simp] theorem State.modHome_pools (s : State) (n : Nat) (f : Home → Home) : (s.modHome n f).pools = s.pools := rfl
@[simp] theorem State.modHome_ports (s : State) (n : Nat) (f : Home → Home) : (s.modHome n f).ports = s.ports := rfl
@[simp] theorem State.modHome_prot (s : State) (n : Nat) (f : Home → Home) : (s.modHome n f).prot = s.prot := rfl
@[simp] theorem State.modHome_flt (s : State) (n : Nat) (f : Home → Home) : (s.modHome n f).flt = s.flt := rfl
@[simp] theorem State.modHome_cnt (s : State) (n : Nat) (f : Home → Home) : (s.modHome n f).cnt = s.cnt := rfl
@[simp] theorem State.modHome_cap (s : State) (n : Nat) (f : Home → Home) : (s.modHome n f).cap = s.cap := rfl
@[simp] theorem State.modHome_spore (s : State) (n : Nat) (f : Home → Home) : (s.modHome n f).spore = s.spore := rfl
@[simp] theorem State.modHome_tpages (s : State) (n : Nat) (f : Home → Home) : (s.modHome n f).tpages = s.tpages := rfl
@[simp] theorem State.modHome_host (s : State) (n : Nat) (f : Home → Home) : (s.modHome n f).host = s.host := rfl
@[simp] theorem State.modHome_slow (s : State) (n : Nat) (f : Home → Home) : (s.modHome n f).slow = s.slow := rfl
@[simp] theorem State.modHome_acc (s : State) (n : Nat) (f : Home → Home) : (s.modHome n f).acc = s.acc := rfl
@[simp] theorem State.modHome_accAddr (s : State) (n : Nat) (f : Home → Home) : (s.modHome n f).accAddr = s.accAddr := rfl
@[simp] theorem State.modHome_out (s : State) (n : Nat) (f : Home → Home) : (s.modHome n f).out = s.out := rfl
@[simp] theorem State.modHome_free (s : State) (n : Nat) (f : Home → Home) : (s.modHome n f).free = s.free := rfl
@[simp] theorem State.modHome_pending (s : State) (n : Nat) (f : Home → Home) : (s.modHome n f).pending = s.pending := rfl
/-! ### State.modGate -/

@[simp] theorem State.modGate_pwr (s : State) (n : Nat) (f : Gate → Gate) : (s.modGate n f).pwr = s.pwr := rfl
@[simp] theorem State.modGate_pmb (s : State) (n : Nat) (f : Gate → Gate) : (s.modGate n f).pmb = s.pmb := rfl
@[simp] theorem State.modGate_tap (s : State) (n : Nat) (f : Gate → Gate) : (s.modGate n f).tap = s.tap := rfl
@[simp] theorem State.modGate_clk (s : State) (n : Nat) (f : Gate → Gate) : (s.modGate n f).clk = s.clk := rfl
@[simp] theorem State.modGate_start (s : State) (n : Nat) (f : Gate → Gate) : (s.modGate n f).start = s.start := rfl
@[simp] theorem State.modGate_mram (s : State) (n : Nat) (f : Gate → Gate) : (s.modGate n f).mram = s.mram := rfl
@[simp] theorem State.modGate_flash (s : State) (n : Nat) (f : Gate → Gate) : (s.modGate n f).flash = s.flash := rfl
@[simp] theorem State.modGate_imgc (s : State) (n : Nat) (f : Gate → Gate) : (s.modGate n f).imgc = s.imgc := rfl
@[simp] theorem State.modGate_mbx (s : State) (n : Nat) (f : Gate → Gate) : (s.modGate n f).mbx = s.mbx := rfl
@[simp] theorem State.modGate_lock (s : State) (n : Nat) (f : Gate → Gate) : (s.modGate n f).lock = s.lock := rfl
@[simp] theorem State.modGate_doms (s : State) (n : Nat) (f : Gate → Gate) : (s.modGate n f).doms = s.doms := rfl
@[simp] theorem State.modGate_sphMax (s : State) (n : Nat) (f : Gate → Gate) : (s.modGate n f).sphMax = s.sphMax := rfl
@[simp] theorem State.modGate_slices (s : State) (n : Nat) (f : Gate → Gate) : (s.modGate n f).slices = s.slices := rfl
@[simp] theorem State.modGate_homes (s : State) (n : Nat) (f : Gate → Gate) : (s.modGate n f).homes = s.homes := rfl
@[simp] theorem State.modGate_routers (s : State) (n : Nat) (f : Gate → Gate) : (s.modGate n f).routers = s.routers := rfl
@[simp] theorem State.modGate_pools (s : State) (n : Nat) (f : Gate → Gate) : (s.modGate n f).pools = s.pools := rfl
@[simp] theorem State.modGate_ports (s : State) (n : Nat) (f : Gate → Gate) : (s.modGate n f).ports = s.ports := rfl
@[simp] theorem State.modGate_prot (s : State) (n : Nat) (f : Gate → Gate) : (s.modGate n f).prot = s.prot := rfl
@[simp] theorem State.modGate_flt (s : State) (n : Nat) (f : Gate → Gate) : (s.modGate n f).flt = s.flt := rfl
@[simp] theorem State.modGate_cnt (s : State) (n : Nat) (f : Gate → Gate) : (s.modGate n f).cnt = s.cnt := rfl
@[simp] theorem State.modGate_cap (s : State) (n : Nat) (f : Gate → Gate) : (s.modGate n f).cap = s.cap := rfl
@[simp] theorem State.modGate_spore (s : State) (n : Nat) (f : Gate → Gate) : (s.modGate n f).spore = s.spore := rfl
@[simp] theorem State.modGate_tpages (s : State) (n : Nat) (f : Gate → Gate) : (s.modGate n f).tpages = s.tpages := rfl
@[simp] theorem State.modGate_host (s : State) (n : Nat) (f : Gate → Gate) : (s.modGate n f).host = s.host := rfl
@[simp] theorem State.modGate_slow (s : State) (n : Nat) (f : Gate → Gate) : (s.modGate n f).slow = s.slow := rfl
@[simp] theorem State.modGate_acc (s : State) (n : Nat) (f : Gate → Gate) : (s.modGate n f).acc = s.acc := rfl
@[simp] theorem State.modGate_accAddr (s : State) (n : Nat) (f : Gate → Gate) : (s.modGate n f).accAddr = s.accAddr := rfl
@[simp] theorem State.modGate_out (s : State) (n : Nat) (f : Gate → Gate) : (s.modGate n f).out = s.out := rfl
@[simp] theorem State.modGate_free (s : State) (n : Nat) (f : Gate → Gate) : (s.modGate n f).free = s.free := rfl
@[simp] theorem State.modGate_pending (s : State) (n : Nat) (f : Gate → Gate) : (s.modGate n f).pending = s.pending := rfl
/-! ### State.modRouter -/

@[simp] theorem State.modRouter_pwr (s : State) (n : Nat) (f : Router → Router) : (s.modRouter n f).pwr = s.pwr := rfl
@[simp] theorem State.modRouter_pmb (s : State) (n : Nat) (f : Router → Router) : (s.modRouter n f).pmb = s.pmb := rfl
@[simp] theorem State.modRouter_tap (s : State) (n : Nat) (f : Router → Router) : (s.modRouter n f).tap = s.tap := rfl
@[simp] theorem State.modRouter_clk (s : State) (n : Nat) (f : Router → Router) : (s.modRouter n f).clk = s.clk := rfl
@[simp] theorem State.modRouter_start (s : State) (n : Nat) (f : Router → Router) : (s.modRouter n f).start = s.start := rfl
@[simp] theorem State.modRouter_mram (s : State) (n : Nat) (f : Router → Router) : (s.modRouter n f).mram = s.mram := rfl
@[simp] theorem State.modRouter_flash (s : State) (n : Nat) (f : Router → Router) : (s.modRouter n f).flash = s.flash := rfl
@[simp] theorem State.modRouter_imgc (s : State) (n : Nat) (f : Router → Router) : (s.modRouter n f).imgc = s.imgc := rfl
@[simp] theorem State.modRouter_mbx (s : State) (n : Nat) (f : Router → Router) : (s.modRouter n f).mbx = s.mbx := rfl
@[simp] theorem State.modRouter_lock (s : State) (n : Nat) (f : Router → Router) : (s.modRouter n f).lock = s.lock := rfl
@[simp] theorem State.modRouter_doms (s : State) (n : Nat) (f : Router → Router) : (s.modRouter n f).doms = s.doms := rfl
@[simp] theorem State.modRouter_sphMax (s : State) (n : Nat) (f : Router → Router) : (s.modRouter n f).sphMax = s.sphMax := rfl
@[simp] theorem State.modRouter_slices (s : State) (n : Nat) (f : Router → Router) : (s.modRouter n f).slices = s.slices := rfl
@[simp] theorem State.modRouter_homes (s : State) (n : Nat) (f : Router → Router) : (s.modRouter n f).homes = s.homes := rfl
@[simp] theorem State.modRouter_gates (s : State) (n : Nat) (f : Router → Router) : (s.modRouter n f).gates = s.gates := rfl
@[simp] theorem State.modRouter_pools (s : State) (n : Nat) (f : Router → Router) : (s.modRouter n f).pools = s.pools := rfl
@[simp] theorem State.modRouter_ports (s : State) (n : Nat) (f : Router → Router) : (s.modRouter n f).ports = s.ports := rfl
@[simp] theorem State.modRouter_prot (s : State) (n : Nat) (f : Router → Router) : (s.modRouter n f).prot = s.prot := rfl
@[simp] theorem State.modRouter_flt (s : State) (n : Nat) (f : Router → Router) : (s.modRouter n f).flt = s.flt := rfl
@[simp] theorem State.modRouter_cnt (s : State) (n : Nat) (f : Router → Router) : (s.modRouter n f).cnt = s.cnt := rfl
@[simp] theorem State.modRouter_cap (s : State) (n : Nat) (f : Router → Router) : (s.modRouter n f).cap = s.cap := rfl
@[simp] theorem State.modRouter_spore (s : State) (n : Nat) (f : Router → Router) : (s.modRouter n f).spore = s.spore := rfl
@[simp] theorem State.modRouter_tpages (s : State) (n : Nat) (f : Router → Router) : (s.modRouter n f).tpages = s.tpages := rfl
@[simp] theorem State.modRouter_host (s : State) (n : Nat) (f : Router → Router) : (s.modRouter n f).host = s.host := rfl
@[simp] theorem State.modRouter_slow (s : State) (n : Nat) (f : Router → Router) : (s.modRouter n f).slow = s.slow := rfl
@[simp] theorem State.modRouter_acc (s : State) (n : Nat) (f : Router → Router) : (s.modRouter n f).acc = s.acc := rfl
@[simp] theorem State.modRouter_accAddr (s : State) (n : Nat) (f : Router → Router) : (s.modRouter n f).accAddr = s.accAddr := rfl
@[simp] theorem State.modRouter_out (s : State) (n : Nat) (f : Router → Router) : (s.modRouter n f).out = s.out := rfl
@[simp] theorem State.modRouter_free (s : State) (n : Nat) (f : Router → Router) : (s.modRouter n f).free = s.free := rfl
@[simp] theorem State.modRouter_pending (s : State) (n : Nat) (f : Router → Router) : (s.modRouter n f).pending = s.pending := rfl
/-! ### State.modPool -/

@[simp] theorem State.modPool_pwr (s : State) (n : Nat) (f : Pool → Pool) : (s.modPool n f).pwr = s.pwr := rfl
@[simp] theorem State.modPool_pmb (s : State) (n : Nat) (f : Pool → Pool) : (s.modPool n f).pmb = s.pmb := rfl
@[simp] theorem State.modPool_tap (s : State) (n : Nat) (f : Pool → Pool) : (s.modPool n f).tap = s.tap := rfl
@[simp] theorem State.modPool_clk (s : State) (n : Nat) (f : Pool → Pool) : (s.modPool n f).clk = s.clk := rfl
@[simp] theorem State.modPool_start (s : State) (n : Nat) (f : Pool → Pool) : (s.modPool n f).start = s.start := rfl
@[simp] theorem State.modPool_mram (s : State) (n : Nat) (f : Pool → Pool) : (s.modPool n f).mram = s.mram := rfl
@[simp] theorem State.modPool_flash (s : State) (n : Nat) (f : Pool → Pool) : (s.modPool n f).flash = s.flash := rfl
@[simp] theorem State.modPool_imgc (s : State) (n : Nat) (f : Pool → Pool) : (s.modPool n f).imgc = s.imgc := rfl
@[simp] theorem State.modPool_mbx (s : State) (n : Nat) (f : Pool → Pool) : (s.modPool n f).mbx = s.mbx := rfl
@[simp] theorem State.modPool_lock (s : State) (n : Nat) (f : Pool → Pool) : (s.modPool n f).lock = s.lock := rfl
@[simp] theorem State.modPool_doms (s : State) (n : Nat) (f : Pool → Pool) : (s.modPool n f).doms = s.doms := rfl
@[simp] theorem State.modPool_sphMax (s : State) (n : Nat) (f : Pool → Pool) : (s.modPool n f).sphMax = s.sphMax := rfl
@[simp] theorem State.modPool_slices (s : State) (n : Nat) (f : Pool → Pool) : (s.modPool n f).slices = s.slices := rfl
@[simp] theorem State.modPool_homes (s : State) (n : Nat) (f : Pool → Pool) : (s.modPool n f).homes = s.homes := rfl
@[simp] theorem State.modPool_gates (s : State) (n : Nat) (f : Pool → Pool) : (s.modPool n f).gates = s.gates := rfl
@[simp] theorem State.modPool_routers (s : State) (n : Nat) (f : Pool → Pool) : (s.modPool n f).routers = s.routers := rfl
@[simp] theorem State.modPool_ports (s : State) (n : Nat) (f : Pool → Pool) : (s.modPool n f).ports = s.ports := rfl
@[simp] theorem State.modPool_prot (s : State) (n : Nat) (f : Pool → Pool) : (s.modPool n f).prot = s.prot := rfl
@[simp] theorem State.modPool_flt (s : State) (n : Nat) (f : Pool → Pool) : (s.modPool n f).flt = s.flt := rfl
@[simp] theorem State.modPool_cnt (s : State) (n : Nat) (f : Pool → Pool) : (s.modPool n f).cnt = s.cnt := rfl
@[simp] theorem State.modPool_cap (s : State) (n : Nat) (f : Pool → Pool) : (s.modPool n f).cap = s.cap := rfl
@[simp] theorem State.modPool_spore (s : State) (n : Nat) (f : Pool → Pool) : (s.modPool n f).spore = s.spore := rfl
@[simp] theorem State.modPool_tpages (s : State) (n : Nat) (f : Pool → Pool) : (s.modPool n f).tpages = s.tpages := rfl
@[simp] theorem State.modPool_host (s : State) (n : Nat) (f : Pool → Pool) : (s.modPool n f).host = s.host := rfl
@[simp] theorem State.modPool_slow (s : State) (n : Nat) (f : Pool → Pool) : (s.modPool n f).slow = s.slow := rfl
@[simp] theorem State.modPool_acc (s : State) (n : Nat) (f : Pool → Pool) : (s.modPool n f).acc = s.acc := rfl
@[simp] theorem State.modPool_accAddr (s : State) (n : Nat) (f : Pool → Pool) : (s.modPool n f).accAddr = s.accAddr := rfl
@[simp] theorem State.modPool_out (s : State) (n : Nat) (f : Pool → Pool) : (s.modPool n f).out = s.out := rfl
@[simp] theorem State.modPool_free (s : State) (n : Nat) (f : Pool → Pool) : (s.modPool n f).free = s.free := rfl
@[simp] theorem State.modPool_pending (s : State) (n : Nat) (f : Pool → Pool) : (s.modPool n f).pending = s.pending := rfl
/-! ### State.modPort -/

@[simp] theorem State.modPort_pwr (s : State) (n : Nat) (f : Port → Port) : (s.modPort n f).pwr = s.pwr := rfl
@[simp] theorem State.modPort_pmb (s : State) (n : Nat) (f : Port → Port) : (s.modPort n f).pmb = s.pmb := rfl
@[simp] theorem State.modPort_tap (s : State) (n : Nat) (f : Port → Port) : (s.modPort n f).tap = s.tap := rfl
@[simp] theorem State.modPort_clk (s : State) (n : Nat) (f : Port → Port) : (s.modPort n f).clk = s.clk := rfl
@[simp] theorem State.modPort_start (s : State) (n : Nat) (f : Port → Port) : (s.modPort n f).start = s.start := rfl
@[simp] theorem State.modPort_mram (s : State) (n : Nat) (f : Port → Port) : (s.modPort n f).mram = s.mram := rfl
@[simp] theorem State.modPort_flash (s : State) (n : Nat) (f : Port → Port) : (s.modPort n f).flash = s.flash := rfl
@[simp] theorem State.modPort_imgc (s : State) (n : Nat) (f : Port → Port) : (s.modPort n f).imgc = s.imgc := rfl
@[simp] theorem State.modPort_mbx (s : State) (n : Nat) (f : Port → Port) : (s.modPort n f).mbx = s.mbx := rfl
@[simp] theorem State.modPort_lock (s : State) (n : Nat) (f : Port → Port) : (s.modPort n f).lock = s.lock := rfl
@[simp] theorem State.modPort_doms (s : State) (n : Nat) (f : Port → Port) : (s.modPort n f).doms = s.doms := rfl
@[simp] theorem State.modPort_sphMax (s : State) (n : Nat) (f : Port → Port) : (s.modPort n f).sphMax = s.sphMax := rfl
@[simp] theorem State.modPort_slices (s : State) (n : Nat) (f : Port → Port) : (s.modPort n f).slices = s.slices := rfl
@[simp] theorem State.modPort_homes (s : State) (n : Nat) (f : Port → Port) : (s.modPort n f).homes = s.homes := rfl
@[simp] theorem State.modPort_gates (s : State) (n : Nat) (f : Port → Port) : (s.modPort n f).gates = s.gates := rfl
@[simp] theorem State.modPort_routers (s : State) (n : Nat) (f : Port → Port) : (s.modPort n f).routers = s.routers := rfl
@[simp] theorem State.modPort_pools (s : State) (n : Nat) (f : Port → Port) : (s.modPort n f).pools = s.pools := rfl
@[simp] theorem State.modPort_prot (s : State) (n : Nat) (f : Port → Port) : (s.modPort n f).prot = s.prot := rfl
@[simp] theorem State.modPort_flt (s : State) (n : Nat) (f : Port → Port) : (s.modPort n f).flt = s.flt := rfl
@[simp] theorem State.modPort_cnt (s : State) (n : Nat) (f : Port → Port) : (s.modPort n f).cnt = s.cnt := rfl
@[simp] theorem State.modPort_cap (s : State) (n : Nat) (f : Port → Port) : (s.modPort n f).cap = s.cap := rfl
@[simp] theorem State.modPort_spore (s : State) (n : Nat) (f : Port → Port) : (s.modPort n f).spore = s.spore := rfl
@[simp] theorem State.modPort_tpages (s : State) (n : Nat) (f : Port → Port) : (s.modPort n f).tpages = s.tpages := rfl
@[simp] theorem State.modPort_host (s : State) (n : Nat) (f : Port → Port) : (s.modPort n f).host = s.host := rfl
@[simp] theorem State.modPort_slow (s : State) (n : Nat) (f : Port → Port) : (s.modPort n f).slow = s.slow := rfl
@[simp] theorem State.modPort_acc (s : State) (n : Nat) (f : Port → Port) : (s.modPort n f).acc = s.acc := rfl
@[simp] theorem State.modPort_accAddr (s : State) (n : Nat) (f : Port → Port) : (s.modPort n f).accAddr = s.accAddr := rfl
@[simp] theorem State.modPort_out (s : State) (n : Nat) (f : Port → Port) : (s.modPort n f).out = s.out := rfl
@[simp] theorem State.modPort_free (s : State) (n : Nat) (f : Port → Port) : (s.modPort n f).free = s.free := rfl
@[simp] theorem State.modPort_pending (s : State) (n : Nat) (f : Port → Port) : (s.modPort n f).pending = s.pending := rfl
/-! ### State.modDom -/

@[simp] theorem State.modDom_pwr (s : State) (n : Nat) (f : Domain → Domain) : (s.modDom n f).pwr = s.pwr := rfl
@[simp] theorem State.modDom_pmb (s : State) (n : Nat) (f : Domain → Domain) : (s.modDom n f).pmb = s.pmb := rfl
@[simp] theorem State.modDom_tap (s : State) (n : Nat) (f : Domain → Domain) : (s.modDom n f).tap = s.tap := rfl
@[simp] theorem State.modDom_clk (s : State) (n : Nat) (f : Domain → Domain) : (s.modDom n f).clk = s.clk := rfl
@[simp] theorem State.modDom_start (s : State) (n : Nat) (f : Domain → Domain) : (s.modDom n f).start = s.start := rfl
@[simp] theorem State.modDom_mram (s : State) (n : Nat) (f : Domain → Domain) : (s.modDom n f).mram = s.mram := rfl
@[simp] theorem State.modDom_flash (s : State) (n : Nat) (f : Domain → Domain) : (s.modDom n f).flash = s.flash := rfl
@[simp] theorem State.modDom_imgc (s : State) (n : Nat) (f : Domain → Domain) : (s.modDom n f).imgc = s.imgc := rfl
@[simp] theorem State.modDom_mbx (s : State) (n : Nat) (f : Domain → Domain) : (s.modDom n f).mbx = s.mbx := rfl
@[simp] theorem State.modDom_lock (s : State) (n : Nat) (f : Domain → Domain) : (s.modDom n f).lock = s.lock := rfl
@[simp] theorem State.modDom_sphMax (s : State) (n : Nat) (f : Domain → Domain) : (s.modDom n f).sphMax = s.sphMax := rfl
@[simp] theorem State.modDom_slices (s : State) (n : Nat) (f : Domain → Domain) : (s.modDom n f).slices = s.slices := rfl
@[simp] theorem State.modDom_homes (s : State) (n : Nat) (f : Domain → Domain) : (s.modDom n f).homes = s.homes := rfl
@[simp] theorem State.modDom_gates (s : State) (n : Nat) (f : Domain → Domain) : (s.modDom n f).gates = s.gates := rfl
@[simp] theorem State.modDom_routers (s : State) (n : Nat) (f : Domain → Domain) : (s.modDom n f).routers = s.routers := rfl
@[simp] theorem State.modDom_pools (s : State) (n : Nat) (f : Domain → Domain) : (s.modDom n f).pools = s.pools := rfl
@[simp] theorem State.modDom_ports (s : State) (n : Nat) (f : Domain → Domain) : (s.modDom n f).ports = s.ports := rfl
@[simp] theorem State.modDom_prot (s : State) (n : Nat) (f : Domain → Domain) : (s.modDom n f).prot = s.prot := rfl
@[simp] theorem State.modDom_flt (s : State) (n : Nat) (f : Domain → Domain) : (s.modDom n f).flt = s.flt := rfl
@[simp] theorem State.modDom_cnt (s : State) (n : Nat) (f : Domain → Domain) : (s.modDom n f).cnt = s.cnt := rfl
@[simp] theorem State.modDom_cap (s : State) (n : Nat) (f : Domain → Domain) : (s.modDom n f).cap = s.cap := rfl
@[simp] theorem State.modDom_spore (s : State) (n : Nat) (f : Domain → Domain) : (s.modDom n f).spore = s.spore := rfl
@[simp] theorem State.modDom_tpages (s : State) (n : Nat) (f : Domain → Domain) : (s.modDom n f).tpages = s.tpages := rfl
@[simp] theorem State.modDom_host (s : State) (n : Nat) (f : Domain → Domain) : (s.modDom n f).host = s.host := rfl
@[simp] theorem State.modDom_slow (s : State) (n : Nat) (f : Domain → Domain) : (s.modDom n f).slow = s.slow := rfl
@[simp] theorem State.modDom_acc (s : State) (n : Nat) (f : Domain → Domain) : (s.modDom n f).acc = s.acc := rfl
@[simp] theorem State.modDom_accAddr (s : State) (n : Nat) (f : Domain → Domain) : (s.modDom n f).accAddr = s.accAddr := rfl
@[simp] theorem State.modDom_out (s : State) (n : Nat) (f : Domain → Domain) : (s.modDom n f).out = s.out := rfl
@[simp] theorem State.modDom_free (s : State) (n : Nat) (f : Domain → Domain) : (s.modDom n f).free = s.free := rfl
@[simp] theorem State.modDom_pending (s : State) (n : Nat) (f : Domain → Domain) : (s.modDom n f).pending = s.pending := rfl
/-! ### State.modPage -/

@[simp] theorem State.modPage_pwr (s : State) (n : Nat) (f : TPage → TPage) : (s.modPage n f).pwr = s.pwr := rfl
@[simp] theorem State.modPage_pmb (s : State) (n : Nat) (f : TPage → TPage) : (s.modPage n f).pmb = s.pmb := rfl
@[simp] theorem State.modPage_tap (s : State) (n : Nat) (f : TPage → TPage) : (s.modPage n f).tap = s.tap := rfl
@[simp] theorem State.modPage_clk (s : State) (n : Nat) (f : TPage → TPage) : (s.modPage n f).clk = s.clk := rfl
@[simp] theorem State.modPage_start (s : State) (n : Nat) (f : TPage → TPage) : (s.modPage n f).start = s.start := rfl
@[simp] theorem State.modPage_mram (s : State) (n : Nat) (f : TPage → TPage) : (s.modPage n f).mram = s.mram := rfl
@[simp] theorem State.modPage_flash (s : State) (n : Nat) (f : TPage → TPage) : (s.modPage n f).flash = s.flash := rfl
@[simp] theorem State.modPage_imgc (s : State) (n : Nat) (f : TPage → TPage) : (s.modPage n f).imgc = s.imgc := rfl
@[simp] theorem State.modPage_mbx (s : State) (n : Nat) (f : TPage → TPage) : (s.modPage n f).mbx = s.mbx := rfl
@[simp] theorem State.modPage_lock (s : State) (n : Nat) (f : TPage → TPage) : (s.modPage n f).lock = s.lock := rfl
@[simp] theorem State.modPage_doms (s : State) (n : Nat) (f : TPage → TPage) : (s.modPage n f).doms = s.doms := rfl
@[simp] theorem State.modPage_sphMax (s : State) (n : Nat) (f : TPage → TPage) : (s.modPage n f).sphMax = s.sphMax := rfl
@[simp] theorem State.modPage_slices (s : State) (n : Nat) (f : TPage → TPage) : (s.modPage n f).slices = s.slices := rfl
@[simp] theorem State.modPage_homes (s : State) (n : Nat) (f : TPage → TPage) : (s.modPage n f).homes = s.homes := rfl
@[simp] theorem State.modPage_gates (s : State) (n : Nat) (f : TPage → TPage) : (s.modPage n f).gates = s.gates := rfl
@[simp] theorem State.modPage_routers (s : State) (n : Nat) (f : TPage → TPage) : (s.modPage n f).routers = s.routers := rfl
@[simp] theorem State.modPage_pools (s : State) (n : Nat) (f : TPage → TPage) : (s.modPage n f).pools = s.pools := rfl
@[simp] theorem State.modPage_ports (s : State) (n : Nat) (f : TPage → TPage) : (s.modPage n f).ports = s.ports := rfl
@[simp] theorem State.modPage_prot (s : State) (n : Nat) (f : TPage → TPage) : (s.modPage n f).prot = s.prot := rfl
@[simp] theorem State.modPage_flt (s : State) (n : Nat) (f : TPage → TPage) : (s.modPage n f).flt = s.flt := rfl
@[simp] theorem State.modPage_cnt (s : State) (n : Nat) (f : TPage → TPage) : (s.modPage n f).cnt = s.cnt := rfl
@[simp] theorem State.modPage_cap (s : State) (n : Nat) (f : TPage → TPage) : (s.modPage n f).cap = s.cap := rfl
@[simp] theorem State.modPage_spore (s : State) (n : Nat) (f : TPage → TPage) : (s.modPage n f).spore = s.spore := rfl
@[simp] theorem State.modPage_host (s : State) (n : Nat) (f : TPage → TPage) : (s.modPage n f).host = s.host := rfl
@[simp] theorem State.modPage_slow (s : State) (n : Nat) (f : TPage → TPage) : (s.modPage n f).slow = s.slow := rfl
@[simp] theorem State.modPage_acc (s : State) (n : Nat) (f : TPage → TPage) : (s.modPage n f).acc = s.acc := rfl
@[simp] theorem State.modPage_accAddr (s : State) (n : Nat) (f : TPage → TPage) : (s.modPage n f).accAddr = s.accAddr := rfl
@[simp] theorem State.modPage_out (s : State) (n : Nat) (f : TPage → TPage) : (s.modPage n f).out = s.out := rfl
@[simp] theorem State.modPage_free (s : State) (n : Nat) (f : TPage → TPage) : (s.modPage n f).free = s.free := rfl
@[simp] theorem State.modPage_pending (s : State) (n : Nat) (f : TPage → TPage) : (s.modPage n f).pending = s.pending := rfl
/-! ### State.modKey -/

@[simp] theorem State.modKey_pwr (s : State) (n : Nat) (f : KeyEnt → KeyEnt) : (s.modKey n f).pwr = s.pwr := rfl
@[simp] theorem State.modKey_pmb (s : State) (n : Nat) (f : KeyEnt → KeyEnt) : (s.modKey n f).pmb = s.pmb := rfl
@[simp] theorem State.modKey_tap (s : State) (n : Nat) (f : KeyEnt → KeyEnt) : (s.modKey n f).tap = s.tap := rfl
@[simp] theorem State.modKey_clk (s : State) (n : Nat) (f : KeyEnt → KeyEnt) : (s.modKey n f).clk = s.clk := rfl
@[simp] theorem State.modKey_start (s : State) (n : Nat) (f : KeyEnt → KeyEnt) : (s.modKey n f).start = s.start := rfl
@[simp] theorem State.modKey_mram (s : State) (n : Nat) (f : KeyEnt → KeyEnt) : (s.modKey n f).mram = s.mram := rfl
@[simp] theorem State.modKey_flash (s : State) (n : Nat) (f : KeyEnt → KeyEnt) : (s.modKey n f).flash = s.flash := rfl
@[simp] theorem State.modKey_imgc (s : State) (n : Nat) (f : KeyEnt → KeyEnt) : (s.modKey n f).imgc = s.imgc := rfl
@[simp] theorem State.modKey_mbx (s : State) (n : Nat) (f : KeyEnt → KeyEnt) : (s.modKey n f).mbx = s.mbx := rfl
@[simp] theorem State.modKey_lock (s : State) (n : Nat) (f : KeyEnt → KeyEnt) : (s.modKey n f).lock = s.lock := rfl
@[simp] theorem State.modKey_doms (s : State) (n : Nat) (f : KeyEnt → KeyEnt) : (s.modKey n f).doms = s.doms := rfl
@[simp] theorem State.modKey_sphMax (s : State) (n : Nat) (f : KeyEnt → KeyEnt) : (s.modKey n f).sphMax = s.sphMax := rfl
@[simp] theorem State.modKey_slices (s : State) (n : Nat) (f : KeyEnt → KeyEnt) : (s.modKey n f).slices = s.slices := rfl
@[simp] theorem State.modKey_homes (s : State) (n : Nat) (f : KeyEnt → KeyEnt) : (s.modKey n f).homes = s.homes := rfl
@[simp] theorem State.modKey_gates (s : State) (n : Nat) (f : KeyEnt → KeyEnt) : (s.modKey n f).gates = s.gates := rfl
@[simp] theorem State.modKey_routers (s : State) (n : Nat) (f : KeyEnt → KeyEnt) : (s.modKey n f).routers = s.routers := rfl
@[simp] theorem State.modKey_pools (s : State) (n : Nat) (f : KeyEnt → KeyEnt) : (s.modKey n f).pools = s.pools := rfl
@[simp] theorem State.modKey_ports (s : State) (n : Nat) (f : KeyEnt → KeyEnt) : (s.modKey n f).ports = s.ports := rfl
@[simp] theorem State.modKey_flt (s : State) (n : Nat) (f : KeyEnt → KeyEnt) : (s.modKey n f).flt = s.flt := rfl
@[simp] theorem State.modKey_cnt (s : State) (n : Nat) (f : KeyEnt → KeyEnt) : (s.modKey n f).cnt = s.cnt := rfl
@[simp] theorem State.modKey_cap (s : State) (n : Nat) (f : KeyEnt → KeyEnt) : (s.modKey n f).cap = s.cap := rfl
@[simp] theorem State.modKey_spore (s : State) (n : Nat) (f : KeyEnt → KeyEnt) : (s.modKey n f).spore = s.spore := rfl
@[simp] theorem State.modKey_tpages (s : State) (n : Nat) (f : KeyEnt → KeyEnt) : (s.modKey n f).tpages = s.tpages := rfl
@[simp] theorem State.modKey_host (s : State) (n : Nat) (f : KeyEnt → KeyEnt) : (s.modKey n f).host = s.host := rfl
@[simp] theorem State.modKey_slow (s : State) (n : Nat) (f : KeyEnt → KeyEnt) : (s.modKey n f).slow = s.slow := rfl
@[simp] theorem State.modKey_acc (s : State) (n : Nat) (f : KeyEnt → KeyEnt) : (s.modKey n f).acc = s.acc := rfl
@[simp] theorem State.modKey_accAddr (s : State) (n : Nat) (f : KeyEnt → KeyEnt) : (s.modKey n f).accAddr = s.accAddr := rfl
@[simp] theorem State.modKey_out (s : State) (n : Nat) (f : KeyEnt → KeyEnt) : (s.modKey n f).out = s.out := rfl
@[simp] theorem State.modKey_free (s : State) (n : Nat) (f : KeyEnt → KeyEnt) : (s.modKey n f).free = s.free := rfl
@[simp] theorem State.modKey_pending (s : State) (n : Nat) (f : KeyEnt → KeyEnt) : (s.modKey n f).pending = s.pending := rfl
/-! ### State.modJob -/

@[simp] theorem State.modJob_pwr (s : State) (n : Nat) (f : CrozJob → CrozJob) : (s.modJob n f).pwr = s.pwr := rfl
@[simp] theorem State.modJob_pmb (s : State) (n : Nat) (f : CrozJob → CrozJob) : (s.modJob n f).pmb = s.pmb := rfl
@[simp] theorem State.modJob_tap (s : State) (n : Nat) (f : CrozJob → CrozJob) : (s.modJob n f).tap = s.tap := rfl
@[simp] theorem State.modJob_clk (s : State) (n : Nat) (f : CrozJob → CrozJob) : (s.modJob n f).clk = s.clk := rfl
@[simp] theorem State.modJob_start (s : State) (n : Nat) (f : CrozJob → CrozJob) : (s.modJob n f).start = s.start := rfl
@[simp] theorem State.modJob_mram (s : State) (n : Nat) (f : CrozJob → CrozJob) : (s.modJob n f).mram = s.mram := rfl
@[simp] theorem State.modJob_flash (s : State) (n : Nat) (f : CrozJob → CrozJob) : (s.modJob n f).flash = s.flash := rfl
@[simp] theorem State.modJob_imgc (s : State) (n : Nat) (f : CrozJob → CrozJob) : (s.modJob n f).imgc = s.imgc := rfl
@[simp] theorem State.modJob_mbx (s : State) (n : Nat) (f : CrozJob → CrozJob) : (s.modJob n f).mbx = s.mbx := rfl
@[simp] theorem State.modJob_lock (s : State) (n : Nat) (f : CrozJob → CrozJob) : (s.modJob n f).lock = s.lock := rfl
@[simp] theorem State.modJob_doms (s : State) (n : Nat) (f : CrozJob → CrozJob) : (s.modJob n f).doms = s.doms := rfl
@[simp] theorem State.modJob_sphMax (s : State) (n : Nat) (f : CrozJob → CrozJob) : (s.modJob n f).sphMax = s.sphMax := rfl
@[simp] theorem State.modJob_slices (s : State) (n : Nat) (f : CrozJob → CrozJob) : (s.modJob n f).slices = s.slices := rfl
@[simp] theorem State.modJob_homes (s : State) (n : Nat) (f : CrozJob → CrozJob) : (s.modJob n f).homes = s.homes := rfl
@[simp] theorem State.modJob_gates (s : State) (n : Nat) (f : CrozJob → CrozJob) : (s.modJob n f).gates = s.gates := rfl
@[simp] theorem State.modJob_routers (s : State) (n : Nat) (f : CrozJob → CrozJob) : (s.modJob n f).routers = s.routers := rfl
@[simp] theorem State.modJob_pools (s : State) (n : Nat) (f : CrozJob → CrozJob) : (s.modJob n f).pools = s.pools := rfl
@[simp] theorem State.modJob_ports (s : State) (n : Nat) (f : CrozJob → CrozJob) : (s.modJob n f).ports = s.ports := rfl
@[simp] theorem State.modJob_flt (s : State) (n : Nat) (f : CrozJob → CrozJob) : (s.modJob n f).flt = s.flt := rfl
@[simp] theorem State.modJob_cnt (s : State) (n : Nat) (f : CrozJob → CrozJob) : (s.modJob n f).cnt = s.cnt := rfl
@[simp] theorem State.modJob_cap (s : State) (n : Nat) (f : CrozJob → CrozJob) : (s.modJob n f).cap = s.cap := rfl
@[simp] theorem State.modJob_spore (s : State) (n : Nat) (f : CrozJob → CrozJob) : (s.modJob n f).spore = s.spore := rfl
@[simp] theorem State.modJob_tpages (s : State) (n : Nat) (f : CrozJob → CrozJob) : (s.modJob n f).tpages = s.tpages := rfl
@[simp] theorem State.modJob_host (s : State) (n : Nat) (f : CrozJob → CrozJob) : (s.modJob n f).host = s.host := rfl
@[simp] theorem State.modJob_slow (s : State) (n : Nat) (f : CrozJob → CrozJob) : (s.modJob n f).slow = s.slow := rfl
@[simp] theorem State.modJob_acc (s : State) (n : Nat) (f : CrozJob → CrozJob) : (s.modJob n f).acc = s.acc := rfl
@[simp] theorem State.modJob_accAddr (s : State) (n : Nat) (f : CrozJob → CrozJob) : (s.modJob n f).accAddr = s.accAddr := rfl
@[simp] theorem State.modJob_out (s : State) (n : Nat) (f : CrozJob → CrozJob) : (s.modJob n f).out = s.out := rfl
@[simp] theorem State.modJob_free (s : State) (n : Nat) (f : CrozJob → CrozJob) : (s.modJob n f).free = s.free := rfl
@[simp] theorem State.modJob_pending (s : State) (n : Nat) (f : CrozJob → CrozJob) : (s.modJob n f).pending = s.pending := rfl
/-! ### State.modMsix -/

@[simp] theorem State.modMsix_pwr (s : State) (n : Nat) (f : Msix → Msix) : (s.modMsix n f).pwr = s.pwr := rfl
@[simp] theorem State.modMsix_pmb (s : State) (n : Nat) (f : Msix → Msix) : (s.modMsix n f).pmb = s.pmb := rfl
@[simp] theorem State.modMsix_tap (s : State) (n : Nat) (f : Msix → Msix) : (s.modMsix n f).tap = s.tap := rfl
@[simp] theorem State.modMsix_clk (s : State) (n : Nat) (f : Msix → Msix) : (s.modMsix n f).clk = s.clk := rfl
@[simp] theorem State.modMsix_start (s : State) (n : Nat) (f : Msix → Msix) : (s.modMsix n f).start = s.start := rfl
@[simp] theorem State.modMsix_mram (s : State) (n : Nat) (f : Msix → Msix) : (s.modMsix n f).mram = s.mram := rfl
@[simp] theorem State.modMsix_flash (s : State) (n : Nat) (f : Msix → Msix) : (s.modMsix n f).flash = s.flash := rfl
@[simp] theorem State.modMsix_imgc (s : State) (n : Nat) (f : Msix → Msix) : (s.modMsix n f).imgc = s.imgc := rfl
@[simp] theorem State.modMsix_mbx (s : State) (n : Nat) (f : Msix → Msix) : (s.modMsix n f).mbx = s.mbx := rfl
@[simp] theorem State.modMsix_lock (s : State) (n : Nat) (f : Msix → Msix) : (s.modMsix n f).lock = s.lock := rfl
@[simp] theorem State.modMsix_doms (s : State) (n : Nat) (f : Msix → Msix) : (s.modMsix n f).doms = s.doms := rfl
@[simp] theorem State.modMsix_sphMax (s : State) (n : Nat) (f : Msix → Msix) : (s.modMsix n f).sphMax = s.sphMax := rfl
@[simp] theorem State.modMsix_slices (s : State) (n : Nat) (f : Msix → Msix) : (s.modMsix n f).slices = s.slices := rfl
@[simp] theorem State.modMsix_homes (s : State) (n : Nat) (f : Msix → Msix) : (s.modMsix n f).homes = s.homes := rfl
@[simp] theorem State.modMsix_gates (s : State) (n : Nat) (f : Msix → Msix) : (s.modMsix n f).gates = s.gates := rfl
@[simp] theorem State.modMsix_routers (s : State) (n : Nat) (f : Msix → Msix) : (s.modMsix n f).routers = s.routers := rfl
@[simp] theorem State.modMsix_pools (s : State) (n : Nat) (f : Msix → Msix) : (s.modMsix n f).pools = s.pools := rfl
@[simp] theorem State.modMsix_ports (s : State) (n : Nat) (f : Msix → Msix) : (s.modMsix n f).ports = s.ports := rfl
@[simp] theorem State.modMsix_prot (s : State) (n : Nat) (f : Msix → Msix) : (s.modMsix n f).prot = s.prot := rfl
@[simp] theorem State.modMsix_flt (s : State) (n : Nat) (f : Msix → Msix) : (s.modMsix n f).flt = s.flt := rfl
@[simp] theorem State.modMsix_cnt (s : State) (n : Nat) (f : Msix → Msix) : (s.modMsix n f).cnt = s.cnt := rfl
@[simp] theorem State.modMsix_cap (s : State) (n : Nat) (f : Msix → Msix) : (s.modMsix n f).cap = s.cap := rfl
@[simp] theorem State.modMsix_spore (s : State) (n : Nat) (f : Msix → Msix) : (s.modMsix n f).spore = s.spore := rfl
@[simp] theorem State.modMsix_tpages (s : State) (n : Nat) (f : Msix → Msix) : (s.modMsix n f).tpages = s.tpages := rfl
@[simp] theorem State.modMsix_slow (s : State) (n : Nat) (f : Msix → Msix) : (s.modMsix n f).slow = s.slow := rfl
@[simp] theorem State.modMsix_acc (s : State) (n : Nat) (f : Msix → Msix) : (s.modMsix n f).acc = s.acc := rfl
@[simp] theorem State.modMsix_accAddr (s : State) (n : Nat) (f : Msix → Msix) : (s.modMsix n f).accAddr = s.accAddr := rfl
@[simp] theorem State.modMsix_out (s : State) (n : Nat) (f : Msix → Msix) : (s.modMsix n f).out = s.out := rfl
@[simp] theorem State.modMsix_free (s : State) (n : Nat) (f : Msix → Msix) : (s.modMsix n f).free = s.free := rfl
@[simp] theorem State.modMsix_pending (s : State) (n : Nat) (f : Msix → Msix) : (s.modMsix n f).pending = s.pending := rfl
/-! ### State.emit -/

@[simp] theorem State.emit_pwr (s : State) (o : Out) : (s.emit o).pwr = s.pwr := rfl
@[simp] theorem State.emit_pmb (s : State) (o : Out) : (s.emit o).pmb = s.pmb := rfl
@[simp] theorem State.emit_tap (s : State) (o : Out) : (s.emit o).tap = s.tap := rfl
@[simp] theorem State.emit_clk (s : State) (o : Out) : (s.emit o).clk = s.clk := rfl
@[simp] theorem State.emit_start (s : State) (o : Out) : (s.emit o).start = s.start := rfl
@[simp] theorem State.emit_mram (s : State) (o : Out) : (s.emit o).mram = s.mram := rfl
@[simp] theorem State.emit_flash (s : State) (o : Out) : (s.emit o).flash = s.flash := rfl
@[simp] theorem State.emit_imgc (s : State) (o : Out) : (s.emit o).imgc = s.imgc := rfl
@[simp] theorem State.emit_mbx (s : State) (o : Out) : (s.emit o).mbx = s.mbx := rfl
@[simp] theorem State.emit_lock (s : State) (o : Out) : (s.emit o).lock = s.lock := rfl
@[simp] theorem State.emit_doms (s : State) (o : Out) : (s.emit o).doms = s.doms := rfl
@[simp] theorem State.emit_sphMax (s : State) (o : Out) : (s.emit o).sphMax = s.sphMax := rfl
@[simp] theorem State.emit_slices (s : State) (o : Out) : (s.emit o).slices = s.slices := rfl
@[simp] theorem State.emit_homes (s : State) (o : Out) : (s.emit o).homes = s.homes := rfl
@[simp] theorem State.emit_gates (s : State) (o : Out) : (s.emit o).gates = s.gates := rfl
@[simp] theorem State.emit_routers (s : State) (o : Out) : (s.emit o).routers = s.routers := rfl
@[simp] theorem State.emit_pools (s : State) (o : Out) : (s.emit o).pools = s.pools := rfl
@[simp] theorem State.emit_ports (s : State) (o : Out) : (s.emit o).ports = s.ports := rfl
@[simp] theorem State.emit_prot (s : State) (o : Out) : (s.emit o).prot = s.prot := rfl
@[simp] theorem State.emit_flt (s : State) (o : Out) : (s.emit o).flt = s.flt := rfl
@[simp] theorem State.emit_cnt (s : State) (o : Out) : (s.emit o).cnt = s.cnt := rfl
@[simp] theorem State.emit_cap (s : State) (o : Out) : (s.emit o).cap = s.cap := rfl
@[simp] theorem State.emit_spore (s : State) (o : Out) : (s.emit o).spore = s.spore := rfl
@[simp] theorem State.emit_tpages (s : State) (o : Out) : (s.emit o).tpages = s.tpages := rfl
@[simp] theorem State.emit_host (s : State) (o : Out) : (s.emit o).host = s.host := rfl
@[simp] theorem State.emit_slow (s : State) (o : Out) : (s.emit o).slow = s.slow := rfl
@[simp] theorem State.emit_acc (s : State) (o : Out) : (s.emit o).acc = s.acc := rfl
@[simp] theorem State.emit_accAddr (s : State) (o : Out) : (s.emit o).accAddr = s.accAddr := rfl
@[simp] theorem State.emit_free (s : State) (o : Out) : (s.emit o).free = s.free := rfl
@[simp] theorem State.emit_pending (s : State) (o : Out) : (s.emit o).pending = s.pending := rfl
/-! ### State.drawn -/

@[simp] theorem State.drawn_pwr (s : State) : (s.drawn).pwr = s.pwr := rfl
@[simp] theorem State.drawn_pmb (s : State) : (s.drawn).pmb = s.pmb := rfl
@[simp] theorem State.drawn_tap (s : State) : (s.drawn).tap = s.tap := rfl
@[simp] theorem State.drawn_clk (s : State) : (s.drawn).clk = s.clk := rfl
@[simp] theorem State.drawn_start (s : State) : (s.drawn).start = s.start := rfl
@[simp] theorem State.drawn_mram (s : State) : (s.drawn).mram = s.mram := rfl
@[simp] theorem State.drawn_flash (s : State) : (s.drawn).flash = s.flash := rfl
@[simp] theorem State.drawn_imgc (s : State) : (s.drawn).imgc = s.imgc := rfl
@[simp] theorem State.drawn_mbx (s : State) : (s.drawn).mbx = s.mbx := rfl
@[simp] theorem State.drawn_lock (s : State) : (s.drawn).lock = s.lock := rfl
@[simp] theorem State.drawn_doms (s : State) : (s.drawn).doms = s.doms := rfl
@[simp] theorem State.drawn_sphMax (s : State) : (s.drawn).sphMax = s.sphMax := rfl
@[simp] theorem State.drawn_slices (s : State) : (s.drawn).slices = s.slices := rfl
@[simp] theorem State.drawn_homes (s : State) : (s.drawn).homes = s.homes := rfl
@[simp] theorem State.drawn_gates (s : State) : (s.drawn).gates = s.gates := rfl
@[simp] theorem State.drawn_routers (s : State) : (s.drawn).routers = s.routers := rfl
@[simp] theorem State.drawn_pools (s : State) : (s.drawn).pools = s.pools := rfl
@[simp] theorem State.drawn_ports (s : State) : (s.drawn).ports = s.ports := rfl
@[simp] theorem State.drawn_prot (s : State) : (s.drawn).prot = s.prot := rfl
@[simp] theorem State.drawn_flt (s : State) : (s.drawn).flt = s.flt := rfl
@[simp] theorem State.drawn_cnt (s : State) : (s.drawn).cnt = s.cnt := rfl
@[simp] theorem State.drawn_cap (s : State) : (s.drawn).cap = s.cap := rfl
@[simp] theorem State.drawn_spore (s : State) : (s.drawn).spore = s.spore := rfl
@[simp] theorem State.drawn_tpages (s : State) : (s.drawn).tpages = s.tpages := rfl
@[simp] theorem State.drawn_host (s : State) : (s.drawn).host = s.host := rfl
@[simp] theorem State.drawn_slow (s : State) : (s.drawn).slow = s.slow := rfl
@[simp] theorem State.drawn_acc (s : State) : (s.drawn).acc = s.acc := rfl
@[simp] theorem State.drawn_accAddr (s : State) : (s.drawn).accAddr = s.accAddr := rfl
@[simp] theorem State.drawn_out (s : State) : (s.drawn).out = s.out := rfl
@[simp] theorem State.drawn_pending (s : State) : (s.drawn).pending = s.pending := rfl
/-! ### State.bumpN -/

@[simp] theorem State.bumpN_pwr (s : State) (k i : Nat) : (s.bumpN k i).pwr = s.pwr := rfl
@[simp] theorem State.bumpN_pmb (s : State) (k i : Nat) : (s.bumpN k i).pmb = s.pmb := rfl
@[simp] theorem State.bumpN_tap (s : State) (k i : Nat) : (s.bumpN k i).tap = s.tap := rfl
@[simp] theorem State.bumpN_clk (s : State) (k i : Nat) : (s.bumpN k i).clk = s.clk := rfl
@[simp] theorem State.bumpN_start (s : State) (k i : Nat) : (s.bumpN k i).start = s.start := rfl
@[simp] theorem State.bumpN_mram (s : State) (k i : Nat) : (s.bumpN k i).mram = s.mram := rfl
@[simp] theorem State.bumpN_flash (s : State) (k i : Nat) : (s.bumpN k i).flash = s.flash := rfl
@[simp] theorem State.bumpN_imgc (s : State) (k i : Nat) : (s.bumpN k i).imgc = s.imgc := rfl
@[simp] theorem State.bumpN_mbx (s : State) (k i : Nat) : (s.bumpN k i).mbx = s.mbx := rfl
@[simp] theorem State.bumpN_lock (s : State) (k i : Nat) : (s.bumpN k i).lock = s.lock := rfl
@[simp] theorem State.bumpN_doms (s : State) (k i : Nat) : (s.bumpN k i).doms = s.doms := rfl
@[simp] theorem State.bumpN_sphMax (s : State) (k i : Nat) : (s.bumpN k i).sphMax = s.sphMax := rfl
@[simp] theorem State.bumpN_slices (s : State) (k i : Nat) : (s.bumpN k i).slices = s.slices := rfl
@[simp] theorem State.bumpN_homes (s : State) (k i : Nat) : (s.bumpN k i).homes = s.homes := rfl
@[simp] theorem State.bumpN_gates (s : State) (k i : Nat) : (s.bumpN k i).gates = s.gates := rfl
@[simp] theorem State.bumpN_routers (s : State) (k i : Nat) : (s.bumpN k i).routers = s.routers := rfl
@[simp] theorem State.bumpN_pools (s : State) (k i : Nat) : (s.bumpN k i).pools = s.pools := rfl
@[simp] theorem State.bumpN_ports (s : State) (k i : Nat) : (s.bumpN k i).ports = s.ports := rfl
@[simp] theorem State.bumpN_prot (s : State) (k i : Nat) : (s.bumpN k i).prot = s.prot := rfl
@[simp] theorem State.bumpN_flt (s : State) (k i : Nat) : (s.bumpN k i).flt = s.flt := rfl
@[simp] theorem State.bumpN_cap (s : State) (k i : Nat) : (s.bumpN k i).cap = s.cap := rfl
@[simp] theorem State.bumpN_spore (s : State) (k i : Nat) : (s.bumpN k i).spore = s.spore := rfl
@[simp] theorem State.bumpN_tpages (s : State) (k i : Nat) : (s.bumpN k i).tpages = s.tpages := rfl
@[simp] theorem State.bumpN_host (s : State) (k i : Nat) : (s.bumpN k i).host = s.host := rfl
@[simp] theorem State.bumpN_slow (s : State) (k i : Nat) : (s.bumpN k i).slow = s.slow := rfl
@[simp] theorem State.bumpN_acc (s : State) (k i : Nat) : (s.bumpN k i).acc = s.acc := rfl
@[simp] theorem State.bumpN_accAddr (s : State) (k i : Nat) : (s.bumpN k i).accAddr = s.accAddr := rfl
@[simp] theorem State.bumpN_out (s : State) (k i : Nat) : (s.bumpN k i).out = s.out := rfl
@[simp] theorem State.bumpN_free (s : State) (k i : Nat) : (s.bumpN k i).free = s.free := rfl
@[simp] theorem State.bumpN_pending (s : State) (k i : Nat) : (s.bumpN k i).pending = s.pending := rfl
/-! ### State.bump -/

@[simp] theorem State.bump_pwr (s : State) (k : Nat) : (s.bump k).pwr = s.pwr := rfl
@[simp] theorem State.bump_pmb (s : State) (k : Nat) : (s.bump k).pmb = s.pmb := rfl
@[simp] theorem State.bump_tap (s : State) (k : Nat) : (s.bump k).tap = s.tap := rfl
@[simp] theorem State.bump_clk (s : State) (k : Nat) : (s.bump k).clk = s.clk := rfl
@[simp] theorem State.bump_start (s : State) (k : Nat) : (s.bump k).start = s.start := rfl
@[simp] theorem State.bump_mram (s : State) (k : Nat) : (s.bump k).mram = s.mram := rfl
@[simp] theorem State.bump_flash (s : State) (k : Nat) : (s.bump k).flash = s.flash := rfl
@[simp] theorem State.bump_imgc (s : State) (k : Nat) : (s.bump k).imgc = s.imgc := rfl
@[simp] theorem State.bump_mbx (s : State) (k : Nat) : (s.bump k).mbx = s.mbx := rfl
@[simp] theorem State.bump_lock (s : State) (k : Nat) : (s.bump k).lock = s.lock := rfl
@[simp] theorem State.bump_doms (s : State) (k : Nat) : (s.bump k).doms = s.doms := rfl
@[simp] theorem State.bump_sphMax (s : State) (k : Nat) : (s.bump k).sphMax = s.sphMax := rfl
@[simp] theorem State.bump_slices (s : State) (k : Nat) : (s.bump k).slices = s.slices := rfl
@[simp] theorem State.bump_homes (s : State) (k : Nat) : (s.bump k).homes = s.homes := rfl
@[simp] theorem State.bump_gates (s : State) (k : Nat) : (s.bump k).gates = s.gates := rfl
@[simp] theorem State.bump_routers (s : State) (k : Nat) : (s.bump k).routers = s.routers := rfl
@[simp] theorem State.bump_pools (s : State) (k : Nat) : (s.bump k).pools = s.pools := rfl
@[simp] theorem State.bump_ports (s : State) (k : Nat) : (s.bump k).ports = s.ports := rfl
@[simp] theorem State.bump_prot (s : State) (k : Nat) : (s.bump k).prot = s.prot := rfl
@[simp] theorem State.bump_flt (s : State) (k : Nat) : (s.bump k).flt = s.flt := rfl
@[simp] theorem State.bump_cap (s : State) (k : Nat) : (s.bump k).cap = s.cap := rfl
@[simp] theorem State.bump_spore (s : State) (k : Nat) : (s.bump k).spore = s.spore := rfl
@[simp] theorem State.bump_tpages (s : State) (k : Nat) : (s.bump k).tpages = s.tpages := rfl
@[simp] theorem State.bump_host (s : State) (k : Nat) : (s.bump k).host = s.host := rfl
@[simp] theorem State.bump_slow (s : State) (k : Nat) : (s.bump k).slow = s.slow := rfl
@[simp] theorem State.bump_acc (s : State) (k : Nat) : (s.bump k).acc = s.acc := rfl
@[simp] theorem State.bump_accAddr (s : State) (k : Nat) : (s.bump k).accAddr = s.accAddr := rfl
@[simp] theorem State.bump_out (s : State) (k : Nat) : (s.bump k).out = s.out := rfl
@[simp] theorem State.bump_free (s : State) (k : Nat) : (s.bump k).free = s.free := rfl
@[simp] theorem State.bump_pending (s : State) (k : Nat) : (s.bump k).pending = s.pending := rfl
/-! ### State.faultPin -/

@[simp] theorem State.faultPin_pmb (s : State) : (s.faultPin).pmb = s.pmb := rfl
@[simp] theorem State.faultPin_tap (s : State) : (s.faultPin).tap = s.tap := rfl
@[simp] theorem State.faultPin_clk (s : State) : (s.faultPin).clk = s.clk := rfl
@[simp] theorem State.faultPin_start (s : State) : (s.faultPin).start = s.start := rfl
@[simp] theorem State.faultPin_mram (s : State) : (s.faultPin).mram = s.mram := rfl
@[simp] theorem State.faultPin_flash (s : State) : (s.faultPin).flash = s.flash := rfl
@[simp] theorem State.faultPin_imgc (s : State) : (s.faultPin).imgc = s.imgc := rfl
@[simp] theorem State.faultPin_mbx (s : State) : (s.faultPin).mbx = s.mbx := rfl
@[simp] theorem State.faultPin_lock (s : State) : (s.faultPin).lock = s.lock := rfl
@[simp] theorem State.faultPin_doms (s : State) : (s.faultPin).doms = s.doms := rfl
@[simp] theorem State.faultPin_sphMax (s : State) : (s.faultPin).sphMax = s.sphMax := rfl
@[simp] theorem State.faultPin_slices (s : State) : (s.faultPin).slices = s.slices := rfl
@[simp] theorem State.faultPin_homes (s : State) : (s.faultPin).homes = s.homes := rfl
@[simp] theorem State.faultPin_gates (s : State) : (s.faultPin).gates = s.gates := rfl
@[simp] theorem State.faultPin_routers (s : State) : (s.faultPin).routers = s.routers := rfl
@[simp] theorem State.faultPin_pools (s : State) : (s.faultPin).pools = s.pools := rfl
@[simp] theorem State.faultPin_ports (s : State) : (s.faultPin).ports = s.ports := rfl
@[simp] theorem State.faultPin_prot (s : State) : (s.faultPin).prot = s.prot := rfl
@[simp] theorem State.faultPin_flt (s : State) : (s.faultPin).flt = s.flt := rfl
@[simp] theorem State.faultPin_cnt (s : State) : (s.faultPin).cnt = s.cnt := rfl
@[simp] theorem State.faultPin_cap (s : State) : (s.faultPin).cap = s.cap := rfl
@[simp] theorem State.faultPin_spore (s : State) : (s.faultPin).spore = s.spore := rfl
@[simp] theorem State.faultPin_tpages (s : State) : (s.faultPin).tpages = s.tpages := rfl
@[simp] theorem State.faultPin_host (s : State) : (s.faultPin).host = s.host := rfl
@[simp] theorem State.faultPin_slow (s : State) : (s.faultPin).slow = s.slow := rfl
@[simp] theorem State.faultPin_acc (s : State) : (s.faultPin).acc = s.acc := rfl
@[simp] theorem State.faultPin_accAddr (s : State) : (s.faultPin).accAddr = s.accAddr := rfl
@[simp] theorem State.faultPin_out (s : State) : (s.faultPin).out = s.out := rfl
@[simp] theorem State.faultPin_free (s : State) : (s.faultPin).free = s.free := rfl
@[simp] theorem State.faultPin_pending (s : State) : (s.faultPin).pending = s.pending := rfl
/-! ### State.qPush -/

/-- Linking a unit changes the pool, or only counts the cells that a flush drops. -/
theorem State.qPush_cases (s : State) (n q : Nat) (u : FUnit) :
    (∃ f, s.qPush n q u = s.modPool n f) ∨ s.qPush n q u = s.bumpN (cSlc n 33) (fcells u) := by
  unfold State.qPush
  split
  · exact .inr rfl
  · split <;> exact .inl ⟨_, rfl⟩

@[simp] theorem State.qPush_pwr (s : State) (n q : Nat) (u : FUnit) : (s.qPush n q u).pwr = s.pwr := by
  obtain ⟨f, h⟩ | h := State.qPush_cases s n q u <;> rw [h] <;> rfl
@[simp] theorem State.qPush_pmb (s : State) (n q : Nat) (u : FUnit) : (s.qPush n q u).pmb = s.pmb := by
  obtain ⟨f, h⟩ | h := State.qPush_cases s n q u <;> rw [h] <;> rfl
@[simp] theorem State.qPush_tap (s : State) (n q : Nat) (u : FUnit) : (s.qPush n q u).tap = s.tap := by
  obtain ⟨f, h⟩ | h := State.qPush_cases s n q u <;> rw [h] <;> rfl
@[simp] theorem State.qPush_clk (s : State) (n q : Nat) (u : FUnit) : (s.qPush n q u).clk = s.clk := by
  obtain ⟨f, h⟩ | h := State.qPush_cases s n q u <;> rw [h] <;> rfl
@[simp] theorem State.qPush_start (s : State) (n q : Nat) (u : FUnit) : (s.qPush n q u).start = s.start := by
  obtain ⟨f, h⟩ | h := State.qPush_cases s n q u <;> rw [h] <;> rfl
@[simp] theorem State.qPush_mram (s : State) (n q : Nat) (u : FUnit) : (s.qPush n q u).mram = s.mram := by
  obtain ⟨f, h⟩ | h := State.qPush_cases s n q u <;> rw [h] <;> rfl
@[simp] theorem State.qPush_flash (s : State) (n q : Nat) (u : FUnit) : (s.qPush n q u).flash = s.flash := by
  obtain ⟨f, h⟩ | h := State.qPush_cases s n q u <;> rw [h] <;> rfl
@[simp] theorem State.qPush_imgc (s : State) (n q : Nat) (u : FUnit) : (s.qPush n q u).imgc = s.imgc := by
  obtain ⟨f, h⟩ | h := State.qPush_cases s n q u <;> rw [h] <;> rfl
@[simp] theorem State.qPush_mbx (s : State) (n q : Nat) (u : FUnit) : (s.qPush n q u).mbx = s.mbx := by
  obtain ⟨f, h⟩ | h := State.qPush_cases s n q u <;> rw [h] <;> rfl
@[simp] theorem State.qPush_lock (s : State) (n q : Nat) (u : FUnit) : (s.qPush n q u).lock = s.lock := by
  obtain ⟨f, h⟩ | h := State.qPush_cases s n q u <;> rw [h] <;> rfl
@[simp] theorem State.qPush_doms (s : State) (n q : Nat) (u : FUnit) : (s.qPush n q u).doms = s.doms := by
  obtain ⟨f, h⟩ | h := State.qPush_cases s n q u <;> rw [h] <;> rfl
@[simp] theorem State.qPush_sphMax (s : State) (n q : Nat) (u : FUnit) : (s.qPush n q u).sphMax = s.sphMax := by
  obtain ⟨f, h⟩ | h := State.qPush_cases s n q u <;> rw [h] <;> rfl
@[simp] theorem State.qPush_slices (s : State) (n q : Nat) (u : FUnit) : (s.qPush n q u).slices = s.slices := by
  obtain ⟨f, h⟩ | h := State.qPush_cases s n q u <;> rw [h] <;> rfl
@[simp] theorem State.qPush_homes (s : State) (n q : Nat) (u : FUnit) : (s.qPush n q u).homes = s.homes := by
  obtain ⟨f, h⟩ | h := State.qPush_cases s n q u <;> rw [h] <;> rfl
@[simp] theorem State.qPush_gates (s : State) (n q : Nat) (u : FUnit) : (s.qPush n q u).gates = s.gates := by
  obtain ⟨f, h⟩ | h := State.qPush_cases s n q u <;> rw [h] <;> rfl
@[simp] theorem State.qPush_routers (s : State) (n q : Nat) (u : FUnit) : (s.qPush n q u).routers = s.routers := by
  obtain ⟨f, h⟩ | h := State.qPush_cases s n q u <;> rw [h] <;> rfl
@[simp] theorem State.qPush_ports (s : State) (n q : Nat) (u : FUnit) : (s.qPush n q u).ports = s.ports := by
  obtain ⟨f, h⟩ | h := State.qPush_cases s n q u <;> rw [h] <;> rfl
@[simp] theorem State.qPush_prot (s : State) (n q : Nat) (u : FUnit) : (s.qPush n q u).prot = s.prot := by
  obtain ⟨f, h⟩ | h := State.qPush_cases s n q u <;> rw [h] <;> rfl
@[simp] theorem State.qPush_flt (s : State) (n q : Nat) (u : FUnit) : (s.qPush n q u).flt = s.flt := by
  obtain ⟨f, h⟩ | h := State.qPush_cases s n q u <;> rw [h] <;> rfl
@[simp] theorem State.qPush_cap (s : State) (n q : Nat) (u : FUnit) : (s.qPush n q u).cap = s.cap := by
  obtain ⟨f, h⟩ | h := State.qPush_cases s n q u <;> rw [h] <;> rfl
@[simp] theorem State.qPush_spore (s : State) (n q : Nat) (u : FUnit) : (s.qPush n q u).spore = s.spore := by
  obtain ⟨f, h⟩ | h := State.qPush_cases s n q u <;> rw [h] <;> rfl
@[simp] theorem State.qPush_tpages (s : State) (n q : Nat) (u : FUnit) : (s.qPush n q u).tpages = s.tpages := by
  obtain ⟨f, h⟩ | h := State.qPush_cases s n q u <;> rw [h] <;> rfl
@[simp] theorem State.qPush_host (s : State) (n q : Nat) (u : FUnit) : (s.qPush n q u).host = s.host := by
  obtain ⟨f, h⟩ | h := State.qPush_cases s n q u <;> rw [h] <;> rfl
@[simp] theorem State.qPush_slow (s : State) (n q : Nat) (u : FUnit) : (s.qPush n q u).slow = s.slow := by
  obtain ⟨f, h⟩ | h := State.qPush_cases s n q u <;> rw [h] <;> rfl
@[simp] theorem State.qPush_acc (s : State) (n q : Nat) (u : FUnit) : (s.qPush n q u).acc = s.acc := by
  obtain ⟨f, h⟩ | h := State.qPush_cases s n q u <;> rw [h] <;> rfl
@[simp] theorem State.qPush_accAddr (s : State) (n q : Nat) (u : FUnit) : (s.qPush n q u).accAddr = s.accAddr := by
  obtain ⟨f, h⟩ | h := State.qPush_cases s n q u <;> rw [h] <;> rfl
@[simp] theorem State.qPush_out (s : State) (n q : Nat) (u : FUnit) : (s.qPush n q u).out = s.out := by
  obtain ⟨f, h⟩ | h := State.qPush_cases s n q u <;> rw [h] <;> rfl
@[simp] theorem State.qPush_free (s : State) (n q : Nat) (u : FUnit) : (s.qPush n q u).free = s.free := by
  obtain ⟨f, h⟩ | h := State.qPush_cases s n q u <;> rw [h] <;> rfl
@[simp] theorem State.qPush_pending (s : State) (n q : Nat) (u : FUnit) : (s.qPush n q u).pending = s.pending := by
  obtain ⟨f, h⟩ | h := State.qPush_cases s n q u <;> rw [h] <;> rfl
/-! ### State.qTake -/

@[simp] theorem State.qTake_pwr (s : State) (n q : Nat) (m : Msg) : (s.qTake n q m).pwr = s.pwr := rfl
@[simp] theorem State.qTake_pmb (s : State) (n q : Nat) (m : Msg) : (s.qTake n q m).pmb = s.pmb := rfl
@[simp] theorem State.qTake_tap (s : State) (n q : Nat) (m : Msg) : (s.qTake n q m).tap = s.tap := rfl
@[simp] theorem State.qTake_clk (s : State) (n q : Nat) (m : Msg) : (s.qTake n q m).clk = s.clk := rfl
@[simp] theorem State.qTake_start (s : State) (n q : Nat) (m : Msg) : (s.qTake n q m).start = s.start := rfl
@[simp] theorem State.qTake_mram (s : State) (n q : Nat) (m : Msg) : (s.qTake n q m).mram = s.mram := rfl
@[simp] theorem State.qTake_flash (s : State) (n q : Nat) (m : Msg) : (s.qTake n q m).flash = s.flash := rfl
@[simp] theorem State.qTake_imgc (s : State) (n q : Nat) (m : Msg) : (s.qTake n q m).imgc = s.imgc := rfl
@[simp] theorem State.qTake_mbx (s : State) (n q : Nat) (m : Msg) : (s.qTake n q m).mbx = s.mbx := rfl
@[simp] theorem State.qTake_lock (s : State) (n q : Nat) (m : Msg) : (s.qTake n q m).lock = s.lock := rfl
@[simp] theorem State.qTake_doms (s : State) (n q : Nat) (m : Msg) : (s.qTake n q m).doms = s.doms := rfl
@[simp] theorem State.qTake_sphMax (s : State) (n q : Nat) (m : Msg) : (s.qTake n q m).sphMax = s.sphMax := rfl
@[simp] theorem State.qTake_slices (s : State) (n q : Nat) (m : Msg) : (s.qTake n q m).slices = s.slices := rfl
@[simp] theorem State.qTake_homes (s : State) (n q : Nat) (m : Msg) : (s.qTake n q m).homes = s.homes := rfl
@[simp] theorem State.qTake_gates (s : State) (n q : Nat) (m : Msg) : (s.qTake n q m).gates = s.gates := rfl
@[simp] theorem State.qTake_routers (s : State) (n q : Nat) (m : Msg) : (s.qTake n q m).routers = s.routers := rfl
@[simp] theorem State.qTake_ports (s : State) (n q : Nat) (m : Msg) : (s.qTake n q m).ports = s.ports := rfl
@[simp] theorem State.qTake_prot (s : State) (n q : Nat) (m : Msg) : (s.qTake n q m).prot = s.prot := rfl
@[simp] theorem State.qTake_flt (s : State) (n q : Nat) (m : Msg) : (s.qTake n q m).flt = s.flt := rfl
@[simp] theorem State.qTake_cnt (s : State) (n q : Nat) (m : Msg) : (s.qTake n q m).cnt = s.cnt := rfl
@[simp] theorem State.qTake_cap (s : State) (n q : Nat) (m : Msg) : (s.qTake n q m).cap = s.cap := rfl
@[simp] theorem State.qTake_spore (s : State) (n q : Nat) (m : Msg) : (s.qTake n q m).spore = s.spore := rfl
@[simp] theorem State.qTake_tpages (s : State) (n q : Nat) (m : Msg) : (s.qTake n q m).tpages = s.tpages := rfl
@[simp] theorem State.qTake_host (s : State) (n q : Nat) (m : Msg) : (s.qTake n q m).host = s.host := rfl
@[simp] theorem State.qTake_slow (s : State) (n q : Nat) (m : Msg) : (s.qTake n q m).slow = s.slow := rfl
@[simp] theorem State.qTake_acc (s : State) (n q : Nat) (m : Msg) : (s.qTake n q m).acc = s.acc := rfl
@[simp] theorem State.qTake_accAddr (s : State) (n q : Nat) (m : Msg) : (s.qTake n q m).accAddr = s.accAddr := rfl
@[simp] theorem State.qTake_out (s : State) (n q : Nat) (m : Msg) : (s.qTake n q m).out = s.out := rfl
@[simp] theorem State.qTake_free (s : State) (n q : Nat) (m : Msg) : (s.qTake n q m).free = s.free := rfl
@[simp] theorem State.qTake_pending (s : State) (n q : Nat) (m : Msg) : (s.qTake n q m).pending = s.pending := rfl
/-! ### State.inject -/

@[simp] theorem State.inject_pwr (s : State) (n v : Nat) (k : Sink) (m : Msg) : (s.inject n v k m).pwr = s.pwr := State.qPush_pwr _ _ _ _
@[simp] theorem State.inject_pmb (s : State) (n v : Nat) (k : Sink) (m : Msg) : (s.inject n v k m).pmb = s.pmb := State.qPush_pmb _ _ _ _
@[simp] theorem State.inject_tap (s : State) (n v : Nat) (k : Sink) (m : Msg) : (s.inject n v k m).tap = s.tap := State.qPush_tap _ _ _ _
@[simp] theorem State.inject_clk (s : State) (n v : Nat) (k : Sink) (m : Msg) : (s.inject n v k m).clk = s.clk := State.qPush_clk _ _ _ _
@[simp] theorem State.inject_start (s : State) (n v : Nat) (k : Sink) (m : Msg) : (s.inject n v k m).start = s.start := State.qPush_start _ _ _ _
@[simp] theorem State.inject_mram (s : State) (n v : Nat) (k : Sink) (m : Msg) : (s.inject n v k m).mram = s.mram := State.qPush_mram _ _ _ _
@[simp] theorem State.inject_flash (s : State) (n v : Nat) (k : Sink) (m : Msg) : (s.inject n v k m).flash = s.flash := State.qPush_flash _ _ _ _
@[simp] theorem State.inject_imgc (s : State) (n v : Nat) (k : Sink) (m : Msg) : (s.inject n v k m).imgc = s.imgc := State.qPush_imgc _ _ _ _
@[simp] theorem State.inject_mbx (s : State) (n v : Nat) (k : Sink) (m : Msg) : (s.inject n v k m).mbx = s.mbx := State.qPush_mbx _ _ _ _
@[simp] theorem State.inject_lock (s : State) (n v : Nat) (k : Sink) (m : Msg) : (s.inject n v k m).lock = s.lock := State.qPush_lock _ _ _ _
@[simp] theorem State.inject_doms (s : State) (n v : Nat) (k : Sink) (m : Msg) : (s.inject n v k m).doms = s.doms := State.qPush_doms _ _ _ _
@[simp] theorem State.inject_sphMax (s : State) (n v : Nat) (k : Sink) (m : Msg) : (s.inject n v k m).sphMax = s.sphMax := State.qPush_sphMax _ _ _ _
@[simp] theorem State.inject_slices (s : State) (n v : Nat) (k : Sink) (m : Msg) : (s.inject n v k m).slices = s.slices := State.qPush_slices _ _ _ _
@[simp] theorem State.inject_homes (s : State) (n v : Nat) (k : Sink) (m : Msg) : (s.inject n v k m).homes = s.homes := State.qPush_homes _ _ _ _
@[simp] theorem State.inject_gates (s : State) (n v : Nat) (k : Sink) (m : Msg) : (s.inject n v k m).gates = s.gates := State.qPush_gates _ _ _ _
@[simp] theorem State.inject_routers (s : State) (n v : Nat) (k : Sink) (m : Msg) : (s.inject n v k m).routers = s.routers := State.qPush_routers _ _ _ _
@[simp] theorem State.inject_ports (s : State) (n v : Nat) (k : Sink) (m : Msg) : (s.inject n v k m).ports = s.ports := State.qPush_ports _ _ _ _
@[simp] theorem State.inject_prot (s : State) (n v : Nat) (k : Sink) (m : Msg) : (s.inject n v k m).prot = s.prot := State.qPush_prot _ _ _ _
@[simp] theorem State.inject_flt (s : State) (n v : Nat) (k : Sink) (m : Msg) : (s.inject n v k m).flt = s.flt := State.qPush_flt _ _ _ _
@[simp] theorem State.inject_cap (s : State) (n v : Nat) (k : Sink) (m : Msg) : (s.inject n v k m).cap = s.cap := State.qPush_cap _ _ _ _
@[simp] theorem State.inject_spore (s : State) (n v : Nat) (k : Sink) (m : Msg) : (s.inject n v k m).spore = s.spore := State.qPush_spore _ _ _ _
@[simp] theorem State.inject_tpages (s : State) (n v : Nat) (k : Sink) (m : Msg) : (s.inject n v k m).tpages = s.tpages := State.qPush_tpages _ _ _ _
@[simp] theorem State.inject_host (s : State) (n v : Nat) (k : Sink) (m : Msg) : (s.inject n v k m).host = s.host := State.qPush_host _ _ _ _
@[simp] theorem State.inject_slow (s : State) (n v : Nat) (k : Sink) (m : Msg) : (s.inject n v k m).slow = s.slow := State.qPush_slow _ _ _ _
@[simp] theorem State.inject_acc (s : State) (n v : Nat) (k : Sink) (m : Msg) : (s.inject n v k m).acc = s.acc := State.qPush_acc _ _ _ _
@[simp] theorem State.inject_accAddr (s : State) (n v : Nat) (k : Sink) (m : Msg) : (s.inject n v k m).accAddr = s.accAddr := State.qPush_accAddr _ _ _ _
@[simp] theorem State.inject_out (s : State) (n v : Nat) (k : Sink) (m : Msg) : (s.inject n v k m).out = s.out := State.qPush_out _ _ _ _
@[simp] theorem State.inject_free (s : State) (n v : Nat) (k : Sink) (m : Msg) : (s.inject n v k m).free = s.free := State.qPush_free _ _ _ _
@[simp] theorem State.inject_pending (s : State) (n v : Nat) (k : Sink) (m : Msg) : (s.inject n v k m).pending = s.pending := State.qPush_pending _ _ _ _
/-! ### State.injectGate -/

@[simp] theorem State.injectGate_pwr (s : State) (n a : Nat) (c : Cls) (v : Nat) (k : Sink) (m : Msg) (t : Nat) : (s.injectGate n a c v k m t).pwr = s.pwr := State.qPush_pwr _ _ _ _
@[simp] theorem State.injectGate_pmb (s : State) (n a : Nat) (c : Cls) (v : Nat) (k : Sink) (m : Msg) (t : Nat) : (s.injectGate n a c v k m t).pmb = s.pmb := State.qPush_pmb _ _ _ _
@[simp] theorem State.injectGate_tap (s : State) (n a : Nat) (c : Cls) (v : Nat) (k : Sink) (m : Msg) (t : Nat) : (s.injectGate n a c v k m t).tap = s.tap := State.qPush_tap _ _ _ _
@[simp] theorem State.injectGate_clk (s : State) (n a : Nat) (c : Cls) (v : Nat) (k : Sink) (m : Msg) (t : Nat) : (s.injectGate n a c v k m t).clk = s.clk := State.qPush_clk _ _ _ _
@[simp] theorem State.injectGate_start (s : State) (n a : Nat) (c : Cls) (v : Nat) (k : Sink) (m : Msg) (t : Nat) : (s.injectGate n a c v k m t).start = s.start := State.qPush_start _ _ _ _
@[simp] theorem State.injectGate_mram (s : State) (n a : Nat) (c : Cls) (v : Nat) (k : Sink) (m : Msg) (t : Nat) : (s.injectGate n a c v k m t).mram = s.mram := State.qPush_mram _ _ _ _
@[simp] theorem State.injectGate_flash (s : State) (n a : Nat) (c : Cls) (v : Nat) (k : Sink) (m : Msg) (t : Nat) : (s.injectGate n a c v k m t).flash = s.flash := State.qPush_flash _ _ _ _
@[simp] theorem State.injectGate_imgc (s : State) (n a : Nat) (c : Cls) (v : Nat) (k : Sink) (m : Msg) (t : Nat) : (s.injectGate n a c v k m t).imgc = s.imgc := State.qPush_imgc _ _ _ _
@[simp] theorem State.injectGate_mbx (s : State) (n a : Nat) (c : Cls) (v : Nat) (k : Sink) (m : Msg) (t : Nat) : (s.injectGate n a c v k m t).mbx = s.mbx := State.qPush_mbx _ _ _ _
@[simp] theorem State.injectGate_lock (s : State) (n a : Nat) (c : Cls) (v : Nat) (k : Sink) (m : Msg) (t : Nat) : (s.injectGate n a c v k m t).lock = s.lock := State.qPush_lock _ _ _ _
@[simp] theorem State.injectGate_doms (s : State) (n a : Nat) (c : Cls) (v : Nat) (k : Sink) (m : Msg) (t : Nat) : (s.injectGate n a c v k m t).doms = s.doms := State.qPush_doms _ _ _ _
@[simp] theorem State.injectGate_sphMax (s : State) (n a : Nat) (c : Cls) (v : Nat) (k : Sink) (m : Msg) (t : Nat) : (s.injectGate n a c v k m t).sphMax = s.sphMax := State.qPush_sphMax _ _ _ _
@[simp] theorem State.injectGate_slices (s : State) (n a : Nat) (c : Cls) (v : Nat) (k : Sink) (m : Msg) (t : Nat) : (s.injectGate n a c v k m t).slices = s.slices := State.qPush_slices _ _ _ _
@[simp] theorem State.injectGate_homes (s : State) (n a : Nat) (c : Cls) (v : Nat) (k : Sink) (m : Msg) (t : Nat) : (s.injectGate n a c v k m t).homes = s.homes := State.qPush_homes _ _ _ _
@[simp] theorem State.injectGate_gates (s : State) (n a : Nat) (c : Cls) (v : Nat) (k : Sink) (m : Msg) (t : Nat) : (s.injectGate n a c v k m t).gates = s.gates := State.qPush_gates _ _ _ _
@[simp] theorem State.injectGate_routers (s : State) (n a : Nat) (c : Cls) (v : Nat) (k : Sink) (m : Msg) (t : Nat) : (s.injectGate n a c v k m t).routers = s.routers := State.qPush_routers _ _ _ _
@[simp] theorem State.injectGate_ports (s : State) (n a : Nat) (c : Cls) (v : Nat) (k : Sink) (m : Msg) (t : Nat) : (s.injectGate n a c v k m t).ports = s.ports := State.qPush_ports _ _ _ _
@[simp] theorem State.injectGate_prot (s : State) (n a : Nat) (c : Cls) (v : Nat) (k : Sink) (m : Msg) (t : Nat) : (s.injectGate n a c v k m t).prot = s.prot := State.qPush_prot _ _ _ _
@[simp] theorem State.injectGate_flt (s : State) (n a : Nat) (c : Cls) (v : Nat) (k : Sink) (m : Msg) (t : Nat) : (s.injectGate n a c v k m t).flt = s.flt := State.qPush_flt _ _ _ _
@[simp] theorem State.injectGate_cap (s : State) (n a : Nat) (c : Cls) (v : Nat) (k : Sink) (m : Msg) (t : Nat) : (s.injectGate n a c v k m t).cap = s.cap := State.qPush_cap _ _ _ _
@[simp] theorem State.injectGate_spore (s : State) (n a : Nat) (c : Cls) (v : Nat) (k : Sink) (m : Msg) (t : Nat) : (s.injectGate n a c v k m t).spore = s.spore := State.qPush_spore _ _ _ _
@[simp] theorem State.injectGate_tpages (s : State) (n a : Nat) (c : Cls) (v : Nat) (k : Sink) (m : Msg) (t : Nat) : (s.injectGate n a c v k m t).tpages = s.tpages := State.qPush_tpages _ _ _ _
@[simp] theorem State.injectGate_host (s : State) (n a : Nat) (c : Cls) (v : Nat) (k : Sink) (m : Msg) (t : Nat) : (s.injectGate n a c v k m t).host = s.host := State.qPush_host _ _ _ _
@[simp] theorem State.injectGate_slow (s : State) (n a : Nat) (c : Cls) (v : Nat) (k : Sink) (m : Msg) (t : Nat) : (s.injectGate n a c v k m t).slow = s.slow := State.qPush_slow _ _ _ _
@[simp] theorem State.injectGate_acc (s : State) (n a : Nat) (c : Cls) (v : Nat) (k : Sink) (m : Msg) (t : Nat) : (s.injectGate n a c v k m t).acc = s.acc := State.qPush_acc _ _ _ _
@[simp] theorem State.injectGate_accAddr (s : State) (n a : Nat) (c : Cls) (v : Nat) (k : Sink) (m : Msg) (t : Nat) : (s.injectGate n a c v k m t).accAddr = s.accAddr := State.qPush_accAddr _ _ _ _
@[simp] theorem State.injectGate_out (s : State) (n a : Nat) (c : Cls) (v : Nat) (k : Sink) (m : Msg) (t : Nat) : (s.injectGate n a c v k m t).out = s.out := State.qPush_out _ _ _ _
@[simp] theorem State.injectGate_free (s : State) (n a : Nat) (c : Cls) (v : Nat) (k : Sink) (m : Msg) (t : Nat) : (s.injectGate n a c v k m t).free = s.free := State.qPush_free _ _ _ _
@[simp] theorem State.injectGate_pending (s : State) (n a : Nat) (c : Cls) (v : Nat) (k : Sink) (m : Msg) (t : Nat) : (s.injectGate n a c v k m t).pending = s.pending := State.qPush_pending _ _ _ _
/-! ### State.egress -/

@[simp] theorem State.egress_pwr (s : State) (p : Nat) (m : Msg) : (s.egress p m).pwr = s.pwr := State.qPush_pwr _ _ _ _
@[simp] theorem State.egress_pmb (s : State) (p : Nat) (m : Msg) : (s.egress p m).pmb = s.pmb := State.qPush_pmb _ _ _ _
@[simp] theorem State.egress_tap (s : State) (p : Nat) (m : Msg) : (s.egress p m).tap = s.tap := State.qPush_tap _ _ _ _
@[simp] theorem State.egress_clk (s : State) (p : Nat) (m : Msg) : (s.egress p m).clk = s.clk := State.qPush_clk _ _ _ _
@[simp] theorem State.egress_start (s : State) (p : Nat) (m : Msg) : (s.egress p m).start = s.start := State.qPush_start _ _ _ _
@[simp] theorem State.egress_mram (s : State) (p : Nat) (m : Msg) : (s.egress p m).mram = s.mram := State.qPush_mram _ _ _ _
@[simp] theorem State.egress_flash (s : State) (p : Nat) (m : Msg) : (s.egress p m).flash = s.flash := State.qPush_flash _ _ _ _
@[simp] theorem State.egress_imgc (s : State) (p : Nat) (m : Msg) : (s.egress p m).imgc = s.imgc := State.qPush_imgc _ _ _ _
@[simp] theorem State.egress_mbx (s : State) (p : Nat) (m : Msg) : (s.egress p m).mbx = s.mbx := State.qPush_mbx _ _ _ _
@[simp] theorem State.egress_lock (s : State) (p : Nat) (m : Msg) : (s.egress p m).lock = s.lock := State.qPush_lock _ _ _ _
@[simp] theorem State.egress_doms (s : State) (p : Nat) (m : Msg) : (s.egress p m).doms = s.doms := State.qPush_doms _ _ _ _
@[simp] theorem State.egress_sphMax (s : State) (p : Nat) (m : Msg) : (s.egress p m).sphMax = s.sphMax := State.qPush_sphMax _ _ _ _
@[simp] theorem State.egress_slices (s : State) (p : Nat) (m : Msg) : (s.egress p m).slices = s.slices := State.qPush_slices _ _ _ _
@[simp] theorem State.egress_homes (s : State) (p : Nat) (m : Msg) : (s.egress p m).homes = s.homes := State.qPush_homes _ _ _ _
@[simp] theorem State.egress_gates (s : State) (p : Nat) (m : Msg) : (s.egress p m).gates = s.gates := State.qPush_gates _ _ _ _
@[simp] theorem State.egress_routers (s : State) (p : Nat) (m : Msg) : (s.egress p m).routers = s.routers := State.qPush_routers _ _ _ _
@[simp] theorem State.egress_ports (s : State) (p : Nat) (m : Msg) : (s.egress p m).ports = s.ports := State.qPush_ports _ _ _ _
@[simp] theorem State.egress_prot (s : State) (p : Nat) (m : Msg) : (s.egress p m).prot = s.prot := State.qPush_prot _ _ _ _
@[simp] theorem State.egress_flt (s : State) (p : Nat) (m : Msg) : (s.egress p m).flt = s.flt := State.qPush_flt _ _ _ _
@[simp] theorem State.egress_cap (s : State) (p : Nat) (m : Msg) : (s.egress p m).cap = s.cap := State.qPush_cap _ _ _ _
@[simp] theorem State.egress_spore (s : State) (p : Nat) (m : Msg) : (s.egress p m).spore = s.spore := State.qPush_spore _ _ _ _
@[simp] theorem State.egress_tpages (s : State) (p : Nat) (m : Msg) : (s.egress p m).tpages = s.tpages := State.qPush_tpages _ _ _ _
@[simp] theorem State.egress_host (s : State) (p : Nat) (m : Msg) : (s.egress p m).host = s.host := State.qPush_host _ _ _ _
@[simp] theorem State.egress_slow (s : State) (p : Nat) (m : Msg) : (s.egress p m).slow = s.slow := State.qPush_slow _ _ _ _
@[simp] theorem State.egress_acc (s : State) (p : Nat) (m : Msg) : (s.egress p m).acc = s.acc := State.qPush_acc _ _ _ _
@[simp] theorem State.egress_accAddr (s : State) (p : Nat) (m : Msg) : (s.egress p m).accAddr = s.accAddr := State.qPush_accAddr _ _ _ _
@[simp] theorem State.egress_out (s : State) (p : Nat) (m : Msg) : (s.egress p m).out = s.out := State.qPush_out _ _ _ _
@[simp] theorem State.egress_free (s : State) (p : Nat) (m : Msg) : (s.egress p m).free = s.free := State.qPush_free _ _ _ _
@[simp] theorem State.egress_pending (s : State) (p : Nat) (m : Msg) : (s.egress p m).pending = s.pending := State.qPush_pending _ _ _ _

/-! ### Reading a unit after an update -/

theorem State.modSlice_slice (s : State) (n k : Nat) (f : Slice → Slice) : (s.modSlice n f).slice k = if k = n then f (s.slice n) else s.slice k := tget_tmod _ _ _ _ _
@[simp] theorem State.modSlice_slice_self (s : State) (n : Nat) (f : Slice → Slice) : (s.modSlice n f).slice n = f (s.slice n) := by simp [State.modSlice_slice]
/-- What an update does depends on its value at that unit alone. -/
theorem State.modSlice_congr {s : State} {n : Nat} {f g : Slice → Slice} (h : f (s.slice n) = g (s.slice n)) : s.modSlice n f = s.modSlice n g :=
  congrArg (fun v => ({ s with slices := tset {} s.slices n v } : State)) h
theorem State.modSlice_slice_ne (s : State) {n k : Nat} (f : Slice → Slice) (h : k ≠ n) : (s.modSlice n f).slice k = s.slice k := by simp [State.modSlice_slice, h]
theorem State.modHome_home (s : State) (n k : Nat) (f : Home → Home) : (s.modHome n f).home k = if k = n then f (s.home n) else s.home k := tget_tmod _ _ _ _ _
@[simp] theorem State.modHome_home_self (s : State) (n : Nat) (f : Home → Home) : (s.modHome n f).home n = f (s.home n) := by simp [State.modHome_home]
/-- What an update does depends on its value at that unit alone. -/
theorem State.modHome_congr {s : State} {n : Nat} {f g : Home → Home} (h : f (s.home n) = g (s.home n)) : s.modHome n f = s.modHome n g :=
  congrArg (fun v => ({ s with homes := tset {} s.homes n v } : State)) h
theorem State.modHome_home_ne (s : State) {n k : Nat} (f : Home → Home) (h : k ≠ n) : (s.modHome n f).home k = s.home k := by simp [State.modHome_home, h]
theorem State.modGate_gate (s : State) (n k : Nat) (f : Gate → Gate) : (s.modGate n f).gate k = if k = n then f (s.gate n) else s.gate k := tget_tmod _ _ _ _ _
@[simp] theorem State.modGate_gate_self (s : State) (n : Nat) (f : Gate → Gate) : (s.modGate n f).gate n = f (s.gate n) := by simp [State.modGate_gate]
/-- What an update does depends on its value at that unit alone. -/
theorem State.modGate_congr {s : State} {n : Nat} {f g : Gate → Gate} (h : f (s.gate n) = g (s.gate n)) : s.modGate n f = s.modGate n g :=
  congrArg (fun v => ({ s with gates := tset {} s.gates n v } : State)) h
theorem State.modGate_gate_ne (s : State) {n k : Nat} (f : Gate → Gate) (h : k ≠ n) : (s.modGate n f).gate k = s.gate k := by simp [State.modGate_gate, h]
theorem State.modRouter_router (s : State) (n k : Nat) (f : Router → Router) : (s.modRouter n f).router k = if k = n then f (s.router n) else s.router k := tget_tmod _ _ _ _ _
@[simp] theorem State.modRouter_router_self (s : State) (n : Nat) (f : Router → Router) : (s.modRouter n f).router n = f (s.router n) := by simp [State.modRouter_router]
/-- What an update does depends on its value at that unit alone. -/
theorem State.modRouter_congr {s : State} {n : Nat} {f g : Router → Router} (h : f (s.router n) = g (s.router n)) : s.modRouter n f = s.modRouter n g :=
  congrArg (fun v => ({ s with routers := tset {} s.routers n v } : State)) h
theorem State.modRouter_router_ne (s : State) {n k : Nat} (f : Router → Router) (h : k ≠ n) : (s.modRouter n f).router k = s.router k := by simp [State.modRouter_router, h]
theorem State.modPool_pool (s : State) (n k : Nat) (f : Pool → Pool) : (s.modPool n f).pool k = if k = n then f (s.pool n) else s.pool k := tget_tmod _ _ _ _ _
@[simp] theorem State.modPool_pool_self (s : State) (n : Nat) (f : Pool → Pool) : (s.modPool n f).pool n = f (s.pool n) := by simp [State.modPool_pool]
/-- What an update does depends on its value at that unit alone. -/
theorem State.modPool_congr {s : State} {n : Nat} {f g : Pool → Pool} (h : f (s.pool n) = g (s.pool n)) : s.modPool n f = s.modPool n g :=
  congrArg (fun v => ({ s with pools := tset {} s.pools n v } : State)) h
theorem State.modPool_pool_ne (s : State) {n k : Nat} (f : Pool → Pool) (h : k ≠ n) : (s.modPool n f).pool k = s.pool k := by simp [State.modPool_pool, h]
theorem State.modPort_port (s : State) (n k : Nat) (f : Port → Port) : (s.modPort n f).port k = if k = n then f (s.port n) else s.port k := tget_tmod _ _ _ _ _
@[simp] theorem State.modPort_port_self (s : State) (n : Nat) (f : Port → Port) : (s.modPort n f).port n = f (s.port n) := by simp [State.modPort_port]
/-- What an update does depends on its value at that unit alone. -/
theorem State.modPort_congr {s : State} {n : Nat} {f g : Port → Port} (h : f (s.port n) = g (s.port n)) : s.modPort n f = s.modPort n g :=
  congrArg (fun v => ({ s with ports := tset {} s.ports n v } : State)) h
theorem State.modPort_port_ne (s : State) {n k : Nat} (f : Port → Port) (h : k ≠ n) : (s.modPort n f).port k = s.port k := by simp [State.modPort_port, h]
theorem State.modDom_dom (s : State) (n k : Nat) (f : Domain → Domain) : (s.modDom n f).dom k = if k = n then f (s.dom n) else s.dom k := tget_tmod _ _ _ _ _
@[simp] theorem State.modDom_dom_self (s : State) (n : Nat) (f : Domain → Domain) : (s.modDom n f).dom n = f (s.dom n) := by simp [State.modDom_dom]
/-- What an update does depends on its value at that unit alone. -/
theorem State.modDom_congr {s : State} {n : Nat} {f g : Domain → Domain} (h : f (s.dom n) = g (s.dom n)) : s.modDom n f = s.modDom n g :=
  congrArg (fun v => ({ s with doms := tset {} s.doms n v } : State)) h
theorem State.modDom_dom_ne (s : State) {n k : Nat} (f : Domain → Domain) (h : k ≠ n) : (s.modDom n f).dom k = s.dom k := by simp [State.modDom_dom, h]
theorem State.modPage_tpage (s : State) (n k : Nat) (f : TPage → TPage) : (s.modPage n f).tpage k = if k = n then f (s.tpage n) else s.tpage k := tget_tmod _ _ _ _ _
@[simp] theorem State.modPage_tpage_self (s : State) (n : Nat) (f : TPage → TPage) : (s.modPage n f).tpage n = f (s.tpage n) := by simp [State.modPage_tpage]
theorem State.modPage_tpage_ne (s : State) {n k : Nat} (f : TPage → TPage) (h : k ≠ n) : (s.modPage n f).tpage k = s.tpage k := by simp [State.modPage_tpage, h]
theorem State.modKey_key (s : State) (n k : Nat) (f : KeyEnt → KeyEnt) : (s.modKey n f).key k = if k = n then f (s.key n) else s.key k := tget_tmod _ _ _ _ _
@[simp] theorem State.modKey_key_self (s : State) (n : Nat) (f : KeyEnt → KeyEnt) : (s.modKey n f).key n = f (s.key n) := by simp [State.modKey_key]
theorem State.modKey_key_ne (s : State) {n k : Nat} (f : KeyEnt → KeyEnt) (h : k ≠ n) : (s.modKey n f).key k = s.key k := by simp [State.modKey_key, h]
theorem State.modJob_job (s : State) (n k : Nat) (f : CrozJob → CrozJob) : (s.modJob n f).job k = if k = n then f (s.job n) else s.job k := tget_tmod _ _ _ _ _
@[simp] theorem State.modJob_job_self (s : State) (n : Nat) (f : CrozJob → CrozJob) : (s.modJob n f).job n = f (s.job n) := by simp [State.modJob_job]
theorem State.modJob_job_ne (s : State) {n k : Nat} (f : CrozJob → CrozJob) (h : k ≠ n) : (s.modJob n f).job k = s.job k := by simp [State.modJob_job, h]
theorem State.modMsix_msix (s : State) (n k : Nat) (f : Msix → Msix) : (s.modMsix n f).msix k = if k = n then f (s.msix n) else s.msix k := tget_tmod _ _ _ _ _
@[simp] theorem State.modMsix_msix_self (s : State) (n : Nat) (f : Msix → Msix) : (s.modMsix n f).msix n = f (s.msix n) := by simp [State.modMsix_msix]
theorem State.modMsix_msix_ne (s : State) {n k : Nat} (f : Msix → Msix) (h : k ≠ n) : (s.modMsix n f).msix k = s.msix k := by simp [State.modMsix_msix, h]

/-! ### A unit that the update does not touch -/

@[simp] theorem State.modSlice_home_of (s : State) (n : Nat) (f : Slice → Slice) (j : Nat) : (s.modSlice n f).home j = s.home j := rfl
@[simp] theorem State.modSlice_gate_of (s : State) (n : Nat) (f : Slice → Slice) (j : Nat) : (s.modSlice n f).gate j = s.gate j := rfl
@[simp] theorem State.modSlice_router_of (s : State) (n : Nat) (f : Slice → Slice) (j : Nat) : (s.modSlice n f).router j = s.router j := rfl
@[simp] theorem State.modSlice_pool_of (s : State) (n : Nat) (f : Slice → Slice) (j : Nat) : (s.modSlice n f).pool j = s.pool j := rfl
@[simp] theorem State.modSlice_port_of (s : State) (n : Nat) (f : Slice → Slice) (j : Nat) : (s.modSlice n f).port j = s.port j := rfl
@[simp] theorem State.modSlice_dom_of (s : State) (n : Nat) (f : Slice → Slice) (j : Nat) : (s.modSlice n f).dom j = s.dom j := rfl
@[simp] theorem State.modSlice_tpage_of (s : State) (n : Nat) (f : Slice → Slice) (j : Nat) : (s.modSlice n f).tpage j = s.tpage j := rfl
@[simp] theorem State.modSlice_slowB_of (s : State) (n : Nat) (f : Slice → Slice) (j : Nat) : (s.modSlice n f).slowB j = s.slowB j := rfl
@[simp] theorem State.modSlice_key_of (s : State) (n : Nat) (f : Slice → Slice) (j : Nat) : (s.modSlice n f).key j = s.key j := rfl
@[simp] theorem State.modSlice_job_of (s : State) (n : Nat) (f : Slice → Slice) (j : Nat) : (s.modSlice n f).job j = s.job j := rfl
@[simp] theorem State.modSlice_msix_of (s : State) (n : Nat) (f : Slice → Slice) (j : Nat) : (s.modSlice n f).msix j = s.msix j := rfl
@[simp] theorem State.modHome_slice_of (s : State) (n : Nat) (f : Home → Home) (j : Nat) : (s.modHome n f).slice j = s.slice j := rfl
@[simp] theorem State.modHome_gate_of (s : State) (n : Nat) (f : Home → Home) (j : Nat) : (s.modHome n f).gate j = s.gate j := rfl
@[simp] theorem State.modHome_router_of (s : State) (n : Nat) (f : Home → Home) (j : Nat) : (s.modHome n f).router j = s.router j := rfl
@[simp] theorem State.modHome_pool_of (s : State) (n : Nat) (f : Home → Home) (j : Nat) : (s.modHome n f).pool j = s.pool j := rfl
@[simp] theorem State.modHome_port_of (s : State) (n : Nat) (f : Home → Home) (j : Nat) : (s.modHome n f).port j = s.port j := rfl
@[simp] theorem State.modHome_dom_of (s : State) (n : Nat) (f : Home → Home) (j : Nat) : (s.modHome n f).dom j = s.dom j := rfl
@[simp] theorem State.modHome_tpage_of (s : State) (n : Nat) (f : Home → Home) (j : Nat) : (s.modHome n f).tpage j = s.tpage j := rfl
@[simp] theorem State.modHome_slowB_of (s : State) (n : Nat) (f : Home → Home) (j : Nat) : (s.modHome n f).slowB j = s.slowB j := rfl
@[simp] theorem State.modHome_key_of (s : State) (n : Nat) (f : Home → Home) (j : Nat) : (s.modHome n f).key j = s.key j := rfl
@[simp] theorem State.modHome_job_of (s : State) (n : Nat) (f : Home → Home) (j : Nat) : (s.modHome n f).job j = s.job j := rfl
@[simp] theorem State.modHome_msix_of (s : State) (n : Nat) (f : Home → Home) (j : Nat) : (s.modHome n f).msix j = s.msix j := rfl
@[simp] theorem State.modGate_slice_of (s : State) (n : Nat) (f : Gate → Gate) (j : Nat) : (s.modGate n f).slice j = s.slice j := rfl
@[simp] theorem State.modGate_home_of (s : State) (n : Nat) (f : Gate → Gate) (j : Nat) : (s.modGate n f).home j = s.home j := rfl
@[simp] theorem State.modGate_router_of (s : State) (n : Nat) (f : Gate → Gate) (j : Nat) : (s.modGate n f).router j = s.router j := rfl
@[simp] theorem State.modGate_pool_of (s : State) (n : Nat) (f : Gate → Gate) (j : Nat) : (s.modGate n f).pool j = s.pool j := rfl
@[simp] theorem State.modGate_port_of (s : State) (n : Nat) (f : Gate → Gate) (j : Nat) : (s.modGate n f).port j = s.port j := rfl
@[simp] theorem State.modGate_dom_of (s : State) (n : Nat) (f : Gate → Gate) (j : Nat) : (s.modGate n f).dom j = s.dom j := rfl
@[simp] theorem State.modGate_tpage_of (s : State) (n : Nat) (f : Gate → Gate) (j : Nat) : (s.modGate n f).tpage j = s.tpage j := rfl
@[simp] theorem State.modGate_slowB_of (s : State) (n : Nat) (f : Gate → Gate) (j : Nat) : (s.modGate n f).slowB j = s.slowB j := rfl
@[simp] theorem State.modGate_key_of (s : State) (n : Nat) (f : Gate → Gate) (j : Nat) : (s.modGate n f).key j = s.key j := rfl
@[simp] theorem State.modGate_job_of (s : State) (n : Nat) (f : Gate → Gate) (j : Nat) : (s.modGate n f).job j = s.job j := rfl
@[simp] theorem State.modGate_msix_of (s : State) (n : Nat) (f : Gate → Gate) (j : Nat) : (s.modGate n f).msix j = s.msix j := rfl
@[simp] theorem State.modRouter_slice_of (s : State) (n : Nat) (f : Router → Router) (j : Nat) : (s.modRouter n f).slice j = s.slice j := rfl
@[simp] theorem State.modRouter_home_of (s : State) (n : Nat) (f : Router → Router) (j : Nat) : (s.modRouter n f).home j = s.home j := rfl
@[simp] theorem State.modRouter_gate_of (s : State) (n : Nat) (f : Router → Router) (j : Nat) : (s.modRouter n f).gate j = s.gate j := rfl
@[simp] theorem State.modRouter_pool_of (s : State) (n : Nat) (f : Router → Router) (j : Nat) : (s.modRouter n f).pool j = s.pool j := rfl
@[simp] theorem State.modRouter_port_of (s : State) (n : Nat) (f : Router → Router) (j : Nat) : (s.modRouter n f).port j = s.port j := rfl
@[simp] theorem State.modRouter_dom_of (s : State) (n : Nat) (f : Router → Router) (j : Nat) : (s.modRouter n f).dom j = s.dom j := rfl
@[simp] theorem State.modRouter_tpage_of (s : State) (n : Nat) (f : Router → Router) (j : Nat) : (s.modRouter n f).tpage j = s.tpage j := rfl
@[simp] theorem State.modRouter_slowB_of (s : State) (n : Nat) (f : Router → Router) (j : Nat) : (s.modRouter n f).slowB j = s.slowB j := rfl
@[simp] theorem State.modRouter_key_of (s : State) (n : Nat) (f : Router → Router) (j : Nat) : (s.modRouter n f).key j = s.key j := rfl
@[simp] theorem State.modRouter_job_of (s : State) (n : Nat) (f : Router → Router) (j : Nat) : (s.modRouter n f).job j = s.job j := rfl
@[simp] theorem State.modRouter_msix_of (s : State) (n : Nat) (f : Router → Router) (j : Nat) : (s.modRouter n f).msix j = s.msix j := rfl
@[simp] theorem State.modPool_slice_of (s : State) (n : Nat) (f : Pool → Pool) (j : Nat) : (s.modPool n f).slice j = s.slice j := rfl
@[simp] theorem State.modPool_home_of (s : State) (n : Nat) (f : Pool → Pool) (j : Nat) : (s.modPool n f).home j = s.home j := rfl
@[simp] theorem State.modPool_gate_of (s : State) (n : Nat) (f : Pool → Pool) (j : Nat) : (s.modPool n f).gate j = s.gate j := rfl
@[simp] theorem State.modPool_router_of (s : State) (n : Nat) (f : Pool → Pool) (j : Nat) : (s.modPool n f).router j = s.router j := rfl
@[simp] theorem State.modPool_port_of (s : State) (n : Nat) (f : Pool → Pool) (j : Nat) : (s.modPool n f).port j = s.port j := rfl
@[simp] theorem State.modPool_dom_of (s : State) (n : Nat) (f : Pool → Pool) (j : Nat) : (s.modPool n f).dom j = s.dom j := rfl
@[simp] theorem State.modPool_tpage_of (s : State) (n : Nat) (f : Pool → Pool) (j : Nat) : (s.modPool n f).tpage j = s.tpage j := rfl
@[simp] theorem State.modPool_slowB_of (s : State) (n : Nat) (f : Pool → Pool) (j : Nat) : (s.modPool n f).slowB j = s.slowB j := rfl
@[simp] theorem State.modPool_key_of (s : State) (n : Nat) (f : Pool → Pool) (j : Nat) : (s.modPool n f).key j = s.key j := rfl
@[simp] theorem State.modPool_job_of (s : State) (n : Nat) (f : Pool → Pool) (j : Nat) : (s.modPool n f).job j = s.job j := rfl
@[simp] theorem State.modPool_msix_of (s : State) (n : Nat) (f : Pool → Pool) (j : Nat) : (s.modPool n f).msix j = s.msix j := rfl
@[simp] theorem State.modPort_slice_of (s : State) (n : Nat) (f : Port → Port) (j : Nat) : (s.modPort n f).slice j = s.slice j := rfl
@[simp] theorem State.modPort_home_of (s : State) (n : Nat) (f : Port → Port) (j : Nat) : (s.modPort n f).home j = s.home j := rfl
@[simp] theorem State.modPort_gate_of (s : State) (n : Nat) (f : Port → Port) (j : Nat) : (s.modPort n f).gate j = s.gate j := rfl
@[simp] theorem State.modPort_router_of (s : State) (n : Nat) (f : Port → Port) (j : Nat) : (s.modPort n f).router j = s.router j := rfl
@[simp] theorem State.modPort_pool_of (s : State) (n : Nat) (f : Port → Port) (j : Nat) : (s.modPort n f).pool j = s.pool j := rfl
@[simp] theorem State.modPort_dom_of (s : State) (n : Nat) (f : Port → Port) (j : Nat) : (s.modPort n f).dom j = s.dom j := rfl
@[simp] theorem State.modPort_tpage_of (s : State) (n : Nat) (f : Port → Port) (j : Nat) : (s.modPort n f).tpage j = s.tpage j := rfl
@[simp] theorem State.modPort_slowB_of (s : State) (n : Nat) (f : Port → Port) (j : Nat) : (s.modPort n f).slowB j = s.slowB j := rfl
@[simp] theorem State.modPort_key_of (s : State) (n : Nat) (f : Port → Port) (j : Nat) : (s.modPort n f).key j = s.key j := rfl
@[simp] theorem State.modPort_job_of (s : State) (n : Nat) (f : Port → Port) (j : Nat) : (s.modPort n f).job j = s.job j := rfl
@[simp] theorem State.modPort_msix_of (s : State) (n : Nat) (f : Port → Port) (j : Nat) : (s.modPort n f).msix j = s.msix j := rfl
@[simp] theorem State.modDom_slice_of (s : State) (n : Nat) (f : Domain → Domain) (j : Nat) : (s.modDom n f).slice j = s.slice j := rfl
@[simp] theorem State.modDom_home_of (s : State) (n : Nat) (f : Domain → Domain) (j : Nat) : (s.modDom n f).home j = s.home j := rfl
@[simp] theorem State.modDom_gate_of (s : State) (n : Nat) (f : Domain → Domain) (j : Nat) : (s.modDom n f).gate j = s.gate j := rfl
@[simp] theorem State.modDom_router_of (s : State) (n : Nat) (f : Domain → Domain) (j : Nat) : (s.modDom n f).router j = s.router j := rfl
@[simp] theorem State.modDom_pool_of (s : State) (n : Nat) (f : Domain → Domain) (j : Nat) : (s.modDom n f).pool j = s.pool j := rfl
@[simp] theorem State.modDom_port_of (s : State) (n : Nat) (f : Domain → Domain) (j : Nat) : (s.modDom n f).port j = s.port j := rfl
@[simp] theorem State.modDom_tpage_of (s : State) (n : Nat) (f : Domain → Domain) (j : Nat) : (s.modDom n f).tpage j = s.tpage j := rfl
@[simp] theorem State.modDom_slowB_of (s : State) (n : Nat) (f : Domain → Domain) (j : Nat) : (s.modDom n f).slowB j = s.slowB j := rfl
@[simp] theorem State.modDom_key_of (s : State) (n : Nat) (f : Domain → Domain) (j : Nat) : (s.modDom n f).key j = s.key j := rfl
@[simp] theorem State.modDom_job_of (s : State) (n : Nat) (f : Domain → Domain) (j : Nat) : (s.modDom n f).job j = s.job j := rfl
@[simp] theorem State.modDom_msix_of (s : State) (n : Nat) (f : Domain → Domain) (j : Nat) : (s.modDom n f).msix j = s.msix j := rfl
@[simp] theorem State.modPage_slice_of (s : State) (n : Nat) (f : TPage → TPage) (j : Nat) : (s.modPage n f).slice j = s.slice j := rfl
@[simp] theorem State.modPage_home_of (s : State) (n : Nat) (f : TPage → TPage) (j : Nat) : (s.modPage n f).home j = s.home j := rfl
@[simp] theorem State.modPage_gate_of (s : State) (n : Nat) (f : TPage → TPage) (j : Nat) : (s.modPage n f).gate j = s.gate j := rfl
@[simp] theorem State.modPage_router_of (s : State) (n : Nat) (f : TPage → TPage) (j : Nat) : (s.modPage n f).router j = s.router j := rfl
@[simp] theorem State.modPage_pool_of (s : State) (n : Nat) (f : TPage → TPage) (j : Nat) : (s.modPage n f).pool j = s.pool j := rfl
@[simp] theorem State.modPage_port_of (s : State) (n : Nat) (f : TPage → TPage) (j : Nat) : (s.modPage n f).port j = s.port j := rfl
@[simp] theorem State.modPage_dom_of (s : State) (n : Nat) (f : TPage → TPage) (j : Nat) : (s.modPage n f).dom j = s.dom j := rfl
@[simp] theorem State.modPage_slowB_of (s : State) (n : Nat) (f : TPage → TPage) (j : Nat) : (s.modPage n f).slowB j = s.slowB j := rfl
@[simp] theorem State.modPage_key_of (s : State) (n : Nat) (f : TPage → TPage) (j : Nat) : (s.modPage n f).key j = s.key j := rfl
@[simp] theorem State.modPage_job_of (s : State) (n : Nat) (f : TPage → TPage) (j : Nat) : (s.modPage n f).job j = s.job j := rfl
@[simp] theorem State.modPage_msix_of (s : State) (n : Nat) (f : TPage → TPage) (j : Nat) : (s.modPage n f).msix j = s.msix j := rfl
@[simp] theorem State.modKey_slice_of (s : State) (n : Nat) (f : KeyEnt → KeyEnt) (j : Nat) : (s.modKey n f).slice j = s.slice j := rfl
@[simp] theorem State.modKey_home_of (s : State) (n : Nat) (f : KeyEnt → KeyEnt) (j : Nat) : (s.modKey n f).home j = s.home j := rfl
@[simp] theorem State.modKey_gate_of (s : State) (n : Nat) (f : KeyEnt → KeyEnt) (j : Nat) : (s.modKey n f).gate j = s.gate j := rfl
@[simp] theorem State.modKey_router_of (s : State) (n : Nat) (f : KeyEnt → KeyEnt) (j : Nat) : (s.modKey n f).router j = s.router j := rfl
@[simp] theorem State.modKey_pool_of (s : State) (n : Nat) (f : KeyEnt → KeyEnt) (j : Nat) : (s.modKey n f).pool j = s.pool j := rfl
@[simp] theorem State.modKey_port_of (s : State) (n : Nat) (f : KeyEnt → KeyEnt) (j : Nat) : (s.modKey n f).port j = s.port j := rfl
@[simp] theorem State.modKey_dom_of (s : State) (n : Nat) (f : KeyEnt → KeyEnt) (j : Nat) : (s.modKey n f).dom j = s.dom j := rfl
@[simp] theorem State.modKey_tpage_of (s : State) (n : Nat) (f : KeyEnt → KeyEnt) (j : Nat) : (s.modKey n f).tpage j = s.tpage j := rfl
@[simp] theorem State.modKey_slowB_of (s : State) (n : Nat) (f : KeyEnt → KeyEnt) (j : Nat) : (s.modKey n f).slowB j = s.slowB j := rfl
@[simp] theorem State.modKey_msix_of (s : State) (n : Nat) (f : KeyEnt → KeyEnt) (j : Nat) : (s.modKey n f).msix j = s.msix j := rfl
@[simp] theorem State.modJob_slice_of (s : State) (n : Nat) (f : CrozJob → CrozJob) (j : Nat) : (s.modJob n f).slice j = s.slice j := rfl
@[simp] theorem State.modJob_home_of (s : State) (n : Nat) (f : CrozJob → CrozJob) (j : Nat) : (s.modJob n f).home j = s.home j := rfl
@[simp] theorem State.modJob_gate_of (s : State) (n : Nat) (f : CrozJob → CrozJob) (j : Nat) : (s.modJob n f).gate j = s.gate j := rfl
@[simp] theorem State.modJob_router_of (s : State) (n : Nat) (f : CrozJob → CrozJob) (j : Nat) : (s.modJob n f).router j = s.router j := rfl
@[simp] theorem State.modJob_pool_of (s : State) (n : Nat) (f : CrozJob → CrozJob) (j : Nat) : (s.modJob n f).pool j = s.pool j := rfl
@[simp] theorem State.modJob_port_of (s : State) (n : Nat) (f : CrozJob → CrozJob) (j : Nat) : (s.modJob n f).port j = s.port j := rfl
@[simp] theorem State.modJob_dom_of (s : State) (n : Nat) (f : CrozJob → CrozJob) (j : Nat) : (s.modJob n f).dom j = s.dom j := rfl
@[simp] theorem State.modJob_tpage_of (s : State) (n : Nat) (f : CrozJob → CrozJob) (j : Nat) : (s.modJob n f).tpage j = s.tpage j := rfl
@[simp] theorem State.modJob_slowB_of (s : State) (n : Nat) (f : CrozJob → CrozJob) (j : Nat) : (s.modJob n f).slowB j = s.slowB j := rfl
@[simp] theorem State.modJob_msix_of (s : State) (n : Nat) (f : CrozJob → CrozJob) (j : Nat) : (s.modJob n f).msix j = s.msix j := rfl
@[simp] theorem State.modMsix_slice_of (s : State) (n : Nat) (f : Msix → Msix) (j : Nat) : (s.modMsix n f).slice j = s.slice j := rfl
@[simp] theorem State.modMsix_home_of (s : State) (n : Nat) (f : Msix → Msix) (j : Nat) : (s.modMsix n f).home j = s.home j := rfl
@[simp] theorem State.modMsix_gate_of (s : State) (n : Nat) (f : Msix → Msix) (j : Nat) : (s.modMsix n f).gate j = s.gate j := rfl
@[simp] theorem State.modMsix_router_of (s : State) (n : Nat) (f : Msix → Msix) (j : Nat) : (s.modMsix n f).router j = s.router j := rfl
@[simp] theorem State.modMsix_pool_of (s : State) (n : Nat) (f : Msix → Msix) (j : Nat) : (s.modMsix n f).pool j = s.pool j := rfl
@[simp] theorem State.modMsix_port_of (s : State) (n : Nat) (f : Msix → Msix) (j : Nat) : (s.modMsix n f).port j = s.port j := rfl
@[simp] theorem State.modMsix_dom_of (s : State) (n : Nat) (f : Msix → Msix) (j : Nat) : (s.modMsix n f).dom j = s.dom j := rfl
@[simp] theorem State.modMsix_tpage_of (s : State) (n : Nat) (f : Msix → Msix) (j : Nat) : (s.modMsix n f).tpage j = s.tpage j := rfl
@[simp] theorem State.modMsix_slowB_of (s : State) (n : Nat) (f : Msix → Msix) (j : Nat) : (s.modMsix n f).slowB j = s.slowB j := rfl
@[simp] theorem State.modMsix_key_of (s : State) (n : Nat) (f : Msix → Msix) (j : Nat) : (s.modMsix n f).key j = s.key j := rfl
@[simp] theorem State.modMsix_job_of (s : State) (n : Nat) (f : Msix → Msix) (j : Nat) : (s.modMsix n f).job j = s.job j := rfl
@[simp] theorem State.emit_slice_of (s : State) (o : Out) (j : Nat) : (s.emit o).slice j = s.slice j := rfl
@[simp] theorem State.emit_home_of (s : State) (o : Out) (j : Nat) : (s.emit o).home j = s.home j := rfl
@[simp] theorem State.emit_gate_of (s : State) (o : Out) (j : Nat) : (s.emit o).gate j = s.gate j := rfl
@[simp] theorem State.emit_router_of (s : State) (o : Out) (j : Nat) : (s.emit o).router j = s.router j := rfl
@[simp] theorem State.emit_pool_of (s : State) (o : Out) (j : Nat) : (s.emit o).pool j = s.pool j := rfl
@[simp] theorem State.emit_port_of (s : State) (o : Out) (j : Nat) : (s.emit o).port j = s.port j := rfl
@[simp] theorem State.emit_dom_of (s : State) (o : Out) (j : Nat) : (s.emit o).dom j = s.dom j := rfl
@[simp] theorem State.emit_tpage_of (s : State) (o : Out) (j : Nat) : (s.emit o).tpage j = s.tpage j := rfl
@[simp] theorem State.emit_slowB_of (s : State) (o : Out) (j : Nat) : (s.emit o).slowB j = s.slowB j := rfl
@[simp] theorem State.emit_key_of (s : State) (o : Out) (j : Nat) : (s.emit o).key j = s.key j := rfl
@[simp] theorem State.emit_job_of (s : State) (o : Out) (j : Nat) : (s.emit o).job j = s.job j := rfl
@[simp] theorem State.emit_msix_of (s : State) (o : Out) (j : Nat) : (s.emit o).msix j = s.msix j := rfl
@[simp] theorem State.drawn_slice_of (s : State) (j : Nat) : (s.drawn).slice j = s.slice j := rfl
@[simp] theorem State.drawn_home_of (s : State) (j : Nat) : (s.drawn).home j = s.home j := rfl
@[simp] theorem State.drawn_gate_of (s : State) (j : Nat) : (s.drawn).gate j = s.gate j := rfl
@[simp] theorem State.drawn_router_of (s : State) (j : Nat) : (s.drawn).router j = s.router j := rfl
@[simp] theorem State.drawn_pool_of (s : State) (j : Nat) : (s.drawn).pool j = s.pool j := rfl
@[simp] theorem State.drawn_port_of (s : State) (j : Nat) : (s.drawn).port j = s.port j := rfl
@[simp] theorem State.drawn_dom_of (s : State) (j : Nat) : (s.drawn).dom j = s.dom j := rfl
@[simp] theorem State.drawn_tpage_of (s : State) (j : Nat) : (s.drawn).tpage j = s.tpage j := rfl
@[simp] theorem State.drawn_slowB_of (s : State) (j : Nat) : (s.drawn).slowB j = s.slowB j := rfl
@[simp] theorem State.drawn_key_of (s : State) (j : Nat) : (s.drawn).key j = s.key j := rfl
@[simp] theorem State.drawn_job_of (s : State) (j : Nat) : (s.drawn).job j = s.job j := rfl
@[simp] theorem State.drawn_msix_of (s : State) (j : Nat) : (s.drawn).msix j = s.msix j := rfl
@[simp] theorem State.bumpN_slice_of (s : State) (k i : Nat) (j : Nat) : (s.bumpN k i).slice j = s.slice j := rfl
@[simp] theorem State.bumpN_home_of (s : State) (k i : Nat) (j : Nat) : (s.bumpN k i).home j = s.home j := rfl
@[simp] theorem State.bumpN_gate_of (s : State) (k i : Nat) (j : Nat) : (s.bumpN k i).gate j = s.gate j := rfl
@[simp] theorem State.bumpN_router_of (s : State) (k i : Nat) (j : Nat) : (s.bumpN k i).router j = s.router j := rfl
@[simp] theorem State.bumpN_pool_of (s : State) (k i : Nat) (j : Nat) : (s.bumpN k i).pool j = s.pool j := rfl
@[simp] theorem State.bumpN_port_of (s : State) (k i : Nat) (j : Nat) : (s.bumpN k i).port j = s.port j := rfl
@[simp] theorem State.bumpN_dom_of (s : State) (k i : Nat) (j : Nat) : (s.bumpN k i).dom j = s.dom j := rfl
@[simp] theorem State.bumpN_tpage_of (s : State) (k i : Nat) (j : Nat) : (s.bumpN k i).tpage j = s.tpage j := rfl
@[simp] theorem State.bumpN_slowB_of (s : State) (k i : Nat) (j : Nat) : (s.bumpN k i).slowB j = s.slowB j := rfl
@[simp] theorem State.bumpN_key_of (s : State) (k i : Nat) (j : Nat) : (s.bumpN k i).key j = s.key j := rfl
@[simp] theorem State.bumpN_job_of (s : State) (k i : Nat) (j : Nat) : (s.bumpN k i).job j = s.job j := rfl
@[simp] theorem State.bumpN_msix_of (s : State) (k i : Nat) (j : Nat) : (s.bumpN k i).msix j = s.msix j := rfl
@[simp] theorem State.bump_slice_of (s : State) (k : Nat) (j : Nat) : (s.bump k).slice j = s.slice j := rfl
@[simp] theorem State.bump_home_of (s : State) (k : Nat) (j : Nat) : (s.bump k).home j = s.home j := rfl
@[simp] theorem State.bump_gate_of (s : State) (k : Nat) (j : Nat) : (s.bump k).gate j = s.gate j := rfl
@[simp] theorem State.bump_router_of (s : State) (k : Nat) (j : Nat) : (s.bump k).router j = s.router j := rfl
@[simp] theorem State.bump_pool_of (s : State) (k : Nat) (j : Nat) : (s.bump k).pool j = s.pool j := rfl
@[simp] theorem State.bump_port_of (s : State) (k : Nat) (j : Nat) : (s.bump k).port j = s.port j := rfl
@[simp] theorem State.bump_dom_of (s : State) (k : Nat) (j : Nat) : (s.bump k).dom j = s.dom j := rfl
@[simp] theorem State.bump_tpage_of (s : State) (k : Nat) (j : Nat) : (s.bump k).tpage j = s.tpage j := rfl
@[simp] theorem State.bump_slowB_of (s : State) (k : Nat) (j : Nat) : (s.bump k).slowB j = s.slowB j := rfl
@[simp] theorem State.bump_key_of (s : State) (k : Nat) (j : Nat) : (s.bump k).key j = s.key j := rfl
@[simp] theorem State.bump_job_of (s : State) (k : Nat) (j : Nat) : (s.bump k).job j = s.job j := rfl
@[simp] theorem State.bump_msix_of (s : State) (k : Nat) (j : Nat) : (s.bump k).msix j = s.msix j := rfl
@[simp] theorem State.faultPin_slice_of (s : State) (j : Nat) : (s.faultPin).slice j = s.slice j := rfl
@[simp] theorem State.faultPin_home_of (s : State) (j : Nat) : (s.faultPin).home j = s.home j := rfl
@[simp] theorem State.faultPin_gate_of (s : State) (j : Nat) : (s.faultPin).gate j = s.gate j := rfl
@[simp] theorem State.faultPin_router_of (s : State) (j : Nat) : (s.faultPin).router j = s.router j := rfl
@[simp] theorem State.faultPin_pool_of (s : State) (j : Nat) : (s.faultPin).pool j = s.pool j := rfl
@[simp] theorem State.faultPin_port_of (s : State) (j : Nat) : (s.faultPin).port j = s.port j := rfl
@[simp] theorem State.faultPin_dom_of (s : State) (j : Nat) : (s.faultPin).dom j = s.dom j := rfl
@[simp] theorem State.faultPin_tpage_of (s : State) (j : Nat) : (s.faultPin).tpage j = s.tpage j := rfl
@[simp] theorem State.faultPin_slowB_of (s : State) (j : Nat) : (s.faultPin).slowB j = s.slowB j := rfl
@[simp] theorem State.faultPin_key_of (s : State) (j : Nat) : (s.faultPin).key j = s.key j := rfl
@[simp] theorem State.faultPin_job_of (s : State) (j : Nat) : (s.faultPin).job j = s.job j := rfl
@[simp] theorem State.faultPin_msix_of (s : State) (j : Nat) : (s.faultPin).msix j = s.msix j := rfl
@[simp] theorem State.qPush_slice_of (s : State) (n q : Nat) (u : FUnit) (j : Nat) : (s.qPush n q u).slice j = s.slice j := by
  obtain ⟨f, h⟩ | h := State.qPush_cases s n q u <;> rw [h] <;> rfl
@[simp] theorem State.qPush_home_of (s : State) (n q : Nat) (u : FUnit) (j : Nat) : (s.qPush n q u).home j = s.home j := by
  obtain ⟨f, h⟩ | h := State.qPush_cases s n q u <;> rw [h] <;> rfl
@[simp] theorem State.qPush_gate_of (s : State) (n q : Nat) (u : FUnit) (j : Nat) : (s.qPush n q u).gate j = s.gate j := by
  obtain ⟨f, h⟩ | h := State.qPush_cases s n q u <;> rw [h] <;> rfl
@[simp] theorem State.qPush_router_of (s : State) (n q : Nat) (u : FUnit) (j : Nat) : (s.qPush n q u).router j = s.router j := by
  obtain ⟨f, h⟩ | h := State.qPush_cases s n q u <;> rw [h] <;> rfl
@[simp] theorem State.qPush_port_of (s : State) (n q : Nat) (u : FUnit) (j : Nat) : (s.qPush n q u).port j = s.port j := by
  obtain ⟨f, h⟩ | h := State.qPush_cases s n q u <;> rw [h] <;> rfl
@[simp] theorem State.qPush_dom_of (s : State) (n q : Nat) (u : FUnit) (j : Nat) : (s.qPush n q u).dom j = s.dom j := by
  obtain ⟨f, h⟩ | h := State.qPush_cases s n q u <;> rw [h] <;> rfl
@[simp] theorem State.qPush_tpage_of (s : State) (n q : Nat) (u : FUnit) (j : Nat) : (s.qPush n q u).tpage j = s.tpage j := by
  obtain ⟨f, h⟩ | h := State.qPush_cases s n q u <;> rw [h] <;> rfl
@[simp] theorem State.qPush_slowB_of (s : State) (n q : Nat) (u : FUnit) (j : Nat) : (s.qPush n q u).slowB j = s.slowB j := by
  obtain ⟨f, h⟩ | h := State.qPush_cases s n q u <;> rw [h] <;> rfl
@[simp] theorem State.qPush_key_of (s : State) (n q : Nat) (u : FUnit) (j : Nat) : (s.qPush n q u).key j = s.key j := by
  obtain ⟨f, h⟩ | h := State.qPush_cases s n q u <;> rw [h] <;> rfl
@[simp] theorem State.qPush_job_of (s : State) (n q : Nat) (u : FUnit) (j : Nat) : (s.qPush n q u).job j = s.job j := by
  obtain ⟨f, h⟩ | h := State.qPush_cases s n q u <;> rw [h] <;> rfl
@[simp] theorem State.qPush_msix_of (s : State) (n q : Nat) (u : FUnit) (j : Nat) : (s.qPush n q u).msix j = s.msix j := by
  obtain ⟨f, h⟩ | h := State.qPush_cases s n q u <;> rw [h] <;> rfl
@[simp] theorem State.qTake_slice_of (s : State) (n q : Nat) (m : Msg) (j : Nat) : (s.qTake n q m).slice j = s.slice j := rfl
@[simp] theorem State.qTake_home_of (s : State) (n q : Nat) (m : Msg) (j : Nat) : (s.qTake n q m).home j = s.home j := rfl
@[simp] theorem State.qTake_gate_of (s : State) (n q : Nat) (m : Msg) (j : Nat) : (s.qTake n q m).gate j = s.gate j := rfl
@[simp] theorem State.qTake_router_of (s : State) (n q : Nat) (m : Msg) (j : Nat) : (s.qTake n q m).router j = s.router j := rfl
@[simp] theorem State.qTake_port_of (s : State) (n q : Nat) (m : Msg) (j : Nat) : (s.qTake n q m).port j = s.port j := rfl
@[simp] theorem State.qTake_dom_of (s : State) (n q : Nat) (m : Msg) (j : Nat) : (s.qTake n q m).dom j = s.dom j := rfl
@[simp] theorem State.qTake_tpage_of (s : State) (n q : Nat) (m : Msg) (j : Nat) : (s.qTake n q m).tpage j = s.tpage j := rfl
@[simp] theorem State.qTake_slowB_of (s : State) (n q : Nat) (m : Msg) (j : Nat) : (s.qTake n q m).slowB j = s.slowB j := rfl
@[simp] theorem State.qTake_key_of (s : State) (n q : Nat) (m : Msg) (j : Nat) : (s.qTake n q m).key j = s.key j := rfl
@[simp] theorem State.qTake_job_of (s : State) (n q : Nat) (m : Msg) (j : Nat) : (s.qTake n q m).job j = s.job j := rfl
@[simp] theorem State.qTake_msix_of (s : State) (n q : Nat) (m : Msg) (j : Nat) : (s.qTake n q m).msix j = s.msix j := rfl
@[simp] theorem State.inject_slice_of (s : State) (n v : Nat) (k : Sink) (m : Msg) (j : Nat) : (s.inject n v k m).slice j = s.slice j := State.qPush_slice_of _ _ _ _ _
@[simp] theorem State.inject_home_of (s : State) (n v : Nat) (k : Sink) (m : Msg) (j : Nat) : (s.inject n v k m).home j = s.home j := State.qPush_home_of _ _ _ _ _
@[simp] theorem State.inject_gate_of (s : State) (n v : Nat) (k : Sink) (m : Msg) (j : Nat) : (s.inject n v k m).gate j = s.gate j := State.qPush_gate_of _ _ _ _ _
@[simp] theorem State.inject_router_of (s : State) (n v : Nat) (k : Sink) (m : Msg) (j : Nat) : (s.inject n v k m).router j = s.router j := State.qPush_router_of _ _ _ _ _
@[simp] theorem State.inject_port_of (s : State) (n v : Nat) (k : Sink) (m : Msg) (j : Nat) : (s.inject n v k m).port j = s.port j := State.qPush_port_of _ _ _ _ _
@[simp] theorem State.inject_dom_of (s : State) (n v : Nat) (k : Sink) (m : Msg) (j : Nat) : (s.inject n v k m).dom j = s.dom j := State.qPush_dom_of _ _ _ _ _
@[simp] theorem State.inject_tpage_of (s : State) (n v : Nat) (k : Sink) (m : Msg) (j : Nat) : (s.inject n v k m).tpage j = s.tpage j := State.qPush_tpage_of _ _ _ _ _
@[simp] theorem State.inject_slowB_of (s : State) (n v : Nat) (k : Sink) (m : Msg) (j : Nat) : (s.inject n v k m).slowB j = s.slowB j := State.qPush_slowB_of _ _ _ _ _
@[simp] theorem State.inject_key_of (s : State) (n v : Nat) (k : Sink) (m : Msg) (j : Nat) : (s.inject n v k m).key j = s.key j := State.qPush_key_of _ _ _ _ _
@[simp] theorem State.inject_job_of (s : State) (n v : Nat) (k : Sink) (m : Msg) (j : Nat) : (s.inject n v k m).job j = s.job j := State.qPush_job_of _ _ _ _ _
@[simp] theorem State.inject_msix_of (s : State) (n v : Nat) (k : Sink) (m : Msg) (j : Nat) : (s.inject n v k m).msix j = s.msix j := State.qPush_msix_of _ _ _ _ _
@[simp] theorem State.injectGate_slice_of (s : State) (n a : Nat) (c : Cls) (v : Nat) (k : Sink) (m : Msg) (t : Nat) (j : Nat) : (s.injectGate n a c v k m t).slice j = s.slice j := State.qPush_slice_of _ _ _ _ _
@[simp] theorem State.injectGate_home_of (s : State) (n a : Nat) (c : Cls) (v : Nat) (k : Sink) (m : Msg) (t : Nat) (j : Nat) : (s.injectGate n a c v k m t).home j = s.home j := State.qPush_home_of _ _ _ _ _
@[simp] theorem State.injectGate_gate_of (s : State) (n a : Nat) (c : Cls) (v : Nat) (k : Sink) (m : Msg) (t : Nat) (j : Nat) : (s.injectGate n a c v k m t).gate j = s.gate j := State.qPush_gate_of _ _ _ _ _
@[simp] theorem State.injectGate_router_of (s : State) (n a : Nat) (c : Cls) (v : Nat) (k : Sink) (m : Msg) (t : Nat) (j : Nat) : (s.injectGate n a c v k m t).router j = s.router j := State.qPush_router_of _ _ _ _ _
@[simp] theorem State.injectGate_port_of (s : State) (n a : Nat) (c : Cls) (v : Nat) (k : Sink) (m : Msg) (t : Nat) (j : Nat) : (s.injectGate n a c v k m t).port j = s.port j := State.qPush_port_of _ _ _ _ _
@[simp] theorem State.injectGate_dom_of (s : State) (n a : Nat) (c : Cls) (v : Nat) (k : Sink) (m : Msg) (t : Nat) (j : Nat) : (s.injectGate n a c v k m t).dom j = s.dom j := State.qPush_dom_of _ _ _ _ _
@[simp] theorem State.injectGate_tpage_of (s : State) (n a : Nat) (c : Cls) (v : Nat) (k : Sink) (m : Msg) (t : Nat) (j : Nat) : (s.injectGate n a c v k m t).tpage j = s.tpage j := State.qPush_tpage_of _ _ _ _ _
@[simp] theorem State.injectGate_slowB_of (s : State) (n a : Nat) (c : Cls) (v : Nat) (k : Sink) (m : Msg) (t : Nat) (j : Nat) : (s.injectGate n a c v k m t).slowB j = s.slowB j := State.qPush_slowB_of _ _ _ _ _
@[simp] theorem State.injectGate_key_of (s : State) (n a : Nat) (c : Cls) (v : Nat) (k : Sink) (m : Msg) (t : Nat) (j : Nat) : (s.injectGate n a c v k m t).key j = s.key j := State.qPush_key_of _ _ _ _ _
@[simp] theorem State.injectGate_job_of (s : State) (n a : Nat) (c : Cls) (v : Nat) (k : Sink) (m : Msg) (t : Nat) (j : Nat) : (s.injectGate n a c v k m t).job j = s.job j := State.qPush_job_of _ _ _ _ _
@[simp] theorem State.injectGate_msix_of (s : State) (n a : Nat) (c : Cls) (v : Nat) (k : Sink) (m : Msg) (t : Nat) (j : Nat) : (s.injectGate n a c v k m t).msix j = s.msix j := State.qPush_msix_of _ _ _ _ _
@[simp] theorem State.egress_slice_of (s : State) (p : Nat) (m : Msg) (j : Nat) : (s.egress p m).slice j = s.slice j := State.qPush_slice_of _ _ _ _ _
@[simp] theorem State.egress_home_of (s : State) (p : Nat) (m : Msg) (j : Nat) : (s.egress p m).home j = s.home j := State.qPush_home_of _ _ _ _ _
@[simp] theorem State.egress_gate_of (s : State) (p : Nat) (m : Msg) (j : Nat) : (s.egress p m).gate j = s.gate j := State.qPush_gate_of _ _ _ _ _
@[simp] theorem State.egress_router_of (s : State) (p : Nat) (m : Msg) (j : Nat) : (s.egress p m).router j = s.router j := State.qPush_router_of _ _ _ _ _
@[simp] theorem State.egress_port_of (s : State) (p : Nat) (m : Msg) (j : Nat) : (s.egress p m).port j = s.port j := State.qPush_port_of _ _ _ _ _
@[simp] theorem State.egress_dom_of (s : State) (p : Nat) (m : Msg) (j : Nat) : (s.egress p m).dom j = s.dom j := State.qPush_dom_of _ _ _ _ _
@[simp] theorem State.egress_tpage_of (s : State) (p : Nat) (m : Msg) (j : Nat) : (s.egress p m).tpage j = s.tpage j := State.qPush_tpage_of _ _ _ _ _
@[simp] theorem State.egress_slowB_of (s : State) (p : Nat) (m : Msg) (j : Nat) : (s.egress p m).slowB j = s.slowB j := State.qPush_slowB_of _ _ _ _ _
@[simp] theorem State.egress_key_of (s : State) (p : Nat) (m : Msg) (j : Nat) : (s.egress p m).key j = s.key j := State.qPush_key_of _ _ _ _ _
@[simp] theorem State.egress_job_of (s : State) (p : Nat) (m : Msg) (j : Nat) : (s.egress p m).job j = s.job j := State.qPush_job_of _ _ _ _ _
@[simp] theorem State.egress_msix_of (s : State) (p : Nat) (m : Msg) (j : Nat) : (s.egress p m).msix j = s.msix j := State.qPush_msix_of _ _ _ _ _

/-! ### Counters -/

theorem State.bumpN_read (s : State) (k i j : Nat) : tget 0 (s.bumpN k i).cnt j = if j = k then satAdd (tget 0 s.cnt k) i else tget 0 s.cnt j := by
  unfold State.bumpN
  split
  · rename_i h; subst h; simp
  · rename_i h; exact tget_tset_ne _ _ _ h
theorem State.bump_read (s : State) (k j : Nat) : tget 0 (s.bump k).cnt j = if j = k then satAdd (tget 0 s.cnt k) 1 else tget 0 s.cnt j := State.bumpN_read s k 1 j

end Sys2Proof.Machine
end

