-- ==== Sys2Proof/Laws/Keep.lean ====
section
/-! SUPPORT. What no operation of the controller breaks: the relation `Keeps`, and the lemmas that carry it through record updates and folds. -/

namespace Sys2Proof.Machine

open Sys2Proof

/-- Every counter is at most 2^48 - 1 (R571). -/
def cntOk (t : Tab Nat) : Prop := ∀ e ∈ t, e.2 ≤ cntMax

/-- What `t` keeps of `s`: the queue of commands; bounded counters and error records; the rollback floor, unless `c` says that a CONFIRM may run;
the numbering of the Peat log; the record of what has left; the count of free values; the canonical form of every table. -/
def Keeps (c : Bool) (s t : State) : Prop :=
  t.pending = s.pending
  ∧ (cntOk s.cnt → cntOk t.cnt)
  ∧ (s.flt.fifo.length ≤ 256 → t.flt.fifo.length ≤ 256)
  ∧ (c = false → t.mram.floor = s.mram.floor)
  ∧ s.mram.peatSeq ≤ t.mram.peatSeq
  ∧ s.out <+: t.out
  ∧ s.free ≤ t.free
  ∧ (twf {} s.slices = true → twf {} t.slices = true)
  ∧ (twf {} s.homes = true → twf {} t.homes = true)
  ∧ (twf {} s.gates = true → twf {} t.gates = true)
  ∧ (twf {} s.routers = true → twf {} t.routers = true)
  ∧ (twf {} s.pools = true → twf {} t.pools = true)
  ∧ (twf {} s.ports = true → twf {} t.ports = true)
  ∧ (twf {} s.doms = true → twf {} t.doms = true)
  ∧ (twf 0 s.sphMax = true → twf 0 t.sphMax = true)
  ∧ (twf 0 s.cnt = true → twf 0 t.cnt = true)
  ∧ (twf {} s.tpages = true → twf {} t.tpages = true)
  ∧ (twf {} s.slow = true → twf {} t.slow = true)
  ∧ (twf {} s.acc = true → twf {} t.acc = true)

theorem Keeps.refl (c : Bool) (s : State) : Keeps c s s := by
  refine ⟨rfl, id, id, fun _ => rfl, Nat.le_refl _, List.prefix_refl _, Nat.le_refl _, id, id, id, id, id, id, id, id, id, id, id, id⟩

theorem Keeps.trans {c : Bool} {s t u : State} (a : Keeps c s t) (b : Keeps c t u) : Keeps c s u := by
  obtain ⟨a1, a2, a3, a4, a5, a6, a7, a8, a9, a10, a11, a12, a13, a14, a15, a16, a17, a18, a19⟩ := a
  obtain ⟨b1, b2, b3, b4, b5, b6, b7, b8, b9, b10, b11, b12, b13, b14, b15, b16, b17, b18, b19⟩ := b
  exact ⟨b1.trans a1, b2 ∘ a2, b3 ∘ a3, fun h => (b4 h).trans (a4 h), Nat.le_trans a5 b5, a6.trans b6,
    Nat.le_trans a7 b7, b8 ∘ a8, b9 ∘ a9, b10 ∘ a10, b11 ∘ a11, b12 ∘ a12, b13 ∘ a13, b14 ∘ a14, b15 ∘ a15, b16 ∘ a16, b17 ∘ a17, b18 ∘ a18, b19 ∘ a19⟩

variable {c : Bool} {s₀ s : State}

/-- An update that touches none of the fields that `Keeps` speaks of. -/
theorem Keeps.of {t : State} {pwr : Pwr} {pmb : Pmb} {tap : Tap} {clk : Clk} {start : Start} {mram : Mram} {flash : Flash} {imgc : ImgCtl} {mbx : Mbx} {lock : LockCmd} {doms : Tab Domain} {sphMax : Tab Nat} {slices : Tab Slice} {homes : Tab Home} {gates : Tab Gate} {routers : Tab Router} {pools : Tab Pool} {ports : Tab Port} {prot : Prot} {flt : Flt} {cnt : Tab Nat} {cap : Cap} {spore : Spore} {tpages : Tab TPage} {host : HostIf} {slow : Tab Slow} {acc : Tab AccErr} {accAddr : BitVec 26} {out : List Out} {free : Nat} {pending : List Instr}
    (h : Keeps c s₀ t) (e1 : pending = t.pending) (e2 : cnt = t.cnt) (e3 : flt.fifo = t.flt.fifo)
    (e4 : mram.floor = t.mram.floor) (e6 : mram.peatSeq = t.mram.peatSeq) (e7 : out = t.out) (e8 : free = t.free)
    (e9 : slices = t.slices) (e10 : homes = t.homes) (e11 : gates = t.gates) (e12 : routers = t.routers) (e13 : pools = t.pools)
    (e14 : ports = t.ports) (e15 : doms = t.doms) (e16 : sphMax = t.sphMax) (e17 : tpages = t.tpages) (e18 : slow = t.slow)
    (e19 : acc = t.acc) : Keeps c s₀ (State.mk pwr pmb tap clk start mram flash imgc mbx lock doms sphMax slices homes gates routers pools ports prot flt cnt cap spore tpages host slow acc accAddr out free pending) := by
  refine h.trans ?_
  subst e1 e2 e7 e8 e9 e10 e11 e12 e13 e14 e15 e16 e17 e18 e19
  unfold Keeps
  dsimp only
  rw [e3, e4, e6]
  exact Keeps.refl c t

theorem Keeps.foldl {β : Type} {l : List β} {f : State → β → State} (hf : ∀ s x, Keeps c s₀ s → Keeps c s₀ (f s x)) (h : Keeps c s₀ s) :
    Keeps c s₀ (l.foldl f s) := by
  induction l generalizing s with
  | nil => exact h
  | cons x l ih => exact ih (hf _ _ h)

theorem Keeps.foldl1 {β γ : Type} {l : List β} {f : State × γ → β → State × γ} {p : State × γ}
    (hf : ∀ p x, Keeps c s₀ p.1 → Keeps c s₀ (f p x).1) (h : Keeps c s₀ p.1) : Keeps c s₀ (l.foldl f p).1 := by
  induction l generalizing p with
  | nil => exact h
  | cons x l ih => exact ih (hf _ _ h)

theorem Keeps.foldS {β : Type} {l : List β} {f : β → State → State} (hf : ∀ x s, Keeps c s₀ s → Keeps c s₀ (f x s)) (h : Keeps c s₀ s) :
    Keeps c s₀ (Sys2Proof.Machine.foldS l f s) := by
  unfold Sys2Proof.Machine.foldS
  exact Keeps.foldl (fun s x h => hf x s h) h

theorem Keeps.pair {β : Type} {p : State × β} {a : State} {b : β} (e : p = (a, b)) (h : Keeps c s₀ p.1) : Keeps c s₀ a := by subst e; exact h

/-! ### Tables -/

theorem cntOk_tset {t : Tab Nat} (h : cntOk t) (k v : Nat) (hv : v ≤ cntMax) : cntOk (tset 0 t k v) := by
  intro e he
  unfold tset at he
  split at he
  · exact h e (mem_tdel he)
  · rcases mem_tins he with rfl | he
    · exact hv
    · exact h e he

theorem twf_tabOf {α : Type} [DecidableEq α] (d : α) (l : List (Nat × α)) : twf d (tabOf d l) = true := by
  unfold tabOf
  suffices h : ∀ t : Tab α, twf d t = true → twf d (l.foldl (fun t e => tset d t e.1 e.2) t) = true from h [] rfl
  induction l with
  | nil => exact fun t h => h
  | cons e l ih => exact fun t h => ih _ (twf_tset h _ _)

theorem twf_filter {α : Type} [DecidableEq α] {d : α} {t : Tab α} (h : twf d t = true) (p : Nat × α → Bool) : twf d (t.filter p) = true := by
  simp only [twf, Bool.and_eq_true, List.all_eq_true, decide_eq_true_eq] at h ⊢
  refine ⟨?_, fun e he => h.2 e (List.mem_filter.1 he).1⟩
  have hs := h.1
  clear h
  induction t with
  | nil => rfl
  | cons x t ih =>
    obtain ⟨k, v⟩ := x
    obtain ⟨ha, hs⟩ := (tsorted_cons k v t).1 hs
    rw [List.filter_cons]
    split
    · exact (tsorted_cons _ _ _).2 ⟨fun e he => ha e (List.mem_filter.1 he).1, ih hs⟩
    · exact ih hs

theorem cntOk_filter {t : Tab Nat} (h : cntOk t) (p : Nat × Nat → Bool) : cntOk (t.filter p) := fun e he => h e (List.mem_filter.1 he).1

theorem cntFilter_keeps (p : Nat × Nat → Bool) (h : Keeps c s₀ s) : Keeps c s₀ { s with cnt := s.cnt.filter p } :=
  h.trans ⟨rfl, fun h => cntOk_filter h _, id, fun _ => rfl, Nat.le_refl _, List.prefix_refl _, Nat.le_refl _, id, id, id, id, id, id, id, id,
    fun h => twf_filter h _, id, id, id⟩

end Sys2Proof.Machine
end

