-- ==== Sys2Proof/Laws/Keep/Ops.lean ====
section
/-! SUPPORT. What the operations of Machine.Ops keep. -/

namespace Sys2Proof.Machine

open Sys2Proof

set_option linter.unreachableTactic false
set_option linter.unusedTactic false
set_option linter.unusedVariables false
set_option Elab.async false

theorem satAdd_le (v i : Nat) : satAdd v i ≤ cntMax := Nat.min_le_right _ _

theorem State.bumpN_keeps {c₀ : Bool} {s₀ s : State} (k i : Nat) (h : Keeps c₀ s₀ s) : Keeps c₀ s₀ (s.bumpN k i) :=
  h.trans ⟨rfl, fun h => cntOk_tset h _ _ (satAdd_le _ _), id, fun _ => rfl, Nat.le_refl _, List.prefix_refl _, Nat.le_refl _,
    id, id, id, id, id, id, id, id, fun h => twf_tset h _ _, id, id, id⟩

theorem State.modMsix_keeps {c₀ : Bool} {s₀ s : State} (fn : Nat) (f : Msix → Msix)  (h : Keeps c₀ s₀ s) : Keeps c₀ s₀ (State.modMsix s fn f) := by
  unfold State.modMsix
  repeat' first
    | with_reducible assumption
    | dsimp only
    | with_reducible refine Keeps.of ?_ rfl rfl rfl rfl rfl rfl rfl rfl rfl rfl rfl rfl rfl rfl rfl rfl rfl rfl

theorem State.emit_keeps {c₀ : Bool} {s₀ s : State} (o : Out) (h : Keeps c₀ s₀ s) : Keeps c₀ s₀ (s.emit o) :=
  h.trans ⟨rfl, id, id, fun _ => rfl, Nat.le_refl _, ⟨[o], rfl⟩, Nat.le_refl _, id, id, id, id, id, id, id, id, id, id, id, id⟩

theorem State.irq_keeps {c₀ : Bool} {s₀ s : State} (fn : Nat) (vec : Nat)  (h : Keeps c₀ s₀ s) : Keeps c₀ s₀ (State.irq s fn vec) := by
  unfold State.irq
  repeat' first
    | with_reducible assumption
    | with_reducible apply State.modMsix_keeps
    | with_reducible apply State.emit_keeps
    | split
    | dsimp only

theorem State.modPage_keeps {c₀ : Bool} {s₀ s : State} (n : Nat) (f : TPage → TPage) (h : Keeps c₀ s₀ s) : Keeps c₀ s₀ (s.modPage n f) :=
  h.trans ⟨rfl, id, id, fun _ => rfl, Nat.le_refl _, List.prefix_refl _, Nat.le_refl _, id, id, id, id, id, id, id, id, id, fun h => twf_tmod h _ _, id, id⟩

theorem State.pageN_keeps {c₀ : Bool} {s₀ s : State} (t : Nat) (i : Nat) (inc : Nat)  (h : Keeps c₀ s₀ s) : Keeps c₀ s₀ (State.pageN s t i inc) := by
  unfold State.pageN
  repeat' first
    | with_reducible assumption
    | with_reducible apply State.bumpN_keeps
    | with_reducible apply State.irq_keeps
    | with_reducible apply State.modPage_keeps
    | split
    | dsimp only

theorem State.page_keeps {c₀ : Bool} {s₀ s : State} (t : Nat) (i : Nat)  (h : Keeps c₀ s₀ s) : Keeps c₀ s₀ (State.page s t i) := by
  unfold State.page
  repeat' first
    | with_reducible assumption
    | with_reducible apply State.pageN_keeps
    | dsimp only

theorem State.drawn_keeps {c₀ : Bool} {s₀ s : State} (h : Keeps c₀ s₀ s) : Keeps c₀ s₀ s.drawn :=
  h.trans ⟨rfl, id, id, fun _ => rfl, Nat.le_refl _, List.prefix_refl _, Nat.le_succ _, id, id, id, id, id, id, id, id, id, id, id, id⟩

theorem State.bump_keeps {c₀ : Bool} {s₀ s : State} (key : Nat)  (h : Keeps c₀ s₀ s) : Keeps c₀ s₀ (State.bump s key) := by
  unfold State.bump
  repeat' first
    | with_reducible assumption
    | with_reducible apply State.bumpN_keeps
    | dsimp only

theorem peatPut_seq (m : Mram) (e : PeatEnt) : (peatPut m e).peatSeq = m.peatSeq + 1 := rfl
theorem peatPut_floor (m : Mram) (e : PeatEnt) : (peatPut m e).floor = m.floor := rfl

theorem peatRoom_seq (b : Bool) (dt : BitVec 64) (k : Nat) (m : Mram) : m.peatSeq ≤ (peatRoom b dt k m).peatSeq := by
  induction k generalizing m with
  | zero => exact Nat.le_refl _
  | succ k ih =>
    simp only [peatRoom]
    split
    · refine Nat.le_trans ?_ (ih _)
      cases b
      · exact Nat.le_refl _
      · exact Nat.le_succ _
    · exact Nat.le_refl _

theorem peatRoom_floor (b : Bool) (dt : BitVec 64) (k : Nat) (m : Mram) : (peatRoom b dt k m).floor = m.floor := by
  induction k generalizing m with
  | zero => rfl
  | succ k ih =>
    simp only [peatRoom]
    split
    · rw [ih]
      cases b <;> rfl
    · rfl

theorem State.peat_keeps {c₀ : Bool} {s₀ s : State} (y : Byte) (b : BitVec 96) (h : Keeps c₀ s₀ s) : Keeps c₀ s₀ (s.peat y b) := by
  unfold State.peat
  dsimp only
  split
  · exact h
  · refine h.trans ⟨rfl, id, id, ?_, ?_, List.prefix_refl _, Nat.le_refl _, id, id, id, id, id, id, id, id, id, id, id, id⟩
    · intro _
      simp only [peatPut_floor, peatRoom_floor]
    · exact Nat.le_trans (peatRoom_seq _ _ _ _) (Nat.le_succ _)

theorem rmFirstP_len {α : Type} (p : α → Bool) (l : List α) (h : l.any p = true) : (rmFirstP p l).length + 1 = l.length := by
  induction l with
  | nil => simp at h
  | cons x l ih =>
    simp only [rmFirstP]
    split
    · rfl
    · rename_i hp
      simp only [List.any_cons, Bool.or_eq_true] at h
      rcases h with h | h
      · exact absurd h hp
      · simp [ih h]

theorem fifoPut_len (f : Flt) (r : ErrRec) (h : f.fifo.length ≤ 256) : (fifoPut f r).1.fifo.length ≤ 256 := by
  unfold fifoPut
  split
  · simp; omega
  · split
    · rename_i h2
      have := rmFirstP_len _ _ h2.2
      simp only [List.length_append, List.length_singleton]
      omega
    · exact h

theorem enterFlt_keeps {c₀ : Bool} {s₀ s : State} (f : Flt) (r : ErrRec) (e : f.fifo = s.flt.fifo) (h : Keeps c₀ s₀ s) : Keeps c₀ s₀ { s with flt := (fifoPut f r).1 } :=
  h.trans ⟨rfl, id, fun h => fifoPut_len _ _ (by rw [e]; exact h), fun _ => rfl, Nat.le_refl _, List.prefix_refl _, Nat.le_refl _, id, id, id, id, id, id, id, id, id, id, id, id⟩

theorem State.enterRec_keeps {c₀ : Bool} {s₀ s : State} (r : ErrRec) (h : Keeps c₀ s₀ s) : Keeps c₀ s₀ (s.enterRec r) := by
  unfold State.enterRec
  dsimp only
  repeat' first
    | with_reducible assumption
    | with_reducible apply State.irq_keeps
    | with_reducible apply State.peat_keeps
    | with_reducible apply State.bump_keeps
    | split
    | exact enterFlt_keeps _ _ rfl h

theorem State.modDom_keeps {c₀ : Bool} {s₀ s : State} (n : Nat) (f : Domain → Domain) (h : Keeps c₀ s₀ s) : Keeps c₀ s₀ (s.modDom n f) :=
  h.trans ⟨rfl, id, id, fun _ => rfl, Nat.le_refl _, List.prefix_refl _, Nat.le_refl _, id, id, id, id, id, id, fun h => twf_tmod h _ _, id, id, id, id, id⟩

theorem State.faultPin_keeps {c₀ : Bool} {s₀ s : State}   (h : Keeps c₀ s₀ s) : Keeps c₀ s₀ (State.faultPin s) := by
  unfold State.faultPin
  repeat' first
    | with_reducible assumption
    | dsimp only
    | with_reducible refine Keeps.of ?_ rfl rfl rfl rfl rfl rfl rfl rfl rfl rfl rfl rfl rfl rfl rfl rfl rfl rfl

theorem State.setMode_keeps {c₀ : Bool} {s₀ s : State} (m : Mode) (cause : Nat)  (h : Keeps c₀ s₀ s) : Keeps c₀ s₀ (State.setMode s m cause) := by
  unfold State.setMode
  repeat' first
    | with_reducible assumption
    | with_reducible apply State.bump_keeps
    | with_reducible apply State.peat_keeps
    | with_reducible apply State.irq_keeps
    | with_reducible refine Keeps.foldS ?_ ?_
    | intro _
    | split
    | dsimp only
    | with_reducible refine Keeps.of ?_ rfl rfl rfl rfl rfl rfl rfl rfl rfl rfl rfl rfl rfl rfl rfl rfl rfl rfl

theorem State.modGate_keeps {c₀ : Bool} {s₀ s : State} (n : Nat) (f : Gate → Gate) (h : Keeps c₀ s₀ s) : Keeps c₀ s₀ (s.modGate n f) :=
  h.trans ⟨rfl, id, id, fun _ => rfl, Nat.le_refl _, List.prefix_refl _, Nat.le_refl _, id, id, fun h => twf_tmod h _ _, id, id, id, id, id, id, id, id, id⟩

theorem State.modRouter_keeps {c₀ : Bool} {s₀ s : State} (n : Nat) (f : Router → Router) (h : Keeps c₀ s₀ s) : Keeps c₀ s₀ (s.modRouter n f) :=
  h.trans ⟨rfl, id, id, fun _ => rfl, Nat.le_refl _, List.prefix_refl _, Nat.le_refl _, id, id, id, fun h => twf_tmod h _ _, id, id, id, id, id, id, id, id⟩

theorem State.modPort_keeps {c₀ : Bool} {s₀ s : State} (n : Nat) (f : Port → Port) (h : Keeps c₀ s₀ s) : Keeps c₀ s₀ (s.modPort n f) :=
  h.trans ⟨rfl, id, id, fun _ => rfl, Nat.le_refl _, List.prefix_refl _, Nat.le_refl _, id, id, id, id, id, fun h => twf_tmod h _ _, id, id, id, id, id, id⟩

theorem State.modKey_keeps {c₀ : Bool} {s₀ s : State} (k : Nat) (f : KeyEnt → KeyEnt)  (h : Keeps c₀ s₀ s) : Keeps c₀ s₀ (State.modKey s k f) := by
  unfold State.modKey
  repeat' first
    | with_reducible assumption
    | dsimp only
    | with_reducible refine Keeps.of ?_ rfl rfl rfl rfl rfl rfl rfl rfl rfl rfl rfl rfl rfl rfl rfl rfl rfl rfl

theorem State.raise_keeps {c₀ : Bool} {s₀ s : State} (r : ErrRec)  (h : Keeps c₀ s₀ s) : Keeps c₀ s₀ (State.raise s r) := by
  unfold State.raise
  repeat' first
    | with_reducible assumption
    | with_reducible apply State.enterRec_keeps
    | split
    | dsimp only
    | with_reducible refine Keeps.of ?_ rfl rfl rfl rfl rfl rfl rfl rfl rfl rfl rfl rfl rfl rfl rfl rfl rfl rfl

theorem State.rep_keeps {c₀ : Bool} {s₀ s : State} (src : RecSource) (inst : Nat) (c : RecCode) (dom : optParam Nat 0) (line : optParam LineAddr 0) (agent : optParam Agent 0)  (h : Keeps c₀ s₀ s) : Keeps c₀ s₀ (State.rep s src inst c dom line agent) := by
  unfold State.rep
  repeat' first
    | with_reducible assumption
    | with_reducible apply State.raise_keeps
    | dsimp only

theorem State.modPool_keeps {c₀ : Bool} {s₀ s : State} (n : Nat) (f : Pool → Pool) (h : Keeps c₀ s₀ s) : Keeps c₀ s₀ (s.modPool n f) :=
  h.trans ⟨rfl, id, id, fun _ => rfl, Nat.le_refl _, List.prefix_refl _, Nat.le_refl _, id, id, id, id, fun h => twf_tmod h _ _, id, id, id, id, id, id, id⟩

theorem State.modSlice_keeps {c₀ : Bool} {s₀ s : State} (n : Nat) (f : Slice → Slice) (h : Keeps c₀ s₀ s) : Keeps c₀ s₀ (s.modSlice n f) :=
  h.trans ⟨rfl, id, id, fun _ => rfl, Nat.le_refl _, List.prefix_refl _, Nat.le_refl _, fun h => twf_tmod h _ _, id, id, id, id, id, id, id, id, id, id, id⟩

theorem State.modJob_keeps {c₀ : Bool} {s₀ s : State} (j : Nat) (f : CrozJob → CrozJob)  (h : Keeps c₀ s₀ s) : Keeps c₀ s₀ (State.modJob s j f) := by
  unfold State.modJob
  repeat' first
    | with_reducible assumption
    | dsimp only
    | with_reducible refine Keeps.of ?_ rfl rfl rfl rfl rfl rfl rfl rfl rfl rfl rfl rfl rfl rfl rfl rfl rfl rfl

theorem State.modHome_keeps {c₀ : Bool} {s₀ s : State} (n : Nat) (f : Home → Home) (h : Keeps c₀ s₀ s) : Keeps c₀ s₀ (s.modHome n f) :=
  h.trans ⟨rfl, id, id, fun _ => rfl, Nat.le_refl _, List.prefix_refl _, Nat.le_refl _, id, fun h => twf_tmod h _ _, id, id, id, id, id, id, id, id, id, id⟩

end Sys2Proof.Machine
end

