-- ==== Sys2Proof/Laws/Keep/Link.lean ====
section
/-! SUPPORT. What the operations of Machine.Link keep. -/

namespace Sys2Proof.Machine

open Sys2Proof

set_option linter.unreachableTactic false
set_option linter.unusedTactic false
set_option linter.unusedVariables false
set_option Elab.async false

theorem State.toLane_keeps {c₀ : Bool} {s₀ s : State} (p : Nat) (seq : BitVec 16) (f : BitVec 672)  (h : Keeps c₀ s₀ s) : Keeps c₀ s₀ (State.toLane s p seq f) := by
  unfold State.toLane
  repeat' first
    | with_reducible assumption
    | with_reducible apply State.modPort_keeps
    | with_reducible apply State.emit_keeps
    | split
    | dsimp only

theorem State.sendFlit_keeps {c₀ : Bool} {s₀ s : State} (p : Nat) (ft : Nat) (nslot : Nat) (payload : BitVec 640)  (h : Keeps c₀ s₀ s) : Keeps c₀ s₀ (State.sendFlit s p ft nslot payload) := by
  unfold State.sendFlit
  repeat' first
    | with_reducible assumption
    | with_reducible apply State.modPort_keeps
    | with_reducible apply State.toLane_keeps
    | with_reducible apply State.bump_keeps
    | split
    | dsimp only

theorem State.closeBlock_keeps {c₀ : Bool} {s₀ s : State} (p : Nat)  (h : Keeps c₀ s₀ s) : Keeps c₀ s₀ (State.closeBlock s p) := by
  unfold State.closeBlock
  repeat' first
    | with_reducible assumption
    | with_reducible apply State.emit_keeps
    | with_reducible apply State.sendFlit_keeps
    | with_reducible apply State.modPort_keeps
    | split
    | dsimp only

theorem State.blockFlit_keeps {c₀ : Bool} {s₀ s : State} (p : Nat) (ft : Nat) (nslot : Nat) (payload : BitVec 640)  (h : Keeps c₀ s₀ s) : Keeps c₀ s₀ (State.blockFlit s p ft nslot payload) := by
  unfold State.blockFlit
  repeat' first
    | with_reducible assumption
    | with_reducible apply State.sendFlit_keeps
    | with_reducible apply State.closeBlock_keeps
    | split
    | dsimp only

theorem State.mgmtFlit_keeps {c₀ : Bool} {s₀ s : State} (p : Nat) (mtype : Nat) (bytes : List Nat)  (h : Keeps c₀ s₀ s) : Keeps c₀ s₀ (State.mgmtFlit s p mtype bytes) := by
  unfold State.mgmtFlit
  repeat' first
    | with_reducible assumption
    | with_reducible apply State.closeBlock_keeps
    | with_reducible apply State.blockFlit_keeps
    | dsimp only

theorem State.fastRetrain_keeps {c₀ : Bool} {s₀ s : State} (p : Nat)  (h : Keeps c₀ s₀ s) : Keeps c₀ s₀ (State.fastRetrain s p) := by
  unfold State.fastRetrain
  repeat' first
    | with_reducible assumption
    | with_reducible apply State.modPort_keeps
    | split
    | dsimp only

theorem State.linkFlit_keeps {c₀ : Bool} {s₀ s : State} (p : Nat) (nak : Bool) (seq : BitVec 16)  (h : Keeps c₀ s₀ s) : Keeps c₀ s₀ (State.linkFlit s p nak seq) := by
  unfold State.linkFlit
  repeat' first
    | with_reducible assumption
    | with_reducible apply State.toLane_keeps
    | with_reducible apply State.bump_keeps
    | with_reducible apply State.emit_keeps
    | split
    | dsimp only

theorem State.gotFlits_keeps {c₀ : Bool} {s₀ s : State} (p : Nat) (hdr : Nat) (data : Nat) (mgmt : Nat)  (h : Keeps c₀ s₀ s) : Keeps c₀ s₀ (State.gotFlits s p hdr data mgmt) := by
  unfold State.gotFlits
  repeat' first
    | with_reducible assumption
    | with_reducible apply State.modPort_keeps
    | with_reducible apply State.bumpN_keeps
    | with_reducible apply State.linkFlit_keeps
    | split
    | dsimp only

theorem State.returnCredits_keeps {c₀ : Bool} {s₀ s : State} (p k : Nat) (h : Keeps c₀ s₀ s) : Keeps c₀ s₀ (s.returnCredits p k) := by
  induction k generalizing s with
  | zero => exact h
  | succ k ih =>
    unfold State.returnCredits
    dsimp only
    split
    · exact h
    · exact ih (State.sendFlit_keeps _ _ _ _ h)

theorem State.takeCredit_keeps {c₀ : Bool} {s₀ s : State} (p : Nat) (m : Msg)  (h : Keeps c₀ s₀ s) : Keeps c₀ s₀ (State.takeCredit s p m).1 := by
  unfold State.takeCredit
  repeat' first
    | with_reducible assumption
    | with_reducible apply State.gotFlits_keeps
    | with_reducible apply State.modPort_keeps
    | with_reducible apply State.fastRetrain_keeps
    | with_reducible apply State.rep_keeps
    | with_reducible apply State.bump_keeps
    | split
    | dsimp only

theorem State.handOver_keeps {c₀ : Bool} {s₀ s : State} (p : Nat) (m : Msg)  (h : Keeps c₀ s₀ s) : Keeps c₀ s₀ (State.handOver s p m) := by
  unfold State.handOver
  repeat' first
    | with_reducible assumption
    | with_reducible apply State.emit_keeps
    | with_reducible apply State.modPort_keeps
    | with_reducible apply State.blockFlit_keeps
    | with_reducible apply State.closeBlock_keeps
    | with_reducible refine Keeps.foldl ?_ ?_
    | with_reducible refine Keeps.foldl1 ?_ ?_
    | intro _
    | split
    | dsimp only

theorem State.resendAll_keeps {c₀ : Bool} {s₀ s : State} (p : Nat) (us : List UFlit)  (h : Keeps c₀ s₀ s) : Keeps c₀ s₀ (State.resendAll s p us) := by
  unfold State.resendAll
  repeat' first
    | with_reducible assumption
    | with_reducible apply State.bumpN_keeps
    | with_reducible apply State.emit_keeps
    | with_reducible apply State.toLane_keeps
    | with_reducible refine Keeps.foldl ?_ ?_
    | with_reducible refine Keeps.foldl1 ?_ ?_
    | intro _
    | dsimp only

theorem State.resendFrom_keeps {c₀ : Bool} {s₀ s : State} (p : Nat) (seq : BitVec 16)  (h : Keeps c₀ s₀ s) : Keeps c₀ s₀ (State.resendFrom s p seq) := by
  unfold State.resendFrom
  repeat' first
    | with_reducible assumption
    | with_reducible apply State.modPort_keeps
    | with_reducible apply State.resendAll_keeps
    | with_reducible apply State.fastRetrain_keeps
    | split
    | dsimp only

theorem State.leaveIngress_keeps {c₀ : Bool} {s₀ s : State} (p : Nat) (m : Msg)  (h : Keeps c₀ s₀ s) : Keeps c₀ s₀ (State.leaveIngress s p m) := by
  unfold State.leaveIngress
  repeat' first
    | with_reducible assumption
    | with_reducible apply State.modPort_keeps
    | dsimp only

theorem State.gotReturn_keeps {c₀ : Bool} {s₀ s : State} (p : Nat) (f : BitVec 672)  (h : Keeps c₀ s₀ s) : Keeps c₀ s₀ (State.gotReturn s p f) := by
  unfold State.gotReturn
  repeat' first
    | with_reducible assumption
    | with_reducible apply State.modPort_keeps
    | split
    | dsimp only

theorem execLinkCheckFail_keeps {c₀ : Bool} {s₀ s : State} (p : Nat) (f : RxFlit) (h : Keeps c₀ s₀ s) : ∃ t₁, execLinkCheckFail p f s = .next t₁ ∧ Keeps c₀ s₀ t₁ := by
  refine ⟨_, rfl, ?_⟩
  repeat' first
    | with_reducible assumption
    | with_reducible apply State.bump_keeps
    | with_reducible apply State.gotReturn_keeps
    | with_reducible apply State.modPort_keeps
    | with_reducible apply State.gotFlits_keeps
    | with_reducible apply State.linkFlit_keeps
    | split
    | dsimp only

theorem State.mgmt_keeps {c₀ : Bool} {s₀ s : State} (p : Nat) (mtype : Nat) (arg : Nat)  (h : Keeps c₀ s₀ s) : Keeps c₀ s₀ (State.mgmt s p mtype arg) := by
  unfold State.mgmt
  repeat' first
    | with_reducible assumption
    | with_reducible apply State.mgmtFlit_keeps
    | with_reducible apply State.emit_keeps
    | dsimp only

end Sys2Proof.Machine
end

