-- ==== Sys2Proof/Laws/Keep/Send.lean ====
section
/-! SUPPORT. What the operations of Machine.Send keep. -/

namespace Sys2Proof.Machine

open Sys2Proof

set_option linter.unreachableTactic false
set_option linter.unusedTactic false
set_option linter.unusedVariables false
set_option Elab.async false

theorem State.qPush_keeps {c₀ : Bool} {s₀ s : State} (n : Nat) (q : Nat) (u : FUnit)  (h : Keeps c₀ s₀ s) : Keeps c₀ s₀ (State.qPush s n q u) := by
  unfold State.qPush
  repeat' first
    | with_reducible assumption
    | with_reducible apply State.bumpN_keeps
    | with_reducible apply State.modPool_keeps
    | split
    | dsimp only

theorem State.egress_keeps {c₀ : Bool} {s₀ s : State} (p : Nat) (m : Msg)  (h : Keeps c₀ s₀ s) : Keeps c₀ s₀ (State.egress s p m) := by
  unfold State.egress
  repeat' first
    | with_reducible assumption
    | with_reducible apply State.qPush_keeps
    | dsimp only

theorem State.gateAnswer_keeps {c₀ : Bool} {s₀ s : State} (p : Nat) (m : Msg)  (h : Keeps c₀ s₀ s) : Keeps c₀ s₀ (State.gateAnswer s p m) := by
  unfold State.gateAnswer
  repeat' first
    | with_reducible assumption
    | with_reducible apply State.egress_keeps
    | with_reducible apply State.modGate_keeps
    | split
    | dsimp only

theorem State.inject_keeps {c₀ : Bool} {s₀ s : State} (n : Nat) (dst : Nat) (k : Sink) (m : Msg)  (h : Keeps c₀ s₀ s) : Keeps c₀ s₀ (State.inject s n dst k m) := by
  unfold State.inject
  repeat' first
    | with_reducible assumption
    | with_reducible apply State.qPush_keeps
    | dsimp only

theorem State.injectGate_keeps {c₀ : Bool} {s₀ s : State} (n : Nat) (slot : Nat) (c : Cls) (dst : Nat) (k : Sink) (m : Msg) (at_ : Nat)  (h : Keeps c₀ s₀ s) : Keeps c₀ s₀ (State.injectGate s n slot c dst k m at_) := by
  unfold State.injectGate
  repeat' first
    | with_reducible assumption
    | with_reducible apply State.qPush_keeps
    | dsimp only

theorem State.qTake_keeps {c₀ : Bool} {s₀ s : State} (n : Nat) (q : Nat) (m : Msg)  (h : Keeps c₀ s₀ s) : Keeps c₀ s₀ (State.qTake s n q m) := by
  unfold State.qTake
  repeat' first
    | with_reducible assumption
    | with_reducible apply State.modPool_keeps
    | dsimp only

theorem State.completeErr_keeps {c₀ : Bool} {s₀ s : State} (g : Nat) (w : Watch) (e : ErrCode)  (h : Keeps c₀ s₀ s) : Keeps c₀ s₀ (State.completeErr s g w e) := by
  unfold State.completeErr
  repeat' first
    | with_reducible assumption
    | with_reducible apply State.modGate_keeps
    | with_reducible apply State.gateAnswer_keeps
    | dsimp only

theorem State.noRoute_keeps {c₀ : Bool} {s₀ s : State} (d : Nat) (n : Nat) (fromHome : Bool) (m : Msg)  (h : Keeps c₀ s₀ s) : Keeps c₀ s₀ (State.noRoute s d n fromHome m) := by
  unfold State.noRoute
  repeat' first
    | with_reducible assumption
    | with_reducible apply State.bump_keeps
    | with_reducible apply State.qPush_keeps
    | with_reducible apply State.rep_keeps
    | split
    | dsimp only

theorem State.sendEp_keeps {c₀ : Bool} {s₀ s : State} (d : Nat) (D : ImgDomain) (n : Nat) (fromHome : Bool) (ep : Endpoint) (m : Msg)  (h : Keeps c₀ s₀ s) : Keeps c₀ s₀ (State.sendEp s d D n fromHome ep m) := by
  unfold State.sendEp
  repeat' first
    | with_reducible assumption
    | with_reducible apply State.rep_keeps
    | with_reducible apply State.bump_keeps
    | with_reducible apply State.inject_keeps
    | with_reducible apply State.noRoute_keeps
    | split
    | dsimp only

theorem State.sendHome_keeps {c₀ : Bool} {s₀ s : State} (d : Nat) (D : ImgDomain) (n : Nat) (homeDev : BitVec 9) (m : Msg)  (h : Keeps c₀ s₀ s) : Keeps c₀ s₀ (State.sendHome s d D n homeDev m) := by
  unfold State.sendHome
  repeat' first
    | with_reducible assumption
    | with_reducible apply State.inject_keeps
    | with_reducible apply State.noRoute_keeps
    | split
    | dsimp only

theorem State.sendNear_keeps {c₀ : Bool} {s₀ s : State} (d : Nat) (D : ImgDomain) (n : Nat) (g : Nat) (m : Msg)  (h : Keeps c₀ s₀ s) : Keeps c₀ s₀ (State.sendNear s d D n g m) := by
  unfold State.sendNear
  repeat' first
    | with_reducible assumption
    | with_reducible apply State.inject_keeps
    | with_reducible apply State.qPush_keeps
    | split
    | dsimp only

end Sys2Proof.Machine
end

