-- ==== Sys2Proof/Laws/Keep/Flags.lean ====
section
/-! SUPPORT. What the operations of Machine.Flags keep. -/

namespace Sys2Proof.Machine

open Sys2Proof

set_option linter.unreachableTactic false
set_option linter.unusedTactic false
set_option linter.unusedVariables false
set_option Elab.async false

theorem State.setWin_keeps {c₀ : Bool} {s₀ s : State} (k : Nat) (r : WinRes) (ts : List (Nat × Nat))  (h : Keeps c₀ s₀ s) : Keeps c₀ s₀ (State.setWin s k r ts) := by
  unfold State.setWin
  repeat' first
    | with_reducible assumption
    | split
    | dsimp only
    | with_reducible refine Keeps.of ?_ rfl rfl rfl rfl rfl rfl rfl rfl rfl rfl rfl rfl rfl rfl rfl rfl rfl rfl

theorem State.modAcc_keeps {c₀ : Bool} {s₀ s : State} (n : Nat) (f : AccErr → AccErr) (h : Keeps c₀ s₀ s) : Keeps c₀ s₀ (s.modAcc n f) :=
  h.trans ⟨rfl, id, id, fun _ => rfl, Nat.le_refl _, List.prefix_refl _, Nat.le_refl _, id, id, id, id, id, id, id, id, id, id, id, fun h => twf_tmod h _ _⟩

theorem State.logAcc_keeps {c₀ : Bool} {s₀ s : State} (base : Nat) (who : Requester) (c : AccCause) (wr : Bool) (off : Nat) (full : Nat)  (h : Keeps c₀ s₀ s) : Keeps c₀ s₀ (State.logAcc s base who c wr off full) := by
  unfold State.logAcc
  repeat' first
    | with_reducible assumption
    | with_reducible apply State.modAcc_keeps
    | split
    | dsimp only
    | with_reducible refine Keeps.of ?_ rfl rfl rfl rfl rfl rfl rfl rfl rfl rfl rfl rfl rfl rfl rfl rfl rfl rfl

theorem State.winHit_keeps {c₀ : Bool} {s₀ s : State} (k : Nat) (r : WinRes) (row : optParam Nat 0)  (h : Keeps c₀ s₀ s) : Keeps c₀ s₀ (State.winHit s k r row).1 := by
  unfold State.winHit
  repeat' first
    | with_reducible assumption
    | with_reducible apply State.bump_keeps
    | with_reducible apply State.setWin_keeps
    | split
    | dsimp only

theorem State.modSlow_keeps {c₀ : Bool} {s₀ s : State} (n : Nat) (f : Slow → Slow) (h : Keeps c₀ s₀ s) : Keeps c₀ s₀ (s.modSlow n f) :=
  h.trans ⟨rfl, id, id, fun _ => rfl, Nat.le_refl _, List.prefix_refl _, Nat.le_refl _, id, id, id, id, id, id, id, id, id, id, fun h => twf_tmod h _ _, id⟩

end Sys2Proof.Machine
end

