-- ==== Sys2Proof/Laws/Keep/Dir.lean ====
section
/-! SUPPORT. What the operations of Machine.Dir keep. -/

namespace Sys2Proof.Machine

open Sys2Proof

set_option linter.unreachableTactic false
set_option linter.unusedTactic false
set_option linter.unusedVariables false
set_option Elab.async false

theorem State.setLineQ_keeps {c₀ : Bool} {s₀ s : State} (n : Nat) (l : LineAddr) (q : List (Msg × Nat))  (h : Keeps c₀ s₀ s) : Keeps c₀ s₀ (State.setLineQ s n l q) := by
  unfold State.setLineQ
  repeat' first
    | with_reducible assumption
    | with_reducible apply State.modHome_keeps
    | split
    | dsimp only

theorem State.newTxn_keeps {c₀ : Bool} {s₀ s : State} (n : Nat)  (h : Keeps c₀ s₀ s) : Keeps c₀ s₀ (State.newTxn s n).1 := by
  unfold State.newTxn
  repeat' first
    | with_reducible assumption
    | with_reducible apply State.modHome_keeps
    | dsimp only

theorem State.enqHome_keeps {c₀ : Bool} {s₀ s : State} (n : Nat) (m : Msg) (src : Nat) (k : TxKind)  (h : Keeps c₀ s₀ s) : Keeps c₀ s₀ (State.enqHome s n m src k) := by
  unfold State.enqHome
  repeat' first
    | with_reducible assumption
    | with_reducible apply State.setLineQ_keeps
    | with_reducible apply State.newTxn_keeps
    | with_reducible apply State.modHome_keeps
    | split
    | with_reducible refine Keeps.pair (by assumption) ?_
    | dsimp only

theorem State.dirPut_keeps {c₀ : Bool} {s₀ s : State} (n : Nat) (D : ImgDomain) (l : LineAddr) (w : Nat) (e : Option DirEnt)  (h : Keeps c₀ s₀ s) : Keeps c₀ s₀ (State.dirPut s n D l w e) := by
  unfold State.dirPut
  repeat' first
    | with_reducible assumption
    | with_reducible apply State.modHome_keeps
    | dsimp only

theorem State.dirDrop_keeps {c₀ : Bool} {s₀ s : State} (n : Nat) (D : ImgDomain) (l : LineAddr) (v : Nat)  (h : Keeps c₀ s₀ s) : Keeps c₀ s₀ (State.dirDrop s n D l v) := by
  unfold State.dirDrop
  repeat' first
    | with_reducible assumption
    | with_reducible apply State.dirPut_keeps
    | split
    | dsimp only

theorem State.modTx_keeps {c₀ : Bool} {s₀ s : State} (n : Nat) (l : LineAddr) (f : Tx → Tx)  (h : Keeps c₀ s₀ s) : Keeps c₀ s₀ (State.modTx s n l f) := by
  unfold State.modTx
  repeat' first
    | with_reducible assumption
    | with_reducible apply State.modHome_keeps
    | dsimp only

end Sys2Proof.Machine
end

