-- ==== Sys2Proof/Laws/Keep/Fence.lean ====
section
/-! SUPPORT. What the operations of Machine.Fence keep. -/

namespace Sys2Proof.Machine

open Sys2Proof

set_option linter.unreachableTactic false
set_option linter.unusedTactic false
set_option linter.unusedVariables false
set_option Elab.async false

theorem State.splice_keeps {c₀ : Bool} {s₀ s : State} (n : Nat) (q : Nat)  (h : Keeps c₀ s₀ s) : Keeps c₀ s₀ (State.splice s n q) := by
  unfold State.splice
  repeat' first
    | with_reducible assumption
    | with_reducible apply State.bumpN_keeps
    | with_reducible apply State.modPool_keeps
    | dsimp only

theorem fenceBit_fifo (u : FenceUnit) (f : Flt) : (fenceBit u f).fifo = f.fifo := by cases u <;> rfl

theorem fenceBit_keeps {c₀ : Bool} {s₀ s : State} (f : Flt) (e : f.fifo = s.flt.fifo) (h : Keeps c₀ s₀ s) : Keeps c₀ s₀ { s with flt := f } :=
  Keeps.of h rfl rfl e rfl rfl rfl rfl rfl rfl rfl rfl rfl rfl rfl rfl rfl rfl rfl

theorem State.fenceMark_keeps {c₀ : Bool} {s₀ s : State} (u : FenceUnit) (code : RecCode) (win : Option Nat)  (h : Keeps c₀ s₀ s) : Keeps c₀ s₀ (State.fenceMark s u code win) := by
  unfold State.fenceMark
  repeat' first
    | with_reducible assumption
    | with_reducible apply State.raise_keeps
    | with_reducible apply State.bump_keeps
    | with_reducible apply State.peat_keeps
    | with_reducible apply State.setMode_keeps
    | with_reducible apply State.faultPin_keeps
    | with_reducible apply State.irq_keeps
    | with_reducible refine Keeps.foldl ?_ ?_
    | with_reducible refine Keeps.foldl1 ?_ ?_
    | intro _
    | split
    | dsimp only
    | with_reducible refine fenceBit_keeps _ ?_ ?_
    | exact fenceBit_fifo _ _
    | simp only [fenceBit_fifo]
    | with_reducible refine Keeps.of ?_ rfl rfl rfl rfl rfl rfl rfl rfl rfl rfl rfl rfl rfl rfl rfl rfl rfl rfl

theorem State.keyRetire_keeps {c₀ : Bool} {s₀ s : State} (k : Nat)  (h : Keeps c₀ s₀ s) : Keeps c₀ s₀ (State.keyRetire s k) := by
  unfold State.keyRetire
  repeat' first
    | with_reducible assumption
    | with_reducible apply State.modSlice_keeps
    | with_reducible apply State.modHome_keeps
    | with_reducible apply State.bumpN_keeps
    | with_reducible apply State.enqHome_keeps
    | with_reducible refine Keeps.foldl ?_ ?_
    | with_reducible refine Keeps.foldl1 ?_ ?_
    | intro _
    | split
    | dsimp only

theorem State.markTails_keeps {c₀ : Bool} {s₀ s : State} (p : Nat) (d : Nat) (D : ImgDomain)  (h : Keeps c₀ s₀ s) : Keeps c₀ s₀ (State.markTails s p d D) := by
  unfold State.markTails
  repeat' first
    | with_reducible assumption
    | with_reducible apply State.modGate_keeps
    | with_reducible refine Keeps.foldl ?_ ?_
    | with_reducible refine Keeps.foldl1 ?_ ?_
    | intro _
    | split
    | dsimp only

theorem State.farAnswer_keeps {c₀ : Bool} {s₀ s : State} (d : Nat) (D : ImgDomain) (n : Nat) (m : Msg)  (h : Keeps c₀ s₀ s) : Keeps c₀ s₀ (State.farAnswer s d D n m) := by
  unfold State.farAnswer
  repeat' first
    | with_reducible assumption
    | with_reducible apply State.sendEp_keeps
    | split
    | dsimp only

theorem State.failWatch_keeps {c₀ : Bool} {s₀ s : State} (g : Nat) (m : Msg) (e : ErrCode)  (h : Keeps c₀ s₀ s) : Keeps c₀ s₀ (State.failWatch s g m e) := by
  unfold State.failWatch
  repeat' first
    | with_reducible assumption
    | with_reducible apply State.completeErr_keeps
    | split
    | dsimp only

theorem State.report_keeps {c₀ : Bool} {s₀ s : State} (u : FUnit) (e : ErrCode)  (h : Keeps c₀ s₀ s) : Keeps c₀ s₀ (State.report s u e) := by
  unfold State.report
  repeat' first
    | with_reducible assumption
    | with_reducible apply State.qPush_keeps
    | with_reducible apply State.farAnswer_keeps
    | with_reducible apply State.failWatch_keeps
    | with_reducible apply State.modHome_keeps
    | split
    | dsimp only

theorem State.flushQ_keeps {c₀ : Bool} {s₀ s : State} (n : Nat) (q : Nat) (e : ErrCode)  (h : Keeps c₀ s₀ s) : Keeps c₀ s₀ (State.flushQ s n q e) := by
  unfold State.flushQ
  repeat' first
    | with_reducible assumption
    | with_reducible apply State.report_keeps
    | with_reducible apply State.splice_keeps
    | with_reducible refine Keeps.foldl ?_ ?_
    | with_reducible refine Keeps.foldl1 ?_ ?_
    | intro _
    | dsimp only

theorem State.modBarriers_keeps {c₀ : Bool} {s₀ s : State} (f : Barrier → Barrier)  (h : Keeps c₀ s₀ s) : Keeps c₀ s₀ (State.modBarriers s f) := by
  unfold State.modBarriers
  repeat' first
    | with_reducible assumption
    | with_reducible apply State.modGate_keeps
    | with_reducible refine Keeps.foldl ?_ ?_
    | with_reducible refine Keeps.foldl1 ?_ ?_
    | intro _
    | dsimp only

theorem State.groupChg_keeps {c₀ : Bool} {s₀ s : State} (d : Nat) (g : Nat)  (h : Keeps c₀ s₀ s) : Keeps c₀ s₀ (State.groupChg s d g) := by
  unfold State.groupChg
  repeat' first
    | with_reducible assumption
    | with_reducible apply State.mgmt_keeps
    | with_reducible refine Keeps.foldl ?_ ?_
    | with_reducible refine Keeps.foldl1 ?_ ?_
    | intro _
    | split
    | dsimp only

theorem State.poisonSlot_keeps {c₀ : Bool} {s₀ s : State} (n : Nat) (d : Nat) (slot : Nat) (g : Nat) (l : LineAddr)  (h : Keeps c₀ s₀ s) : Keeps c₀ s₀ (State.poisonSlot s n d slot g l) := by
  unfold State.poisonSlot
  repeat' first
    | with_reducible assumption
    | with_reducible apply State.rep_keeps
    | with_reducible apply State.modSlice_keeps
    | dsimp only

theorem State.groupLoss_keeps {c₀ : Bool} {s₀ s : State} (d : Nat) (D : ImgDomain) (n : Nat) (g : Nat)  (h : Keeps c₀ s₀ s) : Keeps c₀ s₀ (State.groupLoss s d D n g) := by
  unfold State.groupLoss
  repeat' first
    | with_reducible assumption
    | with_reducible apply State.poisonSlot_keeps
    | with_reducible apply State.modSlice_keeps
    | with_reducible refine Keeps.foldl ?_ ?_
    | with_reducible refine Keeps.foldl1 ?_ ?_
    | intro _
    | split
    | dsimp only

theorem State.lostAnswer_keeps {c₀ : Bool} {s₀ s : State} (d : Nat) (D : ImgDomain) (n : Nat) (m : Msg) (g : Nat) (toOwner : Bool)  (h : Keeps c₀ s₀ s) : Keeps c₀ s₀ (State.lostAnswer s d D n m g toOwner) := by
  unfold State.lostAnswer
  repeat' first
    | with_reducible assumption
    | with_reducible apply State.qPush_keeps
    | with_reducible apply State.sendEp_keeps
    | split
    | dsimp only

theorem State.groupReports_keeps {c₀ : Bool} {s₀ s : State} (d : Nat) (D : ImgDomain) (n : Nat) (g : Nat)  (h : Keeps c₀ s₀ s) : Keeps c₀ s₀ (State.groupReports s d D n g) := by
  unfold State.groupReports
  repeat' first
    | with_reducible assumption
    | with_reducible apply State.qPush_keeps
    | with_reducible apply State.lostAnswer_keeps
    | with_reducible apply State.modSlice_keeps
    | with_reducible refine Keeps.foldl ?_ ?_
    | with_reducible refine Keeps.foldl1 ?_ ?_
    | intro _
    | split
    | dsimp only

theorem State.isolRole_keeps {c₀ : Bool} {s₀ s : State} (p : Nat) (d : Nat) (D : ImgDomain)  (h : Keeps c₀ s₀ s) : Keeps c₀ s₀ (State.isolRole s p d D) := by
  unfold State.isolRole
  repeat' first
    | with_reducible assumption
    | with_reducible apply State.groupChg_keeps
    | with_reducible apply State.groupLoss_keeps
    | with_reducible apply State.groupReports_keeps
    | with_reducible apply State.qPush_keeps
    | with_reducible apply State.completeErr_keeps
    | with_reducible apply State.modGate_keeps
    | with_reducible apply State.modPort_keeps
    | with_reducible apply State.modDom_keeps
    | with_reducible refine Keeps.foldl ?_ ?_
    | with_reducible refine Keeps.foldl1 ?_ ?_
    | intro _
    | split
    | dsimp only

theorem State.laneIrq_keeps {c₀ : Bool} {s₀ s : State} (p : Nat)  (h : Keeps c₀ s₀ s) : Keeps c₀ s₀ (State.laneIrq s p) := by
  unfold State.laneIrq
  repeat' first
    | with_reducible assumption
    | with_reducible apply State.irq_keeps
    | dsimp only

theorem State.isolate_keeps {c₀ : Bool} {s₀ s : State} (p : Nat)  (h : Keeps c₀ s₀ s) : Keeps c₀ s₀ (State.isolate s p) := by
  unfold State.isolate
  repeat' first
    | with_reducible assumption
    | with_reducible apply State.markTails_keeps
    | with_reducible apply State.modPort_keeps
    | with_reducible apply State.flushQ_keeps
    | with_reducible apply State.modBarriers_keeps
    | with_reducible apply State.modGate_keeps
    | with_reducible apply State.isolRole_keeps
    | with_reducible apply State.laneIrq_keeps
    | with_reducible refine Keeps.foldl ?_ ?_
    | with_reducible refine Keeps.foldl1 ?_ ?_
    | intro _
    | split
    | dsimp only

theorem dropNode_keeps {c₀ : Bool} {s₀ s : State} (f : Flt) (n : Nat) (v : Slice) (w : Home) (e : f.fifo = s.flt.fifo) (h : Keeps c₀ s₀ s) :
    Keeps c₀ s₀ { s with flt := f, slices := tset {} s.slices n v, homes := tset {} s.homes n w } := by
  refine (fenceBit_keeps f e h).trans ⟨rfl, id, id, fun _ => rfl, Nat.le_refl _, List.prefix_refl _, Nat.le_refl _,
    fun h => by dsimp only; exact twf_tset h _ _, fun h => by dsimp only; exact twf_tset h _ _, id, id, id, id, id, id, id, id, id, id⟩

theorem State.stopDomain_keeps {c₀ : Bool} {s₀ s : State} (d : Nat) (D : ImgDomain)  (h : Keeps c₀ s₀ s) : Keeps c₀ s₀ (State.stopDomain s d D) := by
  unfold State.stopDomain
  repeat' first
    | with_reducible assumption
    | with_reducible apply State.raise_keeps
    | with_reducible apply State.setMode_keeps
    | with_reducible apply State.faultPin_keeps
    | with_reducible apply State.isolate_keeps
    | with_reducible apply State.fenceMark_keeps
    | with_reducible refine Keeps.foldl ?_ ?_
    | with_reducible refine Keeps.foldl1 ?_ ?_
    | intro _
    | split
    | dsimp only
    | with_reducible refine dropNode_keeps _ _ _ _ ?_ ?_
    | rfl
    | with_reducible refine Keeps.of ?_ rfl rfl rfl rfl rfl rfl rfl rfl rfl rfl rfl rfl rfl rfl rfl rfl rfl rfl

theorem State.withdraw_keeps {c₀ : Bool} {s₀ s : State} (r : List Res) (e : List ERes)  (h : Keeps c₀ s₀ s) : Keeps c₀ s₀ (State.withdraw s r e) := by
  unfold State.withdraw
  repeat' first
    | with_reducible assumption
    | with_reducible apply State.modGate_keeps
    | with_reducible refine Keeps.foldl ?_ ?_
    | with_reducible refine Keeps.foldl1 ?_ ?_
    | intro _
    | dsimp only

theorem State.fenceWatches_keeps {c₀ : Bool} {s₀ s : State} (isHome : Bool) (n : Nat)  (h : Keeps c₀ s₀ s) : Keeps c₀ s₀ (State.fenceWatches s isHome n) := by
  unfold State.fenceWatches
  repeat' first
    | with_reducible assumption
    | with_reducible apply State.completeErr_keeps
    | with_reducible refine Keeps.foldl ?_ ?_
    | with_reducible refine Keeps.foldl1 ?_ ?_
    | intro _
    | split
    | dsimp only

theorem State.locksLost_keeps {c₀ : Bool} {s₀ s : State} (n : Nat)  (h : Keeps c₀ s₀ s) : Keeps c₀ s₀ (State.locksLost s n) := by
  unfold State.locksLost
  repeat' first
    | with_reducible assumption
    | with_reducible apply State.bumpN_keeps
    | dsimp only

theorem State.writeSpread_keeps {c₀ : Bool} {s₀ s : State} (d : Nat) (D : ImgDomain)  (h : Keeps c₀ s₀ s) : Keeps c₀ s₀ (State.writeSpread s d D) := by
  unfold State.writeSpread
  repeat' first
    | with_reducible assumption
    | with_reducible apply State.modDom_keeps
    | with_reducible refine Keeps.foldl ?_ ?_
    | with_reducible refine Keeps.foldl1 ?_ ?_
    | intro _
    | split
    | dsimp only

theorem State.fenceSlice_keeps {c₀ : Bool} {s₀ s : State} (n : Nat) (code : RecCode) (win : Option Nat) (chn : Bool)  (h : Keeps c₀ s₀ s) : Keeps c₀ s₀ (State.fenceSlice s n code win chn) := by
  unfold State.fenceSlice
  repeat' first
    | with_reducible assumption
    | with_reducible apply State.fenceMark_keeps
    | with_reducible apply State.withdraw_keeps
    | with_reducible apply State.fenceWatches_keeps
    | with_reducible apply State.locksLost_keeps
    | with_reducible apply State.modSlice_keeps
    | with_reducible apply State.splice_keeps
    | with_reducible apply State.writeSpread_keeps
    | split
    | dsimp only

theorem State.handoverRecall_keeps {c₀ : Bool} {s₀ s : State} (d : Nat) (D : ImgDomain) (n : Nat) (g : Nat) (l : LineAddr) (e : DirEnt)  (h : Keeps c₀ s₀ s) : Keeps c₀ s₀ (State.handoverRecall s d D n g l e) := by
  unfold State.handoverRecall
  repeat' first
    | with_reducible assumption
    | with_reducible apply State.modTx_keeps
    | with_reducible apply State.enqHome_keeps
    | with_reducible apply State.sendEp_keeps
    | with_reducible apply State.bump_keeps
    | with_reducible refine Keeps.foldl ?_ ?_
    | with_reducible refine Keeps.foldl1 ?_ ?_
    | intro _
    | split
    | dsimp only

theorem State.handoverStart_keeps {c₀ : Bool} {s₀ s : State} (d : Nat) (D : ImgDomain) (n : Nat)  (h : Keeps c₀ s₀ s) : Keeps c₀ s₀ (State.handoverStart s d D n) := by
  unfold State.handoverStart
  repeat' first
    | with_reducible assumption
    | with_reducible apply State.modHome_keeps
    | with_reducible apply State.handoverRecall_keeps
    | with_reducible refine Keeps.foldl ?_ ?_
    | with_reducible refine Keeps.foldl1 ?_ ?_
    | intro _
    | split
    | dsimp only

theorem State.fenceHome_keeps {c₀ : Bool} {s₀ s : State} (n : Nat) (code : RecCode) (win : Option Nat)  (h : Keeps c₀ s₀ s) : Keeps c₀ s₀ (State.fenceHome s n code win) := by
  unfold State.fenceHome
  repeat' first
    | with_reducible assumption
    | with_reducible apply State.fenceMark_keeps
    | with_reducible apply State.withdraw_keeps
    | with_reducible apply State.fenceWatches_keeps
    | with_reducible apply State.bump_keeps
    | with_reducible apply State.sendEp_keeps
    | with_reducible apply State.bumpN_keeps
    | with_reducible apply State.splice_keeps
    | with_reducible apply State.modHome_keeps
    | with_reducible apply State.handoverStart_keeps
    | with_reducible apply State.writeSpread_keeps
    | with_reducible refine Keeps.foldl ?_ ?_
    | with_reducible refine Keeps.foldl1 ?_ ?_
    | intro _
    | split
    | dsimp only

theorem State.flushRouter_keeps {c₀ : Bool} {s₀ s : State} (n : Nat)  (h : Keeps c₀ s₀ s) : Keeps c₀ s₀ (State.flushRouter s n) := by
  unfold State.flushRouter
  repeat' first
    | with_reducible assumption
    | with_reducible apply State.bumpN_keeps
    | with_reducible apply State.modRouter_keeps
    | with_reducible apply State.report_keeps
    | with_reducible apply State.flushQ_keeps
    | with_reducible refine Keeps.foldl ?_ ?_
    | with_reducible refine Keeps.foldl1 ?_ ?_
    | intro _
    | dsimp only

theorem State.fence_keeps {c₀ : Bool} {s₀ s : State} (u : FenceUnit) (code : RecCode) (win : Option Nat)  (h : Keeps c₀ s₀ s) : Keeps c₀ s₀ (State.fence s u code win) := by
  unfold State.fence
  repeat' first
    | with_reducible assumption
    | with_reducible apply State.fenceMark_keeps
    | with_reducible apply State.modKey_keeps
    | with_reducible apply State.keyRetire_keeps
    | with_reducible apply State.stopDomain_keeps
    | with_reducible apply State.fenceSlice_keeps
    | with_reducible apply State.fenceHome_keeps
    | with_reducible apply State.isolate_keeps
    | with_reducible apply State.modDom_keeps
    | with_reducible apply State.flushRouter_keeps
    | with_reducible refine Keeps.foldl ?_ ?_
    | with_reducible refine Keeps.foldl1 ?_ ?_
    | intro _
    | split
    | dsimp only
    | with_reducible refine fenceBit_keeps _ ?_ ?_
    | exact fenceBit_fifo _ _
    | simp only [fenceBit_fifo]
    | with_reducible refine Keeps.of ?_ rfl rfl rfl rfl rfl rfl rfl rfl rfl rfl rfl rfl rfl rfl rfl rfl rfl rfl

theorem State.cellFence_keeps {c₀ : Bool} {s₀ s : State} (n : Nat)  (h : Keeps c₀ s₀ s) : Keeps c₀ s₀ (State.cellFence s n) := by
  unfold State.cellFence
  repeat' first
    | with_reducible assumption
    | with_reducible apply State.rep_keeps
    | with_reducible apply State.bump_keeps
    | with_reducible apply State.modPool_keeps
    | with_reducible apply State.winHit_keeps
    | with_reducible apply State.fence_keeps
    | split
    | with_reducible refine Keeps.pair (by assumption) ?_
    | dsimp only

theorem State.freeWatch_keeps {c₀ : Bool} {s₀ s : State} (g : Nat) (w : Watch)  (h : Keeps c₀ s₀ s) : Keeps c₀ s₀ (State.freeWatch s g w) := by
  unfold State.freeWatch
  repeat' first
    | with_reducible assumption
    | with_reducible apply State.modGate_keeps
    | dsimp only

theorem State.cellFences_keeps {c₀ : Bool} {s₀ s : State}   (h : Keeps c₀ s₀ s) : Keeps c₀ s₀ (State.cellFences s) := by
  unfold State.cellFences
  repeat' first
    | with_reducible assumption
    | with_reducible apply State.cellFence_keeps
    | with_reducible refine Keeps.foldl ?_ ?_
    | with_reducible refine Keeps.foldl1 ?_ ?_
    | intro _
    | dsimp only

theorem State.freeTail_keeps {c₀ : Bool} {s₀ s : State} (g : Nat) (t : Tail) (lost : Bool)  (h : Keeps c₀ s₀ s) : Keeps c₀ s₀ (State.freeTail s g t lost) := by
  unfold State.freeTail
  repeat' first
    | with_reducible assumption
    | with_reducible apply State.modGate_keeps
    | with_reducible apply State.bump_keeps
    | with_reducible apply State.modBarriers_keeps
    | split
    | dsimp only

theorem State.absorb_keeps {c₀ : Bool} {s₀ s : State} (n : Nat) (u : FUnit) (e : ErrCode)  (h : Keeps c₀ s₀ s) : Keeps c₀ s₀ (State.absorb s n u e) := by
  unfold State.absorb
  repeat' first
    | with_reducible assumption
    | with_reducible apply State.report_keeps
    | with_reducible apply State.bump_keeps
    | dsimp only

theorem State.unfenced_keeps {c₀ : Bool} {s₀ s : State}   (h : Keeps c₀ s₀ s) : Keeps c₀ s₀ (State.unfenced s) := by
  unfold State.unfenced
  repeat' first
    | with_reducible assumption
    | with_reducible apply State.faultPin_keeps
    | with_reducible apply State.setMode_keeps
    | split
    | dsimp only

theorem State.partnerDied_keeps {c₀ : Bool} {s₀ s : State} (p : Nat)  (h : Keeps c₀ s₀ s) : Keeps c₀ s₀ (State.partnerDied s p) := by
  unfold State.partnerDied
  repeat' first
    | with_reducible assumption
    | with_reducible apply State.modPort_keeps
    | with_reducible apply State.rep_keeps
    | with_reducible apply State.isolate_keeps
    | split
    | dsimp only

end Sys2Proof.Machine
end

