-- ==== Sys2Proof/Laws/Keep/Ports.lean ====
section
/-! SUPPORT. What the operations of Machine.Ports keep. -/

namespace Sys2Proof.Machine

open Sys2Proof

set_option linter.unreachableTactic false
set_option linter.unusedTactic false
set_option linter.unusedVariables false
set_option Elab.async false

theorem State.doRetrain_keeps {c₀ : Bool} {s₀ s : State} (p : Nat)  (h : Keeps c₀ s₀ s) : Keeps c₀ s₀ (State.doRetrain s p) := by
  unfold State.doRetrain
  repeat' first
    | with_reducible assumption
    | with_reducible apply State.fastRetrain_keeps
    | split
    | dsimp only

theorem execRetrain_keeps {c₀ : Bool} {s₀ s : State} (p : Nat) (h : Keeps c₀ s₀ s) : ∃ t₁, execRetrain p s = .next t₁ ∧ Keeps c₀ s₀ t₁ := by
  refine ⟨_, rfl, ?_⟩
  repeat' first
    | with_reducible assumption
    | with_reducible apply State.doRetrain_keeps
    | dsimp only

theorem State.tagGood_keeps {c₀ : Bool} {s₀ s : State} (p : Nat) (newKey : Bool)  (h : Keeps c₀ s₀ s) : Keeps c₀ s₀ (State.tagGood s p newKey) := by
  unfold State.tagGood
  repeat' first
    | with_reducible assumption
    | with_reducible apply State.bump_keeps
    | with_reducible apply State.modPort_keeps
    | split
    | dsimp only

theorem State.setWidth_keeps {c₀ : Bool} {s₀ s : State} (d : Nat) (p : Nat)  (h : Keeps c₀ s₀ s) : Keeps c₀ s₀ (State.setWidth s d p) := by
  unfold State.setWidth
  repeat' first
    | with_reducible assumption
    | with_reducible apply State.modPort_keeps
    | with_reducible apply State.modGate_keeps
    | with_reducible refine Keeps.foldl ?_ ?_
    | with_reducible refine Keeps.foldl1 ?_ ?_
    | intro _
    | split
    | dsimp only

theorem State.enterService_keeps {c₀ : Bool} {s₀ s : State} (p : Nat)  (h : Keeps c₀ s₀ s) : Keeps c₀ s₀ (State.enterService s p) := by
  unfold State.enterService
  repeat' first
    | with_reducible assumption
    | with_reducible apply State.modPort_keeps
    | with_reducible apply State.setWidth_keeps
    | with_reducible apply State.groupChg_keeps
    | with_reducible apply State.modDom_keeps
    | with_reducible apply State.laneIrq_keeps
    | split
    | dsimp only

theorem State.doneDisc_keeps {c₀ : Bool} {s₀ s : State} (p : Nat)  (h : Keeps c₀ s₀ s) : Keeps c₀ s₀ (State.doneDisc s p) := by
  unfold State.doneDisc
  repeat' first
    | with_reducible assumption
    | with_reducible apply State.enterService_keeps
    | with_reducible apply State.mgmt_keeps
    | dsimp only

theorem State.timeStepIn_keeps {c₀ : Bool} {s₀ s : State} (d : Nat) (D : ImgDomain)  (h : Keeps c₀ s₀ s) : Keeps c₀ s₀ (State.timeStepIn s d D) := by
  unfold State.timeStepIn
  repeat' first
    | with_reducible assumption
    | with_reducible apply State.modDom_keeps
    | with_reducible apply State.doneDisc_keeps
    | with_reducible refine Keeps.foldl ?_ ?_
    | with_reducible refine Keeps.foldl1 ?_ ?_
    | intro _
    | split
    | dsimp only

theorem State.detachSweep_keeps {c₀ : Bool} {s₀ s : State} (d : Nat) (D : ImgDomain) (g : Nat) (n : Nat)  (h : Keeps c₀ s₀ s) : Keeps c₀ s₀ (State.detachSweep s d D g n) := by
  unfold State.detachSweep
  repeat' first
    | with_reducible assumption
    | with_reducible apply State.sendNear_keeps
    | with_reducible apply State.modSlice_keeps
    | with_reducible refine Keeps.foldl ?_ ?_
    | with_reducible refine Keeps.foldl1 ?_ ?_
    | intro _
    | split
    | dsimp only

theorem State.forceRecall_keeps {c₀ : Bool} {s₀ s : State} (d : Nat) (D : ImgDomain) (p : Nat) (n : Nat)  (h : Keeps c₀ s₀ s) : Keeps c₀ s₀ (State.forceRecall s d D p n) := by
  unfold State.forceRecall
  repeat' first
    | with_reducible assumption
    | with_reducible apply State.enqHome_keeps
    | with_reducible refine Keeps.foldl ?_ ?_
    | with_reducible refine Keeps.foldl1 ?_ ?_
    | intro _
    | split
    | dsimp only

theorem State.detachWork_keeps {c₀ : Bool} {s₀ s : State} (p : Nat)  (h : Keeps c₀ s₀ s) : Keeps c₀ s₀ (State.detachWork s p) := by
  unfold State.detachWork
  repeat' first
    | with_reducible assumption
    | with_reducible apply State.mgmt_keeps
    | with_reducible apply State.detachSweep_keeps
    | with_reducible apply State.forceRecall_keeps
    | with_reducible refine Keeps.foldl ?_ ?_
    | with_reducible refine Keeps.foldl1 ?_ ?_
    | intro _
    | split
    | dsimp only

theorem execDetachReq_keeps {c₀ : Bool} {s₀ s : State} (p : Nat) (h : Keeps c₀ s₀ s) : ∃ t₁, execDetachReq p s = .next t₁ ∧ Keeps c₀ s₀ t₁ := by
  refine ⟨_, rfl, ?_⟩
  repeat' first
    | with_reducible assumption
    | with_reducible apply State.gotFlits_keeps
    | with_reducible apply State.modPort_keeps
    | with_reducible apply State.detachWork_keeps
    | with_reducible apply State.mgmt_keeps
    | split
    | dsimp only

theorem execLack_keeps {c₀ : Bool} {s₀ s : State} (p : Nat) (seq : BitVec 16) (h : Keeps c₀ s₀ s) : ∃ t₁, execLack p seq s = .next t₁ ∧ Keeps c₀ s₀ t₁ := by
  refine ⟨_, rfl, ?_⟩
  repeat' first
    | with_reducible assumption
    | with_reducible apply State.bump_keeps
    | with_reducible apply State.modPort_keeps
    | split
    | dsimp only

theorem State.reject_keeps {c₀ : Bool} {s₀ s : State} (p : Nat) (r : Nat)  (h : Keeps c₀ s₀ s) : Keeps c₀ s₀ (State.reject s p r) := by
  unfold State.reject
  repeat' first
    | with_reducible assumption
    | with_reducible apply State.modPort_keeps
    | with_reducible apply State.mgmt_keeps
    | with_reducible apply State.bump_keeps
    | with_reducible apply State.raise_keeps
    | with_reducible apply State.laneIrq_keeps
    | split
    | dsimp only

theorem State.sendShare_keeps {c₀ : Bool} {s₀ s : State} (p : Nat) (share : BitVec 768)  (h : Keeps c₀ s₀ s) : Keeps c₀ s₀ (State.sendShare s p share) := by
  unfold State.sendShare
  repeat' first
    | with_reducible assumption
    | with_reducible apply State.mgmtFlit_keeps
    | with_reducible apply State.emit_keeps
    | dsimp only

theorem State.ownShare_keeps {c₀ : Bool} {s₀ s : State} (p : Nat)  (h : Keeps c₀ s₀ s) : Keeps c₀ s₀ (State.ownShare s p) := by
  unfold State.ownShare
  repeat' first
    | with_reducible assumption
    | with_reducible apply State.drawn_keeps
    | with_reducible apply State.sendShare_keeps
    | with_reducible apply State.modPort_keeps
    | dsimp only

theorem State.discCfgIn_keeps {c₀ : Bool} {s₀ s : State} (p : Nat) (x : DiscCfg)  (h : Keeps c₀ s₀ s) : Keeps c₀ s₀ (State.discCfgIn s p x) := by
  unfold State.discCfgIn
  repeat' first
    | with_reducible assumption
    | with_reducible apply State.modPort_keeps
    | with_reducible apply State.reject_keeps
    | with_reducible apply State.ownShare_keeps
    | split
    | dsimp only

theorem execDiscCfg_keeps {c₀ : Bool} {s₀ s : State} (p : Nat) (x : DiscCfg) (h : Keeps c₀ s₀ s) : ∃ t₁, execDiscCfg p x s = .next t₁ ∧ Keeps c₀ s₀ t₁ := by
  refine ⟨_, rfl, ?_⟩
  repeat' first
    | with_reducible assumption
    | with_reducible apply State.discCfgIn_keeps
    | with_reducible apply State.gotFlits_keeps
    | split
    | dsimp only

theorem State.toDetect_keeps {c₀ : Bool} {s₀ s : State} (p : Nat)  (h : Keeps c₀ s₀ s) : Keeps c₀ s₀ (State.toDetect s p) := by
  unfold State.toDetect
  repeat' first
    | with_reducible assumption
    | with_reducible apply State.modPort_keeps
    | dsimp only

theorem State.toFind_keeps {c₀ : Bool} {s₀ s : State} (p : Nat) (k : Nat)  (h : Keeps c₀ s₀ s) : Keeps c₀ s₀ (State.toFind s p k) := by
  unfold State.toFind
  repeat' first
    | with_reducible assumption
    | with_reducible apply State.modPort_keeps
    | with_reducible apply State.mgmtFlit_keeps
    | with_reducible apply State.emit_keeps
    | dsimp only

theorem State.trainPort_keeps {c₀ : Bool} {s₀ s : State} (p : Nat) (x : TrainResult)  (h : Keeps c₀ s₀ s) : Keeps c₀ s₀ (State.trainPort s p x) := by
  unfold State.trainPort
  repeat' first
    | with_reducible assumption
    | with_reducible apply State.modPort_keeps
    | with_reducible apply State.toDetect_keeps
    | with_reducible apply State.toFind_keeps
    | split
    | dsimp only

theorem execDiscTimeout_keeps {c₀ : Bool} {s₀ s : State} (p : Nat) (h : Keeps c₀ s₀ s) : ∃ t₁, execDiscTimeout p s = .next t₁ ∧ Keeps c₀ s₀ t₁ := by
  refine ⟨_, rfl, ?_⟩
  repeat' first
    | with_reducible assumption
    | with_reducible apply State.reject_keeps
    | split
    | dsimp only

theorem State.isolTails_keeps {c₀ : Bool} {s₀ s : State} (p : Nat)  (h : Keeps c₀ s₀ s) : Keeps c₀ s₀ (State.isolTails s p) := by
  unfold State.isolTails
  repeat' first
    | with_reducible assumption
    | with_reducible apply State.freeTail_keeps
    | with_reducible refine Keeps.foldl ?_ ?_
    | with_reducible refine Keeps.foldl1 ?_ ?_
    | intro _
    | dsimp only

theorem State.isolEnd_keeps {c₀ : Bool} {s₀ s : State} (p : Nat)  (h : Keeps c₀ s₀ s) : Keeps c₀ s₀ (State.isolEnd s p) := by
  unfold State.isolEnd
  repeat' first
    | with_reducible assumption
    | with_reducible apply State.isolTails_keeps
    | with_reducible apply State.modPool_keeps
    | with_reducible apply State.modPort_keeps
    | with_reducible apply State.toDetect_keeps
    | split
    | dsimp only

theorem execTsyncExchange_keeps {c₀ : Bool} {s₀ s : State} (p : Nat) (t1 : Stamp) (h : Keeps c₀ s₀ s) : ∃ t₁, execTsyncExchange p t1 s = .next t₁ ∧ Keeps c₀ s₀ t₁ := by
  refine ⟨_, rfl, ?_⟩
  repeat' first
    | with_reducible assumption
    | with_reducible apply State.mgmtFlit_keeps
    | with_reducible apply State.emit_keeps
    | with_reducible apply State.modPort_keeps
    | split
    | dsimp only

theorem State.voidWatch_keeps {c₀ : Bool} {s₀ s : State} (g : Nat) (w : Watch) (c : VoidCause) (agent : Agent)  (h : Keeps c₀ s₀ s) : Keeps c₀ s₀ (State.voidWatch s g w c agent) := by
  unfold State.voidWatch
  repeat' first
    | with_reducible assumption
    | with_reducible apply State.bump_keeps
    | with_reducible apply State.modGate_keeps
    | split
    | dsimp only

theorem State.voidAll_keeps {c₀ : Bool} {s₀ s : State} (p : Watch → Bool) (c : VoidCause) (agent : Agent)  (h : Keeps c₀ s₀ s) : Keeps c₀ s₀ (State.voidAll s p c agent) := by
  unfold State.voidAll
  repeat' first
    | with_reducible assumption
    | with_reducible apply State.voidWatch_keeps
    | with_reducible refine Keeps.foldl ?_ ?_
    | with_reducible refine Keeps.foldl1 ?_ ?_
    | intro _
    | dsimp only

theorem State.syncLoss_keeps {c₀ : Bool} {s₀ s : State} (d : Nat)  (h : Keeps c₀ s₀ s) : Keeps c₀ s₀ (State.syncLoss s d) := by
  unfold State.syncLoss
  repeat' first
    | with_reducible assumption
    | with_reducible apply State.voidAll_keeps
    | with_reducible apply State.modDom_keeps
    | split
    | dsimp only

theorem State.steerDom_keeps {c₀ : Bool} {s₀ s : State} (d : Nat) (D : ImgDomain) (p : Nat)  (h : Keeps c₀ s₀ s) : Keeps c₀ s₀ (State.steerDom s d D p) := by
  unfold State.steerDom
  repeat' first
    | with_reducible assumption
    | with_reducible apply State.modDom_keeps
    | with_reducible apply State.syncLoss_keeps
    | split
    | dsimp only

theorem execTrain_keeps {c₀ : Bool} {s₀ s : State} (p : Nat) (x : TrainResult) (h : Keeps c₀ s₀ s) : ∃ t₁, execTrain p x s = .next t₁ ∧ Keeps c₀ s₀ t₁ := by
  refine ⟨_, rfl, ?_⟩
  repeat' first
    | with_reducible assumption
    | with_reducible apply State.trainPort_keeps
    | with_reducible apply State.toDetect_keeps
    | split
    | dsimp only

theorem execPartnerDead_keeps {c₀ : Bool} {s₀ s : State} (p : Nat) (h : Keeps c₀ s₀ s) : ∃ t₁, execPartnerDead p s = .next t₁ ∧ Keeps c₀ s₀ t₁ := by
  refine ⟨_, rfl, ?_⟩
  repeat' first
    | with_reducible assumption
    | with_reducible apply State.partnerDied_keeps
    | split
    | dsimp only

theorem execDiscRej_keeps {c₀ : Bool} {s₀ s : State} (p : Nat) (r : Nat) (h : Keeps c₀ s₀ s) : ∃ t₁, execDiscRej p r s = .next t₁ ∧ Keeps c₀ s₀ t₁ := by
  refine ⟨_, rfl, ?_⟩
  repeat' first
    | with_reducible assumption
    | with_reducible apply State.laneIrq_keeps
    | with_reducible apply State.modPort_keeps
    | with_reducible apply State.gotFlits_keeps
    | split
    | dsimp only

theorem State.tagBad_keeps {c₀ : Bool} {s₀ s : State} (p : Nat)  (h : Keeps c₀ s₀ s) : Keeps c₀ s₀ (State.tagBad s p) := by
  unfold State.tagBad
  repeat' first
    | with_reducible assumption
    | with_reducible apply State.bump_keeps
    | with_reducible apply State.modPort_keeps
    | with_reducible apply State.linkFlit_keeps
    | with_reducible apply State.partnerDied_keeps
    | split
    | dsimp only

theorem execTag_keeps {c₀ : Bool} {s₀ s : State} (p : Nat) (block : Nat) (flits : List (BitVec 672)) (tagBits : BitVec 128) (newKey : Bool) (h : Keeps c₀ s₀ s) : ∃ t₁, execTag p block flits tagBits newKey s = .next t₁ ∧ Keeps c₀ s₀ t₁ := by
  refine ⟨_, rfl, ?_⟩
  repeat' first
    | with_reducible assumption
    | with_reducible apply State.tagGood_keeps
    | with_reducible apply State.tagBad_keeps
    | split
    | dsimp only

theorem execLnak_keeps {c₀ : Bool} {s₀ s : State} (p : Nat) (seq : BitVec 16) (h : Keeps c₀ s₀ s) : ∃ t₁, execLnak p seq s = .next t₁ ∧ Keeps c₀ s₀ t₁ := by
  refine ⟨_, rfl, ?_⟩
  repeat' first
    | with_reducible assumption
    | with_reducible apply State.bump_keeps
    | with_reducible apply State.modPort_keeps
    | with_reducible apply State.resendFrom_keeps
    | with_reducible apply State.fastRetrain_keeps
    | split
    | dsimp only

theorem execDetect_keeps {c₀ : Bool} {s₀ s : State} (p : Nat) (awake : Bool) (h : Keeps c₀ s₀ s) : ∃ t₁, execDetect p awake s = .next t₁ ∧ Keeps c₀ s₀ t₁ := by
  refine ⟨_, rfl, ?_⟩
  repeat' first
    | with_reducible assumption
    | with_reducible apply State.modPort_keeps
    | split
    | dsimp only

theorem State.doPortDrain_keeps {c₀ : Bool} {s₀ s : State} (p : Nat)  (h : Keeps c₀ s₀ s) : Keeps c₀ s₀ (State.doPortDrain s p) := by
  unfold State.doPortDrain
  repeat' first
    | with_reducible assumption
    | with_reducible apply State.modPort_keeps
    | with_reducible apply State.mgmt_keeps
    | split
    | dsimp only

theorem execPortDrain_keeps {c₀ : Bool} {s₀ s : State} (p : Nat) (h : Keeps c₀ s₀ s) : ∃ t₁, execPortDrain p s = .next t₁ ∧ Keeps c₀ s₀ t₁ := by
  refine ⟨_, rfl, ?_⟩
  repeat' first
    | with_reducible assumption
    | with_reducible apply State.doPortDrain_keeps
    | dsimp only

theorem State.retrainEnd_keeps {c₀ : Bool} {s₀ s : State} (p : Nat) (ok : Bool)  (h : Keeps c₀ s₀ s) : Keeps c₀ s₀ (State.retrainEnd s p ok) := by
  unfold State.retrainEnd
  repeat' first
    | with_reducible assumption
    | with_reducible apply State.modPort_keeps
    | with_reducible apply State.bump_keeps
    | with_reducible apply State.winHit_keeps
    | with_reducible apply State.fence_keeps
    | with_reducible apply State.resendAll_keeps
    | with_reducible apply State.partnerDied_keeps
    | split
    | with_reducible refine Keeps.pair (by assumption) ?_
    | dsimp only

theorem execFastRetrainEnd_keeps {c₀ : Bool} {s₀ s : State} (p : Nat) (ok : Bool) (h : Keeps c₀ s₀ s) : ∃ t₁, execFastRetrainEnd p ok s = .next t₁ ∧ Keeps c₀ s₀ t₁ := by
  refine ⟨_, rfl, ?_⟩
  repeat' first
    | with_reducible assumption
    | with_reducible apply State.retrainEnd_keeps
    | split
    | dsimp only

theorem State.tsyncIn_keeps {c₀ : Bool} {s₀ s : State} (p : Nat) (off : Int) (sync : Bool) (idx : Nat) (hops : Nat)  (h : Keeps c₀ s₀ s) : Keeps c₀ s₀ (State.tsyncIn s p off sync idx hops) := by
  unfold State.tsyncIn
  repeat' first
    | with_reducible assumption
    | with_reducible apply State.modPort_keeps
    | with_reducible apply State.bump_keeps
    | with_reducible apply State.modDom_keeps
    | with_reducible apply State.steerDom_keeps
    | split
    | dsimp only

theorem execTsyncReq_keeps {c₀ : Bool} {s₀ s : State} (p : Nat) (t1 : Stamp) (t2 : Stamp) (t3 : Stamp) (h : Keeps c₀ s₀ s) : ∃ t₁, execTsyncReq p t1 t2 t3 s = .next t₁ ∧ Keeps c₀ s₀ t₁ := by
  refine ⟨_, rfl, ?_⟩
  repeat' first
    | with_reducible assumption
    | with_reducible apply State.mgmtFlit_keeps
    | with_reducible apply State.emit_keeps
    | with_reducible apply State.gotFlits_keeps
    | split
    | dsimp only

theorem execDetachAck_keeps {c₀ : Bool} {s₀ s : State} (p : Nat) (h : Keeps c₀ s₀ s) : ∃ t₁, execDetachAck p s = .next t₁ ∧ Keeps c₀ s₀ t₁ := by
  refine ⟨_, rfl, ?_⟩
  repeat' first
    | with_reducible assumption
    | with_reducible apply State.detachWork_keeps
    | with_reducible apply State.modPort_keeps
    | with_reducible apply State.gotFlits_keeps
    | split
    | dsimp only

theorem State.discIdIn_keeps {c₀ : Bool} {s₀ s : State} (p : Nat) (x : DiscId)  (h : Keeps c₀ s₀ s) : Keeps c₀ s₀ (State.discIdIn s p x) := by
  unfold State.discIdIn
  repeat' first
    | with_reducible assumption
    | with_reducible apply State.modPort_keeps
    | with_reducible apply State.reject_keeps
    | with_reducible apply State.mgmtFlit_keeps
    | with_reducible apply State.emit_keeps
    | split
    | dsimp only

theorem execTimeStep_keeps {c₀ : Bool} {s₀ s : State} (d : Nat) (h : Keeps c₀ s₀ s) : ∃ t₁, execTimeStep d s = .next t₁ ∧ Keeps c₀ s₀ t₁ := by
  refine ⟨_, rfl, ?_⟩
  repeat' first
    | with_reducible assumption
    | with_reducible apply State.timeStepIn_keeps
    | split
    | dsimp only

theorem execDiscId_keeps {c₀ : Bool} {s₀ s : State} (p : Nat) (x : DiscId) (h : Keeps c₀ s₀ s) : ∃ t₁, execDiscId p x s = .next t₁ ∧ Keeps c₀ s₀ t₁ := by
  refine ⟨_, rfl, ?_⟩
  repeat' first
    | with_reducible assumption
    | with_reducible apply State.discIdIn_keeps
    | with_reducible apply State.gotFlits_keeps
    | split
    | dsimp only

theorem State.breach_keeps {c₀ : Bool} {s₀ s : State} (p : Nat) (d : Nat) (c : VoidCause) (l : LineAddr)  (h : Keeps c₀ s₀ s) : Keeps c₀ s₀ (State.breach s p d c l) := by
  unfold State.breach
  repeat' first
    | with_reducible assumption
    | with_reducible apply State.rep_keeps
    | with_reducible apply State.bump_keeps
    | dsimp only

theorem execFailedReturn_keeps {c₀ : Bool} {s₀ s : State} (p : Nat) (h : Keeps c₀ s₀ s) : ∃ t₁, execFailedReturn p s = .next t₁ ∧ Keeps c₀ s₀ t₁ := by
  refine ⟨_, rfl, ?_⟩
  repeat' first
    | with_reducible assumption
    | with_reducible apply State.toDetect_keeps
    | split
    | dsimp only

theorem execLinkKeyExchange_keeps {c₀ : Bool} {s₀ s : State} (p : Nat) (share : BitVec 768) (sig : BitVec 4096) (root : BitVec 512) (h : Keeps c₀ s₀ s) : ∃ t₁, execLinkKeyExchange p share sig root s = .next t₁ ∧ Keeps c₀ s₀ t₁ := by
  refine ⟨_, rfl, ?_⟩
  repeat' first
    | with_reducible assumption
    | with_reducible apply State.drawn_keeps
    | with_reducible apply State.sendShare_keeps
    | with_reducible apply State.modPort_keeps
    | with_reducible apply State.gotFlits_keeps
    | split
    | dsimp only

theorem execTrainingBudget_keeps {c₀ : Bool} {s₀ s : State} (p : Nat) (x : TrainResult) (h : Keeps c₀ s₀ s) : ∃ t₁, execTrainingBudget p x s = .next t₁ ∧ Keeps c₀ s₀ t₁ := by
  refine ⟨_, rfl, ?_⟩
  repeat' first
    | with_reducible assumption
    | with_reducible apply State.trainPort_keeps
    | with_reducible apply State.toDetect_keeps
    | with_reducible apply State.modPort_keeps
    | split
    | dsimp only

theorem execTsyncRsp_keeps {c₀ : Bool} {s₀ s : State} (p : Nat) (t1 : Stamp) (t2 : Stamp) (t3 : Stamp) (t4 : Stamp) (sync : Bool) (idx : Nat) (hops : Nat) (h : Keeps c₀ s₀ s) : ∃ t₁, execTsyncRsp p t1 t2 t3 t4 sync idx hops s = .next t₁ ∧ Keeps c₀ s₀ t₁ := by
  refine ⟨_, rfl, ?_⟩
  repeat' first
    | with_reducible assumption
    | with_reducible apply State.tsyncIn_keeps
    | with_reducible apply State.modPort_keeps
    | with_reducible apply State.gotFlits_keeps
    | split
    | dsimp only

theorem execDrainFallback_keeps {c₀ : Bool} {s₀ s : State} (p : Nat) (h : Keeps c₀ s₀ s) : ∃ t₁, execDrainFallback p s = .next t₁ ∧ Keeps c₀ s₀ t₁ := by
  refine ⟨_, rfl, ?_⟩
  repeat' first
    | with_reducible assumption
    | with_reducible apply State.isolate_keeps
    | with_reducible apply State.modPort_keeps
    | split
    | dsimp only

theorem execIsolationEnd_keeps {c₀ : Bool} {s₀ s : State} (p : Nat) (h : Keeps c₀ s₀ s) : ∃ t₁, execIsolationEnd p s = .next t₁ ∧ Keeps c₀ s₀ t₁ := by
  refine ⟨_, rfl, ?_⟩
  repeat' first
    | with_reducible assumption
    | with_reducible apply State.isolEnd_keeps
    | split
    | dsimp only

theorem State.standbyIn_keeps {c₀ : Bool} {s₀ s : State}   (h : Keeps c₀ s₀ s) : Keeps c₀ s₀ (State.standbyIn s) := by
  unfold State.standbyIn
  repeat' first
    | with_reducible assumption
    | with_reducible apply State.enterService_keeps
    | with_reducible refine Keeps.foldl ?_ ?_
    | with_reducible refine Keeps.foldl1 ?_ ?_
    | intro _
    | split
    | dsimp only

theorem State.discFinish_keeps {c₀ : Bool} {s₀ s : State} (p : Nat) (offset : Int)  (h : Keeps c₀ s₀ s) : Keeps c₀ s₀ (State.discFinish s p offset) := by
  unfold State.discFinish
  repeat' first
    | with_reducible assumption
    | with_reducible apply State.doneDisc_keeps
    | with_reducible apply State.modDom_keeps
    | with_reducible apply State.reject_keeps
    | with_reducible apply State.modPort_keeps
    | split
    | dsimp only

theorem State.leaveService_keeps {c₀ : Bool} {s₀ s : State} (p : Nat)  (h : Keeps c₀ s₀ s) : Keeps c₀ s₀ (State.leaveService s p) := by
  unfold State.leaveService
  repeat' first
    | with_reducible assumption
    | with_reducible apply State.modPort_keeps
    | with_reducible apply State.mgmt_keeps
    | with_reducible apply State.modDom_keeps
    | with_reducible apply State.laneIrq_keeps
    | split
    | dsimp only

theorem execDetachDone_keeps {c₀ : Bool} {s₀ s : State} (p : Nat) (h : Keeps c₀ s₀ s) : ∃ t₁, execDetachDone p s = .next t₁ ∧ Keeps c₀ s₀ t₁ := by
  refine ⟨_, rfl, ?_⟩
  repeat' first
    | with_reducible assumption
    | with_reducible apply State.leaveService_keeps
    | split
    | dsimp only

theorem execSyncLost_keeps {c₀ : Bool} {s₀ s : State} (d : Nat) (h : Keeps c₀ s₀ s) : ∃ t₁, execSyncLost d s = .next t₁ ∧ Keeps c₀ s₀ t₁ := by
  refine ⟨_, rfl, ?_⟩
  repeat' first
    | with_reducible assumption
    | with_reducible apply State.syncLoss_keeps
    | split
    | dsimp only

theorem execDiscDone_keeps {c₀ : Bool} {s₀ s : State} (p : Nat) (offset : Int) (h : Keeps c₀ s₀ s) : ∃ t₁, execDiscDone p offset s = .next t₁ ∧ Keeps c₀ s₀ t₁ := by
  refine ⟨_, rfl, ?_⟩
  repeat' first
    | with_reducible assumption
    | with_reducible apply State.reject_keeps
    | with_reducible apply State.gotFlits_keeps
    | with_reducible apply State.discFinish_keeps
    | split
    | dsimp only

theorem execDiscKeyx_keeps {c₀ : Bool} {s₀ s : State} (p : Nat) (share : BitVec 768) (sig : BitVec 4096) (root : BitVec 512) (h : Keeps c₀ s₀ s) : ∃ t₁, execDiscKeyx p share sig root s = .next t₁ ∧ Keeps c₀ s₀ t₁ := by
  refine ⟨_, rfl, ?_⟩
  repeat' first
    | with_reducible assumption
    | with_reducible apply State.gotFlits_keeps
    | with_reducible apply State.ownShare_keeps
    | with_reducible apply State.modPort_keeps
    | with_reducible apply State.reject_keeps
    | split
    | dsimp only

end Sys2Proof.Machine
end

