-- ==== Sys2Proof/Laws/Keep/Calendar.lean ====
section
/-! SUPPORT. What the operations of Machine.Calendar keep. -/

namespace Sys2Proof.Machine

open Sys2Proof

set_option linter.unreachableTactic false
set_option linter.unusedTactic false
set_option linter.unusedVariables false
set_option Elab.async false

theorem State.injToken_keeps {c₀ : Bool} {s₀ s : State} (d : Nat) (n : Nat) (k : Nat) (c : Nat)  (h : Keeps c₀ s₀ s) : Keeps c₀ s₀ (State.injToken s d n k c).1 := by
  unfold State.injToken
  repeat' first
    | with_reducible assumption
    | with_reducible apply State.modHome_keeps
    | with_reducible apply State.modSlice_keeps
    | split
    | dsimp only

end Sys2Proof.Machine
end

