-- ==== Sys2Proof/Laws/Keep/Spore.lean ====
section
/-! SUPPORT. What the operations of Machine.Spore keep. -/

namespace Sys2Proof.Machine

open Sys2Proof

set_option linter.unreachableTactic false
set_option linter.unusedTactic false
set_option linter.unusedVariables false
set_option Elab.async false

theorem State.setTraces_keeps {c₀ : Bool} {s₀ s : State} (d : Nat) (es : List SporeEnt)  (h : Keeps c₀ s₀ s) : Keeps c₀ s₀ (State.setTraces s d es) := by
  unfold State.setTraces
  repeat' first
    | with_reducible assumption
    | dsimp only
    | with_reducible refine Keeps.of ?_ rfl rfl rfl rfl rfl rfl rfl rfl rfl rfl rfl rfl rfl rfl rfl rfl rfl rfl

theorem State.sample_keeps {c₀ : Bool} {s₀ s : State} (d : Nat) (g : Nat) (e : SporeEnt)  (h : Keeps c₀ s₀ s) : Keeps c₀ s₀ (State.sample s d g e) := by
  unfold State.sample
  repeat' first
    | with_reducible assumption
    | with_reducible apply State.modGate_keeps
    | with_reducible apply State.bump_keeps
    | with_reducible apply State.setTraces_keeps
    | split
    | dsimp only

theorem State.stamp_keeps {c₀ : Bool} {s₀ s : State} (d : Nat) (l : LineAddr) (who : Option Endpoint) (k : Nat)  (h : Keeps c₀ s₀ s) : Keeps c₀ s₀ (State.stamp s d l who k) := by
  unfold State.stamp
  repeat' first
    | with_reducible assumption
    | with_reducible apply State.setTraces_keeps
    | split
    | dsimp only

theorem State.tracePath_keeps {c₀ : Bool} {s₀ s : State} (d : Nat) (l : LineAddr) (bit : Nat)  (h : Keeps c₀ s₀ s) : Keeps c₀ s₀ (State.tracePath s d l bit) := by
  unfold State.tracePath
  repeat' first
    | with_reducible assumption
    | with_reducible apply State.setTraces_keeps
    | split
    | dsimp only

theorem State.traceEnd_keeps {c₀ : Bool} {s₀ s : State} (d : Nat) (l : LineAddr) (req : Endpoint) (err : ErrCode)  (h : Keeps c₀ s₀ s) : Keeps c₀ s₀ (State.traceEnd s d l req err) := by
  unfold State.traceEnd
  repeat' first
    | with_reducible assumption
    | with_reducible apply State.setTraces_keeps
    | with_reducible apply State.irq_keeps
    | with_reducible apply State.bump_keeps
    | with_reducible apply State.emit_keeps
    | split
    | dsimp only
    | with_reducible refine Keeps.of ?_ rfl rfl rfl rfl rfl rfl rfl rfl rfl rfl rfl rfl rfl rfl rfl rfl rfl rfl

end Sys2Proof.Machine
end

