-- ==== Sys2Proof/Laws/Keep/Gate.lean ====
section
/-! SUPPORT. What the operations of Machine.Gate keep. -/

namespace Sys2Proof.Machine

open Sys2Proof

set_option linter.unreachableTactic false
set_option linter.unusedTactic false
set_option linter.unusedVariables false
set_option Elab.async false

theorem State.admEdge_keeps {c₀ : Bool} {s₀ s : State} (g : Nat) (e : Nat)  (h : Keeps c₀ s₀ s) : Keeps c₀ s₀ (State.admEdge s g e).1 := by
  unfold State.admEdge
  repeat' first
    | with_reducible assumption
    | with_reducible apply State.modGate_keeps
    | dsimp only

theorem State.refuse_keeps {c₀ : Bool} {s₀ s : State} (a : Adm) (e : ErrCode) (k : Nat)  (h : Keeps c₀ s₀ s) : Keeps c₀ s₀ (State.refuse s a e k) := by
  unfold State.refuse
  repeat' first
    | with_reducible assumption
    | with_reducible apply State.bump_keeps
    | with_reducible apply State.gateAnswer_keeps
    | dsimp only

theorem State.sendRetry_keeps {c₀ : Bool} {s₀ s : State} (a : Adm) (r : Reason) (at_ : KTime) (h1 : Option Nat)  (h : Keeps c₀ s₀ s) : Keeps c₀ s₀ (State.sendRetry s a r at_ h1) := by
  unfold State.sendRetry
  repeat' first
    | with_reducible assumption
    | with_reducible apply State.bump_keeps
    | with_reducible apply State.gateAnswer_keeps
    | with_reducible apply State.page_keeps
    | split
    | dsimp only

theorem State.retryNew_keeps {c₀ : Bool} {s₀ s : State} (a : Adm) (r : Reason) (at_ : KTime) (h1 : Option Nat)  (h : Keeps c₀ s₀ s) : Keeps c₀ s₀ (State.retryNew s a r at_ h1) := by
  unfold State.retryNew
  repeat' first
    | with_reducible assumption
    | with_reducible apply State.modGate_keeps
    | with_reducible apply State.sendRetry_keeps
    | split
    | dsimp only

theorem State.takeIn_keeps {c₀ : Bool} {s₀ s : State} (a : Adm) (t : Target) (us : List CalUnit) (onHold : Bool)  (h : Keeps c₀ s₀ s) : Keeps c₀ s₀ (State.takeIn s a t us onHold) := by
  unfold State.takeIn
  repeat' first
    | with_reducible assumption
    | with_reducible apply State.modGate_keeps
    | with_reducible apply State.modPort_keeps
    | with_reducible apply State.page_keeps
    | with_reducible apply State.bump_keeps
    | with_reducible apply State.sample_keeps
    | with_reducible apply State.injectGate_keeps
    | split
    | dsimp only

theorem State.admitCal_keeps {c₀ : Bool} {s₀ s : State} (a : Adm) (t : Target)  (h : Keeps c₀ s₀ s) : Keeps c₀ s₀ (State.admitCal s a t) := by
  unfold State.admitCal
  repeat' first
    | with_reducible assumption
    | with_reducible apply State.takeIn_keeps
    | with_reducible apply State.modGate_keeps
    | with_reducible apply State.retryNew_keeps
    | with_reducible apply State.bump_keeps
    | split
    | dsimp only

theorem State.admitEntries_keeps {c₀ : Bool} {s₀ s : State} (a : Adm) (t : Target) (hm : Option Hold)  (h : Keeps c₀ s₀ s) : Keeps c₀ s₀ (State.admitEntries s a t hm) := by
  unfold State.admitEntries
  repeat' first
    | with_reducible assumption
    | with_reducible apply State.modGate_keeps
    | with_reducible apply State.retryNew_keeps
    | with_reducible apply State.takeIn_keeps
    | with_reducible apply State.bump_keeps
    | with_reducible apply State.admitCal_keeps
    | split
    | dsimp only

theorem State.admitRoom_keeps {c₀ : Bool} {s₀ s : State} (a : Adm) (t : Target) (hm : Option Hold)  (h : Keeps c₀ s₀ s) : Keeps c₀ s₀ (State.admitRoom s a t hm) := by
  unfold State.admitRoom
  repeat' first
    | with_reducible assumption
    | with_reducible apply State.retryNew_keeps
    | with_reducible apply State.admitEntries_keeps
    | split
    | dsimp only

theorem State.admitLocal_keeps {c₀ : Bool} {s₀ s : State} (a : Adm) (e : RngEnt)  (h : Keeps c₀ s₀ s) : Keeps c₀ s₀ (State.admitLocal s a e) := by
  unfold State.admitLocal
  repeat' first
    | with_reducible assumption
    | with_reducible apply State.retryNew_keeps
    | with_reducible apply State.admitRoom_keeps
    | with_reducible apply State.sendRetry_keeps
    | with_reducible apply State.bump_keeps
    | split
    | dsimp only

theorem State.admitNear_keeps {c₀ : Bool} {s₀ s : State} (a : Adm)  (h : Keeps c₀ s₀ s) : Keeps c₀ s₀ (State.admitNear s a) := by
  unfold State.admitNear
  repeat' first
    | with_reducible assumption
    | with_reducible apply State.refuse_keeps
    | with_reducible apply State.bump_keeps
    | with_reducible apply State.gateAnswer_keeps
    | with_reducible apply State.admitLocal_keeps
    | split
    | dsimp only

theorem State.writerReq_keeps {c₀ : Bool} {s₀ s : State} (d : Nat) (m : Msg)  (h : Keeps c₀ s₀ s) : Keeps c₀ s₀ (State.writerReq s d m) := by
  unfold State.writerReq
  repeat' first
    | with_reducible assumption
    | with_reducible apply State.admEdge_keeps
    | with_reducible apply State.admitNear_keeps
    | split
    | with_reducible refine Keeps.pair (by assumption) ?_
    | dsimp only

theorem State.atPort_keeps {c₀ : Bool} {s₀ s : State} (p : Nat) (m : Msg) {f : State → State} (hf : ∀ s, Keeps c₀ s₀ s → Keeps c₀ s₀ (f s)) (h : Keeps c₀ s₀ s) : Keeps c₀ s₀ (State.atPort s p m f) := by
  unfold State.atPort
  repeat' first
    | with_reducible assumption
    | with_reducible apply hf
    | with_reducible apply State.takeCredit_keeps
    | with_reducible apply State.leaveIngress_keeps
    | intro _
    | split
    | with_reducible refine Keeps.pair (by assumption) ?_
    | dsimp only

theorem State.ingressEdge_keeps {c₀ : Bool} {s₀ s : State} (g : Nat) (k : Nat)  (h : Keeps c₀ s₀ s) : Keeps c₀ s₀ (State.ingressEdge s g k).1 := by
  unfold State.ingressEdge
  repeat' first
    | with_reducible assumption
    | with_reducible apply State.modGate_keeps
    | split
    | dsimp only

theorem State.takeCarried_keeps {c₀ : Bool} {s₀ s : State} (a : Adm) (onward : Option Nat)  (h : Keeps c₀ s₀ s) : Keeps c₀ s₀ (State.takeCarried s a onward) := by
  unfold State.takeCarried
  repeat' first
    | with_reducible assumption
    | with_reducible apply State.modGate_keeps
    | with_reducible apply State.modPort_keeps
    | with_reducible apply State.voidWatch_keeps
    | with_reducible apply State.page_keeps
    | with_reducible apply State.bump_keeps
    | with_reducible apply State.sample_keeps
    | with_reducible apply State.injectGate_keeps
    | split
    | dsimp only

theorem State.admitCarried_keeps {c₀ : Bool} {s₀ s : State} (a : Adm)  (h : Keeps c₀ s₀ s) : Keeps c₀ s₀ (State.admitCarried s a) := by
  unfold State.admitCarried
  repeat' first
    | with_reducible assumption
    | with_reducible apply State.refuse_keeps
    | with_reducible apply State.rep_keeps
    | with_reducible apply State.bump_keeps
    | with_reducible apply State.gateAnswer_keeps
    | with_reducible apply State.takeCarried_keeps
    | split
    | dsimp only

theorem State.request_keeps {c₀ : Bool} {s₀ s : State} (p : Nat) (m : Msg)  (h : Keeps c₀ s₀ s) : Keeps c₀ s₀ (State.request s p m) := by
  unfold State.request
  repeat' first
    | with_reducible assumption
    | with_reducible apply State.ingressEdge_keeps
    | with_reducible apply State.admEdge_keeps
    | with_reducible apply State.refuse_keeps
    | with_reducible apply State.bump_keeps
    | with_reducible apply State.gateAnswer_keeps
    | with_reducible apply State.admitNear_keeps
    | with_reducible apply State.admitCarried_keeps
    | split
    | with_reducible refine Keeps.pair (by assumption) ?_
    | dsimp only

theorem State.requestAs_keeps {c₀ : Bool} {s₀ s : State} (op : Op) (p : Nat) (m : Msg)  (h : Keeps c₀ s₀ s) : Keeps c₀ s₀ (State.requestAs s op p m) := by
  unfold State.requestAs
  repeat' first
    | with_reducible assumption
    | with_reducible apply State.writerReq_keeps
    | with_reducible apply State.atPort_keeps
    | with_reducible apply State.request_keeps
    | intro _
    | split
    | dsimp only

theorem execWr_keeps {c₀ : Bool} {s₀ s : State} (port : Nat) (m : Msg) (h : Keeps c₀ s₀ s) : ∃ t₁, execWr port m s = .next t₁ ∧ Keeps c₀ s₀ t₁ := by
  refine ⟨_, rfl, ?_⟩
  repeat' first
    | with_reducible assumption
    | with_reducible apply State.requestAs_keeps
    | dsimp only

theorem execCarriedRequest_keeps {c₀ : Bool} {s₀ s : State} (port : Nat) (m : Msg) (h : Keeps c₀ s₀ s) : ∃ t₁, execCarriedRequest port m s = .next t₁ ∧ Keeps c₀ s₀ t₁ := by
  refine ⟨_, rfl, ?_⟩
  repeat' first
    | with_reducible assumption
    | with_reducible apply State.atPort_keeps
    | with_reducible apply State.request_keeps
    | intro _
    | split
    | dsimp only

theorem execRdSh_keeps {c₀ : Bool} {s₀ s : State} (port : Nat) (m : Msg) (h : Keeps c₀ s₀ s) : ∃ t₁, execRdSh port m s = .next t₁ ∧ Keeps c₀ s₀ t₁ := by
  refine ⟨_, rfl, ?_⟩
  repeat' first
    | with_reducible assumption
    | with_reducible apply State.requestAs_keeps
    | dsimp only

theorem execRdNa_keeps {c₀ : Bool} {s₀ s : State} (port : Nat) (m : Msg) (h : Keeps c₀ s₀ s) : ∃ t₁, execRdNa port m s = .next t₁ ∧ Keeps c₀ s₀ t₁ := by
  refine ⟨_, rfl, ?_⟩
  repeat' first
    | with_reducible assumption
    | with_reducible apply State.requestAs_keeps
    | dsimp only

theorem execRdOwn_keeps {c₀ : Bool} {s₀ s : State} (port : Nat) (m : Msg) (h : Keeps c₀ s₀ s) : ∃ t₁, execRdOwn port m s = .next t₁ ∧ Keeps c₀ s₀ t₁ := by
  refine ⟨_, rfl, ?_⟩
  repeat' first
    | with_reducible assumption
    | with_reducible apply State.requestAs_keeps
    | dsimp only

theorem execOwnUpg_keeps {c₀ : Bool} {s₀ s : State} (port : Nat) (m : Msg) (h : Keeps c₀ s₀ s) : ∃ t₁, execOwnUpg port m s = .next t₁ ∧ Keeps c₀ s₀ t₁ := by
  refine ⟨_, rfl, ?_⟩
  repeat' first
    | with_reducible assumption
    | with_reducible apply State.requestAs_keeps
    | dsimp only

theorem execOwnNodata_keeps {c₀ : Bool} {s₀ s : State} (port : Nat) (m : Msg) (h : Keeps c₀ s₀ s) : ∃ t₁, execOwnNodata port m s = .next t₁ ∧ Keeps c₀ s₀ t₁ := by
  refine ⟨_, rfl, ?_⟩
  repeat' first
    | with_reducible assumption
    | with_reducible apply State.requestAs_keeps
    | dsimp only

end Sys2Proof.Machine
end

