-- ==== Sys2Proof/Laws/Keep/Tree.lean ====
section
/-! SUPPORT. What the operations of Machine.Tree keep. -/

namespace Sys2Proof.Machine

open Sys2Proof

set_option linter.unreachableTactic false
set_option linter.unusedTactic false
set_option linter.unusedVariables false
set_option Elab.async false

theorem State.noteLost_keeps {c₀ : Bool} {s₀ s : State} (e : Nat) (x : LostEnt)  (h : Keeps c₀ s₀ s) : Keeps c₀ s₀ (State.noteLost s e x) := by
  unfold State.noteLost
  repeat' first
    | with_reducible assumption
    | dsimp only
    | with_reducible refine Keeps.of ?_ rfl rfl rfl rfl rfl rfl rfl rfl rfl rfl rfl rfl rfl rfl rfl rfl rfl rfl

theorem State.toMem_keeps {c₀ : Bool} {s₀ s : State} (D : ImgDomain) (n : Nat) (p : Nat) (m : Msg)  (h : Keeps c₀ s₀ s) : Keeps c₀ s₀ (State.toMem s D n p m) := by
  unfold State.toMem
  repeat' first
    | with_reducible assumption
    | with_reducible apply State.bump_keeps
    | with_reducible apply State.inject_keeps
    | split
    | dsimp only

theorem State.setupTree_keeps {c₀ : Bool} {s₀ s : State} (h1 : ImgHome)  (h : Keeps c₀ s₀ s) : Keeps c₀ s₀ (State.setupTree s h1) := by
  unfold State.setupTree
  repeat' first
    | with_reducible assumption
    | with_reducible apply State.modKey_keeps
    | with_reducible apply State.drawn_keeps
    | with_reducible refine Keeps.foldl ?_ ?_
    | with_reducible refine Keeps.foldl1 ?_ ?_
    | intro _
    | split
    | dsimp only
    | with_reducible refine Keeps.of ?_ rfl rfl rfl rfl rfl rfl rfl rfl rfl rfl rfl rfl rfl rfl rfl rfl rfl rfl

theorem State.ncPut_keeps {c₀ : Bool} {s₀ s : State} (d : Nat) (D : ImgDomain) (n : Nat) (e : NcEnt)  (h : Keeps c₀ s₀ s) : Keeps c₀ s₀ (State.ncPut s d D n e) := by
  unfold State.ncPut
  repeat' first
    | with_reducible assumption
    | with_reducible apply State.modHome_keeps
    | split
    | dsimp only

theorem State.bumpNode_keeps {c₀ : Bool} {s₀ s : State} (d : Nat) (D : ImgDomain) (h1 : ImgHome) (n : Nat) (pos : Nat) (k : Nat) (i : Nat)  (h : Keeps c₀ s₀ s) : Keeps c₀ s₀ (State.bumpNode s d D h1 n pos k i) := by
  unfold State.bumpNode
  repeat' first
    | with_reducible assumption
    | with_reducible apply State.ncPut_keeps
    | split
    | dsimp only
    | with_reducible refine Keeps.of ?_ rfl rfl rfl rfl rfl rfl rfl rfl rfl rfl rfl rfl rfl rfl rfl rfl rfl rfl

theorem State.writeNode_keeps {c₀ : Bool} {s₀ s : State} (d : Nat) (D : ImgDomain) (h1 : ImgHome) (n : Nat) (e : NcEnt) (durable : Bool)  (h : Keeps c₀ s₀ s) : Keeps c₀ s₀ (State.writeNode s d D h1 n e durable) := by
  unfold State.writeNode
  repeat' first
    | with_reducible assumption
    | with_reducible apply State.bumpNode_keeps
    | with_reducible apply State.bump_keeps
    | with_reducible apply State.ncPut_keeps
    | with_reducible apply State.toMem_keeps
    | split
    | dsimp only

theorem State.saveStipe_keeps {c₀ : Bool} {s₀ s : State} (h1 : ImgHome)  (h : Keeps c₀ s₀ s) : Keeps c₀ s₀ (State.saveStipe s h1) := by
  unfold State.saveStipe
  repeat' first
    | with_reducible assumption
    | dsimp only
    | with_reducible refine Keeps.of ?_ rfl rfl rfl rfl rfl rfl rfl rfl rfl rfl rfl rfl rfl rfl rfl rfl rfl rfl

theorem State.zeroLine_keeps {c₀ : Bool} {s₀ s : State} (d : Nat) (D : ImgDomain) (h1 : ImgHome) (n : Nat) (l : LineAddr)  (h : Keeps c₀ s₀ s) : Keeps c₀ s₀ (State.zeroLine s d D h1 n l) := by
  unfold State.zeroLine
  repeat' first
    | with_reducible assumption
    | with_reducible apply State.ncPut_keeps
    | split
    | dsimp only

theorem State.loseNode_keeps {c₀ : Bool} {s₀ s : State} (d : Nat) (n : Nat) (x : LostEnt)  (h : Keeps c₀ s₀ s) : Keeps c₀ s₀ (State.loseNode s d n x) := by
  unfold State.loseNode
  repeat' first
    | with_reducible assumption
    | with_reducible apply State.noteLost_keeps
    | with_reducible apply State.modHome_keeps
    | with_reducible apply State.bump_keeps
    | with_reducible apply State.winHit_keeps
    | with_reducible apply State.raise_keeps
    | with_reducible apply State.fence_keeps
    | split
    | with_reducible refine Keeps.pair (by assumption) ?_
    | dsimp only

theorem State.macFail_keeps {c₀ : Bool} {s₀ s : State} (d : Nat) (n : Nat) (t : Nat) (l : LineAddr)  (h : Keeps c₀ s₀ s) : Keeps c₀ s₀ (State.macFail s d n t l) := by
  unfold State.macFail
  repeat' first
    | with_reducible assumption
    | with_reducible apply State.bump_keeps
    | with_reducible apply State.winHit_keeps
    | with_reducible apply State.raise_keeps
    | with_reducible apply State.fence_keeps
    | split
    | with_reducible refine Keeps.pair (by assumption) ?_
    | dsimp only

theorem State.setupTrees_keeps {c₀ : Bool} {s₀ s : State}   (h : Keeps c₀ s₀ s) : Keeps c₀ s₀ (State.setupTrees s) := by
  unfold State.setupTrees
  repeat' first
    | with_reducible assumption
    | with_reducible apply State.setupTree_keeps
    | with_reducible refine Keeps.foldl ?_ ?_
    | with_reducible refine Keeps.foldl1 ?_ ?_
    | intro _
    | dsimp only
    | with_reducible refine Keeps.of ?_ rfl rfl rfl rfl rfl rfl rfl rfl rfl rfl rfl rfl rfl rfl rfl rfl rfl rfl

theorem State.flushRead_keeps {c₀ : Bool} {s₀ s : State} (d : Nat) (D : ImgDomain) (h1 : ImgHome) (n : Nat) (pos : Nat) (k : Nat) (i : Nat)  (h : Keeps c₀ s₀ s) : Keeps c₀ s₀ (State.flushRead s d D h1 n pos k i) := by
  unfold State.flushRead
  repeat' first
    | with_reducible assumption
    | with_reducible apply State.bump_keeps
    | with_reducible apply State.drawn_keeps
    | with_reducible apply State.ncPut_keeps
    | split
    | dsimp only

theorem State.flushPath_keeps {c₀ : Bool} {s₀ s : State} (d : Nat) (D : ImgDomain) (h1 : ImgHome) (n : Nat) (e : NcEnt)  (h : Keeps c₀ s₀ s) : Keeps c₀ s₀ (State.flushPath s d D h1 n e) := by
  unfold State.flushPath
  repeat' first
    | with_reducible assumption
    | with_reducible apply State.flushRead_keeps
    | with_reducible refine Keeps.foldl ?_ ?_
    | with_reducible refine Keeps.foldl1 ?_ ?_
    | intro _
    | dsimp only

theorem State.flushNodes_keeps {c₀ : Bool} {s₀ s : State} (d : Nat) (D : ImgDomain) (h1 : ImgHome) (n : Nat)  (h : Keeps c₀ s₀ s) : Keeps c₀ s₀ (State.flushNodes s d D h1 n) := by
  unfold State.flushNodes
  repeat' first
    | with_reducible assumption
    | with_reducible apply State.writeNode_keeps
    | with_reducible apply State.flushPath_keeps
    | with_reducible refine Keeps.foldl ?_ ?_
    | with_reducible refine Keeps.foldl1 ?_ ?_
    | intro _
    | dsimp only

theorem State.persistFlush_keeps {c₀ : Bool} {s₀ s : State} (durable : Bool)  (h : Keeps c₀ s₀ s) : Keeps c₀ s₀ (State.persistFlush s durable) := by
  unfold State.persistFlush
  repeat' first
    | with_reducible assumption
    | with_reducible apply State.flushNodes_keeps
    | with_reducible apply State.saveStipe_keeps
    | with_reducible refine Keeps.foldl ?_ ?_
    | with_reducible refine Keeps.foldl1 ?_ ?_
    | intro _
    | split
    | dsimp only

theorem State.bumpLine_keeps {c₀ : Bool} {s₀ s : State} (d : Nat) (D : ImgDomain) (h1 : ImgHome) (n : Nat) (l : LineAddr)  (h : Keeps c₀ s₀ s) : Keeps c₀ s₀ (State.bumpLine s d D h1 n l) := by
  unfold State.bumpLine
  repeat' first
    | with_reducible assumption
    | with_reducible apply State.ncPut_keeps
    | with_reducible apply State.bump_keeps
    | split
    | dsimp only

theorem State.ncOffer_keeps {c₀ : Bool} {s₀ s : State} (d : Nat) (D : ImgDomain) (n : Nat)  (h : Keeps c₀ s₀ s) : Keeps c₀ s₀ (State.ncOffer s d D n) := by
  unfold State.ncOffer
  repeat' first
    | with_reducible assumption
    | with_reducible apply State.modHome_keeps
    | with_reducible apply State.ncPut_keeps
    | with_reducible refine Keeps.foldl ?_ ?_
    | with_reducible refine Keeps.foldl1 ?_ ?_
    | intro _
    | split
    | dsimp only

end Sys2Proof.Machine
end

