-- ==== Sys2Proof/Laws/Keep/Load.lean ====
section
/-! SUPPORT. What the operations of Machine.Load keep. -/

namespace Sys2Proof.Machine

open Sys2Proof

set_option linter.unreachableTactic false
set_option linter.unusedTactic false
set_option linter.unusedVariables false
set_option Elab.async false

theorem State.keyGen_keeps {c₀ : Bool} {s₀ s : State} (k : Nat)  (h : Keeps c₀ s₀ s) : Keeps c₀ s₀ (State.keyGen s k) := by
  unfold State.keyGen
  repeat' first
    | with_reducible assumption
    | with_reducible apply State.bump_keeps
    | with_reducible apply State.drawn_keeps
    | with_reducible apply State.modKey_keeps
    | dsimp only

theorem State.keyGenAll_keeps {c₀ : Bool} {s₀ s : State} (i : Thallus)  (h : Keeps c₀ s₀ s) : Keeps c₀ s₀ (State.keyGenAll s i) := by
  unfold State.keyGenAll
  repeat' first
    | with_reducible assumption
    | with_reducible apply State.keyGen_keeps
    | with_reducible refine Keeps.foldl ?_ ?_
    | with_reducible refine Keeps.foldl1 ?_ ?_
    | intro _
    | split
    | dsimp only

theorem State.clearNodes_keeps {c₀ : Bool} {s₀ s : State} (h : Keeps c₀ s₀ s) : Keeps c₀ s₀ (State.clearNodes s) :=
  h.trans ⟨rfl, id, id, fun _ => rfl, Nat.le_refl _, List.prefix_refl _, Nat.le_refl _, fun _ => twf_tabOf _ _, fun _ => rfl, fun _ => rfl, fun _ => twf_tabOf _ _, fun _ => twf_tabOf _ _, id, id, fun _ => rfl, id, id, id, id⟩

theorem State.shipWrites_keeps {c₀ : Bool} {s₀ s : State} (only : Op → Bool)  (h : Keeps c₀ s₀ s) : Keeps c₀ s₀ (State.shipWrites s only) := by
  unfold State.shipWrites
  repeat' first
    | with_reducible assumption
    | with_reducible apply State.emit_keeps
    | with_reducible apply State.modPool_keeps
    | with_reducible refine Keeps.foldl ?_ ?_
    | with_reducible refine Keeps.foldl1 ?_ ?_
    | intro _
    | split
    | dsimp only

theorem State.lostPower_keeps {c₀ : Bool} {s₀ s : State} (h : Keeps c₀ s₀ s) : Keeps c₀ s₀ (State.lostPower s) :=
  h.trans ⟨rfl, fun h => cntOk_filter h _, fun _ => Nat.zero_le _, fun _ => rfl, Nat.le_refl _, List.prefix_refl _, Nat.le_refl _, fun _ => rfl, fun _ => rfl, fun _ => rfl, fun _ => rfl, fun _ => rfl, fun _ => twf_tabOf _ _, fun _ => rfl, fun _ => rfl, fun h => twf_filter h _, fun _ => rfl, fun _ => rfl, fun _ => rfl⟩

theorem State.toDormant_keeps {c₀ : Bool} {s₀ s : State} (ev : Nat) (cause : Nat) (flushUs : Nat) (durable : Bool) (off : LastOff)  (h : Keeps c₀ s₀ s) : Keeps c₀ s₀ (State.toDormant s ev cause flushUs durable off) := by
  unfold State.toDormant
  repeat' first
    | with_reducible assumption
    | with_reducible apply State.setMode_keeps
    | with_reducible apply State.shipWrites_keeps
    | with_reducible apply State.persistFlush_keeps
    | with_reducible apply State.bump_keeps
    | with_reducible apply State.lostPower_keeps
    | with_reducible apply State.peat_keeps
    | split
    | dsimp only
    | with_reducible refine Keeps.of ?_ rfl rfl rfl rfl rfl rfl rfl rfl rfl rfl rfl rfl rfl rfl rfl rfl rfl rfl

theorem State.loadFences_keeps {c₀ : Bool} {s₀ s : State}   (h : Keeps c₀ s₀ s) : Keeps c₀ s₀ (State.loadFences s) := by
  unfold State.loadFences
  repeat' first
    | with_reducible assumption
    | with_reducible apply State.stopDomain_keeps
    | with_reducible apply State.writeSpread_keeps
    | with_reducible apply State.modDom_keeps
    | with_reducible refine Keeps.foldl ?_ ?_
    | with_reducible refine Keeps.foldl1 ?_ ?_
    | intro _
    | split
    | dsimp only

theorem State.setSlot_keeps {c₀ : Bool} {s₀ s : State} (x : SlotName) (st : SlotState) (bs : List Byte)  (h : Keeps c₀ s₀ s) : Keeps c₀ s₀ (State.setSlot s x st bs) := by
  unfold State.setSlot
  repeat' first
    | with_reducible assumption
    | split
    | dsimp only
    | with_reducible refine Keeps.of ?_ rfl rfl rfl rfl rfl rfl rfl rfl rfl rfl rfl rfl rfl rfl rfl rfl rfl rfl

theorem State.commitEdge_keeps {c₀ : Bool} {s₀ s : State}   (h : Keeps c₀ s₀ s) : Keeps c₀ s₀ (State.commitEdge s) := by
  unfold State.commitEdge
  repeat' first
    | with_reducible assumption
    | dsimp only
    | with_reducible refine Keeps.of ?_ rfl rfl rfl rfl rfl rfl rfl rfl rfl rfl rfl rfl rfl rfl rfl rfl rfl rfl

theorem State.loadProtect_keeps {c₀ : Bool} {s₀ s : State} (i : Thallus)  (h : Keeps c₀ s₀ s) : Keeps c₀ s₀ (State.loadProtect s i) := by
  unfold State.loadProtect
  repeat' first
    | with_reducible assumption
    | with_reducible apply State.keyGenAll_keeps
    | with_reducible apply State.setupTrees_keeps
    | with_reducible apply State.commitEdge_keeps
    | dsimp only
    | with_reducible refine Keeps.of ?_ rfl rfl rfl rfl rfl rfl rfl rfl rfl rfl rfl rfl rfl rfl rfl rfl rfl rfl

theorem State.loadStructure_keeps {c₀ : Bool} {s₀ s : State} (i : Thallus) (slot : SlotName) (h : Keeps c₀ s₀ s) : Keeps c₀ s₀ (s.loadStructure i slot) := by
  unfold State.loadStructure
  dsimp only
  refine Keeps.foldl ?_ ?_
  · intro s e h
    refine Keeps.foldl ?_ h
    intro s n h
    exact State.modSlice_keeps _ _ h
  · exact h.trans ⟨rfl, id, id, fun _ => rfl, Nat.le_refl _, List.prefix_refl _, Nat.le_refl _, id, id, id, id, id, fun _ => twf_tabOf _ _, fun _ => twf_tabOf _ _, fun _ => twf_tabOf _ _, id, id, id, id⟩

theorem State.loadImage_keeps {c₀ : Bool} {s₀ s : State} (i : Thallus) (slot : SlotName)  (h : Keeps c₀ s₀ s) : Keeps c₀ s₀ (State.loadImage s i slot) := by
  unfold State.loadImage
  repeat' first
    | with_reducible assumption
    | with_reducible apply State.loadFences_keeps
    | with_reducible apply State.loadProtect_keeps
    | with_reducible apply State.loadStructure_keeps
    | with_reducible apply State.clearNodes_keeps
    | dsimp only

end Sys2Proof.Machine
end

