-- ==== Sys2Proof/Laws/Keep/Capsule.lean ====
section
/-! SUPPORT. What the operations of Machine.Capsule keep. -/

namespace Sys2Proof.Machine

open Sys2Proof

set_option linter.unreachableTactic false
set_option linter.unusedTactic false
set_option linter.unusedVariables false
set_option Elab.async false

theorem State.writerSend_keeps {c₀ : Bool} {s₀ s : State}   (h : Keeps c₀ s₀ s) : Keeps c₀ s₀ (State.writerSend s) := by
  unfold State.writerSend
  repeat' first
    | with_reducible assumption
    | with_reducible apply State.request_keeps
    | split
    | dsimp only

theorem State.modCap_keeps {c₀ : Bool} {s₀ s : State} (f : Cap → Cap)  (h : Keeps c₀ s₀ s) : Keeps c₀ s₀ (State.modCap s f) := by
  unfold State.modCap
  repeat' first
    | with_reducible assumption
    | dsimp only
    | with_reducible refine Keeps.of ?_ rfl rfl rfl rfl rfl rfl rfl rfl rfl rfl rfl rfl rfl rfl rfl rfl rfl rfl

theorem execRetryResend_keeps {c₀ : Bool} {s₀ s : State} (d : Nat) (h : Keeps c₀ s₀ s) : ∃ t₁, execRetryResend d s = .next t₁ ∧ Keeps c₀ s₀ t₁ := by
  refine ⟨_, rfl, ?_⟩
  repeat' first
    | with_reducible assumption
    | with_reducible apply State.writerSend_keeps
    | with_reducible apply State.modCap_keeps
    | split
    | dsimp only

theorem State.pageZero_keeps {c₀ : Bool} {s₀ s : State} (t : Nat) (incs : List (Nat × Nat))  (h : Keeps c₀ s₀ s) : Keeps c₀ s₀ (State.pageZero s t incs) := by
  unfold State.pageZero
  repeat' first
    | with_reducible assumption
    | with_reducible apply State.pageN_keeps
    | with_reducible refine Keeps.foldl ?_ ?_
    | with_reducible refine Keeps.foldl1 ?_ ?_
    | intro _
    | split
    | dsimp only
    | with_reducible exact cntFilter_keeps _ (by assumption)
    | with_reducible refine Keeps.of ?_ rfl rfl rfl rfl rfl rfl rfl rfl rfl rfl rfl rfl rfl rfl rfl rfl rfl rfl

theorem State.latch_keeps {c₀ : Bool} {s₀ s : State}   (h : Keeps c₀ s₀ s) : Keeps c₀ s₀ (State.latch s) := by
  unfold State.latch
  repeat' first
    | with_reducible assumption
    | with_reducible apply State.bump_keeps
    | with_reducible apply State.modCap_keeps
    | with_reducible apply State.writerSend_keeps
    | split
    | dsimp only

theorem State.snapNext_keeps {c₀ : Bool} {s₀ s : State}   (h : Keeps c₀ s₀ s) : Keeps c₀ s₀ (State.snapNext s) := by
  unfold State.snapNext
  repeat' first
    | with_reducible assumption
    | with_reducible apply State.latch_keeps
    | split
    | dsimp only

theorem State.doSnap_keeps {c₀ : Bool} {s₀ s : State}   (h : Keeps c₀ s₀ s) : Keeps c₀ s₀ (State.doSnap s) := by
  unfold State.doSnap
  repeat' first
    | with_reducible assumption
    | with_reducible apply State.snapNext_keeps
    | with_reducible apply State.modCap_keeps
    | split
    | dsimp only

theorem execSnap_keeps {c₀ : Bool} {s₀ s : State}  (h : Keeps c₀ s₀ s) : ∃ t₁, execSnap s = .next t₁ ∧ Keeps c₀ s₀ t₁ := by
  refine ⟨_, rfl, ?_⟩
  repeat' first
    | with_reducible assumption
    | with_reducible apply State.doSnap_keeps
    | dsimp only

theorem State.writerGot_keeps {c₀ : Bool} {s₀ s : State} (m : Msg)  (h : Keeps c₀ s₀ s) : Keeps c₀ s₀ (State.writerGot s m) := by
  unfold State.writerGot
  repeat' first
    | with_reducible assumption
    | with_reducible apply State.modCap_keeps
    | with_reducible apply State.writerSend_keeps
    | split
    | dsimp only

theorem execCapsuleLatch_keeps {c₀ : Bool} {s₀ s : State}  (h : Keeps c₀ s₀ s) : ∃ t₁, execCapsuleLatch s = .next t₁ ∧ Keeps c₀ s₀ t₁ := by
  refine ⟨_, rfl, ?_⟩
  repeat' first
    | with_reducible assumption
    | with_reducible apply State.modCap_keeps
    | with_reducible apply State.irq_keeps
    | with_reducible apply State.bump_keeps
    | with_reducible apply State.latch_keeps
    | split
    | dsimp only

theorem State.doZero_keeps {c₀ : Bool} {s₀ s : State} (incs : List (Nat × Nat))  (h : Keeps c₀ s₀ s) : Keeps c₀ s₀ (State.doZero s incs) := by
  unfold State.doZero
  repeat' first
    | with_reducible assumption
    | with_reducible apply State.bumpN_keeps
    | with_reducible refine Keeps.foldl ?_ ?_
    | with_reducible refine Keeps.foldl1 ?_ ?_
    | intro _
    | split
    | dsimp only
    | with_reducible exact cntFilter_keeps _ (by assumption)
    | with_reducible refine Keeps.of ?_ rfl rfl rfl rfl rfl rfl rfl rfl rfl rfl rfl rfl rfl rfl rfl rfl rfl rfl

theorem State.dumpOver_keeps {c₀ : Bool} {s₀ s : State}   (h : Keeps c₀ s₀ s) : Keeps c₀ s₀ (State.dumpOver s) := by
  unfold State.dumpOver
  repeat' first
    | with_reducible assumption
    | with_reducible apply State.snapNext_keeps
    | with_reducible apply State.modCap_keeps
    | dsimp only

theorem State.headerOut_keeps {c₀ : Bool} {s₀ s : State}   (h : Keeps c₀ s₀ s) : Keeps c₀ s₀ (State.headerOut s) := by
  unfold State.headerOut
  repeat' first
    | with_reducible assumption
    | with_reducible apply State.modCap_keeps
    | with_reducible apply State.irq_keeps
    | with_reducible apply State.dumpOver_keeps
    | split
    | dsimp only

theorem State.doArm_keeps {c₀ : Bool} {s₀ s : State}   (h : Keeps c₀ s₀ s) : Keeps c₀ s₀ (State.doArm s) := by
  unfold State.doArm
  repeat' first
    | with_reducible assumption
    | with_reducible apply State.modCap_keeps
    | with_reducible apply State.snapNext_keeps
    | split
    | dsimp only

theorem State.doDisarm_keeps {c₀ : Bool} {s₀ s : State}   (h : Keeps c₀ s₀ s) : Keeps c₀ s₀ (State.doDisarm s) := by
  unfold State.doDisarm
  repeat' first
    | with_reducible assumption
    | with_reducible apply State.modCap_keeps
    | split
    | dsimp only

theorem execDisarm_keeps {c₀ : Bool} {s₀ s : State}  (h : Keeps c₀ s₀ s) : ∃ t₁, execDisarm s = .next t₁ ∧ Keeps c₀ s₀ t₁ := by
  refine ⟨_, rfl, ?_⟩
  repeat' first
    | with_reducible assumption
    | with_reducible apply State.doDisarm_keeps
    | dsimp only

theorem execArm_keeps {c₀ : Bool} {s₀ s : State}  (h : Keeps c₀ s₀ s) : ∃ t₁, execArm s = .next t₁ ∧ Keeps c₀ s₀ t₁ := by
  refine ⟨_, rfl, ?_⟩
  repeat' first
    | with_reducible assumption
    | with_reducible apply State.doArm_keeps
    | dsimp only

theorem State.dumpDmaErr_keeps {c₀ : Bool} {s₀ s : State}   (h : Keeps c₀ s₀ s) : Keeps c₀ s₀ (State.dumpDmaErr s) := by
  unfold State.dumpDmaErr
  repeat' first
    | with_reducible assumption
    | with_reducible apply State.dumpOver_keeps
    | with_reducible apply State.irq_keeps
    | with_reducible apply State.bump_keeps
    | with_reducible apply State.modCap_keeps
    | split
    | dsimp only

theorem execDumpEnd_keeps {c₀ : Bool} {s₀ s : State} (x : DumpResult) (h : Keeps c₀ s₀ s) : ∃ t₁, execDumpEnd x s = .next t₁ ∧ Keeps c₀ s₀ t₁ := by
  refine ⟨_, rfl, ?_⟩
  repeat' first
    | with_reducible assumption
    | with_reducible apply State.headerOut_keeps
    | with_reducible apply State.dumpDmaErr_keeps
    | with_reducible apply State.emit_keeps
    | with_reducible apply State.dumpOver_keeps
    | with_reducible apply State.irq_keeps
    | with_reducible apply State.bump_keeps
    | with_reducible apply State.modCap_keeps
    | split
    | dsimp only

theorem execZero_keeps {c₀ : Bool} {s₀ s : State} (incs : List (Nat × Nat)) (h : Keeps c₀ s₀ s) : ∃ t₁, execZero incs s = .next t₁ ∧ Keeps c₀ s₀ t₁ := by
  refine ⟨_, rfl, ?_⟩
  repeat' first
    | with_reducible assumption
    | with_reducible apply State.doZero_keeps
    | dsimp only

theorem State.capDenied_keeps {c₀ : Bool} {s₀ s : State} (who : Requester) (wr : Bool) (off : Nat)  (h : Keeps c₀ s₀ s) : Keeps c₀ s₀ (State.capDenied s who wr off) := by
  unfold State.capDenied
  repeat' first
    | with_reducible assumption
    | with_reducible apply State.logAcc_keeps
    | dsimp only

theorem execPageZero_keeps {c₀ : Bool} {s₀ s : State} (who : Requester) (t : Nat) (incs : List (Nat × Nat)) (h : Keeps c₀ s₀ s) : ∃ t₁, execPageZero who t incs s = .next t₁ ∧ Keeps c₀ s₀ t₁ := by
  refine ⟨_, rfl, ?_⟩
  repeat' first
    | with_reducible assumption
    | with_reducible apply State.pageZero_keeps
    | with_reducible apply State.capDenied_keeps
    | split
    | dsimp only

end Sys2Proof.Machine
end

