-- ==== Sys2Proof/Laws/Keep/Egress.lean ====
section
/-! SUPPORT. What the operations of Machine.Egress keep. -/

namespace Sys2Proof.Machine

open Sys2Proof

set_option linter.unreachableTactic false
set_option linter.unusedTactic false
set_option linter.unusedVariables false
set_option Elab.async false

theorem State.doHoldClr_keeps {c₀ : Bool} {s₀ s : State} (g : Nat)  (h : Keeps c₀ s₀ s) : Keeps c₀ s₀ (State.doHoldClr s g) := by
  unfold State.doHoldClr
  repeat' first
    | with_reducible assumption
    | with_reducible apply State.modGate_keeps
    | dsimp only

theorem State.barrierIn_keeps {c₀ : Bool} {s₀ s : State} (port : Nat) (m : Msg)  (h : Keeps c₀ s₀ s) : Keeps c₀ s₀ (State.barrierIn s port m) := by
  unfold State.barrierIn
  repeat' first
    | with_reducible assumption
    | with_reducible apply State.ingressEdge_keeps
    | with_reducible apply State.bump_keeps
    | with_reducible apply State.gateAnswer_keeps
    | with_reducible apply State.modGate_keeps
    | with_reducible refine Keeps.foldl ?_ ?_
    | with_reducible refine Keeps.foldl1 ?_ ?_
    | intro _
    | split
    | with_reducible refine Keeps.pair (by assumption) ?_
    | dsimp only

theorem State.modWatch_keeps {c₀ : Bool} {s₀ s : State} (g : Nat) (w : Watch) (f : Watch → Watch)  (h : Keeps c₀ s₀ s) : Keeps c₀ s₀ (State.modWatch s g w f) := by
  unfold State.modWatch
  repeat' first
    | with_reducible assumption
    | with_reducible apply State.modGate_keeps
    | dsimp only

theorem State.snpHanded_keeps {c₀ : Bool} {s₀ s : State} (p : Nat) (m : Msg)  (h : Keeps c₀ s₀ s) : Keeps c₀ s₀ (State.snpHanded s p m) := by
  unfold State.snpHanded
  repeat' first
    | with_reducible assumption
    | with_reducible apply State.modSlice_keeps
    | with_reducible apply State.modTx_keeps
    | split
    | dsimp only

theorem State.memHanded_keeps {c₀ : Bool} {s₀ s : State} (m : Msg)  (h : Keeps c₀ s₀ s) : Keeps c₀ s₀ (State.memHanded s m) := by
  unfold State.memHanded
  repeat' first
    | with_reducible assumption
    | with_reducible apply State.modHome_keeps
    | with_reducible apply State.stamp_keeps
    | split
    | dsimp only

theorem State.leave_keeps {c₀ : Bool} {s₀ s : State} (p : Nat) (m : Msg)  (h : Keeps c₀ s₀ s) : Keeps c₀ s₀ (State.leave s p m) := by
  unfold State.leave
  repeat' first
    | with_reducible assumption
    | with_reducible apply State.handOver_keeps
    | with_reducible apply State.snpHanded_keeps
    | with_reducible apply State.memHanded_keeps
    | with_reducible apply State.stamp_keeps
    | split
    | dsimp only

theorem State.drainOut_keeps {c₀ : Bool} {s₀ s : State} (p k : Nat) (h : Keeps c₀ s₀ s) : Keeps c₀ s₀ (s.drainOut p k) := by
  induction k generalizing s with
  | zero => exact h
  | succ k ih =>
    unfold State.drainOut
    split
    · split
      · exact h
      · exact h
      · exact ih (State.leave_keeps _ _ (State.qTake_keeps _ _ _ h))
    · exact h

theorem State.portOut_keeps {c₀ : Bool} {s₀ s : State} (p : Nat)  (h : Keeps c₀ s₀ s) : Keeps c₀ s₀ (State.portOut s p) := by
  unfold State.portOut
  repeat' first
    | with_reducible assumption
    | with_reducible apply State.drainOut_keeps
    | dsimp only

theorem State.explained_keeps {c₀ : Bool} {s₀ s : State} (g : Nat) (w : Watch)  (h : Keeps c₀ s₀ s) : Keeps c₀ s₀ (State.explained s g w) := by
  unfold State.explained
  repeat' first
    | with_reducible assumption
    | with_reducible apply State.voidWatch_keeps
    | split
    | dsimp only

theorem State.missed_keeps {c₀ : Bool} {s₀ s : State} (g : Nat) (w : Watch)  (h : Keeps c₀ s₀ s) : Keeps c₀ s₀ (State.missed s g w) := by
  unfold State.missed
  repeat' first
    | with_reducible assumption
    | with_reducible apply State.modGate_keeps
    | with_reducible apply State.winHit_keeps
    | with_reducible apply State.raise_keeps
    | with_reducible apply State.bump_keeps
    | split
    | with_reducible refine Keeps.pair (by assumption) ?_
    | dsimp only

theorem State.timeOut_keeps {c₀ : Bool} {s₀ s : State} (g : Nat) (w : Watch)  (h : Keeps c₀ s₀ s) : Keeps c₀ s₀ (State.timeOut s g w) := by
  unfold State.timeOut
  repeat' first
    | with_reducible assumption
    | with_reducible apply State.modWatch_keeps
    | with_reducible apply State.bump_keeps
    | with_reducible apply State.modGate_keeps
    | with_reducible apply State.tracePath_keeps
    | with_reducible apply State.missed_keeps
    | split
    | dsimp only

theorem State.timedOut_keeps {c₀ : Bool} {s₀ s : State} (g : Nat) (w : Watch)  (h : Keeps c₀ s₀ s) : Keeps c₀ s₀ (State.timedOut s g w) := by
  unfold State.timedOut
  repeat' first
    | with_reducible assumption
    | with_reducible apply State.explained_keeps
    | with_reducible apply State.timeOut_keeps
    | split
    | dsimp only

theorem State.toEgress_keeps {c₀ : Bool} {s₀ s : State} (p : Nat) (u : FUnit)  (h : Keeps c₀ s₀ s) : Keeps c₀ s₀ (State.toEgress s p u) := by
  unfold State.toEgress
  repeat' first
    | with_reducible assumption
    | with_reducible apply State.portOut_keeps
    | with_reducible apply State.qPush_keeps
    | with_reducible apply State.bump_keeps
    | with_reducible apply State.modGate_keeps
    | with_reducible apply State.timedOut_keeps
    | with_reducible apply State.modWatch_keeps
    | split
    | dsimp only

theorem cntOk_tget {t : Tab Nat} (h : cntOk t) (k : Nat) : tget 0 t k ≤ cntMax := by
  induction t with
  | nil => exact Nat.zero_le _
  | cons e t ih =>
    obtain ⟨j, v⟩ := e
    simp only [tget]
    split
    · exact h _ List.mem_cons_self
    · exact ih (fun e he => h e (List.mem_cons_of_mem _ he))

theorem State.uncount_keeps {c₀ : Bool} {s₀ s : State} (key : Nat) (h : Keeps c₀ s₀ s) : Keeps c₀ s₀ (s.uncount key) :=
  h.trans ⟨rfl, fun h => cntOk_tset h _ _ (Nat.le_trans (Nat.sub_le _ _) (cntOk_tget h _)), id, fun _ => rfl, Nat.le_refl _, List.prefix_refl _, Nat.le_refl _, id, id, id, id, id, id, id, id, fun h => twf_tset h _ _, id, id, id⟩

theorem State.cfgLeaves_keeps {c₀ : Bool} {s₀ s : State} (port : Nat) (m : Msg)  (h : Keeps c₀ s₀ s) : Keeps c₀ s₀ (State.cfgLeaves s port m) := by
  unfold State.cfgLeaves
  repeat' first
    | with_reducible assumption
    | with_reducible apply State.modBarriers_keeps
    | with_reducible apply State.handOver_keeps
    | with_reducible apply State.modGate_keeps
    | split
    | dsimp only

theorem State.gateCmd_keeps {c₀ : Bool} {s₀ s : State} (g : Nat) (who : Requester) {f : State → State} (hf : ∀ s, Keeps c₀ s₀ s → Keeps c₀ s₀ (f s)) (h : Keeps c₀ s₀ s) : Keeps c₀ s₀ (State.gateCmd s g who f) := by
  unfold State.gateCmd
  repeat' first
    | with_reducible assumption
    | with_reducible apply hf
    | with_reducible apply State.logAcc_keeps
    | intro _
    | split
    | dsimp only

theorem execHoldClr_keeps {c₀ : Bool} {s₀ s : State} (g : Nat) (h : Keeps c₀ s₀ s) : ∃ t₁, execHoldClr g s = .next t₁ ∧ Keeps c₀ s₀ t₁ := by
  refine ⟨_, rfl, ?_⟩
  repeat' first
    | with_reducible assumption
    | with_reducible apply State.gateCmd_keeps
    | with_reducible apply State.doHoldClr_keeps
    | intro _
    | dsimp only

theorem execBarDone_keeps {c₀ : Bool} {s₀ s : State} (g : Nat) (i : Nat) (h : Keeps c₀ s₀ s) : ∃ t₁, execBarDone g i s = .next t₁ ∧ Keeps c₀ s₀ t₁ := by
  refine ⟨_, rfl, ?_⟩
  repeat' first
    | with_reducible assumption
    | with_reducible apply State.modGate_keeps
    | with_reducible apply State.bump_keeps
    | with_reducible apply State.page_keeps
    | with_reducible apply State.egress_keeps
    | split
    | dsimp only

theorem State.pageDone_keeps {c₀ : Bool} {s₀ s : State} (w : Watch) (m : Msg)  (h : Keeps c₀ s₀ s) : Keeps c₀ s₀ (State.pageDone s w m) := by
  unfold State.pageDone
  repeat' first
    | with_reducible assumption
    | with_reducible apply State.page_keeps
    | with_reducible apply State.pageN_keeps
    | split
    | dsimp only

theorem State.doneWatch_keeps {c₀ : Bool} {s₀ s : State} (g : Nat) (w : Watch) (m : Msg)  (h : Keeps c₀ s₀ s) : Keeps c₀ s₀ (State.doneWatch s g w m) := by
  unfold State.doneWatch
  repeat' first
    | with_reducible assumption
    | with_reducible apply State.pageDone_keeps
    | with_reducible apply State.modGate_keeps
    | with_reducible apply State.modPort_keeps
    | with_reducible apply State.traceEnd_keeps
    | with_reducible apply State.stamp_keeps
    | with_reducible apply State.modBarriers_keeps
    | with_reducible apply State.bump_keeps
    | split
    | dsimp only

theorem State.revoke_keeps {c₀ : Bool} {s₀ s : State} (g : Nat) (w : Watch) (c : ErrCode) (k : Nat)  (h : Keeps c₀ s₀ s) : Keeps c₀ s₀ (State.revoke s g w c k) := by
  unfold State.revoke
  repeat' first
    | with_reducible assumption
    | with_reducible apply State.modGate_keeps
    | with_reducible apply State.qTake_keeps
    | with_reducible apply State.modPort_keeps
    | with_reducible apply State.uncount_keeps
    | with_reducible apply State.setTraces_keeps
    | with_reducible apply State.bump_keeps
    | with_reducible apply State.gateAnswer_keeps
    | with_reducible refine Keeps.foldl ?_ ?_
    | with_reducible refine Keeps.foldl1 ?_ ?_
    | intro _
    | split
    | dsimp only

theorem State.recheck_keeps {c₀ : Bool} {s₀ s : State} (g : Nat) (w : Watch)  (h : Keeps c₀ s₀ s) : Keeps c₀ s₀ (State.recheck s g w) := by
  unfold State.recheck
  repeat' first
    | with_reducible assumption
    | with_reducible apply State.bump_keeps
    | with_reducible apply State.revoke_keeps
    | with_reducible apply State.modWatch_keeps
    | split
    | dsimp only

theorem State.recheckAll_keeps {c₀ : Bool} {s₀ s : State}   (h : Keeps c₀ s₀ s) : Keeps c₀ s₀ (State.recheckAll s) := by
  unfold State.recheckAll
  repeat' first
    | with_reducible assumption
    | with_reducible apply State.recheck_keeps
    | with_reducible refine Keeps.foldl ?_ ?_
    | with_reducible refine Keeps.foldl1 ?_ ?_
    | intro _
    | dsimp only

theorem State.workEnd_keeps {c₀ : Bool} {s₀ s : State} (n : Nat) (l : LineAddr)  (h : Keeps c₀ s₀ s) : Keeps c₀ s₀ (State.workEnd s n l) := by
  unfold State.workEnd
  repeat' first
    | with_reducible assumption
    | with_reducible apply State.freeTail_keeps
    | with_reducible refine Keeps.foldl ?_ ?_
    | with_reducible refine Keeps.foldl1 ?_ ?_
    | intro _
    | split
    | dsimp only

theorem execSlotAdvance_keeps {c₀ : Bool} {s₀ s : State} (d : Nat) (h : Keeps c₀ s₀ s) : ∃ t₁, execSlotAdvance d s = .next t₁ ∧ Keeps c₀ s₀ t₁ := by
  refine ⟨_, rfl, ?_⟩
  repeat' first
    | with_reducible assumption
    | with_reducible apply State.modDom_keeps
    | with_reducible apply State.modGate_keeps
    | with_reducible refine Keeps.foldl ?_ ?_
    | with_reducible refine Keeps.foldl1 ?_ ?_
    | intro _
    | split
    | dsimp only

theorem State.moveUnit_keeps {c₀ : Bool} {s₀ s : State} (d : Nat) (D : ImgDomain) (gs : List Nat) (r : Res) (to_ : Nat) (slot : Nat)  (h : Keeps c₀ s₀ s) : Keeps c₀ s₀ (State.moveUnit s d D gs r to_ slot) := by
  unfold State.moveUnit
  repeat' first
    | with_reducible assumption
    | with_reducible apply State.modGate_keeps
    | split
    | dsimp only

theorem State.balance_keeps {c₀ : Bool} {s₀ s : State} (d : Nat) (D : ImgDomain)  (h : Keeps c₀ s₀ s) : Keeps c₀ s₀ (State.balance s d D) := by
  unfold State.balance
  repeat' first
    | with_reducible assumption
    | with_reducible apply State.moveUnit_keeps
    | with_reducible apply State.modGate_keeps
    | with_reducible refine Keeps.foldl ?_ ?_
    | with_reducible refine Keeps.foldl1 ?_ ?_
    | intro _
    | split
    | dsimp only

theorem execRetryOrderClose_keeps {c₀ : Bool} {s₀ s : State} (g : Nat) (slot : Nat) (i : Nat) (h : Keeps c₀ s₀ s) : ∃ t₁, execRetryOrderClose g slot i s = .next t₁ ∧ Keeps c₀ s₀ t₁ := by
  refine ⟨_, rfl, ?_⟩
  repeat' first
    | with_reducible assumption
    | with_reducible apply State.modGate_keeps
    | split
    | dsimp only

theorem execBarrier_keeps {c₀ : Bool} {s₀ s : State} (port : Nat) (m : Msg) (h : Keeps c₀ s₀ s) : ∃ t₁, execBarrier port m s = .next t₁ ∧ Keeps c₀ s₀ t₁ := by
  refine ⟨_, rfl, ?_⟩
  repeat' first
    | with_reducible assumption
    | with_reducible apply State.atPort_keeps
    | with_reducible apply State.barrierIn_keeps
    | intro _
    | dsimp only

theorem State.completed_keeps {c₀ : Bool} {s₀ s : State} (p : Nat) (m : Msg)  (h : Keeps c₀ s₀ s) : Keeps c₀ s₀ (State.completed s p m) := by
  unfold State.completed
  repeat' first
    | with_reducible assumption
    | with_reducible apply State.modWatch_keeps
    | with_reducible apply State.doneWatch_keeps
    | split
    | dsimp only

theorem State.writerTakes_keeps {c₀ : Bool} {s₀ s : State} (port : Nat) (m : Msg)  (h : Keeps c₀ s₀ s) : Keeps c₀ s₀ (State.writerTakes s port m) := by
  unfold State.writerTakes
  repeat' first
    | with_reducible assumption
    | with_reducible apply State.modGate_keeps
    | with_reducible apply State.completed_keeps
    | with_reducible apply State.writerGot_keeps
    | with_reducible apply State.emit_keeps
    | split
    | dsimp only

theorem execBalancer_keeps {c₀ : Bool} {s₀ s : State} (d : Nat) (h : Keeps c₀ s₀ s) : ∃ t₁, execBalancer d s = .next t₁ ∧ Keeps c₀ s₀ t₁ := by
  refine ⟨_, rfl, ?_⟩
  repeat' first
    | with_reducible assumption
    | with_reducible apply State.balance_keeps
    | with_reducible apply State.modDom_keeps
    | split
    | dsimp only

theorem execTailExpire_keeps {c₀ : Bool} {s₀ s : State} (g : Nat) (i : Nat) (h : Keeps c₀ s₀ s) : ∃ t₁, execTailExpire g i s = .next t₁ ∧ Keeps c₀ s₀ t₁ := by
  refine ⟨_, rfl, ?_⟩
  repeat' first
    | with_reducible assumption
    | with_reducible apply State.freeTail_keeps
    | with_reducible apply State.bump_keeps
    | with_reducible apply State.modGate_keeps
    | split
    | dsimp only

theorem execHoldExpire_keeps {c₀ : Bool} {s₀ s : State} (g : Nat) (h1 : Nat) (h : Keeps c₀ s₀ s) : ∃ t₁, execHoldExpire g h1 s = .next t₁ ∧ Keeps c₀ s₀ t₁ := by
  refine ⟨_, rfl, ?_⟩
  repeat' first
    | with_reducible assumption
    | with_reducible apply State.bump_keeps
    | with_reducible apply State.modGate_keeps
    | split
    | dsimp only

theorem execWatchTimeout_keeps {c₀ : Bool} {s₀ s : State} (g : Nat) (i : Nat) (h : Keeps c₀ s₀ s) : ∃ t₁, execWatchTimeout g i s = .next t₁ ∧ Keeps c₀ s₀ t₁ := by
  refine ⟨_, rfl, ?_⟩
  repeat' first
    | with_reducible assumption
    | with_reducible apply State.gateAnswer_keeps
    | with_reducible apply State.timedOut_keeps
    | split
    | dsimp only

theorem execCompletionEgress_keeps {c₀ : Bool} {s₀ s : State} (port : Nat) (m : Msg) (h : Keeps c₀ s₀ s) : ∃ t₁, execCompletionEgress port m s = .next t₁ ∧ Keeps c₀ s₀ t₁ := by
  refine ⟨_, rfl, ?_⟩
  repeat' first
    | with_reducible assumption
    | with_reducible apply State.writerTakes_keeps
    | with_reducible apply State.leave_keeps
    | with_reducible apply State.qTake_keeps
    | with_reducible apply State.completed_keeps
    | with_reducible apply State.portOut_keeps
    | with_reducible apply State.cfgLeaves_keeps
    | split
    | dsimp only

theorem State.revokeAll_keeps {c₀ : Bool} {s₀ s : State}   (h : Keeps c₀ s₀ s) : Keeps c₀ s₀ (State.revokeAll s) := by
  unfold State.revokeAll
  repeat' first
    | with_reducible assumption
    | with_reducible apply State.revoke_keeps
    | with_reducible refine Keeps.foldl ?_ ?_
    | with_reducible refine Keeps.foldl1 ?_ ?_
    | intro _
    | dsimp only

end Sys2Proof.Machine
end

