-- ==== Sys2Proof/Laws/Keep/Tile.lean ====
section
/-! SUPPORT. What the operations of Machine.Tile keep. -/

namespace Sys2Proof.Machine

open Sys2Proof

set_option linter.unreachableTactic false
set_option linter.unusedTactic false
set_option linter.unusedVariables false
set_option Elab.async false

theorem State.startSpare_keeps {c₀ : Bool} {s₀ s : State} (n : Nat) (col : Bool) (bank : Nat) (idx : Nat) (win : Nat)  (h : Keeps c₀ s₀ s) : Keeps c₀ s₀ (State.startSpare s n col bank idx win) := by
  unfold State.startSpare
  repeat' first
    | with_reducible assumption
    | with_reducible apply State.modSlice_keeps
    | with_reducible apply State.fence_keeps
    | split
    | dsimp only

theorem State.markCodeword_keeps {c₀ : Bool} {s₀ s : State} (D : ImgDomain) (n : Nat) (slot : Nat) (j : Nat) (l : LineAddr)  (h : Keeps c₀ s₀ s) : Keeps c₀ s₀ (State.markCodeword s D n slot j l) := by
  unfold State.markCodeword
  repeat' first
    | with_reducible assumption
    | with_reducible apply State.bump_keeps
    | with_reducible apply State.modSlice_keeps
    | split
    | dsimp only

theorem State.cwRec_keeps {c₀ : Bool} {s₀ s : State} (n : Nat) (d : Nat) (slot : Nat) (j : Nat) (l : LineAddr) (c : RecCode) (syn : BitVec 16) (trip : Option Nat)  (h : Keeps c₀ s₀ s) : Keeps c₀ s₀ (State.cwRec s n d slot j l c syn trip) := by
  unfold State.cwRec
  repeat' first
    | with_reducible assumption
    | with_reducible apply State.raise_keeps
    | split
    | dsimp only

theorem State.cwCorrected_keeps {c₀ : Bool} {s₀ s : State} (n : Nat) (d : Nat) (slot : Nat) (j : Nat) (l : LineAddr) (syn : BitVec 16) (ps : List Nat)  (h : Keeps c₀ s₀ s) : Keeps c₀ s₀ (State.cwCorrected s n d slot j l syn ps) := by
  unfold State.cwCorrected
  repeat' first
    | with_reducible assumption
    | with_reducible apply State.modSlice_keeps
    | with_reducible apply State.bump_keeps
    | with_reducible apply State.winHit_keeps
    | with_reducible apply State.cwRec_keeps
    | with_reducible apply State.startSpare_keeps
    | with_reducible refine Keeps.foldl ?_ ?_
    | with_reducible refine Keeps.foldl1 ?_ ?_
    | intro _
    | split
    | with_reducible refine Keeps.pair (by assumption) ?_
    | dsimp only

theorem State.chan_keeps {c₀ : Bool} {s₀ s : State} (n : Nat) (c : TileCmd)  (h : Keeps c₀ s₀ s) : Keeps c₀ s₀ (State.chan s n c) := by
  unfold State.chan
  repeat' first
    | with_reducible assumption
    | with_reducible apply State.bump_keeps
    | dsimp only

theorem State.tileDrop_keeps {c₀ : Bool} {s₀ s : State} (n : Nat) (r : TileRead)  (h : Keeps c₀ s₀ s) : Keeps c₀ s₀ (State.tileDrop s n r) := by
  unfold State.tileDrop
  repeat' first
    | with_reducible assumption
    | with_reducible apply State.chan_keeps
    | with_reducible apply State.bump_keeps
    | with_reducible apply State.modSlice_keeps
    | split
    | dsimp only

theorem State.tileRead_keeps {c₀ : Bool} {s₀ s : State} (n : Nat) (slot : Nat) (m : Msg)  (h : Keeps c₀ s₀ s) : Keeps c₀ s₀ (State.tileRead s n slot m) := by
  unfold State.tileRead
  repeat' first
    | with_reducible assumption
    | with_reducible apply State.modSlice_keeps
    | with_reducible apply State.chan_keeps
    | dsimp only

theorem State.writeTile_keeps {c₀ : Bool} {s₀ s : State} (n : Nat) (slot : Nat) (mask : BitVec 128) (v : LineData)  (h : Keeps c₀ s₀ s) : Keeps c₀ s₀ (State.writeTile s n slot mask v) := by
  unfold State.writeTile
  repeat' first
    | with_reducible assumption
    | with_reducible apply State.modSlice_keeps
    | with_reducible apply State.chan_keeps
    | dsimp only

theorem State.ungrant_keeps {c₀ : Bool} {s₀ s : State} (n : Nat) (slot : Nat) (g : Option Nat)  (h : Keeps c₀ s₀ s) : Keeps c₀ s₀ (State.ungrant s n slot g) := by
  unfold State.ungrant
  repeat' first
    | with_reducible assumption
    | with_reducible apply State.modSlice_keeps
    | split
    | dsimp only

theorem State.sendTile_keeps {c₀ : Bool} {s₀ s : State} (d : Nat) (D : ImgDomain) (n : Nat) (slot : Nat) (m : Msg) (x : LineData) (early : Option Bool)  (h : Keeps c₀ s₀ s) : Keeps c₀ s₀ (State.sendTile s d D n slot m x early) := by
  unfold State.sendTile
  repeat' first
    | with_reducible assumption
    | with_reducible apply State.sendEp_keeps
    | with_reducible apply State.ungrant_keeps
    | split
    | dsimp only

theorem State.cwEvent_keeps {c₀ : Bool} {s₀ s : State} (n : Nat) (d : Nat) (D : ImgDomain) (slot : Nat) (j : Nat) (l : LineAddr) (o : CwOut) (syn : BitVec 16)  (h : Keeps c₀ s₀ s) : Keeps c₀ s₀ (State.cwEvent s n d D slot j l o syn) := by
  unfold State.cwEvent
  repeat' first
    | with_reducible assumption
    | with_reducible apply State.cwCorrected_keeps
    | with_reducible apply State.modSlice_keeps
    | with_reducible apply State.bump_keeps
    | with_reducible apply State.winHit_keeps
    | with_reducible apply State.cwRec_keeps
    | with_reducible apply State.markCodeword_keeps
    | with_reducible apply State.startSpare_keeps
    | split
    | with_reducible refine Keeps.pair (by assumption) ?_
    | dsimp only

theorem execTileData_keeps {c₀ : Bool} {s₀ s : State} (n : Nat) (slot : Nat) (upper : Bool) (flips : List (BitVec 80)) (used : Bool) (m : Msg) (h : Keeps c₀ s₀ s) : ∃ t₁, execTileData n slot upper flips used m s = .next t₁ ∧ Keeps c₀ s₀ t₁ := by
  refine ⟨_, rfl, ?_⟩
  repeat' first
    | with_reducible assumption
    | with_reducible apply State.cwEvent_keeps
    | with_reducible apply State.modSlice_keeps
    | with_reducible apply State.bump_keeps
    | with_reducible apply State.sendTile_keeps
    | with_reducible refine Keeps.foldl ?_ ?_
    | with_reducible refine Keeps.foldl1 ?_ ?_
    | intro _
    | split
    | dsimp only

theorem State.setTile_keeps {c₀ : Bool} {s₀ s : State} (n : Nat) (slot : Nat) (v : LineData)  (h : Keeps c₀ s₀ s) : Keeps c₀ s₀ (State.setTile s n slot v) := by
  unfold State.setTile
  repeat' first
    | with_reducible assumption
    | with_reducible apply State.writeTile_keeps
    | dsimp only

theorem State.checkLine_keeps {c₀ : Bool} {s₀ s : State} (n : Nat) (d : Nat) (D : ImgDomain) (k : Nat) (flips : List (BitVec 80))  (h : Keeps c₀ s₀ s) : Keeps c₀ s₀ (State.checkLine s n d D k flips) := by
  unfold State.checkLine
  repeat' first
    | with_reducible assumption
    | with_reducible apply State.cwEvent_keeps
    | with_reducible refine Keeps.foldl ?_ ?_
    | with_reducible refine Keeps.foldl1 ?_ ?_
    | intro _
    | split
    | dsimp only

end Sys2Proof.Machine
end

