-- ==== Sys2Proof/Laws/Keep/Slice.lean ====
section
/-! SUPPORT. What the operations of Machine.Slice keep. -/

namespace Sys2Proof.Machine

open Sys2Proof

set_option linter.unreachableTactic false
set_option linter.unusedTactic false
set_option linter.unusedVariables false
set_option Elab.async false

theorem State.setRrv_keeps {c₀ : Bool} {s₀ s : State} (n : Nat) (slot : Nat) (v : BitVec 2)  (h : Keeps c₀ s₀ s) : Keeps c₀ s₀ (State.setRrv s n slot v) := by
  unfold State.setRrv
  repeat' first
    | with_reducible assumption
    | with_reducible apply State.modSlice_keeps
    | dsimp only

theorem State.pickWay_keeps {c₀ : Bool} {s₀ s : State} (a : At) (cs : List Nat)  (h : Keeps c₀ s₀ s) : Keeps c₀ s₀ (State.pickWay s a cs).1 := by
  unfold State.pickWay
  repeat' first
    | with_reducible assumption
    | with_reducible apply State.setRrv_keeps
    | with_reducible refine Keeps.foldl ?_ ?_
    | with_reducible refine Keeps.foldl1 ?_ ?_
    | intro _
    | split
    | dsimp only

theorem State.vbPut_keeps {c₀ : Bool} {s₀ s : State} (n : Nat) (i : Nat) (v : Option VbEnt)  (h : Keeps c₀ s₀ s) : Keeps c₀ s₀ (State.vbPut s n i v) := by
  unfold State.vbPut
  repeat' first
    | with_reducible assumption
    | with_reducible apply State.modSlice_keeps
    | split
    | dsimp only

theorem State.modTag_keeps {c₀ : Bool} {s₀ s : State} (n : Nat) (slot : Nat) (f : TagWord → TagWord)  (h : Keeps c₀ s₀ s) : Keeps c₀ s₀ (State.modTag s n slot f) := by
  unfold State.modTag
  repeat' first
    | with_reducible assumption
    | with_reducible apply State.modSlice_keeps
    | dsimp only

theorem State.predDrop_keeps {c₀ : Bool} {s₀ s : State} (n : Nat) (set : Nat) (w : Nat)  (h : Keeps c₀ s₀ s) : Keeps c₀ s₀ (State.predDrop s n set w) := by
  unfold State.predDrop
  repeat' first
    | with_reducible assumption
    | with_reducible apply State.modSlice_keeps
    | split
    | dsimp only

theorem State.setPres_keeps {c₀ : Bool} {s₀ s : State} (n : Nat) (slot : Nat) (v : BitVec 32)  (h : Keeps c₀ s₀ s) : Keeps c₀ s₀ (State.setPres s n slot v) := by
  unfold State.setPres
  repeat' first
    | with_reducible assumption
    | with_reducible apply State.modSlice_keeps
    | dsimp only

theorem State.invalWay_keeps {c₀ : Bool} {s₀ s : State} (n : Nat) (D : ImgDomain) (slot : Nat)  (h : Keeps c₀ s₀ s) : Keeps c₀ s₀ (State.invalWay s n D slot) := by
  unfold State.invalWay
  repeat' first
    | with_reducible assumption
    | with_reducible apply State.modTag_keeps
    | with_reducible apply State.predDrop_keeps
    | with_reducible apply State.setRrv_keeps
    | with_reducible apply State.setPres_keeps
    | with_reducible apply State.modSlice_keeps
    | with_reducible apply State.bump_keeps
    | split
    | dsimp only

theorem State.snoopNear_keeps {c₀ : Bool} {s₀ s : State} (a : At) (g : Nat) (op : Op) (nodata : Bool) (req : Endpoint) (dl : Option KTime) (cls : BitVec 2)  (h : Keeps c₀ s₀ s) : Keeps c₀ s₀ (State.snoopNear s a g op nodata req dl cls) := by
  unfold State.snoopNear
  repeat' first
    | with_reducible assumption
    | with_reducible apply State.sendNear_keeps
    | dsimp only

theorem State.sendWb_keeps {c₀ : Bool} {s₀ s : State} (a : At) (dirty : Bool) (x : LineData)  (h : Keeps c₀ s₀ s) : Keeps c₀ s₀ (State.sendWb s a dirty x) := by
  unfold State.sendWb
  repeat' first
    | with_reducible assumption
    | with_reducible apply State.sendHome_keeps
    | split
    | dsimp only

theorem State.vbSettle_keeps {c₀ : Bool} {s₀ s : State} (a : At)  (h : Keeps c₀ s₀ s) : Keeps c₀ s₀ (State.vbSettle s a) := by
  unfold State.vbSettle
  repeat' first
    | with_reducible assumption
    | with_reducible apply State.vbPut_keeps
    | with_reducible apply State.modSlice_keeps
    | with_reducible apply State.qPush_keeps
    | with_reducible apply State.sendWb_keeps
    | with_reducible refine Keeps.foldl ?_ ?_
    | with_reducible refine Keeps.foldl1 ?_ ?_
    | intro _
    | split
    | dsimp only

theorem State.takeVictim_keeps {c₀ : Bool} {s₀ s : State} (n : Nat) (d : Nat) (D : ImgDomain) (slot : Nat) (i : Nat) (gate : Nat) (flips : optParam (List (BitVec 80)) [])  (h : Keeps c₀ s₀ s) : Keeps c₀ s₀ (State.takeVictim s n d D slot i gate flips) := by
  unfold State.takeVictim
  repeat' first
    | with_reducible assumption
    | with_reducible apply State.checkLine_keeps
    | with_reducible apply State.modSlice_keeps
    | with_reducible apply State.vbPut_keeps
    | with_reducible apply State.invalWay_keeps
    | with_reducible apply State.chan_keeps
    | with_reducible apply State.snoopNear_keeps
    | with_reducible apply State.vbSettle_keeps
    | with_reducible refine Keeps.foldl ?_ ?_
    | with_reducible refine Keeps.foldl1 ?_ ?_
    | intro _
    | split
    | dsimp only

theorem State.makeRoom_keeps {c₀ : Bool} {s₀ s : State} (a : At) (t : Nat) (gate : Nat) (flips : List (BitVec 80))  (h : Keeps c₀ s₀ s) : Keeps c₀ s₀ (State.makeRoom s a t gate flips).1 := by
  unfold State.makeRoom
  repeat' first
    | with_reducible assumption
    | with_reducible apply State.pickWay_keeps
    | with_reducible apply State.bump_keeps
    | with_reducible apply State.takeVictim_keeps
    | split
    | with_reducible refine Keeps.pair (by assumption) ?_
    | dsimp only

theorem State.sliceMust_keeps {c₀ : Bool} {s₀ s : State} (n : Nat) (c : RecCode)  (h : Keeps c₀ s₀ s) : Keeps c₀ s₀ (State.sliceMust s n c) := by
  unfold State.sliceMust
  repeat' first
    | with_reducible assumption
    | with_reducible apply State.winHit_keeps
    | with_reducible apply State.fence_keeps
    | split
    | with_reducible refine Keeps.pair (by assumption) ?_
    | dsimp only

theorem State.tagCorrected_keeps {c₀ : Bool} {s₀ s : State} (n : Nat) (d : Nat) (D : ImgDomain) (set : Nat) (w : Nat) (pres : Bool) (syn : BitVec 16)  (h : Keeps c₀ s₀ s) : Keeps c₀ s₀ (State.tagCorrected s n d D set w pres syn) := by
  unfold State.tagCorrected
  repeat' first
    | with_reducible assumption
    | with_reducible apply State.bump_keeps
    | with_reducible apply State.modSlice_keeps
    | with_reducible apply State.winHit_keeps
    | with_reducible apply State.raise_keeps
    | split
    | with_reducible refine Keeps.pair (by assumption) ?_
    | dsimp only

theorem State.newMshr_keeps {c₀ : Bool} {s₀ s t : State} {b : Nat} {a : At} {m : Msg} {req : Op} {wb : Bool} {near : Option NearMiss}
    (e : s.newMshr a m req wb near = some (t, b)) (h : Keeps c₀ s₀ s) : Keeps c₀ s₀ t := by
  unfold State.newMshr at e
  split at e
  · cases e
  · simp only [Option.some.injEq, Prod.mk.injEq] at e
    obtain ⟨rfl, _⟩ := e
    exact State.modSlice_keeps _ _ h

theorem State.wbMerge_keeps {c₀ : Bool} {s₀ s t : State} {a : At} {m : Msg} (e : s.wbMerge a m = some t) (h : Keeps c₀ s₀ s) : Keeps c₀ s₀ t := by
  unfold State.wbMerge at e
  dsimp only at e
  split at e
  · simp only [Option.some.injEq] at e
    subst e
    exact State.modSlice_keeps _ _ h
  · simp only [Option.map_eq_some_iff] at e
    obtain ⟨i, _, rfl⟩ := e
    exact State.modSlice_keeps _ _ h

theorem State.openMiss_keeps {c₀ : Bool} {s₀ s t : State} {b : Nat} {a : At} {m : Msg} {op : Op} {wb : Bool} {near : Option NearMiss}
    (e : s.openMiss a m op wb near = some (t, b)) (h : Keeps c₀ s₀ s) : Keeps c₀ s₀ t := by
  unfold State.openMiss at e
  split at e
  · cases e
  · rename_i s1 i h1
    have hk := State.newMshr_keeps h1 h
    split at e
    · simp only [Option.map_eq_some_iff, Prod.mk.injEq] at e
      obtain ⟨s2, h2, rfl, _⟩ := e
      exact State.wbMerge_keeps h2 hk
    · simp only [Option.some.injEq, Prod.mk.injEq] at e
      obtain ⟨rfl, _⟩ := e
      exact hk

theorem State.sliceTrip_keeps {c₀ : Bool} {s₀ s : State} (n : Nat) (c : RecCode)  (h : Keeps c₀ s₀ s) : Keeps c₀ s₀ (State.sliceTrip s n c) := by
  unfold State.sliceTrip
  repeat' first
    | with_reducible assumption
    | with_reducible apply State.winHit_keeps
    | with_reducible apply State.fence_keeps
    | with_reducible apply State.rep_keeps
    | split
    | with_reducible refine Keeps.pair (by assumption) ?_
    | dsimp only

theorem State.answer_keeps {c₀ : Bool} {s₀ s : State} (a : At) (m : Msg) (r : Msg)  (h : Keeps c₀ s₀ s) : Keeps c₀ s₀ (State.answer s a m r) := by
  unfold State.answer
  repeat' first
    | with_reducible assumption
    | with_reducible apply State.sendEp_keeps
    | dsimp only

theorem State.ledger_keeps {c₀ : Bool} {s₀ s : State} (a : At) (m : Msg)  (h : Keeps c₀ s₀ s) : Keeps c₀ s₀ (State.ledger s a m).1 := by
  unfold State.ledger
  repeat' first
    | with_reducible assumption
    | with_reducible apply State.sliceTrip_keeps
    | with_reducible apply State.answer_keeps
    | dsimp only

theorem State.nearWith_keeps {c₀ : Bool} {s₀ s : State} (a : At) (m : Msg) (op : Op) (wb : Bool) (owner : Option Nat) (sn : List (Nat × Op × Bool)) {f : State → State} (hf : ∀ s, Keeps c₀ s₀ s → Keeps c₀ s₀ (f s)) (h : Keeps c₀ s₀ s) : Keeps c₀ s₀ (State.nearWith s a m op wb owner sn f).1 := by
  unfold State.nearWith
  repeat' first
    | with_reducible assumption
    | with_reducible apply hf
    | with_reducible apply State.ledger_keeps
    | with_reducible apply State.snoopNear_keeps
    | with_reducible refine Keeps.foldl ?_ ?_
    | with_reducible refine Keeps.foldl1 ?_ ?_
    | with_reducible refine State.openMiss_keeps (by assumption) ?_
    | intro _
    | split
    | with_reducible refine Keeps.pair (by assumption) ?_
    | dsimp only

theorem State.give_keeps {c₀ : Bool} {s₀ s : State} (a : At) (slot : Nat) (m : Msg) (g : CohState) (wt : Bool) (fd : Option (LineData × Option Bool))  (h : Keeps c₀ s₀ s) : Keeps c₀ s₀ (State.give s a slot m g wt fd) := by
  unfold State.give
  repeat' first
    | with_reducible assumption
    | with_reducible apply State.sendTile_keeps
    | with_reducible apply State.tileRead_keeps
    | split
    | dsimp only

theorem State.hitShared_keeps {c₀ : Bool} {s₀ s : State} (a : At) (w : Nat) (m : Msg) (rcd : Bool) (fd : Option (LineData × Option Bool))  (h : Keeps c₀ s₀ s) : Keeps c₀ s₀ (State.hitShared s a w m rcd fd).1 := by
  unfold State.hitShared
  repeat' first
    | with_reducible assumption
    | with_reducible apply State.nearWith_keeps
    | with_reducible apply State.setPres_keeps
    | with_reducible apply State.modTag_keeps
    | with_reducible apply State.give_keeps
    | intro _
    | split
    | with_reducible refine Keeps.pair (by assumption) ?_
    | dsimp only

theorem State.presLost_keeps {c₀ : Bool} {s₀ s : State} (n : Nat) (d : Nat) (D : ImgDomain) (set : Nat) (word : Nat) (syn : BitVec 16)  (h : Keeps c₀ s₀ s) : Keeps c₀ s₀ (State.presLost s n d D set word syn) := by
  unfold State.presLost
  repeat' first
    | with_reducible assumption
    | with_reducible apply State.modSlice_keeps
    | with_reducible apply State.setPres_keeps
    | with_reducible apply State.raise_keeps
    | with_reducible apply State.bump_keeps
    | dsimp only

theorem State.eccPres_keeps {c₀ : Bool} {s₀ s : State} (n : Nat) (d : Nat) (D : ImgDomain) (set : Nat) (j : Nat) (flips : BitVec 80)  (h : Keeps c₀ s₀ s) : Keeps c₀ s₀ (State.eccPres s n d D set j flips).1 := by
  unfold State.eccPres
  repeat' first
    | with_reducible assumption
    | with_reducible apply State.setPres_keeps
    | with_reducible apply State.tagCorrected_keeps
    | with_reducible apply State.presLost_keeps
    | split
    | dsimp only

theorem State.modMshr_keeps {c₀ : Bool} {s₀ s : State} (n : Nat) (i : Nat) (f : Mshr → Mshr)  (h : Keeps c₀ s₀ s) : Keeps c₀ s₀ (State.modMshr s n i f) := by
  unfold State.modMshr
  repeat' first
    | with_reducible assumption
    | with_reducible apply State.modSlice_keeps
    | dsimp only

theorem State.missSend_keeps {c₀ : Bool} {s₀ s : State} (a : At) (i : Nat) (m : Msg) (op : Op) (sn : List (Nat × Op × Bool))  (h : Keeps c₀ s₀ s) : Keeps c₀ s₀ (State.missSend s a i m op sn) := by
  unfold State.missSend
  repeat' first
    | with_reducible assumption
    | with_reducible apply State.modMshr_keeps
    | with_reducible apply State.snoopNear_keeps
    | with_reducible apply State.bump_keeps
    | with_reducible apply State.sendHome_keeps
    | with_reducible refine Keeps.foldl ?_ ?_
    | with_reducible refine Keeps.foldl1 ?_ ?_
    | intro _
    | split
    | dsimp only

theorem State.missWith_keeps {c₀ : Bool} {s₀ s : State} (a : At) (m : Msg) (op : Op) (wb : Bool) (sn : List (Nat × Op × Bool))  (h : Keeps c₀ s₀ s) : Keeps c₀ s₀ (State.missWith s a m op wb sn).1 := by
  unfold State.missWith
  repeat' first
    | with_reducible assumption
    | with_reducible apply State.ledger_keeps
    | with_reducible apply State.missSend_keeps
    | with_reducible refine State.openMiss_keeps (by assumption) ?_
    | split
    | with_reducible refine Keeps.pair (by assumption) ?_
    | dsimp only

theorem State.lookErr_keeps {c₀ : Bool} {s₀ s : State} (a : At) (m : Msg) (e : ErrCode)  (h : Keeps c₀ s₀ s) : Keeps c₀ s₀ (State.lookErr s a m e).1 := by
  unfold State.lookErr
  repeat' first
    | with_reducible assumption
    | with_reducible apply State.answer_keeps
    | dsimp only

theorem State.writeHit_keeps {c₀ : Bool} {s₀ s : State} (a : At) (w : Nat) (m : Msg) (flips : List (BitVec 80))  (h : Keeps c₀ s₀ s) : Keeps c₀ s₀ (State.writeHit s a w m flips).1 := by
  unfold State.writeHit
  repeat' first
    | with_reducible assumption
    | with_reducible apply State.checkLine_keeps
    | with_reducible apply State.lookErr_keeps
    | with_reducible apply State.writeTile_keeps
    | with_reducible apply State.modTag_keeps
    | with_reducible apply State.answer_keeps
    | split
    | with_reducible refine Keeps.pair (by assumption) ?_
    | dsimp only

theorem State.takeOwn_keeps {c₀ : Bool} {s₀ s : State} (a : At) (k : Nat) (g : Option Nat)  (h : Keeps c₀ s₀ s) : Keeps c₀ s₀ (State.takeOwn s a k g) := by
  unfold State.takeOwn
  repeat' first
    | with_reducible assumption
    | with_reducible apply State.setPres_keeps
    | with_reducible apply State.modTag_keeps
    | dsimp only

theorem State.upgWith_keeps {c₀ : Bool} {s₀ s : State} (a : At) (k : Nat) (m : Msg) (wb : Bool) (sn : List (Nat × Op × Bool)) (keep : BitVec 32)  (h : Keeps c₀ s₀ s) : Keeps c₀ s₀ (State.upgWith s a k m wb sn keep).1 := by
  unfold State.upgWith
  repeat' first
    | with_reducible assumption
    | with_reducible apply State.missWith_keeps
    | with_reducible apply State.modTag_keeps
    | with_reducible apply State.setPres_keeps
    | split
    | with_reducible refine Keeps.pair (by assumption) ?_
    | dsimp only

theorem State.hitWrite_keeps {c₀ : Bool} {s₀ s : State} (a : At) (w : Nat) (m : Msg) (rcd : Bool) (flips : List (BitVec 80))  (h : Keeps c₀ s₀ s) : Keeps c₀ s₀ (State.hitWrite s a w m rcd flips).1 := by
  unfold State.hitWrite
  repeat' first
    | with_reducible assumption
    | with_reducible apply State.missWith_keeps
    | with_reducible apply State.writeHit_keeps
    | with_reducible apply State.nearWith_keeps
    | with_reducible apply State.takeOwn_keeps
    | with_reducible apply State.upgWith_keeps
    | intro _
    | split
    | with_reducible refine Keeps.pair (by assumption) ?_
    | dsimp only

theorem State.readsDone_keeps {c₀ : Bool} {s₀ s : State} (s0 : State) (a : At) (m : Msg) (reads : List Nat) (commit : Option Nat) (hit : Option Nat) (used : Bool)  (h : Keeps c₀ s₀ s) : Keeps c₀ s₀ (State.readsDone s s0 a m reads commit hit used) := by
  unfold State.readsDone
  repeat' first
    | with_reducible assumption
    | with_reducible apply State.tileDrop_keeps
    | with_reducible refine Keeps.foldl ?_ ?_
    | with_reducible refine Keeps.foldl1 ?_ ?_
    | intro _
    | split
    | dsimp only

theorem State.hitNa_keeps {c₀ : Bool} {s₀ s : State} (a : At) (w : Nat) (m : Msg) (rcd : Bool) (fd : Option (LineData × Option Bool))  (h : Keeps c₀ s₀ s) : Keeps c₀ s₀ (State.hitNa s a w m rcd fd).1 := by
  unfold State.hitNa
  repeat' first
    | with_reducible assumption
    | with_reducible apply State.nearWith_keeps
    | with_reducible apply State.give_keeps
    | intro _
    | split
    | with_reducible refine Keeps.pair (by assumption) ?_
    | dsimp only

theorem State.hitOwn_keeps {c₀ : Bool} {s₀ s : State} (a : At) (w : Nat) (m : Msg) (op : Op) (fd : Option (LineData × Option Bool)) (merged : Bool)  (h : Keeps c₀ s₀ s) : Keeps c₀ s₀ (State.hitOwn s a w m op fd merged).1 := by
  unfold State.hitOwn
  repeat' first
    | with_reducible assumption
    | with_reducible apply State.answer_keeps
    | with_reducible apply State.takeOwn_keeps
    | with_reducible apply State.give_keeps
    | with_reducible apply State.nearWith_keeps
    | with_reducible apply State.upgWith_keeps
    | intro _
    | split
    | with_reducible refine Keeps.pair (by assumption) ?_
    | dsimp only

theorem State.hitNodata_keeps {c₀ : Bool} {s₀ s : State} (a : At) (w : Nat) (m : Msg) (fd : Option (LineData × Option Bool))  (h : Keeps c₀ s₀ s) : Keeps c₀ s₀ (State.hitNodata s a w m fd).1 := by
  unfold State.hitNodata
  repeat' first
    | with_reducible assumption
    | with_reducible apply State.answer_keeps
    | with_reducible apply State.takeOwn_keeps
    | with_reducible apply State.nearWith_keeps
    | with_reducible apply State.upgWith_keeps
    | intro _
    | split
    | with_reducible refine Keeps.pair (by assumption) ?_
    | dsimp only

theorem State.lookPresent_keeps {c₀ : Bool} {s₀ s : State} (a : At) (w : Nat) (m : Msg) (op : Op) (rcd : Bool) (fd : Option (LineData × Option Bool)) (merged : Bool) (flips : List (BitVec 80))  (h : Keeps c₀ s₀ s) : Keeps c₀ s₀ (State.lookPresent s a w m op rcd fd merged flips).1 := by
  unfold State.lookPresent
  repeat' first
    | with_reducible assumption
    | with_reducible apply State.lookErr_keeps
    | with_reducible apply State.hitShared_keeps
    | with_reducible apply State.hitNa_keeps
    | with_reducible apply State.hitOwn_keeps
    | with_reducible apply State.hitNodata_keeps
    | with_reducible apply State.hitWrite_keeps
    | split
    | with_reducible refine Keeps.pair (by assumption) ?_
    | dsimp only

theorem State.passEnd_keeps {c₀ : Bool} {s₀ s : State} (n : Nat) (ok : PassEnd)  (h : Keeps c₀ s₀ s) : Keeps c₀ s₀ (State.passEnd s n ok).1 := by
  unfold State.passEnd
  repeat' first
    | with_reducible assumption
    | split
    | dsimp only

theorem State.mismatch_keeps {c₀ : Bool} {s₀ s : State} (n : Nat) (d : Nat) (last : Bool)  (h : Keeps c₀ s₀ s) : Keeps c₀ s₀ (State.mismatch s n d last) := by
  unfold State.mismatch
  repeat' first
    | with_reducible assumption
    | with_reducible apply State.modSlice_keeps
    | with_reducible apply State.bump_keeps
    | with_reducible apply State.winHit_keeps
    | with_reducible apply State.raise_keeps
    | with_reducible apply State.fence_keeps
    | split
    | with_reducible refine Keeps.pair (by assumption) ?_
    | dsimp only

theorem State.returnUnits_keeps {c₀ : Bool} {s₀ s : State} (d : Nat) (ep : Endpoint) (l : LineAddr)  (h : Keeps c₀ s₀ s) : Keeps c₀ s₀ (State.returnUnits s d ep l) := by
  unfold State.returnUnits
  repeat' first
    | with_reducible assumption
    | with_reducible apply State.modGate_keeps
    | with_reducible apply State.modWatch_keeps
    | with_reducible refine Keeps.foldl ?_ ?_
    | with_reducible refine Keeps.foldl1 ?_ ?_
    | intro _
    | split
    | dsimp only

theorem State.tagLost_keeps {c₀ : Bool} {s₀ s : State} (n : Nat) (d : Nat) (D : ImgDomain) (set : Nat) (w : Nat) (syn : BitVec 16)  (h : Keeps c₀ s₀ s) : Keeps c₀ s₀ (State.tagLost s n d D set w syn) := by
  unfold State.tagLost
  repeat' first
    | with_reducible assumption
    | with_reducible apply State.bump_keeps
    | with_reducible apply State.modSlice_keeps
    | with_reducible apply State.raise_keeps
    | with_reducible apply State.sliceMust_keeps
    | split
    | dsimp only

theorem State.eccTag_keeps {c₀ : Bool} {s₀ s : State} (n : Nat) (d : Nat) (D : ImgDomain) (set : Nat) (w : Nat) (flips : BitVec 80)  (h : Keeps c₀ s₀ s) : Keeps c₀ s₀ (State.eccTag s n d D set w flips).1 := by
  unfold State.eccTag
  repeat' first
    | with_reducible assumption
    | with_reducible apply State.modTag_keeps
    | with_reducible apply State.tagCorrected_keeps
    | with_reducible apply State.tagLost_keeps
    | split
    | dsimp only

theorem State.eccStage_keeps {c₀ : Bool} {s₀ s : State} (n : Nat) (d : Nat) (D : ImgDomain) (set : Nat) (x : PassTry)  (h : Keeps c₀ s₀ s) : Keeps c₀ s₀ (State.eccStage s n d D set x).1 := by
  unfold State.eccStage
  repeat' first
    | with_reducible assumption
    | with_reducible apply State.eccTag_keeps
    | with_reducible apply State.eccPres_keeps
    | with_reducible refine Keeps.foldl ?_ ?_
    | with_reducible refine Keeps.foldl1 ?_ ?_
    | intro _
    | with_reducible refine Keeps.pair (by assumption) ?_
    | dsimp only

theorem State.lastTrip_keeps {c₀ : Bool} {s₀ s : State} (n : Nat) (reads : List Nat) (x : PassFault)  (h : Keeps c₀ s₀ s) : Keeps c₀ s₀ (State.lastTrip s n reads x).st := by
  unfold State.lastTrip
  repeat' first
    | with_reducible assumption
    | with_reducible apply State.passEnd_keeps
    | with_reducible apply State.sliceTrip_keeps
    | split
    | with_reducible refine Keeps.pair (by assumption) ?_
    | dsimp only

theorem State.replayTrip_keeps {c₀ : Bool} {s₀ s : State} (n : Nat) (d : Nat) (D : ImgDomain) (set : Nat) (hit : State → Option Nat) (due : Nat → Bool) (k : Nat) (reads : List Nat) (x : PassFault)  (h : Keeps c₀ s₀ s) : Keeps c₀ s₀ (State.replayTrip s n d D set hit due k reads x).st := by
  unfold State.replayTrip
  repeat' first
    | with_reducible assumption
    | with_reducible apply State.eccStage_keeps
    | with_reducible apply State.passEnd_keeps
    | with_reducible apply State.mismatch_keeps
    | with_reducible apply State.lastTrip_keeps
    | split
    | with_reducible refine Keeps.pair (by assumption) ?_
    | dsimp only

theorem State.runPass_keeps {c₀ : Bool} {s₀ s : State} (n : Nat) (d : Nat) (D : ImgDomain) (set : Nat) (hit : State → Option Nat) (pr : Option Nat) (due : Nat → Bool) (x : PassFault)  (h : Keeps c₀ s₀ s) : Keeps c₀ s₀ (State.runPass s n d D set hit pr due x).st := by
  unfold State.runPass
  repeat' first
    | with_reducible assumption
    | with_reducible apply State.setRrv_keeps
    | with_reducible apply State.bump_keeps
    | with_reducible apply State.eccStage_keeps
    | with_reducible apply State.replayTrip_keeps
    | with_reducible apply State.lastTrip_keeps
    | with_reducible apply State.mismatch_keeps
    | with_reducible refine Keeps.foldl ?_ ?_
    | with_reducible refine Keeps.foldl1 ?_ ?_
    | intro _
    | split
    | with_reducible refine Keeps.pair (by assumption) ?_
    | dsimp only

theorem State.returnEnts_keeps {c₀ : Bool} {s₀ s : State} (d : Nat) (ep : Endpoint) (l : LineAddr) (keep : EntRes) (credit : Bool)  (h : Keeps c₀ s₀ s) : Keeps c₀ s₀ (State.returnEnts s d ep l keep credit) := by
  unfold State.returnEnts
  repeat' first
    | with_reducible assumption
    | with_reducible apply State.modWatch_keeps
    | with_reducible apply State.modPort_keeps
    | split
    | dsimp only

theorem State.lookJoin_keeps {c₀ : Bool} {s₀ s : State} (a : At) (i : Nat) (e : Mshr) (m : Msg) (op : Op) (rcd : Bool)  (h : Keeps c₀ s₀ s) : Keeps c₀ s₀ (State.lookJoin s a i e m op rcd).1 := by
  unfold State.lookJoin
  repeat' first
    | with_reducible assumption
    | with_reducible apply State.modMshr_keeps
    | with_reducible apply State.ledger_keeps
    | with_reducible refine State.wbMerge_keeps (by assumption) ?_
    | split
    | with_reducible refine Keeps.pair (by assumption) ?_
    | dsimp only

theorem State.lookAbsent_keeps {c₀ : Bool} {s₀ s : State} (a : At) (m : Msg) (op : Op) (rcd : Bool)  (h : Keeps c₀ s₀ s) : Keeps c₀ s₀ (State.lookAbsent s a m op rcd).1 := by
  unfold State.lookAbsent
  repeat' first
    | with_reducible assumption
    | with_reducible apply State.lookErr_keeps
    | with_reducible apply State.missWith_keeps
    | split
    | with_reducible refine Keeps.pair (by assumption) ?_
    | dsimp only

theorem State.lookOn_keeps {c₀ : Bool} {s₀ s : State} (a : At) (m : Msg) (fd : Option (LineData × Option Bool)) (wt : Bool) (merged : Bool) (flips : optParam (List (BitVec 80)) [])  (h : Keeps c₀ s₀ s) : Keeps c₀ s₀ (State.lookOn s a m fd wt merged flips).1 := by
  unfold State.lookOn
  repeat' first
    | with_reducible assumption
    | with_reducible apply State.lookJoin_keeps
    | with_reducible apply State.lookPresent_keeps
    | with_reducible apply State.lookAbsent_keeps
    | split
    | with_reducible refine Keeps.pair (by assumption) ?_
    | dsimp only

theorem State.look_keeps {c₀ : Bool} {s₀ s : State} (a : At) (m : Msg) (fd : Option (LineData × Option Bool)) (wt : Bool) (merged : Bool) (flips : optParam (List (BitVec 80)) [])  (h : Keeps c₀ s₀ s) : Keeps c₀ s₀ (State.look s a m fd wt merged flips).1 := by
  unfold State.look
  repeat' first
    | with_reducible assumption
    | with_reducible apply State.bump_keeps
    | with_reducible apply State.answer_keeps
    | with_reducible apply State.lookOn_keeps
    | split
    | with_reducible refine Keeps.pair (by assumption) ?_
    | dsimp only

theorem State.sampleSet_keeps {c₀ : Bool} {s₀ s : State} (a : At) (t : Nat)  (h : Keeps c₀ s₀ s) : Keeps c₀ s₀ (State.sampleSet s a t) := by
  unfold State.sampleSet
  repeat' first
    | with_reducible assumption
    | with_reducible apply State.modSlice_keeps
    | split
    | dsimp only

theorem State.predSet_keeps {c₀ : Bool} {s₀ s : State} (a : At) (w : Nat)  (h : Keeps c₀ s₀ s) : Keeps c₀ s₀ (State.predSet s a w) := by
  unfold State.predSet
  repeat' first
    | with_reducible assumption
    | with_reducible apply State.modSlice_keeps
    | dsimp only

theorem State.touch_keeps {c₀ : Bool} {s₀ s : State} (a : At) (m : Msg) (w : Option Nat)  (h : Keeps c₀ s₀ s) : Keeps c₀ s₀ (State.touch s a m w) := by
  unfold State.touch
  repeat' first
    | with_reducible assumption
    | with_reducible apply State.predSet_keeps
    | with_reducible apply State.setRrv_keeps
    | split
    | dsimp only

theorem State.hint_keeps {c₀ : Bool} {s₀ s : State} (a : At) (l : LineAddr)  (h : Keeps c₀ s₀ s) : Keeps c₀ s₀ (State.hint s a l) := by
  unfold State.hint
  repeat' first
    | with_reducible assumption
    | with_reducible apply State.injToken_keeps
    | with_reducible apply State.sendHome_keeps
    | with_reducible apply State.bump_keeps
    | split
    | with_reducible refine Keeps.pair (by assumption) ?_
    | dsimp only

theorem State.trainMiss_keeps {c₀ : Bool} {s₀ s : State} (a : At) (t : Nat)  (h : Keeps c₀ s₀ s) : Keeps c₀ s₀ (State.trainMiss s a t) := by
  unfold State.trainMiss
  repeat' first
    | with_reducible assumption
    | with_reducible apply State.modSlice_keeps
    | with_reducible apply State.hint_keeps
    | with_reducible refine Keeps.foldl ?_ ?_
    | with_reducible refine Keeps.foldl1 ?_ ?_
    | intro _
    | split
    | dsimp only

theorem State.holdLook_keeps {c₀ : Bool} {s₀ s : State} (n : Nat) (m : Msg)  (h : Keeps c₀ s₀ s) : Keeps c₀ s₀ (State.holdLook s n m) := by
  unfold State.holdLook
  repeat' first
    | with_reducible assumption
    | with_reducible apply State.qPush_keeps
    | with_reducible apply State.bump_keeps
    | dsimp only

theorem State.lookDone_keeps {c₀ : Bool} {s₀ s : State} (a : At) (m : Msg) (w : Option Nat) (e : LookEnd)  (h : Keeps c₀ s₀ s) : Keeps c₀ s₀ (State.lookDone s a m w e) := by
  unfold State.lookDone
  repeat' first
    | with_reducible assumption
    | with_reducible apply State.sampleSet_keeps
    | with_reducible apply State.tracePath_keeps
    | with_reducible apply State.returnEnts_keeps
    | with_reducible apply State.returnUnits_keeps
    | with_reducible apply State.touch_keeps
    | with_reducible apply State.page_keeps
    | with_reducible apply State.bump_keeps
    | with_reducible apply State.trainMiss_keeps
    | with_reducible apply State.holdLook_keeps
    | split
    | dsimp only

theorem State.lookupIn_keeps {c₀ : Bool} {s₀ s : State} (a : At) (m : Msg) (x : PassFault)  (h : Keeps c₀ s₀ s) : Keeps c₀ s₀ (State.lookupIn s a m x) := by
  unfold State.lookupIn
  repeat' first
    | with_reducible assumption
    | with_reducible apply State.stamp_keeps
    | with_reducible apply State.runPass_keeps
    | with_reducible apply State.readsDone_keeps
    | with_reducible apply State.workEnd_keeps
    | with_reducible apply State.returnEnts_keeps
    | with_reducible apply State.answer_keeps
    | with_reducible apply State.bump_keeps
    | with_reducible apply State.look_keeps
    | with_reducible apply State.lookDone_keeps
    | split
    | with_reducible refine Keeps.pair (by assumption) ?_
    | dsimp only

theorem execLookupPass_keeps {c₀ : Bool} {s₀ s : State} (n : Nat) (m : Msg) (x : PassFault) (h : Keeps c₀ s₀ s) : ∃ t₁, execLookupPass n m x s = .next t₁ ∧ Keeps c₀ s₀ t₁ := by
  refine ⟨_, rfl, ?_⟩
  repeat' first
    | with_reducible assumption
    | with_reducible apply State.lookupIn_keeps
    | with_reducible apply State.modSlice_keeps
    | with_reducible apply State.qTake_keeps
    | split
    | dsimp only

theorem State.passFaults_keeps {c₀ : Bool} {s₀ s : State} (n : Nat) (d : Nat) (D : ImgDomain) (set : Nat) (x : PassFault)  (h : Keeps c₀ s₀ s) : Keeps c₀ s₀ (State.passFaults s n d D set x).1 := by
  unfold State.passFaults
  repeat' first
    | with_reducible assumption
    | with_reducible apply State.runPass_keeps
    | dsimp only

end Sys2Proof.Machine
end

