-- ==== Sys2Proof/Laws/Keep/Fill.lean ====
section
/-! SUPPORT. What the operations of Machine.Fill keep. -/

namespace Sys2Proof.Machine

open Sys2Proof

set_option linter.unreachableTactic false
set_option linter.unusedTactic false
set_option linter.unusedVariables false
set_option Elab.async false

theorem State.install_keeps {c₀ : Bool} {s₀ s : State} (a : At) (w : Nat) (e : Mshr) (st : CohState) (subd : BitVec 2) (x : LineData)  (h : Keeps c₀ s₀ s) : Keeps c₀ s₀ (State.install s a w e st subd x) := by
  unfold State.install
  repeat' first
    | with_reducible assumption
    | with_reducible apply State.modTag_keeps
    | with_reducible apply State.setTile_keeps
    | with_reducible apply State.predSet_keeps
    | with_reducible apply State.setRrv_keeps
    | with_reducible apply State.setPres_keeps
    | split
    | dsimp only

theorem State.writerDone_keeps {c₀ : Bool} {s₀ s : State} (a : At) (bad : List Waiter) (w : Waiter)  (h : Keeps c₀ s₀ s) : Keeps c₀ s₀ (State.writerDone s a bad w) := by
  unfold State.writerDone
  repeat' first
    | with_reducible assumption
    | with_reducible apply State.answer_keeps
    | split
    | dsimp only

theorem State.freeWb_keeps {c₀ : Bool} {s₀ s : State} (a : At)  (h : Keeps c₀ s₀ s) : Keeps c₀ s₀ (State.freeWb s a) := by
  unfold State.freeWb
  repeat' first
    | with_reducible assumption
    | with_reducible apply State.modSlice_keeps
    | split
    | dsimp only

theorem State.waitersErr_keeps {c₀ : Bool} {s₀ s : State} (a : At) (ws : List Waiter) (c : ErrCode)  (h : Keeps c₀ s₀ s) : Keeps c₀ s₀ (State.waitersErr s a ws c) := by
  unfold State.waitersErr
  repeat' first
    | with_reducible assumption
    | with_reducible apply State.answer_keeps
    | with_reducible refine Keeps.foldl ?_ ?_
    | with_reducible refine Keeps.foldl1 ?_ ?_
    | intro _
    | dsimp only

theorem State.waiterLook_keeps {c₀ : Bool} {s₀ s : State} (a : At) (x : LineData) (second : Option Bool) (wt : Bool) (merged : Bool) (w : Waiter)  (h : Keeps c₀ s₀ s) : Keeps c₀ s₀ (State.waiterLook s a x second wt merged w) := by
  unfold State.waiterLook
  repeat' first
    | with_reducible assumption
    | with_reducible apply State.lookOn_keeps
    | with_reducible apply State.holdLook_keeps
    | split
    | with_reducible refine Keeps.pair (by assumption) ?_
    | dsimp only

theorem State.fillIn_keeps {c₀ : Bool} {s₀ s : State} (a : At) (e : Mshr) (p : FillPlan) (w : Nat)  (h : Keeps c₀ s₀ s) : Keeps c₀ s₀ (State.fillIn s a e p w) := by
  unfold State.fillIn
  repeat' first
    | with_reducible assumption
    | with_reducible apply State.predSet_keeps
    | with_reducible apply State.setRrv_keeps
    | with_reducible apply State.modTag_keeps
    | with_reducible apply State.install_keeps
    | with_reducible apply State.setTile_keeps
    | with_reducible apply State.freeWb_keeps
    | with_reducible apply State.writerDone_keeps
    | with_reducible apply State.waitersErr_keeps
    | with_reducible apply State.waiterLook_keeps
    | with_reducible refine Keeps.foldl ?_ ?_
    | with_reducible refine Keeps.foldl1 ?_ ?_
    | intro _
    | split
    | dsimp only

theorem State.fillFault_keeps {c₀ : Bool} {s₀ s : State} (a : At) (i : Nat) (e : Mshr)  (h : Keeps c₀ s₀ s) : Keeps c₀ s₀ (State.fillFault s a i e) := by
  unfold State.fillFault
  repeat' first
    | with_reducible assumption
    | with_reducible apply State.freeWb_keeps
    | with_reducible apply State.waitersErr_keeps
    | with_reducible apply State.bump_keeps
    | with_reducible apply State.modMshr_keeps
    | split
    | dsimp only

theorem State.fillNone_keeps {c₀ : Bool} {s₀ s : State} (n : Nat) (m : Msg)  (h : Keeps c₀ s₀ s) : Keeps c₀ s₀ (State.fillNone s n m) := by
  unfold State.fillNone
  repeat' first
    | with_reducible assumption
    | with_reducible apply State.qTake_keeps
    | split
    | dsimp only

theorem State.fillRun_keeps {c₀ : Bool} {s₀ s : State} (a : At) (i : Nat) (e : Mshr) (m : Msg) (x : PassFault) {f : State → State} (hf : ∀ s, Keeps c₀ s₀ s → Keeps c₀ s₀ (f s)) (h : Keeps c₀ s₀ s) : Keeps c₀ s₀ (State.fillRun s a i e m x f) := by
  unfold State.fillRun
  repeat' first
    | with_reducible assumption
    | with_reducible apply hf
    | with_reducible apply State.runPass_keeps
    | with_reducible apply State.readsDone_keeps
    | with_reducible apply State.fillFault_keeps
    | intro _
    | split
    | dsimp only

theorem State.compAckHome_keeps {c₀ : Bool} {s₀ s : State} (a : At) (txn : BitVec 12) (dl : KTime)  (h : Keeps c₀ s₀ s) : Keeps c₀ s₀ (State.compAckHome s a txn dl) := by
  unfold State.compAckHome
  repeat' first
    | with_reducible assumption
    | with_reducible apply State.sendHome_keeps
    | dsimp only

theorem State.freeMshr_keeps {c₀ : Bool} {s₀ s : State} (a : At) (i : Nat) (e : Mshr)  (h : Keeps c₀ s₀ s) : Keeps c₀ s₀ (State.freeMshr s a i e) := by
  unfold State.freeMshr
  repeat' first
    | with_reducible assumption
    | with_reducible apply State.modSlice_keeps
    | with_reducible apply State.qTake_keeps
    | with_reducible apply State.qPush_keeps
    | with_reducible apply State.modPort_keeps
    | with_reducible apply State.workEnd_keeps
    | with_reducible refine Keeps.foldl ?_ ?_
    | with_reducible refine Keeps.foldl1 ?_ ?_
    | intro _
    | split
    | dsimp only

theorem State.durPass_keeps {c₀ : Bool} {s₀ s : State} (a : At) (i : Nat) (e : Mshr) (m : Msg) (flips : List (BitVec 80))  (h : Keeps c₀ s₀ s) : Keeps c₀ s₀ (State.durPass s a i e m flips) := by
  unfold State.durPass
  repeat' first
    | with_reducible assumption
    | with_reducible apply State.bump_keeps
    | with_reducible apply State.stamp_keeps
    | with_reducible apply State.checkLine_keeps
    | with_reducible apply State.modTag_keeps
    | with_reducible apply State.writeTile_keeps
    | with_reducible apply State.answer_keeps
    | with_reducible apply State.compAckHome_keeps
    | with_reducible apply State.freeMshr_keeps
    | with_reducible apply State.freeWb_keeps
    | with_reducible refine Keeps.foldl ?_ ?_
    | with_reducible refine Keeps.foldl1 ?_ ?_
    | intro _
    | split
    | dsimp only

theorem execDur_keeps {c₀ : Bool} {s₀ s : State} (p : PassAt) (m : Msg) (h : Keeps c₀ s₀ s) : ∃ t₁, execDur p m s = .next t₁ ∧ Keeps c₀ s₀ t₁ := by
  refine ⟨_, rfl, ?_⟩
  repeat' first
    | with_reducible assumption
    | with_reducible apply State.fillNone_keeps
    | with_reducible apply State.qTake_keeps
    | with_reducible apply State.fillRun_keeps
    | with_reducible apply State.durPass_keeps
    | intro _
    | split
    | dsimp only

theorem State.waiterPlain_keeps {c₀ : Bool} {s₀ s : State} (a : At) (e : Mshr) (x : LineData) (second : Option Bool) (w : Waiter)  (h : Keeps c₀ s₀ s) : Keeps c₀ s₀ (State.waiterPlain s a e x second w) := by
  unfold State.waiterPlain
  repeat' first
    | with_reducible assumption
    | with_reducible apply State.waiterLook_keeps
    | with_reducible apply State.answer_keeps
    | with_reducible apply State.sendTile_keeps
    | split
    | dsimp only

theorem State.sendHeld_keeps {c₀ : Bool} {s₀ s : State} (a : At) (keyid : BitVec 6) (ten : BitVec 4) (st : CohState) (x : LineData) (gate : Nat)  (h : Keeps c₀ s₀ s) : Keeps c₀ s₀ (State.sendHeld s a keyid ten st x gate) := by
  unfold State.sendHeld
  repeat' first
    | with_reducible assumption
    | with_reducible apply State.sendWb_keeps
    | with_reducible apply State.vbPut_keeps
    | with_reducible apply State.sliceTrip_keeps
    | split
    | dsimp only

theorem State.giveBack_keeps {c₀ : Bool} {s₀ s : State} (a : At) (e : Mshr) (merged : Bool) (hasData : Bool) (x : LineData)  (h : Keeps c₀ s₀ s) : Keeps c₀ s₀ (State.giveBack s a e merged hasData x) := by
  unfold State.giveBack
  repeat' first
    | with_reducible assumption
    | with_reducible apply State.sendHeld_keeps
    | split
    | dsimp only

theorem State.victimNow_keeps {c₀ : Bool} {s₀ s : State} (a : At)  (h : Keeps c₀ s₀ s) : Keeps c₀ s₀ (State.victimNow s a) := by
  unfold State.victimNow
  repeat' first
    | with_reducible assumption
    | with_reducible apply State.takeVictim_keeps
    | with_reducible apply State.sliceTrip_keeps
    | split
    | dsimp only

theorem State.fillOut_keeps {c₀ : Bool} {s₀ s : State} (a : At) (e : Mshr) (p : FillPlan)  (h : Keeps c₀ s₀ s) : Keeps c₀ s₀ (State.fillOut s a e p) := by
  unfold State.fillOut
  repeat' first
    | with_reducible assumption
    | with_reducible apply State.bump_keeps
    | with_reducible apply State.freeWb_keeps
    | with_reducible apply State.writerDone_keeps
    | with_reducible apply State.waitersErr_keeps
    | with_reducible apply State.waiterPlain_keeps
    | with_reducible apply State.giveBack_keeps
    | with_reducible apply State.victimNow_keeps
    | with_reducible refine Keeps.foldl ?_ ?_
    | with_reducible refine Keeps.foldl1 ?_ ?_
    | intro _
    | split
    | dsimp only

theorem State.errTry_keeps {c₀ : Bool} {s₀ s : State} (a : At)  (h : Keeps c₀ s₀ s) : Keeps c₀ s₀ (State.errTry s a) := by
  unfold State.errTry
  repeat' first
    | with_reducible assumption
    | with_reducible apply State.freeMshr_keeps
    | split
    | dsimp only

theorem State.fillWay_keeps {c₀ : Bool} {s₀ s : State} (a : At) (e : Mshr) (p : FillPlan) (flips : List (BitVec 80))  (h : Keeps c₀ s₀ s) : Keeps c₀ s₀ (State.fillWay s a e p flips).1 := by
  unfold State.fillWay
  repeat' first
    | with_reducible assumption
    | with_reducible apply State.makeRoom_keeps
    | split
    | with_reducible refine Keeps.pair (by assumption) ?_
    | dsimp only

theorem State.nearGive_keeps {c₀ : Bool} {s₀ s : State} (a : At) (w : Nat) (e : Mshr) (nm : NearMiss) (q : Waiter)  (h : Keeps c₀ s₀ s) : Keeps c₀ s₀ (State.nearGive s a w e nm q) := by
  unfold State.nearGive
  repeat' first
    | with_reducible assumption
    | with_reducible apply State.ungrant_keeps
    | with_reducible apply State.answer_keeps
    | with_reducible apply State.tileRead_keeps
    | split
    | dsimp only

theorem State.waiterAgain_keeps {c₀ : Bool} {s₀ s : State} (a : At) (w : Waiter)  (h : Keeps c₀ s₀ s) : Keeps c₀ s₀ (State.waiterAgain s a w) := by
  unfold State.waiterAgain
  repeat' first
    | with_reducible assumption
    | with_reducible apply State.lookOn_keeps
    | with_reducible apply State.holdLook_keeps
    | split
    | with_reducible refine Keeps.pair (by assumption) ?_
    | dsimp only

theorem State.nearPass_keeps {c₀ : Bool} {s₀ s : State} (a : At) (i : Nat) (e : Mshr) (nm : NearMiss) (flips : List (BitVec 80))  (h : Keeps c₀ s₀ s) : Keeps c₀ s₀ (State.nearPass s a i e nm flips) := by
  unfold State.nearPass
  repeat' first
    | with_reducible assumption
    | with_reducible apply State.bump_keeps
    | with_reducible apply State.stamp_keeps
    | with_reducible apply State.checkLine_keeps
    | with_reducible apply State.freeMshr_keeps
    | with_reducible apply State.waitersErr_keeps
    | with_reducible apply State.freeWb_keeps
    | with_reducible apply State.modTag_keeps
    | with_reducible apply State.setTile_keeps
    | with_reducible apply State.writerDone_keeps
    | with_reducible apply State.nearGive_keeps
    | with_reducible apply State.holdLook_keeps
    | with_reducible apply State.waiterAgain_keeps
    | with_reducible apply State.victimNow_keeps
    | with_reducible refine Keeps.foldl ?_ ?_
    | with_reducible refine Keeps.foldl1 ?_ ?_
    | intro _
    | split
    | dsimp only

theorem State.fillErr_keeps {c₀ : Bool} {s₀ s : State} (a : At) (i : Nat) (e : Mshr) (c : ErrCode)  (h : Keeps c₀ s₀ s) : Keeps c₀ s₀ (State.fillErr s a i e c) := by
  unfold State.fillErr
  repeat' first
    | with_reducible assumption
    | with_reducible apply State.waitersErr_keeps
    | with_reducible apply State.freeWb_keeps
    | with_reducible apply State.invalWay_keeps
    | with_reducible apply State.snoopNear_keeps
    | with_reducible apply State.errTry_keeps
    | with_reducible apply State.modMshr_keeps
    | with_reducible refine Keeps.foldl ?_ ?_
    | with_reducible refine Keeps.foldl1 ?_ ?_
    | intro _
    | split
    | dsimp only

theorem State.errAtSlice_keeps {c₀ : Bool} {s₀ s : State} (n : Nat) (m : Msg) (x : PassFault)  (h : Keeps c₀ s₀ s) : Keeps c₀ s₀ (State.errAtSlice s n m x) := by
  unfold State.errAtSlice
  repeat' first
    | with_reducible assumption
    | with_reducible apply State.fillNone_keeps
    | with_reducible apply State.qTake_keeps
    | with_reducible apply State.fillRun_keeps
    | with_reducible apply State.fillErr_keeps
    | intro _
    | split
    | dsimp only

theorem State.fillLedger_keeps {c₀ : Bool} {s₀ s : State} (a : At) (e : Mshr) (p : FillPlan)  (h : Keeps c₀ s₀ s) : Keeps c₀ s₀ (State.fillLedger s a e p) := by
  unfold State.fillLedger
  repeat' first
    | with_reducible assumption
    | with_reducible apply State.waitersErr_keeps
    | with_reducible apply State.freeWb_keeps
    | with_reducible apply State.giveBack_keeps
    | with_reducible apply State.sliceTrip_keeps
    | dsimp only

theorem State.wtWrite_keeps {c₀ : Bool} {s₀ s : State} (a : At) (e : Mshr) (b : WbEnt)  (h : Keeps c₀ s₀ s) : Keeps c₀ s₀ (State.wtWrite s a e b) := by
  unfold State.wtWrite
  repeat' first
    | with_reducible assumption
    | with_reducible apply State.freeWb_keeps
    | with_reducible apply State.waitersErr_keeps
    | with_reducible apply State.modMshr_keeps
    | with_reducible apply State.sendHome_keeps
    | with_reducible apply State.bump_keeps
    | with_reducible refine State.newMshr_keeps (by assumption) ?_
    | split
    | with_reducible refine Keeps.pair (by assumption) ?_
    | dsimp only

theorem State.fillPass_keeps {c₀ : Bool} {s₀ s : State} (a : At) (i : Nat) (e : Mshr) (flips : List (BitVec 80))  (h : Keeps c₀ s₀ s) : Keeps c₀ s₀ (State.fillPass s a i e flips) := by
  unfold State.fillPass
  repeat' first
    | with_reducible assumption
    | with_reducible apply State.checkLine_keeps
    | with_reducible apply State.bump_keeps
    | with_reducible apply State.stamp_keeps
    | with_reducible apply State.drawn_keeps
    | with_reducible apply State.freeMshr_keeps
    | with_reducible apply State.fillWay_keeps
    | with_reducible apply State.fillIn_keeps
    | with_reducible apply State.fillOut_keeps
    | with_reducible apply State.fillLedger_keeps
    | with_reducible apply State.wtWrite_keeps
    | with_reducible apply State.compAckHome_keeps
    | split
    | with_reducible refine Keeps.pair (by assumption) ?_
    | dsimp only

theorem State.fillTry_keeps {c₀ : Bool} {s₀ s : State} (a : At) (flips : optParam (List (BitVec 80)) [])  (h : Keeps c₀ s₀ s) : Keeps c₀ s₀ (State.fillTry s a flips) := by
  unfold State.fillTry
  repeat' first
    | with_reducible assumption
    | with_reducible apply State.fillPass_keeps
    | split
    | dsimp only

theorem State.takeData_keeps {c₀ : Bool} {s₀ s : State} (a : At) (i : Nat) (m : Msg) (x : LineData)  (h : Keeps c₀ s₀ s) : Keeps c₀ s₀ (State.takeData s a i m x) := by
  unfold State.takeData
  repeat' first
    | with_reducible assumption
    | with_reducible apply State.modMshr_keeps
    | split
    | dsimp only

theorem execData_keeps {c₀ : Bool} {s₀ s : State} (n : Nat) (m : Msg) (x : PassFault) (h : Keeps c₀ s₀ s) : ∃ t₁, execData n m x s = .next t₁ ∧ Keeps c₀ s₀ t₁ := by
  refine ⟨_, rfl, ?_⟩
  repeat' first
    | with_reducible assumption
    | with_reducible apply State.fillNone_keeps
    | with_reducible apply State.qTake_keeps
    | with_reducible apply State.fillRun_keeps
    | with_reducible apply State.compAckHome_keeps
    | with_reducible apply State.fillErr_keeps
    | with_reducible apply State.fillTry_keeps
    | with_reducible apply State.takeData_keeps
    | intro _
    | split
    | dsimp only

theorem State.waiterNew_keeps {c₀ : Bool} {s₀ s : State} (a : At) (w : Waiter)  (h : Keeps c₀ s₀ s) : Keeps c₀ s₀ (State.waiterNew s a w) := by
  unfold State.waiterNew
  repeat' first
    | with_reducible assumption
    | with_reducible apply State.look_keeps
    | with_reducible apply State.holdLook_keeps
    | split
    | with_reducible refine Keeps.pair (by assumption) ?_
    | dsimp only

theorem execCmp_keeps {c₀ : Bool} {s₀ s : State} (p : PassAt) (m : Msg) (h : Keeps c₀ s₀ s) : ∃ t₁, execCmp p m s = .next t₁ ∧ Keeps c₀ s₀ t₁ := by
  refine ⟨_, rfl, ?_⟩
  repeat' first
    | with_reducible assumption
    | with_reducible apply State.fillNone_keeps
    | with_reducible apply State.qTake_keeps
    | with_reducible apply State.fillRun_keeps
    | with_reducible apply State.freeMshr_keeps
    | with_reducible apply State.freeWb_keeps
    | with_reducible apply State.answer_keeps
    | with_reducible apply State.waiterNew_keeps
    | with_reducible refine Keeps.foldl ?_ ?_
    | with_reducible refine Keeps.foldl1 ?_ ?_
    | intro _
    | split
    | dsimp only

theorem execGrant_keeps {c₀ : Bool} {s₀ s : State} (p : PassAt) (m : Msg) (h : Keeps c₀ s₀ s) : ∃ t₁, execGrant p m s = .next t₁ ∧ Keeps c₀ s₀ t₁ := by
  refine ⟨_, rfl, ?_⟩
  repeat' first
    | with_reducible assumption
    | with_reducible apply State.fillNone_keeps
    | with_reducible apply State.qTake_keeps
    | with_reducible apply State.fillRun_keeps
    | with_reducible apply State.fillTry_keeps
    | with_reducible apply State.modMshr_keeps
    | intro _
    | split
    | dsimp only

theorem execMshrTimeout_keeps {c₀ : Bool} {s₀ s : State} (n : Nat) (i : Nat) (h : Keeps c₀ s₀ s) : ∃ t₁, execMshrTimeout n i s = .next t₁ ∧ Keeps c₀ s₀ t₁ := by
  refine ⟨_, rfl, ?_⟩
  repeat' first
    | with_reducible assumption
    | with_reducible apply State.modMshr_keeps
    | with_reducible apply State.bump_keeps
    | with_reducible apply State.waitersErr_keeps
    | split
    | dsimp only

theorem State.nearTry_keeps {c₀ : Bool} {s₀ s : State} (a : At) (flips : optParam (List (BitVec 80)) [])  (h : Keeps c₀ s₀ s) : Keeps c₀ s₀ (State.nearTry s a flips) := by
  unfold State.nearTry
  repeat' first
    | with_reducible assumption
    | with_reducible apply State.answer_keeps
    | with_reducible apply State.nearPass_keeps
    | with_reducible apply State.modMshr_keeps
    | split
    | dsimp only

theorem execHalfFill_keeps {c₀ : Bool} {s₀ s : State} (n : Nat) (m : Msg) (h : Keeps c₀ s₀ s) : ∃ t₁, execHalfFill n m s = .next t₁ ∧ Keeps c₀ s₀ t₁ := by
  refine ⟨_, rfl, ?_⟩
  repeat' first
    | with_reducible assumption
    | with_reducible apply State.qTake_keeps
    | with_reducible apply State.modSlice_keeps
    | with_reducible apply State.modMshr_keeps
    | with_reducible apply State.answer_keeps
    | with_reducible apply State.bump_keeps
    | with_reducible refine Keeps.foldl ?_ ?_
    | with_reducible refine Keeps.foldl1 ?_ ?_
    | intro _
    | split
    | dsimp only

end Sys2Proof.Machine
end

