-- ==== Sys2Proof/Laws/Keep/Near.lean ====
section
/-! SUPPORT. What the operations of Machine.Near keep. -/

namespace Sys2Proof.Machine

open Sys2Proof

set_option linter.unreachableTactic false
set_option linter.unusedTactic false
set_option linter.unusedVariables false
set_option Elab.async false

theorem State.nearRun_keeps {c₀ : Bool} {s₀ s : State} (a : At) (go : Bool) (m : Msg) (x : PassFault) {f : State → State} (hf : ∀ s, Keeps c₀ s₀ s → Keeps c₀ s₀ (f s)) (h : Keeps c₀ s₀ s) : Keeps c₀ s₀ (State.nearRun s a go m x f) := by
  unfold State.nearRun
  repeat' first
    | with_reducible assumption
    | with_reducible apply hf
    | with_reducible apply State.runPass_keeps
    | with_reducible apply State.readsDone_keeps
    | intro _
    | split
    | dsimp only

theorem State.release_keeps {c₀ : Bool} {s₀ s : State} (a : At)  (h : Keeps c₀ s₀ s) : Keeps c₀ s₀ (State.release s a) := by
  unfold State.release
  repeat' first
    | with_reducible assumption
    | with_reducible apply State.modSlice_keeps
    | with_reducible apply State.qTake_keeps
    | with_reducible apply State.qPush_keeps
    | with_reducible refine Keeps.foldl ?_ ?_
    | with_reducible refine Keeps.foldl1 ?_ ?_
    | intro _
    | dsimp only

theorem State.settle_keeps {c₀ : Bool} {s₀ s : State} (a : At) (flips : optParam (List (BitVec 80)) [])  (h : Keeps c₀ s₀ s) : Keeps c₀ s₀ (State.settle s a flips) := by
  unfold State.settle
  repeat' first
    | with_reducible assumption
    | with_reducible apply State.vbSettle_keeps
    | with_reducible apply State.errTry_keeps
    | with_reducible apply State.fillTry_keeps
    | with_reducible apply State.nearTry_keeps
    | with_reducible apply State.release_keeps
    | split
    | dsimp only

theorem State.nearAck_keeps {c₀ : Bool} {s₀ s : State} (n : Nat) (m : Msg) (x : PassFault)  (h : Keeps c₀ s₀ s) : Keeps c₀ s₀ (State.nearAck s n m x) := by
  unfold State.nearAck
  repeat' first
    | with_reducible assumption
    | with_reducible apply State.nearRun_keeps
    | with_reducible apply State.settle_keeps
    | with_reducible apply State.modMshr_keeps
    | with_reducible apply State.qTake_keeps
    | intro _
    | split
    | dsimp only

theorem State.fwdSnoop_keeps {c₀ : Bool} {s₀ s : State} (a : At) (m : Msg) (g : Nat) (op : Op) (nodata : Bool) (toOwner : Bool)  (h : Keeps c₀ s₀ s) : Keeps c₀ s₀ (State.fwdSnoop s a m g op nodata toOwner) := by
  unfold State.fwdSnoop
  repeat' first
    | with_reducible assumption
    | with_reducible apply State.sendNear_keeps
    | with_reducible apply State.modSlice_keeps
    | with_reducible apply State.lostAnswer_keeps
    | split
    | dsimp only

theorem State.vbDone_keeps {c₀ : Bool} {s₀ s : State} (a : At)  (h : Keeps c₀ s₀ s) : Keeps c₀ s₀ (State.vbDone s a) := by
  unfold State.vbDone
  repeat' first
    | with_reducible assumption
    | with_reducible apply State.release_keeps
    | with_reducible apply State.vbPut_keeps
    | split
    | dsimp only

theorem execWbAck_keeps {c₀ : Bool} {s₀ s : State} (n : Nat) (m : Msg) (h : Keeps c₀ s₀ s) : ∃ t₁, execWbAck n m s = .next t₁ ∧ Keeps c₀ s₀ t₁ := by
  refine ⟨_, rfl, ?_⟩
  repeat' first
    | with_reducible assumption
    | with_reducible apply State.qTake_keeps
    | with_reducible apply State.rep_keeps
    | with_reducible apply State.vbDone_keeps
    | split
    | dsimp only

theorem State.nearNotOwner_keeps {c₀ : Bool} {s₀ s : State} (a : At) (g : Nat)  (h : Keeps c₀ s₀ s) : Keeps c₀ s₀ (State.nearNotOwner s a g) := by
  unfold State.nearNotOwner
  repeat' first
    | with_reducible assumption
    | with_reducible apply State.modTag_keeps
    | split
    | dsimp only

theorem State.ownerLost_keeps {c₀ : Bool} {s₀ s : State} (a : At) (g : Nat)  (h : Keeps c₀ s₀ s) : Keeps c₀ s₀ (State.ownerLost s a g) := by
  unfold State.ownerLost
  repeat' first
    | with_reducible assumption
    | with_reducible apply State.poisonSlot_keeps
    | split
    | dsimp only

theorem State.nearDirty_keeps {c₀ : Bool} {s₀ s : State} (a : At)  (h : Keeps c₀ s₀ s) : Keeps c₀ s₀ (State.nearDirty s a) := by
  unfold State.nearDirty
  repeat' first
    | with_reducible assumption
    | with_reducible apply State.modTag_keeps
    | split
    | dsimp only

theorem State.nearData_keeps {c₀ : Bool} {s₀ s : State} (a : At) (x : LineData)  (h : Keeps c₀ s₀ s) : Keeps c₀ s₀ (State.nearData s a x) := by
  unfold State.nearData
  repeat' first
    | with_reducible assumption
    | with_reducible apply State.bump_keeps
    | with_reducible apply State.modTag_keeps
    | with_reducible apply State.setTile_keeps
    | with_reducible apply State.nearDirty_keeps
    | split
    | dsimp only

theorem State.nearGone_keeps {c₀ : Bool} {s₀ s : State} (a : At) (g : Nat)  (h : Keeps c₀ s₀ s) : Keeps c₀ s₀ (State.nearGone s a g) := by
  unfold State.nearGone
  repeat' first
    | with_reducible assumption
    | with_reducible apply State.modTag_keeps
    | with_reducible apply State.setPres_keeps
    | split
    | dsimp only

theorem State.wbReply_keeps {c₀ : Bool} {s₀ s : State} (a : At) (m : Msg) (op : Op)  (h : Keeps c₀ s₀ s) : Keeps c₀ s₀ (State.wbReply s a m op) := by
  unfold State.wbReply
  repeat' first
    | with_reducible assumption
    | with_reducible apply State.sendEp_keeps
    | dsimp only

theorem State.wbSupersede_keeps {c₀ : Bool} {s₀ s : State} (a : At) (g : Nat) (m : Msg)  (h : Keeps c₀ s₀ s) : Keeps c₀ s₀ (State.wbSupersede s a g m) := by
  unfold State.wbSupersede
  repeat' first
    | with_reducible assumption
    | with_reducible apply State.modSlice_keeps
    | with_reducible apply State.wbReply_keeps
    | with_reducible apply State.nearGone_keeps
    | dsimp only

theorem State.wbApply_keeps {c₀ : Bool} {s₀ s : State} (a : At) (g : Nat) (m : Msg)  (h : Keeps c₀ s₀ s) : Keeps c₀ s₀ (State.wbApply s a g m) := by
  unfold State.wbApply
  repeat' first
    | with_reducible assumption
    | with_reducible apply State.bump_keeps
    | with_reducible apply State.modTag_keeps
    | with_reducible apply State.setTile_keeps
    | with_reducible apply State.nearDirty_keeps
    | with_reducible apply State.wbReply_keeps
    | with_reducible apply State.nearGone_keeps
    | with_reducible apply State.sendWb_keeps
    | split
    | dsimp only

theorem State.evictIn_keeps {c₀ : Bool} {s₀ s : State} (a : At) (g : Nat) (m : Msg) (takes : Bool)  (h : Keeps c₀ s₀ s) : Keeps c₀ s₀ (State.evictIn s a g m takes) := by
  unfold State.evictIn
  repeat' first
    | with_reducible assumption
    | with_reducible apply State.modSlice_keeps
    | with_reducible apply State.wbSupersede_keeps
    | with_reducible apply State.wbApply_keeps
    | split
    | dsimp only

theorem State.nearAns_keeps {c₀ : Bool} {s₀ s : State} (a : At) (i : Nat) (e : Mshr) (nm : NearMiss) (g : Nat) (m : Msg)  (h : Keeps c₀ s₀ s) : Keeps c₀ s₀ (State.nearAns s a i e nm g m) := by
  unfold State.nearAns
  repeat' first
    | with_reducible assumption
    | with_reducible apply State.modMshr_keeps
    | with_reducible apply State.ownerLost_keeps
    | with_reducible apply State.nearData_keeps
    | with_reducible apply State.nearGone_keeps
    | with_reducible apply State.nearNotOwner_keeps
    | with_reducible apply State.nearDirty_keeps
    | with_reducible apply State.settle_keeps
    | with_reducible apply State.evictIn_keeps
    | split
    | dsimp only

theorem State.snpReply_keeps {c₀ : Bool} {s₀ s : State} (a : At) (m : Msg) (op : Op) (ns : CohState) (cnt : Nat) (ev : Bool)  (h : Keeps c₀ s₀ s) : Keeps c₀ s₀ (State.snpReply s a m op ns cnt ev) := by
  unfold State.snpReply
  repeat' first
    | with_reducible assumption
    | with_reducible apply State.sendEp_keeps
    | dsimp only

theorem State.snpTile_keeps {c₀ : Bool} {s₀ s : State} (a : At) (slot : Nat) (r : Msg)  (h : Keeps c₀ s₀ s) : Keeps c₀ s₀ (State.snpTile s a slot r) := by
  unfold State.snpTile
  repeat' first
    | with_reducible assumption
    | with_reducible apply State.sendTile_keeps
    | with_reducible apply State.tileRead_keeps
    | split
    | dsimp only

theorem State.snpTake_keeps {c₀ : Bool} {s₀ s : State} (a : At) (w : Nat) (m : Msg)  (h : Keeps c₀ s₀ s) : Keeps c₀ s₀ (State.snpTake s a w m).1 := by
  unfold State.snpTake
  repeat' first
    | with_reducible assumption
    | with_reducible apply State.fwdSnoop_keeps
    | with_reducible apply State.invalWay_keeps
    | with_reducible apply State.modSlice_keeps
    | with_reducible refine Keeps.foldl ?_ ?_
    | with_reducible refine Keeps.foldl1 ?_ ?_
    | intro _
    | split
    | dsimp only

theorem State.snpPresent_keeps {c₀ : Bool} {s₀ s : State} (a : At) (w : Nat) (m : Msg)  (h : Keeps c₀ s₀ s) : Keeps c₀ s₀ (State.snpPresent s a w m) := by
  unfold State.snpPresent
  repeat' first
    | with_reducible assumption
    | with_reducible apply State.snpReply_keeps
    | with_reducible apply State.modTag_keeps
    | with_reducible apply State.fwdSnoop_keeps
    | with_reducible apply State.snpTile_keeps
    | with_reducible apply State.snpTake_keeps
    | split
    | with_reducible refine Keeps.pair (by assumption) ?_
    | dsimp only

theorem State.nearLate_keeps {c₀ : Bool} {s₀ s : State} (a : At) (m : Msg) (at_ : KTime)  (h : Keeps c₀ s₀ s) : Keeps c₀ s₀ (State.nearLate s a m at_) := by
  unfold State.nearLate
  repeat' first
    | with_reducible assumption
    | with_reducible apply State.voidAll_keeps
    | with_reducible apply State.breach_keeps
    | split
    | dsimp only

theorem State.snpVictim_keeps {c₀ : Bool} {s₀ s : State} (a : At) (v : VbEnt) (m : Msg)  (h : Keeps c₀ s₀ s) : Keeps c₀ s₀ (State.snpVictim s a v m) := by
  unfold State.snpVictim
  repeat' first
    | with_reducible assumption
    | with_reducible apply State.snpReply_keeps
    | with_reducible apply State.sendEp_keeps
    | split
    | dsimp only

theorem State.snoopDo_keeps {c₀ : Bool} {s₀ s : State} (a : At) (m : Msg)  (h : Keeps c₀ s₀ s) : Keeps c₀ s₀ (State.snoopDo s a m) := by
  unfold State.snoopDo
  repeat' first
    | with_reducible assumption
    | with_reducible apply State.snpVictim_keeps
    | with_reducible apply State.snpPresent_keeps
    | with_reducible apply State.sendEp_keeps
    | with_reducible apply State.snpReply_keeps
    | split
    | dsimp only

theorem State.snoopIn_keeps {c₀ : Bool} {s₀ s : State} (a : At) (m : Msg) (x : PassFault)  (h : Keeps c₀ s₀ s) : Keeps c₀ s₀ (State.snoopIn s a m x) := by
  unfold State.snoopIn
  repeat' first
    | with_reducible assumption
    | with_reducible apply State.modSlice_keeps
    | with_reducible apply State.qTake_keeps
    | with_reducible apply State.snoopDo_keeps
    | with_reducible apply State.bump_keeps
    | with_reducible apply State.runPass_keeps
    | with_reducible apply State.readsDone_keeps
    | with_reducible apply State.sendEp_keeps
    | split
    | dsimp only

theorem State.snoop_keeps {c₀ : Bool} {s₀ s : State} (op : Op) (n : Nat) (m : Msg) (x : PassFault)  (h : Keeps c₀ s₀ s) : Keeps c₀ s₀ (State.snoop s op n m x) := by
  unfold State.snoop
  repeat' first
    | with_reducible assumption
    | with_reducible apply State.snoopIn_keeps
    | split
    | dsimp only

theorem execSnpCur_keeps {c₀ : Bool} {s₀ s : State} (n : Nat) (m : Msg) (x : PassFault) (h : Keeps c₀ s₀ s) : ∃ t₁, execSnpCur n m x s = .next t₁ ∧ Keeps c₀ s₀ t₁ := by
  refine ⟨_, rfl, ?_⟩
  repeat' first
    | with_reducible assumption
    | with_reducible apply State.snoop_keeps
    | dsimp only

theorem execSnpSh_keeps {c₀ : Bool} {s₀ s : State} (n : Nat) (m : Msg) (x : PassFault) (h : Keeps c₀ s₀ s) : ∃ t₁, execSnpSh n m x s = .next t₁ ∧ Keeps c₀ s₀ t₁ := by
  refine ⟨_, rfl, ?_⟩
  repeat' first
    | with_reducible assumption
    | with_reducible apply State.snoop_keeps
    | dsimp only

theorem execSnpInv_keeps {c₀ : Bool} {s₀ s : State} (n : Nat) (m : Msg) (x : PassFault) (h : Keeps c₀ s₀ s) : ∃ t₁, execSnpInv n m x s = .next t₁ ∧ Keeps c₀ s₀ t₁ := by
  refine ⟨_, rfl, ?_⟩
  repeat' first
    | with_reducible assumption
    | with_reducible apply State.snoop_keeps
    | dsimp only

theorem State.drainAns_keeps {c₀ : Bool} {s₀ s : State} (a : At) (g : Nat) (m : Msg)  (h : Keeps c₀ s₀ s) : Keeps c₀ s₀ (State.drainAns s a g m) := by
  unfold State.drainAns
  repeat' first
    | with_reducible assumption
    | with_reducible apply State.modSlice_keeps
    | with_reducible apply State.ownerLost_keeps
    | with_reducible apply State.nearData_keeps
    | with_reducible apply State.settle_keeps
    | with_reducible apply State.nearGone_keeps
    | with_reducible apply State.evictIn_keeps
    | split
    | dsimp only

theorem State.invAns_keeps {c₀ : Bool} {s₀ s : State} (a : At) (i : Nat) (e : Mshr) (g : Nat) (m : Msg)  (h : Keeps c₀ s₀ s) : Keeps c₀ s₀ (State.invAns s a i e g m) := by
  unfold State.invAns
  repeat' first
    | with_reducible assumption
    | with_reducible apply State.modMshr_keeps
    | with_reducible apply State.ownerLost_keeps
    | with_reducible apply State.nearData_keeps
    | with_reducible apply State.settle_keeps
    | with_reducible apply State.evictIn_keeps
    | split
    | dsimp only

theorem State.vbAns_keeps {c₀ : Bool} {s₀ s : State} (a : At) (i : Nat) (v : VbEnt) (g : Nat) (m : Msg)  (h : Keeps c₀ s₀ s) : Keeps c₀ s₀ (State.vbAns s a i v g m) := by
  unfold State.vbAns
  repeat' first
    | with_reducible assumption
    | with_reducible apply State.bump_keeps
    | with_reducible apply State.rep_keeps
    | with_reducible apply State.vbPut_keeps
    | with_reducible apply State.settle_keeps
    | with_reducible apply State.evictIn_keeps
    | split
    | dsimp only

theorem State.nearAnswerIn_keeps {c₀ : Bool} {s₀ s : State} (a : At) (g : Nat) (m : Msg)  (h : Keeps c₀ s₀ s) : Keeps c₀ s₀ (State.nearAnswerIn s a g m) := by
  unfold State.nearAnswerIn
  repeat' first
    | with_reducible assumption
    | with_reducible apply State.nearAns_keeps
    | with_reducible apply State.drainAns_keeps
    | with_reducible apply State.invAns_keeps
    | with_reducible apply State.vbAns_keeps
    | split
    | dsimp only

theorem State.nearAnswer_keeps {c₀ : Bool} {s₀ s : State} (op : Op) (n : Nat) (m : Msg) (x : PassFault)  (h : Keeps c₀ s₀ s) : Keeps c₀ s₀ (State.nearAnswer s op n m x) := by
  unfold State.nearAnswer
  repeat' first
    | with_reducible assumption
    | with_reducible apply State.qTake_keeps
    | with_reducible apply State.nearRun_keeps
    | with_reducible apply State.nearAnswerIn_keeps
    | with_reducible apply State.nearLate_keeps
    | intro _
    | split
    | dsimp only

theorem execSnpOwn_keeps {c₀ : Bool} {s₀ s : State} (n : Nat) (m : Msg) (x : PassFault) (h : Keeps c₀ s₀ s) : ∃ t₁, execSnpOwn n m x s = .next t₁ ∧ Keeps c₀ s₀ t₁ := by
  refine ⟨_, rfl, ?_⟩
  repeat' first
    | with_reducible assumption
    | with_reducible apply State.snoop_keeps
    | dsimp only

theorem execWbSuperseded_keeps {c₀ : Bool} {s₀ s : State} (n : Nat) (m : Msg) (h : Keeps c₀ s₀ s) : ∃ t₁, execWbSuperseded n m s = .next t₁ ∧ Keeps c₀ s₀ t₁ := by
  refine ⟨_, rfl, ?_⟩
  repeat' first
    | with_reducible assumption
    | with_reducible apply State.vbDone_keeps
    | with_reducible apply State.bump_keeps
    | with_reducible apply State.qTake_keeps
    | split
    | dsimp only

theorem State.wbIn_keeps {c₀ : Bool} {s₀ s : State} (a : At) (g : Nat) (m : Msg)  (h : Keeps c₀ s₀ s) : Keeps c₀ s₀ (State.wbIn s a g m) := by
  unfold State.wbIn
  repeat' first
    | with_reducible assumption
    | with_reducible apply State.settle_keeps
    | with_reducible apply State.wbSupersede_keeps
    | with_reducible apply State.modSlice_keeps
    | with_reducible apply State.wbApply_keeps
    | split
    | dsimp only

theorem State.wbAtSlice_keeps {c₀ : Bool} {s₀ s : State} (op : Op) (n : Nat) (m : Msg) (x : PassFault)  (h : Keeps c₀ s₀ s) : Keeps c₀ s₀ (State.wbAtSlice s op n m x) := by
  unfold State.wbAtSlice
  repeat' first
    | with_reducible assumption
    | with_reducible apply State.nearRun_keeps
    | with_reducible apply State.wbIn_keeps
    | with_reducible apply State.qTake_keeps
    | intro _
    | split
    | dsimp only

end Sys2Proof.Machine
end

