-- ==== Sys2Proof/Laws/Keep/Home.lean ====
section
/-! SUPPORT. What the operations of Machine.Home keep. -/

namespace Sys2Proof.Machine

open Sys2Proof

set_option linter.unreachableTactic false
set_option linter.unusedTactic false
set_option linter.unusedVariables false
set_option Elab.async false

theorem State.wbDiscard_keeps {c₀ : Bool} {s₀ s : State} (a : At) (count : Bool) (loud : Bool)  (h : Keeps c₀ s₀ s) : Keeps c₀ s₀ (State.wbDiscard s a count loud) := by
  unfold State.wbDiscard
  repeat' first
    | with_reducible assumption
    | with_reducible apply State.bump_keeps
    | with_reducible apply State.rep_keeps
    | split
    | dsimp only

theorem State.raDrop_keeps {c₀ : Bool} {s₀ s : State} (n : Nat) (p : RunAhead → Bool)  (h : Keeps c₀ s₀ s) : Keeps c₀ s₀ (State.raDrop s n p) := by
  unfold State.raDrop
  repeat' first
    | with_reducible assumption
    | with_reducible apply State.modHome_keeps
    | with_reducible apply State.bumpN_keeps
    | split
    | dsimp only

theorem State.takeBack_keeps {c₀ : Bool} {s₀ s : State} (p : FUnit → Bool)  (h : Keeps c₀ s₀ s) : Keeps c₀ s₀ (State.takeBack s p) := by
  unfold State.takeBack
  repeat' first
    | with_reducible assumption
    | with_reducible apply State.modPool_keeps
    | with_reducible apply State.modRouter_keeps
    | with_reducible refine Keeps.foldl ?_ ?_
    | with_reducible refine Keeps.foldl1 ?_ ?_
    | intro _
    | dsimp only

theorem State.cancelRead_keeps {c₀ : Bool} {s₀ s : State} (a : At) (t : Tx)  (h : Keeps c₀ s₀ s) : Keeps c₀ s₀ (State.cancelRead s a t) := by
  unfold State.cancelRead
  repeat' first
    | with_reducible assumption
    | with_reducible apply State.tracePath_keeps
    | with_reducible apply State.modTx_keeps
    | with_reducible apply State.bump_keeps
    | with_reducible apply State.takeBack_keeps
    | split
    | dsimp only

theorem State.writeLine_keeps {c₀ : Bool} {s₀ s : State} (a : At) (key : BitVec 6) (port : Nat) (txn : BitVec 12) (x : LineData) (durable : Bool) (dl : optParam KTime 0)  (h : Keeps c₀ s₀ s) : Keeps c₀ s₀ (State.writeLine s a key port txn x durable dl) := by
  unfold State.writeLine
  repeat' first
    | with_reducible assumption
    | with_reducible apply State.bumpLine_keeps
    | with_reducible apply State.rep_keeps
    | with_reducible apply State.toMem_keeps
    | split
    | dsimp only

theorem State.homeSend_keeps {c₀ : Bool} {s₀ s : State} (a : At) (t : Tx) (m : Msg)  (h : Keeps c₀ s₀ s) : Keeps c₀ s₀ (State.homeSend s a t m) := by
  unfold State.homeSend
  repeat' first
    | with_reducible assumption
    | with_reducible apply State.sendEp_keeps
    | dsimp only

theorem State.homeFail_keeps {c₀ : Bool} {s₀ s : State} (a : At) (c : ErrCode)  (h : Keeps c₀ s₀ s) : Keeps c₀ s₀ (State.homeFail s a c) := by
  unfold State.homeFail
  repeat' first
    | with_reducible assumption
    | with_reducible apply State.cancelRead_keeps
    | with_reducible apply State.writeLine_keeps
    | with_reducible apply State.modTx_keeps
    | with_reducible apply State.homeSend_keeps
    | split
    | dsimp only

theorem State.macAt_keeps {c₀ : Bool} {s₀ s : State} (a : At)  (h : Keeps c₀ s₀ s) : Keeps c₀ s₀ (State.macAt s a) := by
  unfold State.macAt
  repeat' first
    | with_reducible assumption
    | with_reducible apply State.macFail_keeps
    | with_reducible apply State.rep_keeps
    | with_reducible apply State.bump_keeps
    | split
    | dsimp only

theorem State.failGot_keeps {c₀ : Bool} {s₀ s : State} (a : At) (c : ErrCode) (mac : Bool)  (h : Keeps c₀ s₀ s) : Keeps c₀ s₀ (State.failGot s a c mac) := by
  unfold State.failGot
  repeat' first
    | with_reducible assumption
    | with_reducible apply State.homeFail_keeps
    | with_reducible apply State.macAt_keeps
    | split
    | dsimp only

theorem State.putBack_keeps {c₀ : Bool} {s₀ s : State} (a : At) (t : Tx) (x : LineData) {done : State → State} (hdone : ∀ s, Keeps c₀ s₀ s → Keeps c₀ s₀ (done s)) (h : Keeps c₀ s₀ s) : Keeps c₀ s₀ (State.putBack s a t x done) := by
  unfold State.putBack
  repeat' first
    | with_reducible assumption
    | with_reducible apply hdone
    | with_reducible apply State.wbDiscard_keeps
    | with_reducible apply State.modTx_keeps
    | with_reducible apply State.writeLine_keeps
    | intro _
    | split
    | dsimp only

theorem State.homeSnoop_keeps {c₀ : Bool} {s₀ s : State} (a : At) (t : Tx) (dev : Nat) (op : Op) (nodata : Bool)  (h : Keeps c₀ s₀ s) : Keeps c₀ s₀ (State.homeSnoop s a t dev op nodata) := by
  unfold State.homeSnoop
  repeat' first
    | with_reducible assumption
    | with_reducible apply State.sendEp_keeps
    | split
    | dsimp only

theorem State.recallOn_keeps {c₀ : Bool} {s₀ s : State} (a : At) (e : DirEnt) (hs : List Nat)  (h : Keeps c₀ s₀ s) : Keeps c₀ s₀ (State.recallOn s a e hs) := by
  unfold State.recallOn
  repeat' first
    | with_reducible assumption
    | with_reducible apply State.modTx_keeps
    | with_reducible apply State.bump_keeps
    | with_reducible apply State.bumpN_keeps
    | with_reducible apply State.homeSnoop_keeps
    | with_reducible refine Keeps.foldl ?_ ?_
    | with_reducible refine Keeps.foldl1 ?_ ?_
    | intro _
    | split
    | dsimp only

theorem State.actRecall_keeps {c₀ : Bool} {s₀ s : State} (a : At) (t : Tx)  (h : Keeps c₀ s₀ s) : Keeps c₀ s₀ (State.actRecall s a t) := by
  unfold State.actRecall
  repeat' first
    | with_reducible assumption
    | with_reducible apply State.recallOn_keeps
    | with_reducible apply State.modTx_keeps
    | split
    | dsimp only

theorem State.actSnoop_keeps {c₀ : Bool} {s₀ s : State} (a : At) (t : Tx)  (h : Keeps c₀ s₀ s) : Keeps c₀ s₀ (State.actSnoop s a t) := by
  unfold State.actSnoop
  repeat' first
    | with_reducible assumption
    | with_reducible apply State.modTx_keeps
    | with_reducible apply State.bump_keeps
    | with_reducible apply State.bumpN_keeps
    | with_reducible apply State.homeSnoop_keeps
    | with_reducible apply State.stamp_keeps
    | with_reducible refine Keeps.foldl ?_ ?_
    | with_reducible refine Keeps.foldl1 ?_ ?_
    | intro _
    | split
    | dsimp only

theorem State.pinMove_keeps {c₀ : Bool} {s₀ s : State} (p : Nat × Nat × Nat × Nat) (up : Bool)  (h : Keeps c₀ s₀ s) : Keeps c₀ s₀ (State.pinMove s p up) := by
  unfold State.pinMove
  repeat' first
    | with_reducible assumption
    | with_reducible apply State.modHome_keeps
    | split
    | dsimp only

theorem State.nodesFor_keeps {c₀ : Bool} {s₀ s : State} (a : At)  (h : Keeps c₀ s₀ s) : Keeps c₀ s₀ (State.nodesFor s a) := by
  unfold State.nodesFor
  repeat' first
    | with_reducible assumption
    | with_reducible apply State.modTx_keeps
    | with_reducible apply State.pinMove_keeps
    | split
    | dsimp only

theorem State.fetchNode_keeps {c₀ : Bool} {s₀ s : State} (D : ImgDomain) (h1 : ImgHome) (nn : Nat) (pos : Nat) (k : Nat) (i : Nat) (roll : Bool)  (h : Keeps c₀ s₀ s) : Keeps c₀ s₀ (State.fetchNode s D h1 nn pos k i roll) := by
  unfold State.fetchNode
  repeat' first
    | with_reducible assumption
    | with_reducible apply State.modHome_keeps
    | with_reducible apply State.newTxn_keeps
    | with_reducible apply State.toMem_keeps
    | with_reducible apply State.bump_keeps
    | split
    | with_reducible refine Keeps.pair (by assumption) ?_
    | dsimp only

theorem State.fetchPath_keeps {c₀ : Bool} {s₀ s : State} (a : At)  (h : Keeps c₀ s₀ s) : Keeps c₀ s₀ (State.fetchPath s a) := by
  unfold State.fetchPath
  repeat' first
    | with_reducible assumption
    | with_reducible apply State.fetchNode_keeps
    | with_reducible refine Keeps.foldl ?_ ?_
    | with_reducible refine Keeps.foldl1 ?_ ?_
    | intro _
    | split
    | dsimp only

theorem State.actRead_keeps {c₀ : Bool} {s₀ s : State} (a : At) (t : Tx)  (h : Keeps c₀ s₀ s) : Keeps c₀ s₀ (State.actRead s a t) := by
  unfold State.actRead
  repeat' first
    | with_reducible assumption
    | with_reducible apply State.nodesFor_keeps
    | with_reducible apply State.fetchPath_keeps
    | with_reducible apply State.modHome_keeps
    | with_reducible apply State.bump_keeps
    | with_reducible apply State.modTx_keeps
    | with_reducible apply State.toMem_keeps
    | split
    | dsimp only

theorem State.activate_keeps {c₀ : Bool} {s₀ s : State} (a : At) (t : Tx)  (h : Keeps c₀ s₀ s) : Keeps c₀ s₀ (State.activate s a t) := by
  unfold State.activate
  repeat' first
    | with_reducible assumption
    | with_reducible apply State.actRecall_keeps
    | with_reducible apply State.stamp_keeps
    | with_reducible apply State.modTx_keeps
    | with_reducible apply State.bump_keeps
    | with_reducible apply State.homeFail_keeps
    | with_reducible apply State.raDrop_keeps
    | with_reducible apply State.actRead_keeps
    | with_reducible apply State.actSnoop_keeps
    | split
    | dsimp only

theorem State.lostHolder_keeps {c₀ : Bool} {s₀ s : State} (a : At) (t : Tx) (dev : Nat) (near : Bool) (owner : Bool)  (h : Keeps c₀ s₀ s) : Keeps c₀ s₀ (State.lostHolder s a t dev near owner) := by
  unfold State.lostHolder
  repeat' first
    | with_reducible assumption
    | with_reducible apply State.dirDrop_keeps
    | with_reducible apply State.modTx_keeps
    | split
    | dsimp only

theorem State.victimRecall_keeps {c₀ : Bool} {s₀ s : State} (a : At) (w : Nat) (e : DirEnt)  (h : Keeps c₀ s₀ s) : Keeps c₀ s₀ (State.victimRecall s a w e) := by
  unfold State.victimRecall
  repeat' first
    | with_reducible assumption
    | with_reducible apply State.dirPut_keeps
    | with_reducible apply State.modTx_keeps
    | with_reducible apply State.enqHome_keeps
    | with_reducible apply State.recallOn_keeps
    | dsimp only

theorem State.dirAfter_keeps {c₀ : Bool} {s₀ s u : State} {a : At} {t : Tx} {g : CohState} (e : s.dirAfter a t g = some u) (h : Keeps c₀ s₀ s) : Keeps c₀ s₀ u := by
  unfold State.dirAfter at e
  dsimp only at e
  split at e
  · simp only [Option.some.injEq] at e
    subst e
    exact State.dirPut_keeps _ _ _ _ _ h
  · simp only [Option.some.injEq] at e
    subst e
    exact h
  · split at e
    · simp only [Option.some.injEq] at e
      subst e
      exact State.dirPut_keeps _ _ _ _ _ h
    · simp only [Option.some.injEq] at e
      subst e
      exact State.dirPut_keeps _ _ _ _ _ (State.victimRecall_keeps _ _ _ h)
    · cases e

theorem State.homeAnswered_keeps {c₀ : Bool} {s₀ s : State} (a : At)  (h : Keeps c₀ s₀ s) : Keeps c₀ s₀ (State.homeAnswered s a) := by
  unfold State.homeAnswered
  repeat' first
    | with_reducible assumption
    | with_reducible apply State.modTx_keeps
    | dsimp only

theorem State.granted_keeps {c₀ : Bool} {s₀ s : State} (a : At) (t : Tx) (g : CohState) {f : State → State} (hf : ∀ s, Keeps c₀ s₀ s → Keeps c₀ s₀ (f s)) (h : Keeps c₀ s₀ s) : Keeps c₀ s₀ (State.granted s a t g f) := by
  unfold State.granted
  repeat' first
    | with_reducible assumption
    | with_reducible apply hf
    | with_reducible apply State.homeAnswered_keeps
    | with_reducible refine State.dirAfter_keeps (by assumption) ?_
    | intro _
    | split
    | dsimp only

theorem State.sendFill_keeps {c₀ : Bool} {s₀ s : State} (a : At) (t : Tx) (g : CohState) (x : LineData)  (h : Keeps c₀ s₀ s) : Keeps c₀ s₀ (State.sendFill s a t g x) := by
  unfold State.sendFill
  repeat' first
    | with_reducible assumption
    | with_reducible apply State.homeSend_keeps
    | split
    | dsimp only

theorem State.ansLate_keeps {c₀ : Bool} {s₀ s : State} (a : At) (t : Tx) (m : Msg) (at_ : KTime)  (h : Keeps c₀ s₀ s) : Keeps c₀ s₀ (State.ansLate s a t m at_) := by
  unfold State.ansLate
  repeat' first
    | with_reducible assumption
    | with_reducible apply State.voidAll_keeps
    | with_reducible apply State.breach_keeps
    | split
    | dsimp only

theorem State.wbAnswer_keeps {c₀ : Bool} {s₀ s : State} (a : At) (m : Msg) (op : Op)  (h : Keeps c₀ s₀ s) : Keeps c₀ s₀ (State.wbAnswer s a m op) := by
  unfold State.wbAnswer
  repeat' first
    | with_reducible assumption
    | with_reducible apply State.sendEp_keeps
    | dsimp only

theorem State.superseded_keeps {c₀ : Bool} {s₀ s : State} (a : At) (m : Msg)  (h : Keeps c₀ s₀ s) : Keeps c₀ s₀ (State.superseded s a m) := by
  unfold State.superseded
  repeat' first
    | with_reducible assumption
    | with_reducible apply State.wbAnswer_keeps
    | with_reducible apply State.dirDrop_keeps
    | with_reducible apply State.bump_keeps
    | dsimp only

theorem State.evictAns_keeps {c₀ : Bool} {s₀ s : State} (a : At) (t : Tx) (dev : Nat)  (h : Keeps c₀ s₀ s) : Keeps c₀ s₀ (State.evictAns s a t dev) := by
  unfold State.evictAns
  repeat' first
    | with_reducible assumption
    | with_reducible apply State.modTx_keeps
    | with_reducible apply State.superseded_keeps
    | with_reducible apply State.setLineQ_keeps
    | split
    | dsimp only

theorem State.ansDone_keeps {c₀ : Bool} {s₀ s : State} (a : At)  (h : Keeps c₀ s₀ s) : Keeps c₀ s₀ (State.ansDone s a) := by
  unfold State.ansDone
  repeat' first
    | with_reducible assumption
    | with_reducible apply State.cancelRead_keeps
    | with_reducible apply State.stamp_keeps
    | split
    | dsimp only

theorem State.homeAns_keeps {c₀ : Bool} {s₀ s : State} (a : At) (t : Tx) (m : Msg) (at_ : KTime)  (h : Keeps c₀ s₀ s) : Keeps c₀ s₀ (State.homeAns s a t m at_) := by
  unfold State.homeAns
  repeat' first
    | with_reducible assumption
    | with_reducible apply State.ansLate_keeps
    | with_reducible apply State.modTx_keeps
    | with_reducible apply State.lostHolder_keeps
    | with_reducible apply State.evictAns_keeps
    | with_reducible apply State.ansDone_keeps
    | split
    | dsimp only

theorem State.dirWayLost_keeps {c₀ : Bool} {s₀ s : State} (n : Nat) (d : Nat) (set : Nat) (w : Nat) (syn : BitVec 15)  (h : Keeps c₀ s₀ s) : Keeps c₀ s₀ (State.dirWayLost s n d set w syn) := by
  unfold State.dirWayLost
  repeat' first
    | with_reducible assumption
    | with_reducible apply State.bump_keeps
    | with_reducible apply State.modHome_keeps
    | with_reducible apply State.winHit_keeps
    | with_reducible apply State.raise_keeps
    | with_reducible apply State.fence_keeps
    | split
    | with_reducible refine Keeps.pair (by assumption) ?_
    | dsimp only

theorem State.homeAnswer_keeps {c₀ : Bool} {s₀ s : State} (n : Nat) (m : Msg) (at_ : KTime)  (h : Keeps c₀ s₀ s) : Keeps c₀ s₀ (State.homeAnswer s n m at_) := by
  unfold State.homeAnswer
  repeat' first
    | with_reducible assumption
    | with_reducible apply State.homeAns_keeps
    | split
    | dsimp only

theorem State.serveData_keeps {c₀ : Bool} {s₀ s : State} (a : At) (t : Tx)  (h : Keeps c₀ s₀ s) : Keeps c₀ s₀ (State.serveData s a t) := by
  unfold State.serveData
  repeat' first
    | with_reducible assumption
    | with_reducible apply State.failGot_keeps
    | with_reducible apply State.granted_keeps
    | with_reducible apply State.sendFill_keeps
    | with_reducible apply State.modTx_keeps
    | with_reducible apply State.homeFail_keeps
    | intro _
    | split
    | dsimp only

theorem State.servePut_keeps {c₀ : Bool} {s₀ s : State} (a : At) (t : Tx) (x : LineData)  (h : Keeps c₀ s₀ s) : Keeps c₀ s₀ (State.servePut s a t x) := by
  unfold State.servePut
  repeat' first
    | with_reducible assumption
    | with_reducible apply State.modTx_keeps
    | with_reducible apply State.writeLine_keeps
    | with_reducible refine State.dirAfter_keeps (by assumption) ?_
    | split
    | dsimp only

theorem State.dirCheck_keeps {c₀ : Bool} {s₀ s : State} (n : Nat) (d : Nat) (set : Nat) (x : DirFault)  (h : Keeps c₀ s₀ s) : Keeps c₀ s₀ (State.dirCheck s n d set x) := by
  unfold State.dirCheck
  repeat' first
    | with_reducible assumption
    | with_reducible apply State.raise_keeps
    | with_reducible apply State.bump_keeps
    | with_reducible apply State.modHome_keeps
    | with_reducible apply State.dirWayLost_keeps
    | split
    | dsimp only

theorem State.wbEnd_keeps {c₀ : Bool} {s₀ s : State} (a : At) (m : Msg)  (h : Keeps c₀ s₀ s) : Keeps c₀ s₀ (State.wbEnd s a m) := by
  unfold State.wbEnd
  repeat' first
    | with_reducible assumption
    | with_reducible apply State.homeAnswered_keeps
    | with_reducible apply State.wbAnswer_keeps
    | with_reducible apply State.dirDrop_keeps
    | dsimp only

theorem State.serveWrite_keeps {c₀ : Bool} {s₀ s : State} (a : At) (t : Tx)  (h : Keeps c₀ s₀ s) : Keeps c₀ s₀ (State.serveWrite s a t) := by
  unfold State.serveWrite
  repeat' first
    | with_reducible assumption
    | with_reducible apply State.servePut_keeps
    | with_reducible apply State.failGot_keeps
    | with_reducible apply State.homeFail_keeps
    | split
    | dsimp only

theorem State.startWb_keeps {c₀ : Bool} {s₀ s : State} (a : At) (m : Msg) (held : List Msg)  (h : Keeps c₀ s₀ s) : Keeps c₀ s₀ (State.startWb s a m held) := by
  unfold State.startWb
  repeat' first
    | with_reducible assumption
    | with_reducible apply State.newTxn_keeps
    | with_reducible apply State.modHome_keeps
    | with_reducible apply State.bump_keeps
    | with_reducible apply State.wbEnd_keeps
    | with_reducible apply State.wbDiscard_keeps
    | with_reducible apply State.nodesFor_keeps
    | with_reducible apply State.fetchPath_keeps
    | with_reducible apply State.modTx_keeps
    | split
    | with_reducible refine Keeps.pair (by assumption) ?_
    | dsimp only

theorem State.serveRead_keeps {c₀ : Bool} {s₀ s : State} (a : At) (t : Tx)  (h : Keeps c₀ s₀ s) : Keeps c₀ s₀ (State.serveRead s a t) := by
  unfold State.serveRead
  repeat' first
    | with_reducible assumption
    | with_reducible apply State.granted_keeps
    | with_reducible apply State.homeSend_keeps
    | with_reducible apply State.serveData_keeps
    | intro _
    | split
    | dsimp only

end Sys2Proof.Machine
end

