-- ==== Sys2Proof/Laws/Keep/Work.lean ====
section
/-! SUPPORT. What the operations of Machine.Work keep. -/

namespace Sys2Proof.Machine

open Sys2Proof

set_option linter.unreachableTactic false
set_option linter.unusedTactic false
set_option linter.unusedVariables false
set_option Elab.async false

theorem State.crownLoad_keeps {c₀ : Bool} {s₀ s : State} (D : ImgDomain) (h1 : ImgHome) (n : Nat)  (h : Keeps c₀ s₀ s) : Keeps c₀ s₀ (State.crownLoad s D h1 n) := by
  unfold State.crownLoad
  repeat' first
    | with_reducible assumption
    | with_reducible apply State.fetchNode_keeps
    | with_reducible refine Keeps.foldl ?_ ?_
    | with_reducible refine Keeps.foldl1 ?_ ?_
    | intro _
    | split
    | dsimp only

theorem State.crownIn_keeps {c₀ : Bool} {s₀ s : State} (n : Nat) (d : Nat) (D : ImgDomain)  (h : Keeps c₀ s₀ s) : Keeps c₀ s₀ (State.crownIn s n d D) := by
  unfold State.crownIn
  repeat' first
    | with_reducible assumption
    | with_reducible apply State.crownLoad_keeps
    | with_reducible refine Keeps.foldl ?_ ?_
    | with_reducible refine Keeps.foldl1 ?_ ?_
    | intro _
    | split
    | dsimp only

theorem State.nodeIn_keeps {c₀ : Bool} {s₀ s : State} (d : Nat) (D : ImgDomain) (n : Nat) (f : Fetch)  (h : Keeps c₀ s₀ s) : Keeps c₀ s₀ (State.nodeIn s d D n f) := by
  unfold State.nodeIn
  repeat' first
    | with_reducible assumption
    | with_reducible apply State.modHome_keeps
    | with_reducible apply State.loseNode_keeps
    | with_reducible apply State.ncPut_keeps
    | with_reducible apply State.writeNode_keeps
    | split
    | dsimp only

theorem State.nodesIn_keeps {c₀ : Bool} {s₀ s : State} (d : Nat) (D : ImgDomain) (n : Nat)  (h : Keeps c₀ s₀ s) : Keeps c₀ s₀ (State.nodesIn s d D n) := by
  unfold State.nodesIn
  repeat' first
    | with_reducible assumption
    | with_reducible apply State.nodeIn_keeps
    | with_reducible refine Keeps.foldl ?_ ?_
    | with_reducible refine Keeps.foldl1 ?_ ?_
    | intro _
    | dsimp only

theorem State.nodeKnown_keeps {c₀ : Bool} {s₀ s : State} (a : At) (t : Tx)  (h : Keeps c₀ s₀ s) : Keeps c₀ s₀ (State.nodeKnown s a t) := by
  unfold State.nodeKnown
  repeat' first
    | with_reducible assumption
    | with_reducible apply State.nodesFor_keeps
    | with_reducible apply State.modTx_keeps
    | with_reducible apply State.cancelRead_keeps
    | split
    | dsimp only

theorem State.pairAbsorbed_keeps {c₀ : Bool} {s₀ s : State} (a : At) (t : Tx)  (h : Keeps c₀ s₀ s) : Keeps c₀ s₀ (State.pairAbsorbed s a t) := by
  unfold State.pairAbsorbed
  repeat' first
    | with_reducible assumption
    | with_reducible apply State.superseded_keeps
    | with_reducible apply State.modTx_keeps
    | with_reducible apply State.modHome_keeps
    | with_reducible refine Keeps.foldl ?_ ?_
    | with_reducible refine Keeps.foldl1 ?_ ?_
    | intro _
    | split
    | dsimp only

theorem State.carriedEnd_keeps {c₀ : Bool} {s₀ s : State} (a : At) (t : Tx)  (h : Keeps c₀ s₀ s) : Keeps c₀ s₀ (State.carriedEnd s a t) := by
  unfold State.carriedEnd
  repeat' first
    | with_reducible assumption
    | with_reducible apply State.freeTail_keeps
    | with_reducible apply State.modPort_keeps
    | with_reducible apply State.freeWatch_keeps
    | with_reducible refine Keeps.foldl ?_ ?_
    | with_reducible refine Keeps.foldl1 ?_ ?_
    | intro _
    | dsimp only

theorem State.nextOn_keeps {c₀ : Bool} {s₀ s : State} (a : At) (held : List Msg)  (h : Keeps c₀ s₀ s) : Keeps c₀ s₀ (State.nextOn s a held) := by
  unfold State.nextOn
  repeat' first
    | with_reducible assumption
    | with_reducible apply State.startWb_keeps
    | with_reducible apply State.setLineQ_keeps
    | with_reducible apply State.newTxn_keeps
    | with_reducible apply State.modHome_keeps
    | split
    | with_reducible refine Keeps.pair (by assumption) ?_
    | dsimp only

theorem State.homeEnd_keeps {c₀ : Bool} {s₀ s : State} (a : At) (t : Tx)  (h : Keeps c₀ s₀ s) : Keeps c₀ s₀ (State.homeEnd s a t) := by
  unfold State.homeEnd
  repeat' first
    | with_reducible assumption
    | with_reducible apply State.ncOffer_keeps
    | with_reducible apply State.pinMove_keeps
    | with_reducible apply State.modHome_keeps
    | with_reducible apply State.carriedEnd_keeps
    | with_reducible apply State.modTx_keeps
    | with_reducible apply State.nextOn_keeps
    | split
    | dsimp only

theorem State.recallDone_keeps {c₀ : Bool} {s₀ s : State} (a : At) (t : Tx)  (h : Keeps c₀ s₀ s) : Keeps c₀ s₀ (State.recallDone s a t) := by
  unfold State.recallDone
  repeat' first
    | with_reducible assumption
    | with_reducible apply State.dirPut_keeps
    | with_reducible apply State.dirDrop_keeps
    | with_reducible apply State.modTx_keeps
    | with_reducible apply State.fetchPath_keeps
    | with_reducible apply State.putBack_keeps
    | with_reducible apply State.homeAnswered_keeps
    | intro _
    | split
    | dsimp only

theorem State.homeStep_keeps {c₀ : Bool} {s₀ s : State} (a : At)  (h : Keeps c₀ s₀ s) : Keeps c₀ s₀ (State.homeStep s a) := by
  unfold State.homeStep
  repeat' first
    | with_reducible assumption
    | with_reducible apply State.nodeKnown_keeps
    | with_reducible apply State.pairAbsorbed_keeps
    | with_reducible apply State.homeEnd_keeps
    | with_reducible apply State.homeFail_keeps
    | with_reducible apply State.serveWrite_keeps
    | with_reducible apply State.serveRead_keeps
    | with_reducible apply State.putBack_keeps
    | with_reducible apply State.wbEnd_keeps
    | with_reducible apply State.recallDone_keeps
    | intro _
    | split
    | dsimp only

theorem State.passDrop_keeps {c₀ : Bool} {s₀ s : State} (n : Nat) (p : Pass)  (h : Keeps c₀ s₀ s) : Keeps c₀ s₀ (State.passDrop s n p) := by
  unfold State.passDrop
  repeat' first
    | with_reducible assumption
    | with_reducible apply State.modHome_keeps
    | dsimp only

theorem State.recoverNodes_keeps {c₀ : Bool} {s₀ s : State} (d : Nat) (D : ImgDomain) (h1 : ImgHome) (e : RngEnt)  (h : Keeps c₀ s₀ s) : Keeps c₀ s₀ (State.recoverNodes s d D h1 e) := by
  unfold State.recoverNodes
  repeat' first
    | with_reducible assumption
    | with_reducible apply State.ncPut_keeps
    | with_reducible refine Keeps.foldl ?_ ?_
    | with_reducible refine Keeps.foldl1 ?_ ?_
    | intro _
    | split
    | dsimp only
    | with_reducible refine Keeps.of ?_ rfl rfl rfl rfl rfl rfl rfl rfl rfl rfl rfl rfl rfl rfl rfl rfl rfl rfl

theorem State.jobEnd_keeps {c₀ : Bool} {s₀ s : State} (j : Nat) (J : CrozJob) (e : RngEnt)  (h : Keeps c₀ s₀ s) : Keeps c₀ s₀ (State.jobEnd s j J e) := by
  unfold State.jobEnd
  repeat' first
    | with_reducible assumption
    | with_reducible apply State.recoverNodes_keeps
    | with_reducible apply State.modJob_keeps
    | with_reducible apply State.irq_keeps
    | split
    | dsimp only
    | with_reducible refine Keeps.of ?_ rfl rfl rfl rfl rfl rfl rfl rfl rfl rfl rfl rfl rfl rfl rfl rfl rfl rfl

theorem State.jobAdvance_keeps {c₀ : Bool} {s₀ s : State} (j : Nat)  (h : Keeps c₀ s₀ s) : Keeps c₀ s₀ (State.jobAdvance s j) := by
  unfold State.jobAdvance
  repeat' first
    | with_reducible assumption
    | with_reducible apply State.jobEnd_keeps
    | with_reducible apply State.modJob_keeps
    | split
    | dsimp only

theorem State.lineDone_keeps {c₀ : Bool} {s₀ s : State} (j : Nat) (l : LineAddr) (dur : Bool)  (h : Keeps c₀ s₀ s) : Keeps c₀ s₀ (State.lineDone s j l dur) := by
  unfold State.lineDone
  repeat' first
    | with_reducible assumption
    | with_reducible apply State.bump_keeps
    | with_reducible apply State.jobAdvance_keeps
    | with_reducible apply State.modJob_keeps
    | split
    | dsimp only

theorem State.lineSkip_keeps {c₀ : Bool} {s₀ s : State} (a : At) (j : Nat)  (h : Keeps c₀ s₀ s) : Keeps c₀ s₀ (State.lineSkip s a j) := by
  unfold State.lineSkip
  repeat' first
    | with_reducible assumption
    | with_reducible apply State.lineDone_keeps
    | with_reducible apply State.rep_keeps
    | with_reducible apply State.bump_keeps
    | dsimp only

theorem State.passFail_keeps {c₀ : Bool} {s₀ s : State} (a : At) (p : Pass)  (h : Keeps c₀ s₀ s) : Keeps c₀ s₀ (State.passFail s a p) := by
  unfold State.passFail
  repeat' first
    | with_reducible assumption
    | with_reducible apply State.lineSkip_keeps
    | with_reducible apply State.passDrop_keeps
    | with_reducible apply State.bumpLine_keeps
    | split
    | dsimp only

theorem State.passRead_keeps {c₀ : Bool} {s₀ s : State} (a : At) (p : Pass) (v : BitVec 64 × Nat)  (h : Keeps c₀ s₀ s) : Keeps c₀ s₀ (State.passRead s a p v) := by
  unfold State.passRead
  repeat' first
    | with_reducible assumption
    | with_reducible apply State.newTxn_keeps
    | with_reducible apply State.toMem_keeps
    | with_reducible apply State.modHome_keeps
    | split
    | with_reducible refine Keeps.pair (by assumption) ?_
    | dsimp only

theorem State.passStep_keeps {c₀ : Bool} {s₀ s : State} (a : At) (p : Pass)  (h : Keeps c₀ s₀ s) : Keeps c₀ s₀ (State.passStep s a p) := by
  unfold State.passStep
  repeat' first
    | with_reducible assumption
    | with_reducible apply State.passDrop_keeps
    | with_reducible apply State.lineDone_keeps
    | with_reducible apply State.passFail_keeps
    | with_reducible apply State.fetchPath_keeps
    | with_reducible apply State.zeroLine_keeps
    | with_reducible apply State.passRead_keeps
    | with_reducible apply State.bump_keeps
    | with_reducible apply State.nextOn_keeps
    | with_reducible apply State.newTxn_keeps
    | with_reducible apply State.modHome_keeps
    | with_reducible apply State.nodesFor_keeps
    | with_reducible apply State.writeLine_keeps
    | split
    | with_reducible refine Keeps.pair (by assumption) ?_
    | dsimp only

theorem State.raStep_keeps {c₀ : Bool} {s₀ s : State} (a : At) (r : RunAhead)  (h : Keeps c₀ s₀ s) : Keeps c₀ s₀ (State.raStep s a r) := by
  unfold State.raStep
  repeat' first
    | with_reducible assumption
    | with_reducible apply State.modHome_keeps
    | with_reducible apply State.raDrop_keeps
    | with_reducible apply State.bump_keeps
    | split
    | dsimp only

theorem State.rollSweep_keeps {c₀ : Bool} {s₀ s : State} (d : Nat) (D : ImgDomain) (nn : Nat) (e : NcEnt)  (h : Keeps c₀ s₀ s) : Keeps c₀ s₀ (State.rollSweep s d D nn e) := by
  unfold State.rollSweep
  repeat' first
    | with_reducible assumption
    | with_reducible apply State.modHome_keeps
    | with_reducible apply State.writeNode_keeps
    | with_reducible apply State.fetchNode_keeps
    | with_reducible refine Keeps.foldl ?_ ?_
    | with_reducible refine Keeps.foldl1 ?_ ?_
    | intro _
    | split
    | dsimp only

theorem State.rollStart_keeps {c₀ : Bool} {s₀ s : State} (d : Nat) (D : ImgDomain) (n : Nat)  (h : Keeps c₀ s₀ s) : Keeps c₀ s₀ (State.rollStart s d D n) := by
  unfold State.rollStart
  repeat' first
    | with_reducible assumption
    | with_reducible apply State.rollSweep_keeps
    | with_reducible refine Keeps.foldl ?_ ?_
    | with_reducible refine Keeps.foldl1 ?_ ?_
    | intro _
    | dsimp only

theorem State.homeRound_keeps {c₀ : Bool} {s₀ s : State} (n : Nat) (d : Nat) (D : ImgDomain)  (h : Keeps c₀ s₀ s) : Keeps c₀ s₀ (State.homeRound s n d D) := by
  unfold State.homeRound
  repeat' first
    | with_reducible assumption
    | with_reducible apply State.crownIn_keeps
    | with_reducible apply State.nodesIn_keeps
    | with_reducible apply State.homeStep_keeps
    | with_reducible apply State.passStep_keeps
    | with_reducible apply State.raStep_keeps
    | with_reducible apply State.rollStart_keeps
    | with_reducible refine Keeps.foldl ?_ ?_
    | with_reducible refine Keeps.foldl1 ?_ ?_
    | intro _
    | dsimp only

theorem State.homeRun_keeps {c₀ : Bool} {s₀ s : State} (n : Nat)  (h : Keeps c₀ s₀ s) : Keeps c₀ s₀ (State.homeRun s n) := by
  unfold State.homeRun
  repeat' first
    | with_reducible assumption
    | with_reducible apply State.homeRound_keeps
    | with_reducible refine Keeps.foldl ?_ ?_
    | with_reducible refine Keeps.foldl1 ?_ ?_
    | intro _
    | split
    | dsimp only

theorem State.homesRun_keeps {c₀ : Bool} {s₀ s : State} (D : ImgDomain)  (h : Keeps c₀ s₀ s) : Keeps c₀ s₀ (State.homesRun s D) := by
  unfold State.homesRun
  repeat' first
    | with_reducible assumption
    | with_reducible apply State.homeRun_keeps
    | with_reducible refine Keeps.foldl ?_ ?_
    | with_reducible refine Keeps.foldl1 ?_ ?_
    | intro _
    | dsimp only

end Sys2Proof.Machine
end

