-- ==== Sys2Proof/Laws/Keep/Answer.lean ====
section
/-! SUPPORT. What the operations of Machine.Answer keep. -/

namespace Sys2Proof.Machine

open Sys2Proof

set_option linter.unreachableTactic false
set_option linter.unusedTactic false
set_option linter.unusedVariables false
set_option Elab.async false

theorem State.writeFailed_keeps {c₀ : Bool} {s₀ s : State} (a : At) (t : Tx) (e : ErrCode)  (h : Keeps c₀ s₀ s) : Keeps c₀ s₀ (State.writeFailed s a t e) := by
  unfold State.writeFailed
  repeat' first
    | with_reducible assumption
    | with_reducible apply State.modTx_keeps
    | with_reducible apply State.homeFail_keeps
    | with_reducible apply State.wbEnd_keeps
    | with_reducible apply State.wbDiscard_keeps
    | with_reducible apply State.lineSkip_keeps
    | with_reducible apply State.homeAnswered_keeps
    | split
    | dsimp only

theorem State.answerIn_keeps {c₀ : Bool} {s₀ s : State} (op : Op) (q : Nat) (n : Nat) (m : Msg)  (h : Keeps c₀ s₀ s) : Keeps c₀ s₀ (State.answerIn s op q n m) := by
  unfold State.answerIn
  repeat' first
    | with_reducible assumption
    | with_reducible apply State.homeRun_keeps
    | with_reducible apply State.homeAnswer_keeps
    | with_reducible apply State.qTake_keeps
    | split
    | dsimp only

theorem execRspFwd_keeps {c₀ : Bool} {s₀ s : State} (atHome : Bool) (n : Nat) (m : Msg) (x : PassFault) (h : Keeps c₀ s₀ s) : ∃ t₁, execRspFwd atHome n m x s = .next t₁ ∧ Keeps c₀ s₀ t₁ := by
  refine ⟨_, rfl, ?_⟩
  repeat' first
    | with_reducible assumption
    | with_reducible apply State.answerIn_keeps
    | with_reducible apply State.nearAnswer_keeps
    | split
    | dsimp only

theorem State.readDone_keeps {c₀ : Bool} {s₀ s : State} (a : At) (txn : BitVec 12) (cw : Option (List (BitVec 80))) (two : Option Bool) (e : ErrCode)  (h : Keeps c₀ s₀ s) : Keeps c₀ s₀ (State.readDone s a txn cw two e) := by
  unfold State.readDone
  repeat' first
    | with_reducible assumption
    | with_reducible apply State.bump_keeps
    | with_reducible apply State.modTx_keeps
    | with_reducible apply State.modHome_keeps
    | with_reducible refine Keeps.foldl ?_ ?_
    | with_reducible refine Keeps.foldl1 ?_ ?_
    | intro _
    | split
    | dsimp only

theorem execRspS_keeps {c₀ : Bool} {s₀ s : State} (atHome : Bool) (n : Nat) (m : Msg) (x : PassFault) (h : Keeps c₀ s₀ s) : ∃ t₁, execRspS atHome n m x s = .next t₁ ∧ Keeps c₀ s₀ t₁ := by
  refine ⟨_, rfl, ?_⟩
  repeat' first
    | with_reducible assumption
    | with_reducible apply State.answerIn_keeps
    | with_reducible apply State.nearAnswer_keeps
    | split
    | dsimp only

theorem execRspI_keeps {c₀ : Bool} {s₀ s : State} (atHome : Bool) (n : Nat) (m : Msg) (x : PassFault) (h : Keeps c₀ s₀ s) : ∃ t₁, execRspI atHome n m x s = .next t₁ ∧ Keeps c₀ s₀ t₁ := by
  refine ⟨_, rfl, ?_⟩
  repeat' first
    | with_reducible assumption
    | with_reducible apply State.answerIn_keeps
    | with_reducible apply State.nearAnswer_keeps
    | split
    | dsimp only

theorem State.seqWb_keeps {c₀ : Bool} {s₀ s : State} (a : At) (m : Msg) (src : Nat)  (h : Keeps c₀ s₀ s) : Keeps c₀ s₀ (State.seqWb s a m src) := by
  unfold State.seqWb
  repeat' first
    | with_reducible assumption
    | with_reducible apply State.startWb_keeps
    | with_reducible apply State.superseded_keeps
    | with_reducible apply State.modTx_keeps
    | with_reducible apply State.setLineQ_keeps
    | split
    | dsimp only

theorem execSdata_keeps {c₀ : Bool} {s₀ s : State} (atHome : Bool) (n : Nat) (m : Msg) (x : PassFault) (h : Keeps c₀ s₀ s) : ∃ t₁, execSdata atHome n m x s = .next t₁ ∧ Keeps c₀ s₀ t₁ := by
  refine ⟨_, rfl, ?_⟩
  repeat' first
    | with_reducible assumption
    | with_reducible apply State.answerIn_keeps
    | with_reducible apply State.nearAnswer_keeps
    | split
    | dsimp only

theorem execRolloverEnd_keeps {c₀ : Bool} {s₀ s : State} (n : Nat) (key : Nat) (h : Keeps c₀ s₀ s) : ∃ t₁, execRolloverEnd n key s = .next t₁ ∧ Keeps c₀ s₀ t₁ := by
  refine ⟨_, rfl, ?_⟩
  repeat' first
    | with_reducible assumption
    | with_reducible apply State.modHome_keeps
    | with_reducible apply State.homesRun_keeps
    | with_reducible apply State.bump_keeps
    | split
    | dsimp only

theorem execPfHint_keeps {c₀ : Bool} {s₀ s : State} (n : Nat) (m : Msg) (h : Keeps c₀ s₀ s) : ∃ t₁, execPfHint n m s = .next t₁ ∧ Keeps c₀ s₀ t₁ := by
  refine ⟨_, rfl, ?_⟩
  repeat' first
    | with_reducible assumption
    | with_reducible apply State.modHome_keeps
    | with_reducible apply State.bump_keeps
    | with_reducible apply State.fetchPath_keeps
    | with_reducible apply State.newTxn_keeps
    | with_reducible apply State.toMem_keeps
    | with_reducible apply State.homeRun_keeps
    | split
    | with_reducible refine Keeps.pair (by assumption) ?_
    | dsimp only

theorem State.ejected_keeps {c₀ : Bool} {s₀ s : State} (a : At) (t : Tx)  (h : Keeps c₀ s₀ s) : Keeps c₀ s₀ (State.ejected s a t) := by
  unfold State.ejected
  repeat' first
    | with_reducible assumption
    | with_reducible apply State.modTx_keeps
    | with_reducible apply State.homeAnswered_keeps
    | with_reducible apply State.homeSend_keeps
    | with_reducible apply State.wbEnd_keeps
    | with_reducible apply State.lineDone_keeps
    | split
    | dsimp only

theorem execMemWrEjected_keeps {c₀ : Bool} {s₀ s : State} (n : Nat) (line : LineAddr) (h : Keeps c₀ s₀ s) : ∃ t₁, execMemWrEjected n line s = .next t₁ ∧ Keeps c₀ s₀ t₁ := by
  refine ⟨_, rfl, ?_⟩
  repeat' first
    | with_reducible assumption
    | with_reducible apply State.homeRun_keeps
    | with_reducible apply State.ejected_keeps
    | split
    | dsimp only

theorem execMemAck_keeps {c₀ : Bool} {s₀ s : State} (n : Nat) (m : Msg) (h : Keeps c₀ s₀ s) : ∃ t₁, execMemAck n m s = .next t₁ ∧ Keeps c₀ s₀ t₁ := by
  refine ⟨_, rfl, ?_⟩
  repeat' first
    | with_reducible assumption
    | with_reducible apply State.qTake_keeps
    | split
    | dsimp only

theorem State.orderEdge_keeps {c₀ : Bool} {s₀ s : State} (n : Nat) (d : Nat) (D : ImgDomain)  (h : Keeps c₀ s₀ s) : Keeps c₀ s₀ (State.orderEdge s n d D) := by
  unfold State.orderEdge
  repeat' first
    | with_reducible assumption
    | with_reducible apply State.modHome_keeps
    | with_reducible apply State.bump_keeps
    | with_reducible refine Keeps.foldl ?_ ?_
    | with_reducible refine Keeps.foldl1 ?_ ?_
    | intro _
    | split
    | dsimp only

theorem State.homeTakes_keeps {c₀ : Bool} {s₀ s : State} (a : At) (m : Msg)  (h : Keeps c₀ s₀ s) : Keeps c₀ s₀ (State.homeTakes s a m) := by
  unfold State.homeTakes
  repeat' first
    | with_reducible assumption
    | with_reducible apply State.modGate_keeps
    | with_reducible refine Keeps.foldl ?_ ?_
    | with_reducible refine Keeps.foldl1 ?_ ?_
    | intro _
    | split
    | dsimp only

theorem State.seqOne_keeps {c₀ : Bool} {s₀ s : State} (a : At) (m : Msg) (src : Nat)  (h : Keeps c₀ s₀ s) : Keeps c₀ s₀ (State.seqOne s a m src) := by
  unfold State.seqOne
  repeat' first
    | with_reducible assumption
    | with_reducible apply State.modHome_keeps
    | with_reducible apply State.bump_keeps
    | with_reducible apply State.raDrop_keeps
    | with_reducible apply State.seqWb_keeps
    | with_reducible apply State.enqHome_keeps
    | with_reducible apply State.homeTakes_keeps
    | with_reducible apply State.stamp_keeps
    | split
    | dsimp only

theorem State.wbAtHome_keeps {c₀ : Bool} {s₀ s : State} (op : Op) (n : Nat) (m : Msg)  (h : Keeps c₀ s₀ s) : Keeps c₀ s₀ (State.wbAtHome s op n m) := by
  unfold State.wbAtHome
  repeat' first
    | with_reducible assumption
    | with_reducible apply State.orderEdge_keeps
    | with_reducible apply State.homeRun_keeps
    | with_reducible apply State.seqOne_keeps
    | with_reducible apply State.qTake_keeps
    | with_reducible apply State.modHome_keeps
    | split
    | dsimp only

theorem execWb_keeps {c₀ : Bool} {s₀ s : State} (atHome : Bool) (p : PassAt) (m : Msg) (h : Keeps c₀ s₀ s) : ∃ t₁, execWb atHome p m s = .next t₁ ∧ Keeps c₀ s₀ t₁ := by
  refine ⟨_, rfl, ?_⟩
  repeat' first
    | with_reducible assumption
    | with_reducible apply State.wbAtHome_keeps
    | with_reducible apply State.wbAtSlice_keeps
    | split
    | dsimp only

theorem State.memLate_keeps {c₀ : Bool} {s₀ s : State} (a : At) (m : Msg) (at_ : KTime)  (h : Keeps c₀ s₀ s) : Keeps c₀ s₀ (State.memLate s a m at_) := by
  unfold State.memLate
  repeat' first
    | with_reducible assumption
    | with_reducible apply State.breach_keeps
    | with_reducible apply State.modTx_keeps
    | with_reducible apply State.voidAll_keeps
    | split
    | dsimp only

theorem State.joinRead_keeps {c₀ : Bool} {s₀ s : State} (n : Nat) (m : Msg)  (h : Keeps c₀ s₀ s) : Keeps c₀ s₀ (State.joinRead s n m).1 := by
  unfold State.joinRead
  repeat' first
    | with_reducible assumption
    | with_reducible apply State.modHome_keeps
    | split
    | dsimp only

theorem execMemData_keeps {c₀ : Bool} {s₀ s : State} (n : Nat) (m : Msg) (ing : KTime) (h : Keeps c₀ s₀ s) : ∃ t₁, execMemData n m ing s = .next t₁ ∧ Keeps c₀ s₀ t₁ := by
  refine ⟨_, rfl, ?_⟩
  repeat' first
    | with_reducible assumption
    | with_reducible apply State.stamp_keeps
    | with_reducible apply State.memLate_keeps
    | with_reducible apply State.qTake_keeps
    | with_reducible apply State.joinRead_keeps
    | with_reducible apply State.readDone_keeps
    | with_reducible apply State.homesRun_keeps
    | with_reducible apply State.homeRun_keeps
    | split
    | with_reducible refine Keeps.pair (by assumption) ?_
    | dsimp only

theorem execHomeSequence_keeps {c₀ : Bool} {s₀ s : State} (n : Nat) (m : Msg) (src : Nat) (h : Keeps c₀ s₀ s) : ∃ t₁, execHomeSequence n m src s = .next t₁ ∧ Keeps c₀ s₀ t₁ := by
  refine ⟨_, rfl, ?_⟩
  repeat' first
    | with_reducible assumption
    | with_reducible apply State.orderEdge_keeps
    | with_reducible apply State.modHome_keeps
    | with_reducible apply State.qTake_keeps
    | with_reducible apply State.homeRun_keeps
    | with_reducible apply State.seqOne_keeps
    | split
    | dsimp only

theorem execCrozierPass_keeps {c₀ : Bool} {s₀ s : State} (job : Nat) (line : LineAddr) (h : Keeps c₀ s₀ s) : ∃ t₁, execCrozierPass job line s = .next t₁ ∧ Keeps c₀ s₀ t₁ := by
  refine ⟨_, rfl, ?_⟩
  repeat' first
    | with_reducible assumption
    | with_reducible apply State.raDrop_keeps
    | with_reducible apply State.bump_keeps
    | with_reducible apply State.homeRun_keeps
    | with_reducible apply State.modHome_keeps
    | split
    | dsimp only

theorem State.ackIn_keeps {c₀ : Bool} {s₀ s : State} (n : Nat) (m : Msg)  (h : Keeps c₀ s₀ s) : Keeps c₀ s₀ (State.ackIn s n m) := by
  unfold State.ackIn
  repeat' first
    | with_reducible assumption
    | with_reducible apply State.qTake_keeps
    | with_reducible apply State.homeRun_keeps
    | with_reducible apply State.modTx_keeps
    | split
    | dsimp only

theorem execRunAheadExpire_keeps {c₀ : Bool} {s₀ s : State} (n : Nat) (line : LineAddr) (h : Keeps c₀ s₀ s) : ∃ t₁, execRunAheadExpire n line s = .next t₁ ∧ Keeps c₀ s₀ t₁ := by
  refine ⟨_, rfl, ?_⟩
  repeat' first
    | with_reducible assumption
    | with_reducible apply State.raDrop_keeps
    | split
    | dsimp only

theorem execErr_keeps {c₀ : Bool} {s₀ s : State} (p : PassAt) (m : Msg) (h : Keeps c₀ s₀ s) : ∃ t₁, execErr p m s = .next t₁ ∧ Keeps c₀ s₀ t₁ := by
  refine ⟨_, rfl, ?_⟩
  repeat' first
    | with_reducible assumption
    | with_reducible apply State.qTake_keeps
    | with_reducible apply State.homeRun_keeps
    | with_reducible apply State.writeFailed_keeps
    | with_reducible apply State.homesRun_keeps
    | with_reducible apply State.readDone_keeps
    | with_reducible apply State.errAtSlice_keeps
    | split
    | dsimp only

theorem execNodeClean_keeps {c₀ : Bool} {s₀ s : State} (n : Nat) (key : Nat) (h : Keeps c₀ s₀ s) : ∃ t₁, execNodeClean n key s = .next t₁ ∧ Keeps c₀ s₀ t₁ := by
  refine ⟨_, rfl, ?_⟩
  repeat' first
    | with_reducible assumption
    | with_reducible apply State.writeNode_keeps
    | with_reducible apply State.homeRun_keeps
    | with_reducible apply State.fetchNode_keeps
    | with_reducible refine Keeps.foldl ?_ ?_
    | with_reducible refine Keeps.foldl1 ?_ ?_
    | intro _
    | split
    | dsimp only

theorem execActivation_keeps {c₀ : Bool} {s₀ s : State} (p : DirAt) (line : LineAddr) (h : Keeps c₀ s₀ s) : ∃ t₁, execActivation p line s = .next t₁ ∧ Keeps c₀ s₀ t₁ := by
  refine ⟨_, rfl, ?_⟩
  repeat' first
    | with_reducible assumption
    | with_reducible apply State.dirCheck_keeps
    | with_reducible apply State.homeRun_keeps
    | with_reducible apply State.activate_keeps
    | split
    | dsimp only

theorem execEvn_keeps {c₀ : Bool} {s₀ s : State} (atHome : Bool) (p : PassAt) (m : Msg) (h : Keeps c₀ s₀ s) : ∃ t₁, execEvn atHome p m s = .next t₁ ∧ Keeps c₀ s₀ t₁ := by
  refine ⟨_, rfl, ?_⟩
  repeat' first
    | with_reducible assumption
    | with_reducible apply State.wbAtHome_keeps
    | with_reducible apply State.wbAtSlice_keeps
    | split
    | dsimp only

theorem execCompAck_keeps {c₀ : Bool} {s₀ s : State} (atHome : Bool) (p : PassAt) (m : Msg) (h : Keeps c₀ s₀ s) : ∃ t₁, execCompAck atHome p m s = .next t₁ ∧ Keeps c₀ s₀ t₁ := by
  refine ⟨_, rfl, ?_⟩
  repeat' first
    | with_reducible assumption
    | with_reducible apply State.ackIn_keeps
    | with_reducible apply State.nearAck_keeps
    | split
    | dsimp only

theorem execMemDur_keeps {c₀ : Bool} {s₀ s : State} (n : Nat) (m : Msg) (ing : KTime) (h : Keeps c₀ s₀ s) : ∃ t₁, execMemDur n m ing s = .next t₁ ∧ Keeps c₀ s₀ t₁ := by
  refine ⟨_, rfl, ?_⟩
  repeat' first
    | with_reducible assumption
    | with_reducible apply State.qTake_keeps
    | with_reducible apply State.voidAll_keeps
    | with_reducible apply State.breach_keeps
    | with_reducible apply State.modTx_keeps
    | with_reducible apply State.homeRun_keeps
    | with_reducible apply State.homeSend_keeps
    | with_reducible apply State.jobAdvance_keeps
    | with_reducible apply State.modJob_keeps
    | split
    | dsimp only

end Sys2Proof.Machine
end

