-- ==== Sys2Proof/Laws/Keep/Upkeep.lean ====
section
/-! SUPPORT. What the operations of Machine.Upkeep keep. -/

namespace Sys2Proof.Machine

open Sys2Proof

set_option linter.unreachableTactic false
set_option linter.unusedTactic false
set_option linter.unusedVariables false
set_option Elab.async false

theorem execSphagnumMove_keeps {c₀ : Bool} {s₀ s : State} (n : Nat) (h : Keeps c₀ s₀ s) : ∃ t₁, execSphagnumMove n s = .next t₁ ∧ Keeps c₀ s₀ t₁ := by
  refine ⟨_, rfl, ?_⟩
  repeat' first
    | with_reducible assumption
    | with_reducible apply State.page_keeps
    | with_reducible apply State.bump_keeps
    | with_reducible apply State.modSlice_keeps
    | split
    | dsimp only

theorem execSliceDrainStep_keeps {c₀ : Bool} {s₀ s : State} (n : Nat) (h : Keeps c₀ s₀ s) : ∃ t₁, execSliceDrainStep n s = .next t₁ ∧ Keeps c₀ s₀ t₁ := by
  refine ⟨_, rfl, ?_⟩
  repeat' first
    | with_reducible assumption
    | with_reducible apply State.modSlice_keeps
    | with_reducible apply State.bump_keeps
    | with_reducible apply State.modTag_keeps
    | with_reducible apply State.setTile_keeps
    | with_reducible apply State.takeVictim_keeps
    | split
    | dsimp only

theorem State.sweepsOver_keeps {c₀ : Bool} {s₀ s : State} (j : SweepJob)  (h : Keeps c₀ s₀ s) : Keeps c₀ s₀ (State.sweepsOver s j) := by
  unfold State.sweepsOver
  repeat' first
    | with_reducible assumption
    | with_reducible apply State.irq_keeps
    | with_reducible apply State.bump_keeps
    | split
    | dsimp only
    | with_reducible refine Keeps.of ?_ rfl rfl rfl rfl rfl rfl rfl rfl rfl rfl rfl rfl rfl rfl rfl rfl rfl rfl

theorem execDirScrub_keeps {c₀ : Bool} {s₀ s : State} (n : Nat) (x : DirFault) (h : Keeps c₀ s₀ s) : ∃ t₁, execDirScrub n x s = .next t₁ ∧ Keeps c₀ s₀ t₁ := by
  refine ⟨_, rfl, ?_⟩
  repeat' first
    | with_reducible assumption
    | with_reducible apply State.modHome_keeps
    | with_reducible apply State.dirCheck_keeps
    | split
    | dsimp only

theorem State.resendWb_keeps {c₀ : Bool} {s₀ s : State} (d : Nat) (D : ImgDomain) (h1 : Nat) (n : Nat)  (h : Keeps c₀ s₀ s) : Keeps c₀ s₀ (State.resendWb s d D h1 n) := by
  unfold State.resendWb
  repeat' first
    | with_reducible assumption
    | with_reducible apply State.sendWb_keeps
    | with_reducible refine Keeps.foldl ?_ ?_
    | with_reducible refine Keeps.foldl1 ?_ ?_
    | intro _
    | split
    | dsimp only

theorem execSpareRemap_keeps {c₀ : Bool} {s₀ s : State} (n : Nat) (h : Keeps c₀ s₀ s) : ∃ t₁, execSpareRemap n s = .next t₁ ∧ Keeps c₀ s₀ t₁ := by
  refine ⟨_, rfl, ?_⟩
  repeat' first
    | with_reducible assumption
    | with_reducible apply State.modSlice_keeps
    | with_reducible apply State.bump_keeps
    | with_reducible apply State.peat_keeps
    | with_reducible apply State.raise_keeps
    | split
    | dsimp only

theorem execDrainEnd_keeps {c₀ : Bool} {s₀ s : State} (n : Nat) (h : Keeps c₀ s₀ s) : ∃ t₁, execDrainEnd n s = .next t₁ ∧ Keeps c₀ s₀ t₁ := by
  refine ⟨_, rfl, ?_⟩
  repeat' first
    | with_reducible assumption
    | with_reducible apply State.modSlice_keeps
    | with_reducible apply State.irq_keeps
    | with_reducible apply State.modDom_keeps
    | split
    | dsimp only

theorem State.scrubSlot_keeps {c₀ : Bool} {s₀ s : State} (n : Nat) (d : Nat) (D : ImgDomain) (k : Nat) (flips : List (BitVec 80))  (h : Keeps c₀ s₀ s) : Keeps c₀ s₀ (State.scrubSlot s n d D k flips) := by
  unfold State.scrubSlot
  repeat' first
    | with_reducible assumption
    | with_reducible apply State.checkLine_keeps
    | with_reducible apply State.chan_keeps
    | with_reducible apply State.modSlice_keeps
    | split
    | dsimp only

theorem execSweepEnd_keeps {c₀ : Bool} {s₀ s : State} (n : Nat) (h : Keeps c₀ s₀ s) : ∃ t₁, execSweepEnd n s = .next t₁ ∧ Keeps c₀ s₀ t₁ := by
  refine ⟨_, rfl, ?_⟩
  repeat' first
    | with_reducible assumption
    | with_reducible apply State.modSlice_keeps
    | with_reducible apply State.sweepsOver_keeps
    | with_reducible apply State.irq_keeps
    | split
    | dsimp only

theorem State.maintSet_keeps {c₀ : Bool} {s₀ s : State} (n : Nat) (d : Nat) (D : ImgDomain) (set : Nat)  (h : Keeps c₀ s₀ s) : Keeps c₀ s₀ (State.maintSet s n d D set) := by
  unfold State.maintSet
  repeat' first
    | with_reducible assumption
    | with_reducible apply State.modSlice_keeps
    | with_reducible apply State.takeVictim_keeps
    | with_reducible refine Keeps.foldl ?_ ?_
    | with_reducible refine Keeps.foldl1 ?_ ?_
    | intro _
    | split
    | dsimp only

theorem State.sweepMark_keeps {c₀ : Bool} {s₀ s : State} (n : Nat) (d : Nat) (D : ImgDomain) (set : Nat) (j : SweepJob)  (h : Keeps c₀ s₀ s) : Keeps c₀ s₀ (State.sweepMark s n d D set j) := by
  unfold State.sweepMark
  repeat' first
    | with_reducible assumption
    | with_reducible apply State.modSlice_keeps
    | split
    | dsimp only

theorem State.sweepSet_keeps {c₀ : Bool} {s₀ s : State} (n : Nat) (d : Nat) (D : ImgDomain) (set : Nat) (j : SweepJob) (ws : List Nat) (flips : List (BitVec 80))  (h : Keeps c₀ s₀ s) : Keeps c₀ s₀ (State.sweepSet s n d D set j ws flips) := by
  unfold State.sweepSet
  repeat' first
    | with_reducible assumption
    | with_reducible apply State.sweepMark_keeps
    | with_reducible apply State.bump_keeps
    | with_reducible apply State.takeVictim_keeps
    | with_reducible apply State.modSlice_keeps
    | with_reducible apply State.maintSet_keeps
    | with_reducible refine Keeps.foldl ?_ ?_
    | with_reducible refine Keeps.foldl1 ?_ ?_
    | intro _
    | split
    | dsimp only

theorem execSweepPass_keeps {c₀ : Bool} {s₀ s : State} (p : PassAt) (h : Keeps c₀ s₀ s) : ∃ t₁, execSweepPass p s = .next t₁ ∧ Keeps c₀ s₀ t₁ := by
  refine ⟨_, rfl, ?_⟩
  repeat' first
    | with_reducible assumption
    | with_reducible apply State.passFaults_keeps
    | with_reducible apply State.modSlice_keeps
    | with_reducible apply State.sweepSet_keeps
    | split
    | with_reducible refine Keeps.pair (by assumption) ?_
    | dsimp only

theorem execSweepMarker_keeps {c₀ : Bool} {s₀ s : State} (n : Nat) (h : Keeps c₀ s₀ s) : ∃ t₁, execSweepMarker n s = .next t₁ ∧ Keeps c₀ s₀ t₁ := by
  refine ⟨_, rfl, ?_⟩
  repeat' first
    | with_reducible assumption
    | with_reducible apply State.modSlice_keeps
    | split
    | dsimp only

theorem execPatrolScrub_keeps {c₀ : Bool} {s₀ s : State} (n : Nat) (flips : List (BitVec 80)) (x : PassFault) (h : Keeps c₀ s₀ s) : ∃ t₁, execPatrolScrub n flips x s = .next t₁ ∧ Keeps c₀ s₀ t₁ := by
  refine ⟨_, rfl, ?_⟩
  repeat' first
    | with_reducible assumption
    | with_reducible apply State.scrubSlot_keeps
    | with_reducible apply State.modSlice_keeps
    | with_reducible apply State.passFaults_keeps
    | with_reducible apply State.maintSet_keeps
    | split
    | with_reducible refine Keeps.pair (by assumption) ?_
    | dsimp only

theorem execHandoverEnd_keeps {c₀ : Bool} {s₀ s : State} (n : Nat) (h : Keeps c₀ s₀ s) : ∃ t₁, execHandoverEnd n s = .next t₁ ∧ Keeps c₀ s₀ t₁ := by
  refine ⟨_, rfl, ?_⟩
  repeat' first
    | with_reducible assumption
    | with_reducible apply State.modHome_keeps
    | with_reducible apply State.modDom_keeps
    | with_reducible apply State.irq_keeps
    | with_reducible apply State.resendWb_keeps
    | with_reducible refine Keeps.foldl ?_ ?_
    | with_reducible refine Keeps.foldl1 ?_ ?_
    | intro _
    | split
    | dsimp only

theorem State.stipeGone_keeps {c₀ : Bool} {s₀ s : State} (h1 : ImgHome) (pos : Nat)  (h : Keeps c₀ s₀ s) : Keeps c₀ s₀ (State.stipeGone s h1 pos) := by
  unfold State.stipeGone
  repeat' first
    | with_reducible assumption
    | with_reducible apply State.winHit_keeps
    | with_reducible apply State.raise_keeps
    | with_reducible apply State.fence_keeps
    | split
    | with_reducible refine Keeps.pair (by assumption) ?_
    | dsimp only
    | with_reducible refine Keeps.of ?_ rfl rfl rfl rfl rfl rfl rfl rfl rfl rfl rfl rfl rfl rfl rfl rfl rfl rfl

theorem execEpoch_keeps {c₀ : Bool} {s₀ s : State} (n : Nat) (h : Keeps c₀ s₀ s) : ∃ t₁, execEpoch n s = .next t₁ ∧ Keeps c₀ s₀ t₁ := by
  refine ⟨_, rfl, ?_⟩
  repeat' first
    | with_reducible assumption
    | with_reducible apply State.modSlice_keeps
    | with_reducible apply State.modPage_keeps
    | with_reducible refine Keeps.foldl ?_ ?_
    | with_reducible refine Keeps.foldl1 ?_ ?_
    | intro _
    | split
    | dsimp only

theorem execNcScrub_keeps {c₀ : Bool} {s₀ s : State} (n : Nat) (correctable : Bool) (uncorrectable : Bool) (h : Keeps c₀ s₀ s) : ∃ t₁, execNcScrub n correctable uncorrectable s = .next t₁ ∧ Keeps c₀ s₀ t₁ := by
  refine ⟨_, rfl, ?_⟩
  repeat' first
    | with_reducible assumption
    | with_reducible apply State.modHome_keeps
    | with_reducible apply State.homeRun_keeps
    | with_reducible apply State.loseNode_keeps
    | with_reducible apply State.bump_keeps
    | split
    | dsimp only

theorem execStipeScrub_keeps {c₀ : Bool} {s₀ s : State} (disagree : List (Nat × Nat)) (badKeys : List Nat) (h : Keeps c₀ s₀ s) : ∃ t₁, execStipeScrub disagree badKeys s = .next t₁ ∧ Keeps c₀ s₀ t₁ := by
  refine ⟨_, rfl, ?_⟩
  repeat' first
    | with_reducible assumption
    | with_reducible apply State.stipeGone_keeps
    | with_reducible apply State.fence_keeps
    | with_reducible refine Keeps.foldl ?_ ?_
    | with_reducible refine Keeps.foldl1 ?_ ?_
    | intro _
    | split
    | dsimp only
    | with_reducible refine Keeps.of ?_ rfl rfl rfl rfl rfl rfl rfl rfl rfl rfl rfl rfl rfl rfl rfl rfl rfl rfl

end Sys2Proof.Machine
end

