-- ==== Sys2Proof/Laws/Keep/Fabric.lean ====
section
/-! SUPPORT. What the operations of Machine.Fabric keep. -/

namespace Sys2Proof.Machine

open Sys2Proof

set_option linter.unreachableTactic false
set_option linter.unusedTactic false
set_option linter.unusedVariables false
set_option Elab.async false

theorem State.enter_keeps {c₀ : Bool} {s₀ s : State} (p : Nat) (dst : Nat) (k : Sink) (m : Msg)  (h : Keeps c₀ s₀ s) : Keeps c₀ s₀ (State.enter s p dst k m) := by
  unfold State.enter
  repeat' first
    | with_reducible assumption
    | with_reducible apply State.qPush_keeps
    | split
    | dsimp only

theorem State.toWriter_keeps {c₀ : Bool} {s₀ s : State} (d : Nat) (n : Nat) (u : FUnit)  (h : Keeps c₀ s₀ s) : Keeps c₀ s₀ (State.toWriter s d n u) := by
  unfold State.toWriter
  repeat' first
    | with_reducible assumption
    | with_reducible apply State.modGate_keeps
    | with_reducible apply State.bump_keeps
    | with_reducible apply State.modWatch_keeps
    | split
    | dsimp only

theorem State.dropIngress_keeps {c₀ : Bool} {s₀ s : State} (p : Nat) (d : Nat) (m : Msg)  (h : Keeps c₀ s₀ s) : Keeps c₀ s₀ (State.dropIngress s p d m) := by
  unfold State.dropIngress
  repeat' first
    | with_reducible assumption
    | with_reducible apply State.rep_keeps
    | with_reducible apply State.bump_keeps
    | dsimp only

theorem State.enterEp_keeps {c₀ : Bool} {s₀ s : State} (p : Nat) (d : Nat) (D : ImgDomain) (ep : Endpoint) (m : Msg)  (h : Keeps c₀ s₀ s) : Keeps c₀ s₀ (State.enterEp s p d D ep m) := by
  unfold State.enterEp
  repeat' first
    | with_reducible assumption
    | with_reducible apply State.enter_keeps
    | with_reducible apply State.bump_keeps
    | with_reducible apply State.dropIngress_keeps
    | split
    | dsimp only

theorem State.fwdAnswered_keeps {c₀ : Bool} {s₀ s : State} (d : Nat) (D : ImgDomain) (sl : Nat) (g : Nat) (m : Msg)  (h : Keeps c₀ s₀ s) : Keeps c₀ s₀ (State.fwdAnswered s d D sl g m) := by
  unfold State.fwdAnswered
  repeat' first
    | with_reducible assumption
    | with_reducible apply State.evictIn_keeps
    | with_reducible apply State.modSlice_keeps
    | split
    | dsimp only

theorem State.nearIn_keeps {c₀ : Bool} {s₀ s : State} (p : Nat) (d : Nat) (D : ImgDomain) (m : Msg)  (h : Keeps c₀ s₀ s) : Keeps c₀ s₀ (State.nearIn s p d D m) := by
  unfold State.nearIn
  repeat' first
    | with_reducible assumption
    | with_reducible apply State.enterEp_keeps
    | with_reducible apply State.fwdAnswered_keeps
    | with_reducible apply State.dropIngress_keeps
    | with_reducible apply State.enter_keeps
    | split
    | dsimp only

theorem State.memIn_keeps {c₀ : Bool} {s₀ s : State} (p : Nat) (d : Nat) (D : ImgDomain) (m : Msg)  (h : Keeps c₀ s₀ s) : Keeps c₀ s₀ (State.memIn s p d D m) := by
  unfold State.memIn
  repeat' first
    | with_reducible assumption
    | with_reducible apply State.enter_keeps
    | with_reducible apply State.dropIngress_keeps
    | split
    | dsimp only

theorem State.onwardDone_keeps {c₀ : Bool} {s₀ s : State} (p : Nat) (m : Msg)  (h : Keeps c₀ s₀ s) : Keeps c₀ s₀ (State.onwardDone s p m) := by
  unfold State.onwardDone
  repeat' first
    | with_reducible assumption
    | with_reducible apply State.modPort_keeps
    | with_reducible apply State.modWatch_keeps
    | with_reducible apply State.freeTail_keeps
    | with_reducible refine Keeps.foldl ?_ ?_
    | with_reducible refine Keeps.foldl1 ?_ ?_
    | intro _
    | split
    | dsimp only

theorem State.peerIn_keeps {c₀ : Bool} {s₀ s : State} (p : Nat) (d : Nat) (D : ImgDomain) (m : Msg)  (h : Keeps c₀ s₀ s) : Keeps c₀ s₀ (State.peerIn s p d D m) := by
  unfold State.peerIn
  repeat' first
    | with_reducible assumption
    | with_reducible apply State.dropIngress_keeps
    | with_reducible apply State.onwardDone_keeps
    | with_reducible apply State.enter_keeps
    | with_reducible apply State.bump_keeps
    | with_reducible apply State.farAnswer_keeps
    | with_reducible apply State.stamp_keeps
    | with_reducible apply State.enterEp_keeps
    | split
    | dsimp only

theorem State.portIn_keeps {c₀ : Bool} {s₀ s : State} (p : Nat) (m : Msg)  (h : Keeps c₀ s₀ s) : Keeps c₀ s₀ (State.portIn s p m) := by
  unfold State.portIn
  repeat' first
    | with_reducible assumption
    | with_reducible apply State.barrierIn_keeps
    | with_reducible apply State.request_keeps
    | with_reducible apply State.nearIn_keeps
    | with_reducible apply State.memIn_keeps
    | with_reducible apply State.peerIn_keeps
    | with_reducible apply State.dropIngress_keeps
    | split
    | dsimp only

theorem State.arrive_keeps {c₀ : Bool} {s₀ s : State} (p : Nat) (m : Msg) (x : HdrCheck)  (h : Keeps c₀ s₀ s) : Keeps c₀ s₀ (State.arrive s p m x) := by
  unfold State.arrive
  repeat' first
    | with_reducible assumption
    | with_reducible apply State.atPort_keeps
    | with_reducible apply State.dropIngress_keeps
    | with_reducible apply State.portIn_keeps
    | intro _
    | split
    | dsimp only

theorem State.boundHit_keeps {c₀ : Bool} {s₀ s : State} (d : Nat) (n : Nat) (l : LineAddr)  (h : Keeps c₀ s₀ s) : Keeps c₀ s₀ (State.boundHit s d n l) := by
  unfold State.boundHit
  repeat' first
    | with_reducible assumption
    | with_reducible apply State.bump_keeps
    | with_reducible apply State.modRouter_keeps
    | with_reducible apply State.winHit_keeps
    | with_reducible apply State.raise_keeps
    | with_reducible apply State.fence_keeps
    | split
    | with_reducible refine Keeps.pair (by assumption) ?_
    | dsimp only

theorem State.headerBad_keeps {c₀ : Bool} {s₀ s : State} (d : Nat) (n : Nat) (src : Nat) (dir : Dir) (u : FUnit)  (h : Keeps c₀ s₀ s) : Keeps c₀ s₀ (State.headerBad s d n src dir u) := by
  unfold State.headerBad
  repeat' first
    | with_reducible assumption
    | with_reducible apply State.bump_keeps
    | with_reducible apply State.modRouter_keeps
    | with_reducible apply State.absorb_keeps
    | with_reducible apply State.winHit_keeps
    | with_reducible apply State.raise_keeps
    | with_reducible apply State.fence_keeps
    | split
    | with_reducible refine Keeps.pair (by assumption) ?_
    | dsimp only

theorem State.dropIn_keeps {c₀ : Bool} {s₀ s : State} (n : Nat) (k : Nat)  (h : Keeps c₀ s₀ s) : Keeps c₀ s₀ (State.dropIn s n k) := by
  unfold State.dropIn
  repeat' first
    | with_reducible assumption
    | with_reducible apply State.modRouter_keeps
    | dsimp only

theorem State.toSink_keeps {c₀ : Bool} {s₀ s : State} (d : Nat) (u : FUnit)  (h : Keeps c₀ s₀ s) : Keeps c₀ s₀ (State.toSink s d u) := by
  unfold State.toSink
  repeat' first
    | with_reducible assumption
    | with_reducible apply State.absorb_keeps
    | with_reducible apply State.qPush_keeps
    | with_reducible apply State.toWriter_keeps
    | with_reducible apply State.toEgress_keeps
    | split
    | dsimp only

theorem State.payloadBad_keeps {c₀ : Bool} {s₀ s : State} (d : Nat) (u : FUnit)  (h : Keeps c₀ s₀ s) : Keeps c₀ s₀ (State.payloadBad s d u) := by
  unfold State.payloadBad
  repeat' first
    | with_reducible assumption
    | with_reducible apply State.rep_keeps
    | with_reducible apply State.bump_keeps
    | with_reducible apply State.modRouter_keeps
    | with_reducible apply State.toSink_keeps
    | with_reducible apply State.report_keeps
    | split
    | dsimp only

theorem State.ejectTo_keeps {c₀ : Bool} {s₀ s : State} (d : Nat) (u : FUnit) (bad : Bool)  (h : Keeps c₀ s₀ s) : Keeps c₀ s₀ (State.ejectTo s d u bad) := by
  unfold State.ejectTo
  repeat' first
    | with_reducible assumption
    | with_reducible apply State.payloadBad_keeps
    | with_reducible apply State.toSink_keeps
    | split
    | dsimp only

theorem State.heldOut_keeps {c₀ : Bool} {s₀ s : State} (d : Nat) (D : ImgDomain) (n k : Nat) (h : Keeps c₀ s₀ s) : Keeps c₀ s₀ (s.heldOut d D n k) := by
  induction k generalizing s with
  | zero => exact h
  | succ k ih =>
    unfold State.heldOut
    split
    · exact ih (State.ejectTo_keeps _ _ _ (State.qTake_keeps _ _ _ h))
    · exact h

theorem State.eject_keeps {c₀ : Bool} {s₀ s : State} (d : Nat) (D : ImgDomain) (u : FUnit) (bad : Bool)  (h : Keeps c₀ s₀ s) : Keeps c₀ s₀ (State.eject s d D u bad) := by
  unfold State.eject
  repeat' first
    | with_reducible assumption
    | with_reducible apply State.modRouter_keeps
    | with_reducible apply State.bump_keeps
    | with_reducible apply State.qPush_keeps
    | with_reducible apply State.ejectTo_keeps
    | with_reducible apply State.heldOut_keeps
    | split
    | dsimp only

theorem State.sinkAt_keeps {c₀ : Bool} {s₀ s : State} (n : Nat) (u : FUnit)  (h : Keeps c₀ s₀ s) : Keeps c₀ s₀ (State.sinkAt s n u) := by
  unfold State.sinkAt
  repeat' first
    | with_reducible assumption
    | with_reducible apply State.qPush_keeps
    | with_reducible apply State.absorb_keeps
    | split
    | dsimp only

theorem State.compactIn_keeps {c₀ : Bool} {s₀ s : State} (d : Nat) (D : ImgDomain) (n : Nat) (at_ : Option Dir) (x : HdrCheck) (heads : List (Dir × FUnit))  (h : Keeps c₀ s₀ s) : Keeps c₀ s₀ (State.compactIn s d D n at_ x heads) := by
  unfold State.compactIn
  repeat' first
    | with_reducible assumption
    | with_reducible apply State.bump_keeps
    | with_reducible apply State.modRouter_keeps
    | with_reducible apply State.boundHit_keeps
    | with_reducible apply State.headerBad_keeps
    | with_reducible apply State.dropIn_keeps
    | with_reducible apply State.rep_keeps
    | with_reducible apply State.eject_keeps
    | with_reducible apply State.sinkAt_keeps
    | with_reducible refine Keeps.foldl ?_ ?_
    | with_reducible refine Keeps.foldl1 ?_ ?_
    | intro _
    | split
    | dsimp only

theorem State.cross_keeps {c₀ : Bool} {s₀ s : State} (D : ImgDomain) (n : Nat) (dir : Dir) (u : FUnit) (det : Nat)  (h : Keeps c₀ s₀ s) : Keeps c₀ s₀ (State.cross s D n dir u det) := by
  unfold State.cross
  repeat' first
    | with_reducible assumption
    | with_reducible apply State.bump_keeps
    | with_reducible apply State.modRouter_keeps
    | split
    | dsimp only

theorem State.passOn_keeps {c₀ : Bool} {s₀ s : State} (d : Nat) (D : ImgDomain) (n : Nat) (us : List (Dir × FUnit)) (free : List Dir) (h : Keeps c₀ s₀ s) :
    Keeps c₀ s₀ (s.passOn d D n us free).1 := by
  induction us generalizing s free with
  | nil => exact h
  | cons x t ih =>
    obtain ⟨i, u⟩ := x
    unfold State.passOn
    split
    · exact ih _ h
    · have hc := State.cross_keeps D n ‹Dir› u 0 (State.dropIn_keeps n (5 * dirNum i) h)
      refine ih _ ?_
      split
      · exact hc
      · exact State.bump_keeps _ hc

theorem State.tokenSpent_keeps {c₀ : Bool} {s₀ s : State} (d : Nat) (n : Nat) (m : Msg)  (h : Keeps c₀ s₀ s) : Keeps c₀ s₀ (State.tokenSpent s d n m) := by
  unfold State.tokenSpent
  repeat' first
    | with_reducible assumption
    | with_reducible apply State.injToken_keeps
    | split
    | with_reducible refine Keeps.pair (by assumption) ?_
    | dsimp only

theorem State.injected_keeps {c₀ : Bool} {s₀ s : State} (d : Nat) (n : Nat) (q : Nat) (u : FUnit)  (h : Keeps c₀ s₀ s) : Keeps c₀ s₀ (State.injected s d n q u).1 := by
  unfold State.injected
  repeat' first
    | with_reducible assumption
    | with_reducible apply State.qTake_keeps
    | with_reducible apply State.modRouter_keeps
    | with_reducible apply State.bump_keeps
    | with_reducible apply State.tokenSpent_keeps
    | with_reducible apply State.stamp_keeps
    | with_reducible apply State.modHome_keeps
    | split
    | dsimp only

theorem State.injectBy_keeps {c₀ : Bool} {s₀ s : State} (d : Nat) (n : Nat) (q : Nat) (u : FUnit) {f : FUnit → State → State} (hf : ∀ x s, Keeps c₀ s₀ s → Keeps c₀ s₀ (f x s)) (h : Keeps c₀ s₀ s) : Keeps c₀ s₀ (State.injectBy s d n q u f) := by
  unfold State.injectBy
  repeat' first
    | with_reducible assumption
    | with_reducible apply hf
    | with_reducible apply State.injected_keeps
    | with_reducible apply State.modRouter_keeps
    | intro _
    | with_reducible refine Keeps.pair (by assumption) ?_
    | dsimp only

theorem State.compactInject_keeps {c₀ : Bool} {s₀ s : State} (d : Nat) (D : ImgDomain) (n : Nat) (k : Nat) (free : List Dir)  (h : Keeps c₀ s₀ s) : Keeps c₀ s₀ (State.compactInject s d D n k free) := by
  unfold State.compactInject
  repeat' first
    | with_reducible assumption
    | with_reducible apply State.modRouter_keeps
    | with_reducible apply State.boundHit_keeps
    | with_reducible apply State.sinkAt_keeps
    | with_reducible apply State.qTake_keeps
    | with_reducible apply State.injectBy_keeps
    | with_reducible apply State.eject_keeps
    | with_reducible apply State.cross_keeps
    | intro _
    | split
    | dsimp only

theorem State.compactEdge_keeps {c₀ : Bool} {s₀ s : State} (d : Nat) (D : ImgDomain) (n : Nat) (at_ : Option Dir) (x : HdrCheck)  (h : Keeps c₀ s₀ s) : Keeps c₀ s₀ (State.compactEdge s d D n at_ x) := by
  unfold State.compactEdge
  repeat' first
    | with_reducible assumption
    | with_reducible apply State.modRouter_keeps
    | with_reducible apply State.compactIn_keeps
    | with_reducible apply State.passOn_keeps
    | with_reducible apply State.compactInject_keeps
    | with_reducible refine Keeps.pair (by assumption) ?_
    | dsimp only

theorem State.ejectOne_keeps {c₀ : Bool} {s₀ s : State} (n : Nat)  (h : Keeps c₀ s₀ s) : Keeps c₀ s₀ (State.ejectOne s n) := by
  unfold State.ejectOne
  repeat' first
    | with_reducible assumption
    | with_reducible apply State.modRouter_keeps
    | split
    | dsimp only

theorem State.dropTurn_keeps {c₀ : Bool} {s₀ s : State} (n : Nat) (v : Nat)  (h : Keeps c₀ s₀ s) : Keeps c₀ s₀ (State.dropTurn s n v) := by
  unfold State.dropTurn
  repeat' first
    | with_reducible assumption
    | with_reducible apply State.modRouter_keeps
    | dsimp only

theorem State.candGo_keeps {c₀ : Bool} {s₀ s : State} (d : Nat) (D : ImgDomain) (n : Nat) (c : Cand) (u : FUnit) {f : State → State} (hf : ∀ s, Keeps c₀ s₀ s → Keeps c₀ s₀ (f s)) (h : Keeps c₀ s₀ s) : Keeps c₀ s₀ (State.candGo s d D n c u f) := by
  unfold State.candGo
  repeat' first
    | with_reducible assumption
    | with_reducible apply hf
    | with_reducible apply State.cross_keeps
    | with_reducible apply State.modRouter_keeps
    | intro _
    | split
    | dsimp only

theorem State.turnOut_keeps {c₀ : Bool} {s₀ s : State} (d : Nat) (D : ImgDomain) (n : Nat) (v : Nat) (u : FUnit)  (h : Keeps c₀ s₀ s) : Keeps c₀ s₀ (State.turnOut s d D n v u) := by
  unfold State.turnOut
  repeat' first
    | with_reducible assumption
    | with_reducible apply State.eject_keeps
    | with_reducible apply State.ejectOne_keeps
    | with_reducible apply State.dropTurn_keeps
    | with_reducible apply State.sinkAt_keeps
    | with_reducible apply State.candGo_keeps
    | intro _
    | split
    | dsimp only

theorem State.injOut_keeps {c₀ : Bool} {s₀ s : State} (d : Nat) (D : ImgDomain) (n : Nat) (q : Nat) (u : FUnit)  (h : Keeps c₀ s₀ s) : Keeps c₀ s₀ (State.injOut s d D n q u) := by
  unfold State.injOut
  repeat' first
    | with_reducible assumption
    | with_reducible apply State.injected_keeps
    | with_reducible apply State.eject_keeps
    | with_reducible apply State.ejectOne_keeps
    | with_reducible apply State.sinkAt_keeps
    | with_reducible apply State.qTake_keeps
    | with_reducible apply State.candGo_keeps
    | intro _
    | split
    | with_reducible refine Keeps.pair (by assumption) ?_
    | dsimp only

theorem State.fullInject_keeps {c₀ : Bool} {s₀ s : State} (d : Nat) (D : ImgDomain) (n : Nat)  (h : Keeps c₀ s₀ s) : Keeps c₀ s₀ (State.fullInject s d D n) := by
  unfold State.fullInject
  repeat' first
    | with_reducible assumption
    | with_reducible apply State.turnOut_keeps
    | with_reducible apply State.injOut_keeps
    | split
    | dsimp only

theorem State.fullLink_keeps {c₀ : Bool} {s₀ s : State} (d : Nat) (D : ImgDomain) (n : Nat) (dir : Dir) (x : HdrCheck)  (h : Keeps c₀ s₀ s) : Keeps c₀ s₀ (State.fullLink s d D n dir x) := by
  unfold State.fullLink
  repeat' first
    | with_reducible assumption
    | with_reducible apply State.bump_keeps
    | with_reducible apply State.modRouter_keeps
    | with_reducible apply State.headerBad_keeps
    | with_reducible apply State.dropIn_keeps
    | with_reducible apply State.rep_keeps
    | with_reducible apply State.eject_keeps
    | with_reducible apply State.ejectOne_keeps
    | with_reducible apply State.sinkAt_keeps
    | with_reducible apply State.candGo_keeps
    | intro _
    | split
    | dsimp only

theorem execUnitArrival_keeps {c₀ : Bool} {s₀ s : State} (n : Nat) (a : Arrival) (x : HdrCheck) (h : Keeps c₀ s₀ s) : ∃ t₁, execUnitArrival n a x s = .next t₁ ∧ Keeps c₀ s₀ t₁ := by
  refine ⟨_, rfl, ?_⟩
  repeat' first
    | with_reducible assumption
    | with_reducible apply State.cellFences_keeps
    | with_reducible apply State.arrive_keeps
    | with_reducible apply State.compactEdge_keeps
    | with_reducible apply State.fullInject_keeps
    | with_reducible apply State.fullLink_keeps
    | split
    | dsimp only

theorem execDetourReorderEnd_keeps {c₀ : Bool} {s₀ s : State} (d : Nat) (h : Keeps c₀ s₀ s) : ∃ t₁, execDetourReorderEnd d s = .next t₁ ∧ Keeps c₀ s₀ t₁ := by
  refine ⟨_, rfl, ?_⟩
  repeat' first
    | with_reducible assumption
    | with_reducible apply State.modDom_keeps
    | with_reducible apply State.ejectTo_keeps
    | with_reducible apply State.qTake_keeps
    | with_reducible refine Keeps.foldl ?_ ?_
    | with_reducible refine Keeps.foldl1 ?_ ?_
    | intro _
    | split
    | dsimp only

theorem execDetour_keeps {c₀ : Bool} {s₀ s : State} (d : Nat) (h : Keeps c₀ s₀ s) : ∃ t₁, execDetour d s = .next t₁ ∧ Keeps c₀ s₀ t₁ := by
  refine ⟨_, rfl, ?_⟩
  repeat' first
    | with_reducible assumption
    | with_reducible apply State.modDom_keeps
    | split
    | dsimp only

end Sys2Proof.Machine
end

