-- ==== Sys2Proof/Laws/Keep/Command.lean ====
section
/-! SUPPORT. What the operations of Machine.Command keep. -/

namespace Sys2Proof.Machine

open Sys2Proof

set_option linter.unreachableTactic false
set_option linter.unusedTactic false
set_option linter.unusedVariables false
set_option Elab.async false

theorem State.putRes_keeps {c₀ : Bool} {s₀ s : State} (a : At) (t : Nat) (w : Nat)  (h : Keeps c₀ s₀ s) : Keeps c₀ s₀ (State.putRes s a t w) := by
  unfold State.putRes
  repeat' first
    | with_reducible assumption
    | with_reducible apply State.setRrv_keeps
    | with_reducible apply State.modTag_keeps
    | dsimp only

theorem State.reserveOver_keeps {c₀ : Bool} {s₀ s u : State} {a : At} {t w : Nat} {b : Bool} {fs : List (BitVec 80)} (e : s.reserveOver a t w b fs = some u) (h : Keeps c₀ s₀ s) : Keeps c₀ s₀ u := by
  unfold State.reserveOver at e
  split at e
  · cases e
  · split at e
    · cases e
    · simp only [Option.some.injEq] at e
      subst e
      refine State.putRes_keeps _ _ _ (State.takeVictim_keeps _ _ _ _ _ _ _ ?_)
      split
      · exact State.bump_keeps _ (State.bump_keeps _ h)
      · exact State.bump_keeps _ h

theorem State.unitCmd_keeps {c₀ : Bool} {s₀ s : State} (n : Nat) (fenced : Bool) (base : Nat) (off : Nat) (who : Requester) {f : State → State} (hf : ∀ s, Keeps c₀ s₀ s → Keeps c₀ s₀ (f s)) (h : Keeps c₀ s₀ s) : Keeps c₀ s₀ (State.unitCmd s n fenced base off who f) := by
  unfold State.unitCmd
  repeat' first
    | with_reducible assumption
    | with_reducible apply hf
    | with_reducible apply State.logAcc_keeps
    | intro _
    | split
    | dsimp only

theorem State.doHomQrel_keeps {c₀ : Bool} {s₀ s : State} (n : Nat)  (h : Keeps c₀ s₀ s) : Keeps c₀ s₀ (State.doHomQrel s n) := by
  unfold State.doHomQrel
  repeat' first
    | with_reducible assumption
    | with_reducible apply State.modHome_keeps
    | split
    | dsimp only

theorem execHomQrel_keeps {c₀ : Bool} {s₀ s : State} (n : Nat) (h : Keeps c₀ s₀ s) : ∃ t₁, execHomQrel n s = .next t₁ ∧ Keeps c₀ s₀ t₁ := by
  refine ⟨_, rfl, ?_⟩
  repeat' first
    | with_reducible assumption
    | with_reducible apply State.unitCmd_keeps
    | with_reducible apply State.doHomQrel_keeps
    | intro _
    | dsimp only

theorem State.slcLatch_keeps {c₀ : Bool} {s₀ s : State} (n : Nat)  (h : Keeps c₀ s₀ s) : Keeps c₀ s₀ (State.slcLatch s n) := by
  unfold State.slcLatch
  repeat' first
    | with_reducible assumption
    | with_reducible apply State.modSlice_keeps
    | dsimp only

theorem State.doSlcAudit_keeps {c₀ : Bool} {s₀ s : State} (n : Nat)  (h : Keeps c₀ s₀ s) : Keeps c₀ s₀ (State.doSlcAudit s n) := by
  unfold State.doSlcAudit
  repeat' first
    | with_reducible assumption
    | with_reducible apply State.slcLatch_keeps
    | with_reducible apply State.modSlice_keeps
    | dsimp only

theorem execRtrAuditEnd_keeps {c₀ : Bool} {s₀ s : State} (n : Nat) (h : Keeps c₀ s₀ s) : ∃ t₁, execRtrAuditEnd n s = .next t₁ ∧ Keeps c₀ s₀ t₁ := by
  refine ⟨_, rfl, ?_⟩
  repeat' first
    | with_reducible assumption
    | with_reducible apply State.modRouter_keeps
    | with_reducible apply State.winHit_keeps
    | with_reducible apply State.raise_keeps
    | with_reducible apply State.fence_keeps
    | with_reducible apply State.irq_keeps
    | split
    | with_reducible refine Keeps.pair (by assumption) ?_
    | dsimp only

theorem State.reserve_keeps {c₀ : Bool} {s₀ s u : State} {a : At} {t : Nat} {fs : List (BitVec 80)} (e : s.reserve a t fs = some u) (h : Keeps c₀ s₀ s) : Keeps c₀ s₀ u := by
  unfold State.reserve at e
  dsimp only at e
  have hp := State.pickWay_keeps a (s.cands a t true) h
  split at e
  · simp only [Option.some.injEq] at e
    subst e
    exact h
  · simp only [Option.some.injEq] at e
    subst e
    exact State.putRes_keeps _ _ _ hp
  · exact State.reserveOver_keeps e hp

theorem State.doFlush_keeps {c₀ : Bool} {s₀ s : State} (n : Nat) (q : Nat) (who : Requester)  (h : Keeps c₀ s₀ s) : Keeps c₀ s₀ (State.doFlush s n q who) := by
  unfold State.doFlush
  repeat' first
    | with_reducible assumption
    | with_reducible apply State.modPool_keeps
    | with_reducible apply State.flushQ_keeps
    | with_reducible apply State.logAcc_keeps
    | split
    | dsimp only

theorem State.gateLatch_keeps {c₀ : Bool} {s₀ s : State} (g : Nat)  (h : Keeps c₀ s₀ s) : Keeps c₀ s₀ (State.gateLatch s g) := by
  unfold State.gateLatch
  repeat' first
    | with_reducible assumption
    | with_reducible apply State.modGate_keeps
    | split
    | dsimp only

theorem State.doGateAudit_keeps {c₀ : Bool} {s₀ s : State} (g : Nat) (who : Requester)  (h : Keeps c₀ s₀ s) : Keeps c₀ s₀ (State.doGateAudit s g who) := by
  unfold State.doGateAudit
  repeat' first
    | with_reducible assumption
    | with_reducible apply State.logAcc_keeps
    | with_reducible apply State.gateLatch_keeps
    | with_reducible apply State.modGate_keeps
    | split
    | dsimp only

theorem execGateAuditEnd_keeps {c₀ : Bool} {s₀ s : State} (g : Nat) (h : Keeps c₀ s₀ s) : ∃ t₁, execGateAuditEnd g s = .next t₁ ∧ Keeps c₀ s₀ t₁ := by
  refine ⟨_, rfl, ?_⟩
  repeat' first
    | with_reducible assumption
    | with_reducible apply State.modGate_keeps
    | with_reducible apply State.rep_keeps
    | with_reducible apply State.irq_keeps
    | split
    | dsimp only

theorem State.lockOver_keeps {c₀ : Bool} {s₀ s : State}   (h : Keeps c₀ s₀ s) : Keeps c₀ s₀ (State.lockOver s) := by
  unfold State.lockOver
  repeat' first
    | with_reducible assumption
    | with_reducible apply State.irq_keeps
    | split
    | dsimp only
    | with_reducible refine Keeps.of ?_ rfl rfl rfl rfl rfl rfl rfl rfl rfl rfl rfl rfl rfl rfl rfl rfl rfl rfl

theorem State.startLock_keeps {c₀ : Bool} {s₀ s : State} (ten : Nat) (unlock : Bool)  (h : Keeps c₀ s₀ s) : Keeps c₀ s₀ (State.startLock s ten unlock) := by
  unfold State.startLock
  repeat' first
    | with_reducible assumption
    | with_reducible apply State.irq_keeps
    | with_reducible apply State.lockOver_keeps
    | split
    | dsimp only
    | with_reducible refine Keeps.of ?_ rfl rfl rfl rfl rfl rfl rfl rfl rfl rfl rfl rfl rfl rfl rfl rfl rfl rfl

theorem execLock_keeps {c₀ : Bool} {s₀ s : State} (ten : Nat) (h : Keeps c₀ s₀ s) : ∃ t₁, execLock ten s = .next t₁ ∧ Keeps c₀ s₀ t₁ := by
  refine ⟨_, rfl, ?_⟩
  repeat' first
    | with_reducible assumption
    | with_reducible apply State.startLock_keeps
    | dsimp only

theorem State.rtrLatch_keeps {c₀ : Bool} {s₀ s : State} (n : Nat)  (h : Keeps c₀ s₀ s) : Keeps c₀ s₀ (State.rtrLatch s n) := by
  unfold State.rtrLatch
  repeat' first
    | with_reducible assumption
    | with_reducible apply State.modRouter_keeps
    | split
    | dsimp only

theorem State.doRtrAudit_keeps {c₀ : Bool} {s₀ s : State} (n : Nat)  (h : Keeps c₀ s₀ s) : Keeps c₀ s₀ (State.doRtrAudit s n) := by
  unfold State.doRtrAudit
  repeat' first
    | with_reducible assumption
    | with_reducible apply State.rtrLatch_keeps
    | with_reducible apply State.modRouter_keeps
    | dsimp only

theorem State.doLstest_keeps {c₀ : Bool} {s₀ s : State} (n : Nat) (squashed : Bool)  (h : Keeps c₀ s₀ s) : Keeps c₀ s₀ (State.doLstest s n squashed) := by
  unfold State.doLstest
  repeat' first
    | with_reducible assumption
    | with_reducible apply State.modSlice_keeps
    | with_reducible apply State.sliceMust_keeps
    | split
    | dsimp only

theorem State.askLstest_keeps {c₀ : Bool} {s₀ s : State} (n : Nat)  (h : Keeps c₀ s₀ s) : Keeps c₀ s₀ (State.askLstest s n) := by
  unfold State.askLstest
  repeat' first
    | with_reducible assumption
    | with_reducible apply State.modSlice_keeps
    | dsimp only

theorem State.lockPass_keeps {c₀ : Bool} {s₀ s u : State} {b : Bool} {a : At} {t : Nat} {fs : List (BitVec 80)} (e : s.lockPass a t fs = some (u, b)) (h : Keeps c₀ s₀ s) : Keeps c₀ s₀ u := by
  unfold State.lockPass at e
  dsimp only at e
  repeat' split at e
  all_goals first
    | (simp only [Option.some.injEq, Prod.mk.injEq] at e; obtain ⟨rfl, _⟩ := e; first | exact h | exact State.setRrv_keeps _ _ _ (State.modTag_keeps _ _ _ h))
    | (simp only [Option.map_eq_some_iff, Prod.mk.injEq] at e; obtain ⟨v, h1, rfl, _⟩ := e
       first | exact State.reserve_keeps h1 h | exact State.reserve_keeps h1 (State.takeVictim_keeps _ _ _ _ _ _ _ (State.bump_keeps _ h)))
    | cases e

theorem State.ncLatchEdge_keeps {c₀ : Bool} {s₀ s : State} (n : Nat)  (h : Keeps c₀ s₀ s) : Keeps c₀ s₀ (State.ncLatchEdge s n) := by
  unfold State.ncLatchEdge
  repeat' first
    | with_reducible assumption
    | with_reducible apply State.modHome_keeps
    | split
    | dsimp only

theorem State.doNcAudit_keeps {c₀ : Bool} {s₀ s : State} (n : Nat)  (h : Keeps c₀ s₀ s) : Keeps c₀ s₀ (State.doNcAudit s n) := by
  unfold State.doNcAudit
  repeat' first
    | with_reducible assumption
    | with_reducible apply State.ncLatchEdge_keeps
    | with_reducible apply State.modHome_keeps
    | dsimp only

theorem execHomNcAudit_keeps {c₀ : Bool} {s₀ s : State} (n : Nat) (h : Keeps c₀ s₀ s) : ∃ t₁, execHomNcAudit n s = .next t₁ ∧ Keeps c₀ s₀ t₁ := by
  refine ⟨_, rfl, ?_⟩
  repeat' first
    | with_reducible assumption
    | with_reducible apply State.unitCmd_keeps
    | with_reducible apply State.doNcAudit_keeps
    | intro _
    | dsimp only

theorem execFlush_keeps {c₀ : Bool} {s₀ s : State} (n : Nat) (q : Nat) (h : Keeps c₀ s₀ s) : ∃ t₁, execFlush n q s = .next t₁ ∧ Keeps c₀ s₀ t₁ := by
  refine ⟨_, rfl, ?_⟩
  repeat' first
    | with_reducible assumption
    | with_reducible apply State.unitCmd_keeps
    | with_reducible apply State.logAcc_keeps
    | with_reducible apply State.doFlush_keeps
    | intro _
    | split
    | dsimp only

theorem execPredClrDone_keeps {c₀ : Bool} {s₀ s : State} (n : Nat) (h : Keeps c₀ s₀ s) : ∃ t₁, execPredClrDone n s = .next t₁ ∧ Keeps c₀ s₀ t₁ := by
  refine ⟨_, rfl, ?_⟩
  repeat' first
    | with_reducible assumption
    | with_reducible apply State.modSlice_keeps
    | split
    | dsimp only

theorem execSlcAuditEnd_keeps {c₀ : Bool} {s₀ s : State} (n : Nat) (h : Keeps c₀ s₀ s) : ∃ t₁, execSlcAuditEnd n s = .next t₁ ∧ Keeps c₀ s₀ t₁ := by
  refine ⟨_, rfl, ?_⟩
  repeat' first
    | with_reducible assumption
    | with_reducible apply State.modSlice_keeps
    | with_reducible apply State.rep_keeps
    | with_reducible apply State.irq_keeps
    | split
    | dsimp only

theorem State.doQrel_keeps {c₀ : Bool} {s₀ s : State} (n : Nat)  (h : Keeps c₀ s₀ s) : Keeps c₀ s₀ (State.doQrel s n) := by
  unfold State.doQrel
  repeat' first
    | with_reducible assumption
    | with_reducible apply State.modSlice_keeps
    | split
    | dsimp only

theorem execQrel_keeps {c₀ : Bool} {s₀ s : State} (n : Nat) (h : Keeps c₀ s₀ s) : ∃ t₁, execQrel n s = .next t₁ ∧ Keeps c₀ s₀ t₁ := by
  refine ⟨_, rfl, ?_⟩
  repeat' first
    | with_reducible assumption
    | with_reducible apply State.unitCmd_keeps
    | with_reducible apply State.doQrel_keeps
    | intro _
    | dsimp only

theorem execUnlock_keeps {c₀ : Bool} {s₀ s : State} (ten : Nat) (h : Keeps c₀ s₀ s) : ∃ t₁, execUnlock ten s = .next t₁ ∧ Keeps c₀ s₀ t₁ := by
  refine ⟨_, rfl, ?_⟩
  repeat' first
    | with_reducible assumption
    | with_reducible apply State.startLock_keeps
    | dsimp only

theorem State.auditEdge_keeps {c₀ : Bool} {s₀ s : State}   (h : Keeps c₀ s₀ s) : Keeps c₀ s₀ (State.auditEdge s) := by
  unfold State.auditEdge
  repeat' first
    | with_reducible assumption
    | with_reducible apply State.slcLatch_keeps
    | with_reducible apply State.ncLatchEdge_keeps
    | with_reducible apply State.rtrLatch_keeps
    | with_reducible apply State.gateLatch_keeps
    | with_reducible refine Keeps.foldl ?_ ?_
    | with_reducible refine Keeps.foldl1 ?_ ?_
    | intro _
    | split
    | dsimp only

theorem execRtrAudit_keeps {c₀ : Bool} {s₀ s : State} (n : Nat) (h : Keeps c₀ s₀ s) : ∃ t₁, execRtrAudit n s = .next t₁ ∧ Keeps c₀ s₀ t₁ := by
  refine ⟨_, rfl, ?_⟩
  repeat' first
    | with_reducible assumption
    | with_reducible apply State.unitCmd_keeps
    | with_reducible apply State.doRtrAudit_keeps
    | intro _
    | dsimp only

theorem execHomNcAuditEnd_keeps {c₀ : Bool} {s₀ s : State} (n : Nat) (h : Keeps c₀ s₀ s) : ∃ t₁, execHomNcAuditEnd n s = .next t₁ ∧ Keeps c₀ s₀ t₁ := by
  refine ⟨_, rfl, ?_⟩
  repeat' first
    | with_reducible assumption
    | with_reducible apply State.modHome_keeps
    | with_reducible apply State.winHit_keeps
    | with_reducible apply State.raise_keeps
    | with_reducible apply State.fence_keeps
    | with_reducible apply State.irq_keeps
    | split
    | with_reducible refine Keeps.pair (by assumption) ?_
    | dsimp only

theorem State.unlockPass_keeps {c₀ : Bool} {s₀ s : State} (a : At) (t : Nat)  (h : Keeps c₀ s₀ s) : Keeps c₀ s₀ (State.unlockPass s a t) := by
  unfold State.unlockPass
  repeat' first
    | with_reducible assumption
    | with_reducible apply State.setRrv_keeps
    | with_reducible apply State.modTag_keeps
    | split
    | dsimp only

theorem execFlushDone_keeps {c₀ : Bool} {s₀ s : State} (n : Nat) (q : Nat) (h : Keeps c₀ s₀ s) : ∃ t₁, execFlushDone n q s = .next t₁ ∧ Keeps c₀ s₀ t₁ := by
  refine ⟨_, rfl, ?_⟩
  repeat' first
    | with_reducible assumption
    | with_reducible apply State.modPool_keeps
    | split
    | dsimp only

theorem State.passDone_keeps {c₀ : Bool} {s₀ s : State} (n : Nat) (failed : Bool)  (h : Keeps c₀ s₀ s) : Keeps c₀ s₀ (State.passDone s n failed) := by
  unfold State.passDone
  repeat' first
    | with_reducible assumption
    | with_reducible apply State.bump_keeps
    | with_reducible apply State.lockOver_keeps
    | split
    | dsimp only
    | with_reducible refine Keeps.of ?_ rfl rfl rfl rfl rfl rfl rfl rfl rfl rfl rfl rfl rfl rfl rfl rfl rfl rfl

theorem execUnlockPass_keeps {c₀ : Bool} {s₀ s : State} (p : PassAt) (line : LineAddr) (ten : Nat) (h : Keeps c₀ s₀ s) : ∃ t₁, execUnlockPass p line ten s = .next t₁ ∧ Keeps c₀ s₀ t₁ := by
  refine ⟨_, rfl, ?_⟩
  repeat' first
    | with_reducible assumption
    | with_reducible apply State.passFaults_keeps
    | with_reducible apply State.passDone_keeps
    | with_reducible apply State.unlockPass_keeps
    | split
    | with_reducible refine Keeps.pair (by assumption) ?_
    | dsimp only

theorem execSlcAudit_keeps {c₀ : Bool} {s₀ s : State} (n : Nat) (h : Keeps c₀ s₀ s) : ∃ t₁, execSlcAudit n s = .next t₁ ∧ Keeps c₀ s₀ t₁ := by
  refine ⟨_, rfl, ?_⟩
  repeat' first
    | with_reducible assumption
    | with_reducible apply State.unitCmd_keeps
    | with_reducible apply State.doSlcAudit_keeps
    | intro _
    | dsimp only

theorem execLockPass_keeps {c₀ : Bool} {s₀ s : State} (p : PassAt) (line : LineAddr) (ten : Nat) (h : Keeps c₀ s₀ s) : ∃ t₁, execLockPass p line ten s = .next t₁ ∧ Keeps c₀ s₀ t₁ := by
  refine ⟨_, rfl, ?_⟩
  repeat' first
    | with_reducible assumption
    | with_reducible apply State.passFaults_keeps
    | with_reducible apply State.passDone_keeps
    | with_reducible refine State.lockPass_keeps (by assumption) ?_
    | split
    | with_reducible refine Keeps.pair (by assumption) ?_
    | dsimp only
    | with_reducible refine Keeps.of ?_ rfl rfl rfl rfl rfl rfl rfl rfl rfl rfl rfl rfl rfl rfl rfl rfl rfl rfl

theorem State.doPredClr_keeps {c₀ : Bool} {s₀ s : State} (n : Nat)  (h : Keeps c₀ s₀ s) : Keeps c₀ s₀ (State.doPredClr s n) := by
  unfold State.doPredClr
  repeat' first
    | with_reducible assumption
    | with_reducible apply State.modSlice_keeps
    | dsimp only

theorem execPredClr_keeps {c₀ : Bool} {s₀ s : State} (n : Nat) (h : Keeps c₀ s₀ s) : ∃ t₁, execPredClr n s = .next t₁ ∧ Keeps c₀ s₀ t₁ := by
  refine ⟨_, rfl, ?_⟩
  repeat' first
    | with_reducible assumption
    | with_reducible apply State.unitCmd_keeps
    | with_reducible apply State.doPredClr_keeps
    | intro _
    | dsimp only

theorem execLstest_keeps {c₀ : Bool} {s₀ s : State} (n : Nat) (squashed : Bool) (h : Keeps c₀ s₀ s) : ∃ t₁, execLstest n squashed s = .next t₁ ∧ Keeps c₀ s₀ t₁ := by
  refine ⟨_, rfl, ?_⟩
  repeat' first
    | with_reducible assumption
    | with_reducible apply State.unitCmd_keeps
    | with_reducible apply State.doLstest_keeps
    | intro _
    | dsimp only

theorem execGateAudit_keeps {c₀ : Bool} {s₀ s : State} (g : Nat) (h : Keeps c₀ s₀ s) : ∃ t₁, execGateAudit g s = .next t₁ ∧ Keeps c₀ s₀ t₁ := by
  refine ⟨_, rfl, ?_⟩
  repeat' first
    | with_reducible assumption
    | with_reducible apply State.gateCmd_keeps
    | with_reducible apply State.doGateAudit_keeps
    | intro _
    | dsimp only

end Sys2Proof.Machine
end

