-- ==== Sys2Proof/Laws/Keep/Start.lean ====
section
/-! SUPPORT. What the operations of Machine.Start keep. -/

namespace Sys2Proof.Machine

open Sys2Proof

set_option linter.unreachableTactic false
set_option linter.unusedTactic false
set_option linter.unusedVariables false
set_option Elab.async false

theorem State.slotFailed_keeps {c₀ : Bool} {s₀ s : State} (k : SlotName) (trial : Bool)  (h : Keeps c₀ s₀ s) : Keeps c₀ s₀ (State.slotFailed s k trial) := by
  unfold State.slotFailed
  repeat' first
    | with_reducible assumption
    | with_reducible apply State.setSlot_keeps
    | split
    | dsimp only
    | with_reducible refine Keeps.of ?_ rfl rfl rfl rfl rfl rfl rfl rfl rfl rfl rfl rfl rfl rfl rfl rfl rfl rfl

theorem State.logFences_keeps {c₀ : Bool} {s₀ s : State}   (h : Keeps c₀ s₀ s) : Keeps c₀ s₀ (State.logFences s) := by
  unfold State.logFences
  repeat' first
    | with_reducible assumption
    | with_reducible apply State.peat_keeps
    | with_reducible refine Keeps.foldl ?_ ?_
    | with_reducible refine Keeps.foldl1 ?_ ?_
    | intro _
    | split
    | dsimp only

theorem State.takeNext_keeps {c₀ : Bool} {s₀ s : State} (fw : Bool)  (h : Keeps c₀ s₀ s) : Keeps c₀ s₀ (State.takeNext s fw) := by
  unfold State.takeNext
  repeat' first
    | with_reducible assumption
    | split
    | dsimp only
    | with_reducible refine Keeps.of ?_ rfl rfl rfl rfl rfl rfl rfl rfl rfl rfl rfl rfl rfl rfl rfl rfl rfl rfl

theorem State.cmdst_keeps {c₀ : Bool} {s₀ s : State} (k : Nat)  (h : Keeps c₀ s₀ s) : Keeps c₀ s₀ (State.cmdst s k) := by
  unfold State.cmdst
  repeat' first
    | with_reducible assumption
    | dsimp only
    | with_reducible refine Keeps.of ?_ rfl rfl rfl rfl rfl rfl rfl rfl rfl rfl rfl rfl rfl rfl rfl rfl rfl rfl

theorem State.doDrain_keeps {c₀ : Bool} {s₀ s : State}   (h : Keeps c₀ s₀ s) : Keeps c₀ s₀ (State.doDrain s) := by
  unfold State.doDrain
  repeat' first
    | with_reducible assumption
    | with_reducible apply State.revokeAll_keeps
    | with_reducible apply State.cmdst_keeps
    | with_reducible apply State.setMode_keeps
    | split
    | dsimp only
    | with_reducible refine Keeps.of ?_ rfl rfl rfl rfl rfl rfl rfl rfl rfl rfl rfl rfl rfl rfl rfl rfl rfl rfl

theorem execDrain_keeps {c₀ : Bool} {s₀ s : State}  (h : Keeps c₀ s₀ s) : ∃ t₁, execDrain s = .next t₁ ∧ Keeps c₀ s₀ t₁ := by
  refine ⟨_, rfl, ?_⟩
  repeat' first
    | with_reducible assumption
    | with_reducible apply State.doDrain_keeps
    | dsimp only

theorem State.beginStart_keeps {c₀ : Bool} {s₀ s : State} (x : StartIn)  (h : Keeps c₀ s₀ s) : Keeps c₀ s₀ (State.beginStart s x) := by
  unfold State.beginStart
  repeat' first
    | with_reducible assumption
    | with_reducible apply State.bump_keeps
    | with_reducible apply State.setMode_keeps
    | with_reducible apply State.peat_keeps
    | split
    | dsimp only
    | with_reducible refine Keeps.of ?_ rfl rfl rfl rfl rfl rfl rfl rfl rfl rfl rfl rfl rfl rfl rfl rfl rfl rfl

theorem State.relock_keeps {c₀ : Bool} {s₀ s : State}   (h : Keeps c₀ s₀ s) : Keeps c₀ s₀ (State.relock s) := by
  unfold State.relock
  repeat' first
    | with_reducible assumption
    | split
    | dsimp only
    | with_reducible refine Keeps.of ?_ rfl rfl rfl rfl rfl rfl rfl rfl rfl rfl rfl rfl rfl rfl rfl rfl rfl rfl

theorem State.doResume_keeps {c₀ : Bool} {s₀ s : State}   (h : Keeps c₀ s₀ s) : Keeps c₀ s₀ (State.doResume s) := by
  unfold State.doResume
  repeat' first
    | with_reducible assumption
    | with_reducible apply State.cmdst_keeps
    | with_reducible apply State.setMode_keeps
    | split
    | dsimp only

theorem State.markTried_keeps {c₀ : Bool} {s₀ s : State} (trial : Bool)  (h : Keeps c₀ s₀ s) : Keeps c₀ s₀ (State.markTried s trial) := by
  unfold State.markTried
  repeat' first
    | with_reducible assumption
    | split
    | dsimp only
    | with_reducible refine Keeps.of ?_ rfl rfl rfl rfl rfl rfl rfl rfl rfl rfl rfl rfl rfl rfl rfl rfl rfl rfl

theorem State.pairEntry_keeps {c₀ : Bool} {s₀ s : State} (v : Nat)  (h : Keeps c₀ s₀ s) : Keeps c₀ s₀ (State.pairEntry s v) := by
  unfold State.pairEntry
  repeat' first
    | with_reducible assumption
    | with_reducible apply State.bump_keeps
    | with_reducible apply State.peat_keeps
    | dsimp only

theorem State.knowGood_keeps {c₀ : Bool} {s₀ s : State}   (h : Keeps c₀ s₀ s) : Keeps c₀ s₀ (State.knowGood s) := by
  unfold State.knowGood
  repeat' first
    | with_reducible assumption
    | with_reducible apply State.pairEntry_keeps
    | split
    | dsimp only
    | with_reducible refine Keeps.of ?_ rfl rfl rfl rfl rfl rfl rfl rfl rfl rfl rfl rfl rfl rfl rfl rfl rfl rfl

theorem execKnownGood_keeps {c₀ : Bool} {s₀ s : State}  (h : Keeps c₀ s₀ s) : ∃ t₁, execKnownGood s = .next t₁ ∧ Keeps c₀ s₀ t₁ := by
  refine ⟨_, rfl, ?_⟩
  repeat' first
    | with_reducible assumption
    | with_reducible apply State.knowGood_keeps
    | split
    | dsimp only

theorem State.stepRec_keeps {c₀ : Bool} {s₀ s : State} (x : StartIn) (code : Nat) (o : StepOutcome) (reason : Nat) (slot : Nat) (detail : Nat)  (h : Keeps c₀ s₀ s) : Keeps c₀ s₀ (State.stepRec s x code o reason slot detail) := by
  unfold State.stepRec
  repeat' first
    | with_reducible assumption
    | with_reducible apply State.bump_keeps
    | with_reducible apply State.peat_keeps
    | split
    | dsimp only
    | with_reducible refine Keeps.of ?_ rfl rfl rfl rfl rfl rfl rfl rfl rfl rfl rfl rfl rfl rfl rfl rfl rfl rfl

theorem execResume_keeps {c₀ : Bool} {s₀ s : State}  (h : Keeps c₀ s₀ s) : ∃ t₁, execResume s = .next t₁ ∧ Keeps c₀ s₀ t₁ := by
  refine ⟨_, rfl, ?_⟩
  repeat' first
    | with_reducible assumption
    | with_reducible apply State.doResume_keeps
    | dsimp only

theorem State.doPairGood_keeps {c₀ : Bool} {s₀ s : State}   (h : Keeps c₀ s₀ s) : Keeps c₀ s₀ (State.doPairGood s) := by
  unfold State.doPairGood
  repeat' first
    | with_reducible assumption
    | with_reducible apply State.cmdst_keeps
    | with_reducible apply State.knowGood_keeps
    | split
    | dsimp only

theorem execPairGood_keeps {c₀ : Bool} {s₀ s : State}  (h : Keeps c₀ s₀ s) : ∃ t₁, execPairGood s = .next t₁ ∧ Keeps c₀ s₀ t₁ := by
  refine ⟨_, rfl, ?_⟩
  repeat' first
    | with_reducible assumption
    | with_reducible apply State.doPairGood_keeps
    | dsimp only

theorem applyRepair_keeps {c₀ : Bool} {s₀ s : State} (runtime : Bool) (r : Nat × Bool × Nat × Nat × Nat)  (h : Keeps c₀ s₀ s) : Keeps c₀ s₀ (applyRepair runtime r s) := by
  unfold applyRepair
  repeat' first
    | with_reducible assumption
    | with_reducible apply State.modSlice_keeps
    | dsimp only

theorem State.runRepair_keeps {c₀ : Bool} {s₀ s : State} (x : StartIn)  (h : Keeps c₀ s₀ s) : Keeps c₀ s₀ (State.runRepair s x) := by
  unfold State.runRepair
  repeat' first
    | with_reducible assumption
    | with_reducible apply State.fence_keeps
    | with_reducible apply applyRepair_keeps
    | with_reducible apply State.stepRec_keeps
    | with_reducible refine Keeps.foldl ?_ ?_
    | with_reducible refine Keeps.foldl1 ?_ ?_
    | intro _
    | split
    | dsimp only
    | with_reducible refine Keeps.of ?_ rfl rfl rfl rfl rfl rfl rfl rfl rfl rfl rfl rfl rfl rfl rfl rfl rfl rfl

theorem State.runClear_keeps {c₀ : Bool} {s₀ s : State} (x : StartIn)  (h : Keeps c₀ s₀ s) : Keeps c₀ s₀ (State.runClear s x) := by
  unfold State.runClear
  repeat' first
    | with_reducible assumption
    | with_reducible apply State.modSlice_keeps
    | with_reducible apply State.fence_keeps
    | with_reducible apply State.stepRec_keeps
    | with_reducible refine Keeps.foldl ?_ ?_
    | with_reducible refine Keeps.foldl1 ?_ ?_
    | intro _
    | split
    | dsimp only

theorem State.noteStop_keeps {c₀ : Bool} {s₀ s : State} (why : StopWhy)  (h : Keeps c₀ s₀ s) : Keeps c₀ s₀ (State.noteStop s why) := by
  unfold State.noteStop
  repeat' first
    | with_reducible assumption
    | split
    | dsimp only
    | with_reducible refine Keeps.of ?_ rfl rfl rfl rfl rfl rfl rfl rfl rfl rfl rfl rfl rfl rfl rfl rfl rfl rfl

theorem State.runCheck_keeps {c₀ : Bool} {s₀ s : State} (x : StartIn)  (h : Keeps c₀ s₀ s) : Keeps c₀ s₀ (State.runCheck s x) := by
  unfold State.runCheck
  repeat' first
    | with_reducible assumption
    | with_reducible apply State.fence_keeps
    | with_reducible apply State.noteStop_keeps
    | with_reducible apply State.stepRec_keeps
    | with_reducible refine Keeps.foldl ?_ ?_
    | with_reducible refine Keeps.foldl1 ?_ ?_
    | intro _
    | split
    | dsimp only

theorem State.runFuse_keeps {c₀ : Bool} {s₀ s : State} (x : StartIn)  (h : Keeps c₀ s₀ s) : Keeps c₀ s₀ (State.runFuse s x) := by
  unfold State.runFuse
  repeat' first
    | with_reducible assumption
    | with_reducible apply applyRepair_keeps
    | with_reducible apply State.stepRec_keeps
    | with_reducible apply State.noteStop_keeps
    | with_reducible refine Keeps.foldl ?_ ?_
    | with_reducible refine Keeps.foldl1 ?_ ?_
    | intro _
    | split
    | dsimp only

theorem State.newNonce_keeps {c₀ : Bool} {s₀ s : State}   (h : Keeps c₀ s₀ s) : Keeps c₀ s₀ (State.newNonce s) := by
  unfold State.newNonce
  repeat' first
    | with_reducible assumption
    | with_reducible apply State.drawn_keeps
    | dsimp only
    | with_reducible refine Keeps.of ?_ rfl rfl rfl rfl rfl rfl rfl rfl rfl rfl rfl rfl rfl rfl rfl rfl rfl rfl

theorem State.runFirm_keeps {c₀ : Bool} {s₀ s : State} (x : StartIn)  (h : Keeps c₀ s₀ s) : Keeps c₀ s₀ (State.runFirm s x).1 := by
  unfold State.runFirm
  repeat' first
    | with_reducible assumption
    | with_reducible apply State.stepRec_keeps
    | with_reducible apply State.takeNext_keeps
    | with_reducible apply State.logFences_keeps
    | with_reducible apply State.newNonce_keeps
    | split
    | dsimp only
    | with_reducible refine Keeps.of ?_ rfl rfl rfl rfl rfl rfl rfl rfl rfl rfl rfl rfl rfl rfl rfl rfl rfl rfl

theorem State.stopBare_keeps {c₀ : Bool} {s₀ s : State} (x : StartIn) (why : StopWhy) (at_ : Nat) (frm : Nat)  (h : Keeps c₀ s₀ s) : Keeps c₀ s₀ (State.stopBare s x why at_ frm) := by
  unfold State.stopBare
  repeat' first
    | with_reducible assumption
    | with_reducible apply State.stepRec_keeps
    | with_reducible apply State.setMode_keeps
    | with_reducible refine Keeps.foldl ?_ ?_
    | with_reducible refine Keeps.foldl1 ?_ ?_
    | intro _
    | split
    | dsimp only
    | with_reducible refine Keeps.of ?_ rfl rfl rfl rfl rfl rfl rfl rfl rfl rfl rfl rfl rfl rfl rfl rfl rfl rfl

theorem State.runMicro_keeps {c₀ : Bool} {s₀ s : State} (x : StartIn)  (h : Keeps c₀ s₀ s) : Keeps c₀ s₀ (State.runMicro s x) := by
  unfold State.runMicro
  repeat' first
    | with_reducible assumption
    | with_reducible apply State.stepRec_keeps
    | with_reducible apply State.noteStop_keeps
    | with_reducible apply State.takeNext_keeps
    | with_reducible apply State.pairEntry_keeps
    | split
    | dsimp only
    | with_reducible refine Keeps.of ?_ rfl rfl rfl rfl rfl rfl rfl rfl rfl rfl rfl rfl rfl rfl rfl rfl rfl rfl

theorem State.tryImages_keeps {c₀ : Bool} {s₀ s : State} (ks : List SlotName) (st : ImgStatus) (h : Keeps c₀ s₀ s) : Keeps c₀ s₀ (s.tryImages ks st).1 := by
  induction ks generalizing s st with
  | nil => exact h
  | cons k t ih =>
    unfold State.tryImages
    dsimp only
    split
    · exact State.loadImage_keeps _ _ (State.markTried_keeps _ h)
    · exact ih _ (State.slotFailed_keeps _ _ (State.markTried_keeps _ h))

theorem State.linkPort_keeps {c₀ : Bool} {s₀ s : State} (f : Found)  (h : Keeps c₀ s₀ s) : Keeps c₀ s₀ (State.linkPort s f) := by
  unfold State.linkPort
  repeat' first
    | with_reducible assumption
    | with_reducible apply State.modPort_keeps
    | with_reducible apply State.toFind_keeps
    | split
    | dsimp only

theorem State.findPort_keeps {c₀ : Bool} {s₀ s : State} (f : Found)  (h : Keeps c₀ s₀ s) : Keeps c₀ s₀ (State.findPort s f) := by
  unfold State.findPort
  repeat' first
    | with_reducible assumption
    | with_reducible apply State.discIdIn_keeps
    | with_reducible apply State.discCfgIn_keeps
    | with_reducible apply State.discFinish_keeps
    | with_reducible apply State.drawn_keeps
    | with_reducible apply State.modPort_keeps
    | with_reducible apply State.reject_keeps
    | split
    | dsimp only

theorem State.findTime_keeps {c₀ : Bool} {s₀ s : State} (d : Nat) (D : ImgDomain)  (h : Keeps c₀ s₀ s) : Keeps c₀ s₀ (State.findTime s d D) := by
  unfold State.findTime
  repeat' first
    | with_reducible assumption
    | with_reducible apply State.modDom_keeps
    | split
    | dsimp only

theorem State.runServe_keeps {c₀ : Bool} {s₀ s : State} (x : StartIn)  (h : Keeps c₀ s₀ s) : Keeps c₀ s₀ (State.runServe s x) := by
  unfold State.runServe
  repeat' first
    | with_reducible assumption
    | with_reducible apply State.modDom_keeps
    | with_reducible apply State.drawn_keeps
    | with_reducible apply State.modGate_keeps
    | with_reducible apply State.fence_keeps
    | with_reducible apply State.stepRec_keeps
    | with_reducible apply State.setMode_keeps
    | with_reducible refine Keeps.foldl ?_ ?_
    | with_reducible refine Keeps.foldl1 ?_ ?_
    | intro _
    | split
    | dsimp only

theorem State.runLink_keeps {c₀ : Bool} {s₀ s : State} (x : StartIn)  (h : Keeps c₀ s₀ s) : Keeps c₀ s₀ (State.runLink s x) := by
  unfold State.runLink
  repeat' first
    | with_reducible assumption
    | with_reducible apply State.linkPort_keeps
    | with_reducible apply State.stepRec_keeps
    | with_reducible apply State.findPort_keeps
    | with_reducible apply State.findTime_keeps
    | with_reducible apply State.runServe_keeps
    | with_reducible refine Keeps.foldl ?_ ?_
    | with_reducible refine Keeps.foldl1 ?_ ?_
    | intro _
    | split
    | dsimp only

theorem State.runImage_keeps {c₀ : Bool} {s₀ s : State} (x : StartIn)  (h : Keeps c₀ s₀ s) : Keeps c₀ s₀ (State.runImage s x) := by
  unfold State.runImage
  repeat' first
    | with_reducible assumption
    | with_reducible apply State.tryImages_keeps
    | with_reducible apply State.runLink_keeps
    | with_reducible apply State.stepRec_keeps
    | with_reducible apply State.stopBare_keeps
    | split
    | with_reducible refine Keeps.pair (by assumption) ?_
    | dsimp only
    | with_reducible refine Keeps.of ?_ rfl rfl rfl rfl rfl rfl rfl rfl rfl rfl rfl rfl rfl rfl rfl rfl rfl rfl

theorem State.runOn_keeps {c₀ : Bool} {s₀ s : State} (x : StartIn)  (h : Keeps c₀ s₀ s) : Keeps c₀ s₀ (State.runOn s x) := by
  unfold State.runOn
  repeat' first
    | with_reducible assumption
    | with_reducible apply State.runRepair_keeps
    | with_reducible apply State.runClear_keeps
    | with_reducible apply State.runCheck_keeps
    | with_reducible apply State.runFuse_keeps
    | with_reducible apply State.runFirm_keeps
    | with_reducible apply State.stopBare_keeps
    | with_reducible apply State.runMicro_keeps
    | with_reducible apply State.runImage_keeps
    | split
    | with_reducible refine Keeps.pair (by assumption) ?_
    | dsimp only

theorem State.runSupply_keeps {c₀ : Bool} {s₀ s : State} (x : StartIn)  (h : Keeps c₀ s₀ s) : Keeps c₀ s₀ (State.runSupply s x) := by
  unfold State.runSupply
  repeat' first
    | with_reducible assumption
    | with_reducible apply State.runOn_keeps
    | with_reducible apply State.stepRec_keeps
    | with_reducible apply State.faultPin_keeps
    | split
    | dsimp only
    | with_reducible refine Keeps.of ?_ rfl rfl rfl rfl rfl rfl rfl rfl rfl rfl rfl rfl rfl rfl rfl rfl rfl rfl

theorem execSupplyRetry_keeps {c₀ : Bool} {s₀ s : State} (x : StartIn) (h : Keeps c₀ s₀ s) : ∃ t₁, execSupplyRetry x s = .next t₁ ∧ Keeps c₀ s₀ t₁ := by
  refine ⟨_, rfl, ?_⟩
  repeat' first
    | with_reducible assumption
    | with_reducible apply State.runSupply_keeps
    | split
    | dsimp only

theorem execStart_keeps {c₀ : Bool} {s₀ s : State} (x : StartIn) (h : Keeps c₀ s₀ s) : ∃ t₁, execStart x s = .next t₁ ∧ Keeps c₀ s₀ t₁ := by
  refine ⟨_, rfl, ?_⟩
  repeat' first
    | with_reducible assumption
    | with_reducible apply State.runSupply_keeps
    | with_reducible apply State.beginStart_keeps
    | split
    | dsimp only

theorem State.doMaint_keeps {c₀ : Bool} {s₀ s : State}   (h : Keeps c₀ s₀ s) : Keeps c₀ s₀ (State.doMaint s) := by
  unfold State.doMaint
  repeat' first
    | with_reducible assumption
    | with_reducible apply State.cmdst_keeps
    | with_reducible apply State.standbyIn_keeps
    | with_reducible apply State.relock_keeps
    | with_reducible apply State.setMode_keeps
    | split
    | dsimp only

theorem State.doFenceForget_keeps {c₀ : Bool} {s₀ s : State}   (h : Keeps c₀ s₀ s) : Keeps c₀ s₀ (State.doFenceForget s) := by
  unfold State.doFenceForget
  repeat' first
    | with_reducible assumption
    | with_reducible apply State.cmdst_keeps
    | with_reducible apply State.peat_keeps
    | split
    | dsimp only

theorem State.doForcePair_keeps {c₀ : Bool} {s₀ s : State} (x : StartIn)  (h : Keeps c₀ s₀ s) : Keeps c₀ s₀ (State.doForcePair s x) := by
  unfold State.doForcePair
  repeat' first
    | with_reducible assumption
    | with_reducible apply State.cmdst_keeps
    | with_reducible apply State.pairEntry_keeps
    | with_reducible apply State.runImage_keeps
    | with_reducible apply State.setMode_keeps
    | split
    | dsimp only
    | with_reducible refine Keeps.of ?_ rfl rfl rfl rfl rfl rfl rfl rfl rfl rfl rfl rfl rfl rfl rfl rfl rfl rfl

theorem execForcePair_keeps {c₀ : Bool} {s₀ s : State} (x : StartIn) (h : Keeps c₀ s₀ s) : ∃ t₁, execForcePair x s = .next t₁ ∧ Keeps c₀ s₀ t₁ := by
  refine ⟨_, rfl, ?_⟩
  repeat' first
    | with_reducible assumption
    | with_reducible apply State.doForcePair_keeps
    | dsimp only

theorem execFenceForget_keeps {c₀ : Bool} {s₀ s : State}  (h : Keeps c₀ s₀ s) : ∃ t₁, execFenceForget s = .next t₁ ∧ Keeps c₀ s₀ t₁ := by
  refine ⟨_, rfl, ?_⟩
  repeat' first
    | with_reducible assumption
    | with_reducible apply State.doFenceForget_keeps
    | dsimp only

theorem execMaint_keeps {c₀ : Bool} {s₀ s : State}  (h : Keeps c₀ s₀ s) : ∃ t₁, execMaint s = .next t₁ ∧ Keeps c₀ s₀ t₁ := by
  refine ⟨_, rfl, ?_⟩
  repeat' first
    | with_reducible assumption
    | with_reducible apply State.doMaint_keeps
    | dsimp only

end Sys2Proof.Machine
end

