-- ==== Sys2Proof/Laws/Keep/Images.lean ====
section
/-! SUPPORT. What the operations of Machine.Images keep. -/

namespace Sys2Proof.Machine

open Sys2Proof

set_option linter.unreachableTactic false
set_option linter.unusedTactic false
set_option linter.unusedVariables false
set_option Elab.async false

theorem State.imgEnd_keeps {c₀ : Bool} {s₀ s : State} (st : ImgStatus) (sect : Nat) (off : Nat)  (h : Keeps c₀ s₀ s) : Keeps c₀ s₀ (State.imgEnd s st sect off) := by
  unfold State.imgEnd
  repeat' first
    | with_reducible assumption
    | with_reducible apply State.irq_keeps
    | with_reducible apply State.bump_keeps
    | dsimp only
    | with_reducible refine Keeps.of ?_ rfl rfl rfl rfl rfl rfl rfl rfl rfl rfl rfl rfl rfl rfl rfl rfl rfl rfl

theorem State.imgStart_keeps {c₀ : Bool} {s₀ s : State} (op : Nat) (b : Bool) {f : State → State} (hf : ∀ s, Keeps c₀ s₀ s → Keeps c₀ s₀ (f s)) (h : Keeps c₀ s₀ s) : Keeps c₀ s₀ (State.imgStart s op b f) := by
  unfold State.imgStart
  repeat' first
    | with_reducible assumption
    | with_reducible apply hf
    | with_reducible apply State.bump_keeps
    | with_reducible apply State.imgEnd_keeps
    | intro _
    | split
    | dsimp only
    | with_reducible refine Keeps.of ?_ rfl rfl rfl rfl rfl rfl rfl rfl rfl rfl rfl rfl rfl rfl rfl rfl rfl rfl

theorem State.imgCmd_keeps {c₀ : Bool} {s₀ s : State} (op : Nat) (b : Bool) {f : State → State} (hf : ∀ s, Keeps c₀ s₀ s → Keeps c₀ s₀ (f s)) (h : Keeps c₀ s₀ s) : Keeps c₀ s₀ (State.imgCmd s op b f) := by
  unfold State.imgCmd
  repeat' first
    | with_reducible assumption
    | with_reducible apply hf
    | with_reducible apply State.logAcc_keeps
    | with_reducible apply State.imgStart_keeps
    | intro _
    | split
    | dsimp only

theorem State.imgConfirm_keeps {s₀ s : State} (h : Keeps true s₀ s) : Keeps true s₀ s.imgConfirm := by
  obtain ⟨h1, h2, h3, _, h5, h6, h7, h8, h9, h10, h11, h12, h13, h14, h15, h16, h17, h18, h19⟩ := h
  unfold State.imgConfirm
  exact State.imgEnd_keeps _ _ _ (State.bump_keeps _ ⟨h1, h2, h3, nofun, h5, h6, h7, h8, h9, h10, h11, h12, h13, h14, h15, h16, h17, h18, h19⟩)

theorem execImgConfirm_keeps {s₀ s : State}  (h : Keeps true s₀ s) : ∃ t₁, execImgConfirm s = .next t₁ ∧ Keeps true s₀ t₁ := by
  refine ⟨_, rfl, ?_⟩
  repeat' first
    | with_reducible assumption
    | with_reducible apply State.imgCmd_keeps
    | with_reducible apply State.imgConfirm_keeps
    | intro _
    | dsimp only

theorem State.returnLine_keeps {c₀ : Bool} {s₀ s : State} (d : Nat) (D : ImgDomain) (l : LineAddr) (x : LineData)  (h : Keeps c₀ s₀ s) : Keeps c₀ s₀ (State.returnLine s d D l x) := by
  unfold State.returnLine
  repeat' first
    | with_reducible assumption
    | with_reducible apply State.writeLine_keeps
    | with_reducible apply State.wbDiscard_keeps
    | with_reducible apply State.sendHome_keeps
    | split
    | dsimp only

theorem State.imgBad_keeps {c₀ : Bool} {s₀ s : State} (e : ImgBad)  (h : Keeps c₀ s₀ s) : Keeps c₀ s₀ (State.imgBad s e) := by
  unfold State.imgBad
  repeat' first
    | with_reducible assumption
    | with_reducible apply State.imgEnd_keeps
    | dsimp only

theorem State.imgLog_keeps {c₀ : Bool} {s₀ s : State} (op : Nat) (k : SlotName) (st : ImgStatus) (seq : Nat)  (h : Keeps c₀ s₀ s) : Keeps c₀ s₀ (State.imgLog s op k st seq) := by
  unfold State.imgLog
  repeat' first
    | with_reducible assumption
    | with_reducible apply State.peat_keeps
    | dsimp only

theorem State.imgVerify_keeps {c₀ : Bool} {s₀ s : State} (k : SlotName)  (h : Keeps c₀ s₀ s) : Keeps c₀ s₀ (State.imgVerify s k) := by
  unfold State.imgVerify
  repeat' first
    | with_reducible assumption
    | with_reducible apply State.imgEnd_keeps
    | with_reducible apply State.imgBad_keeps
    | with_reducible apply State.imgLog_keeps
    | with_reducible apply State.setSlot_keeps
    | split
    | dsimp only

theorem State.applyDone_keeps {c₀ : Bool} {s₀ s : State} (k : SlotName) (seq : Nat)  (h : Keeps c₀ s₀ s) : Keeps c₀ s₀ (State.applyDone s k seq) := by
  unfold State.applyDone
  repeat' first
    | with_reducible assumption
    | with_reducible apply State.imgEnd_keeps
    | with_reducible apply State.imgLog_keeps
    | dsimp only
    | with_reducible refine Keeps.of ?_ rfl rfl rfl rfl rfl rfl rfl rfl rfl rfl rfl rfl rfl rfl rfl rfl rfl rfl

theorem State.imgWrite_keeps {c₀ : Bool} {s₀ s : State} (k : SlotName) (bytes : List Byte) (dmaOk : Bool)  (h : Keeps c₀ s₀ s) : Keeps c₀ s₀ (State.imgWrite s k bytes dmaOk) := by
  unfold State.imgWrite
  repeat' first
    | with_reducible assumption
    | with_reducible apply State.setSlot_keeps
    | with_reducible apply State.imgEnd_keeps
    | with_reducible apply State.imgLog_keeps
    | with_reducible apply State.imgBad_keeps
    | split
    | dsimp only
    | with_reducible refine Keeps.of ?_ rfl rfl rfl rfl rfl rfl rfl rfl rfl rfl rfl rfl rfl rfl rfl rfl rfl rfl

theorem execImgWrite_keeps {c₀ : Bool} {s₀ s : State} (slotB : Bool) (bytes : List Byte) (dmaOk : Bool) (h : Keeps c₀ s₀ s) : ∃ t₁, execImgWrite slotB bytes dmaOk s = .next t₁ ∧ Keeps c₀ s₀ t₁ := by
  refine ⟨_, rfl, ?_⟩
  repeat' first
    | with_reducible assumption
    | with_reducible apply State.imgCmd_keeps
    | with_reducible apply State.imgWrite_keeps
    | intro _
    | dsimp only

theorem execImgVerify_keeps {c₀ : Bool} {s₀ s : State} (slotB : Bool) (h : Keeps c₀ s₀ s) : ∃ t₁, execImgVerify slotB s = .next t₁ ∧ Keeps c₀ s₀ t₁ := by
  refine ⟨_, rfl, ?_⟩
  repeat' first
    | with_reducible assumption
    | with_reducible apply State.imgCmd_keeps
    | with_reducible apply State.imgVerify_keeps
    | intro _
    | dsimp only

theorem State.applyBare_keeps {c₀ : Bool} {s₀ s : State} (k : SlotName) (y : StartIn)  (h : Keeps c₀ s₀ s) : Keeps c₀ s₀ (State.applyBare s k y) := by
  unfold State.applyBare
  repeat' first
    | with_reducible assumption
    | with_reducible apply State.imgBad_keeps
    | with_reducible apply State.imgLog_keeps
    | with_reducible apply State.setSlot_keeps
    | with_reducible apply State.applyDone_keeps
    | with_reducible apply State.loadImage_keeps
    | with_reducible apply State.runLink_keeps
    | with_reducible apply State.setMode_keeps
    | split
    | dsimp only
    | with_reducible refine Keeps.of ?_ rfl rfl rfl rfl rfl rfl rfl rfl rfl rfl rfl rfl rfl rfl rfl rfl rfl rfl

theorem State.applyDetach_keeps {c₀ : Bool} {s₀ s : State} (x : ApplyIn)  (h : Keeps c₀ s₀ s) : Keeps c₀ s₀ (State.applyDetach s x) := by
  unfold State.applyDetach
  repeat' first
    | with_reducible assumption
    | with_reducible apply State.emit_keeps
    | with_reducible apply State.isolate_keeps
    | with_reducible apply State.leaveService_keeps
    | with_reducible refine Keeps.foldl ?_ ?_
    | with_reducible refine Keeps.foldl1 ?_ ?_
    | intro _
    | split
    | dsimp only

theorem State.applyRecalls_keeps {c₀ : Bool} {s₀ s : State} (d : Nat) (D : ImgDomain) (n : Nat)  (h : Keeps c₀ s₀ s) : Keeps c₀ s₀ (State.applyRecalls s d D n) := by
  unfold State.applyRecalls
  repeat' first
    | with_reducible assumption
    | with_reducible apply State.emit_keeps
    | with_reducible refine Keeps.foldl ?_ ?_
    | with_reducible refine Keeps.foldl1 ?_ ?_
    | intro _
    | split
    | dsimp only

theorem State.applySnoops_keeps {c₀ : Bool} {s₀ s : State} (d : Nat) (D : ImgDomain) (n : Nat)  (h : Keeps c₀ s₀ s) : Keeps c₀ s₀ (State.applySnoops s d D n) := by
  unfold State.applySnoops
  repeat' first
    | with_reducible assumption
    | with_reducible apply State.emit_keeps
    | with_reducible refine Keeps.foldl ?_ ?_
    | with_reducible refine Keeps.foldl1 ?_ ?_
    | intro _
    | split
    | dsimp only

theorem State.applyOwn_keeps {c₀ : Bool} {s₀ s : State} (d : Nat) (D : ImgDomain) (x : ApplyIn) (n : Nat)  (h : Keeps c₀ s₀ s) : Keeps c₀ s₀ (State.applyOwn s d D x n) := by
  unfold State.applyOwn
  repeat' first
    | with_reducible assumption
    | with_reducible apply State.returnLine_keeps
    | with_reducible refine Keeps.foldl ?_ ?_
    | with_reducible refine Keeps.foldl1 ?_ ?_
    | intro _
    | split
    | dsimp only

theorem State.applyClean_keeps {c₀ : Bool} {s₀ s : State} (x : ApplyIn)  (h : Keeps c₀ s₀ s) : Keeps c₀ s₀ (State.applyClean s x) := by
  unfold State.applyClean
  repeat' first
    | with_reducible assumption
    | with_reducible apply State.applyRecalls_keeps
    | with_reducible apply State.applySnoops_keeps
    | with_reducible apply State.ncPut_keeps
    | with_reducible apply State.applyOwn_keeps
    | with_reducible apply State.returnLine_keeps
    | with_reducible apply State.shipWrites_keeps
    | with_reducible apply State.persistFlush_keeps
    | with_reducible refine Keeps.foldl ?_ ?_
    | with_reducible refine Keeps.foldl1 ?_ ?_
    | intro _
    | split
    | dsimp only

theorem State.applyFull_keeps {c₀ : Bool} {s₀ s : State} (k : SlotName) (x : ApplyIn)  (h : Keeps c₀ s₀ s) : Keeps c₀ s₀ (State.applyFull s k x) := by
  unfold State.applyFull
  repeat' first
    | with_reducible assumption
    | with_reducible apply State.imgBad_keeps
    | with_reducible apply State.bump_keeps
    | with_reducible apply State.applyDone_keeps
    | with_reducible apply State.loadImage_keeps
    | with_reducible apply State.applyDetach_keeps
    | with_reducible apply State.applyClean_keeps
    | split
    | dsimp only

theorem execImgApply_keeps {c₀ : Bool} {s₀ s : State} (slotB : Bool) (x : ApplyIn) (y : StartIn) (h : Keeps c₀ s₀ s) : ∃ t₁, execImgApply slotB x y s = .next t₁ ∧ Keeps c₀ s₀ t₁ := by
  refine ⟨_, rfl, ?_⟩
  repeat' first
    | with_reducible assumption
    | with_reducible apply State.imgCmd_keeps
    | with_reducible apply State.applyBare_keeps
    | with_reducible apply State.applyFull_keeps
    | with_reducible apply State.imgEnd_keeps
    | intro _
    | split
    | dsimp only

theorem State.imgRunning_keeps {c₀ : Bool} {s₀ s : State} (op : Nat) (b : Bool)  (h : Keeps c₀ s₀ s) : Keeps c₀ s₀ (State.imgRunning s op b) := by
  unfold State.imgRunning
  repeat' first
    | with_reducible assumption
    | with_reducible apply State.setSlot_keeps
    | split
    | dsimp only
    | with_reducible refine Keeps.of ?_ rfl rfl rfl rfl rfl rfl rfl rfl rfl rfl rfl rfl rfl rfl rfl rfl rfl rfl

theorem State.imgRoute_keeps {c₀ : Bool} {s₀ s : State} (bytes : List Byte) (dmaOk : Bool)  (h : Keeps c₀ s₀ s) : Keeps c₀ s₀ (State.imgRoute s bytes dmaOk) := by
  unfold State.imgRoute
  repeat' first
    | with_reducible assumption
    | with_reducible apply State.imgEnd_keeps
    | with_reducible apply State.imgBad_keeps
    | split
    | dsimp only
    | with_reducible refine Keeps.of ?_ rfl rfl rfl rfl rfl rfl rfl rfl rfl rfl rfl rfl rfl rfl rfl rfl rfl rfl

theorem State.imgErase_keeps {c₀ : Bool} {s₀ s : State} (k : SlotName)  (h : Keeps c₀ s₀ s) : Keeps c₀ s₀ (State.imgErase s k) := by
  unfold State.imgErase
  repeat' first
    | with_reducible assumption
    | with_reducible apply State.imgEnd_keeps
    | with_reducible apply State.imgLog_keeps
    | with_reducible apply State.setSlot_keeps
    | dsimp only

theorem execImgErase_keeps {c₀ : Bool} {s₀ s : State} (slotB : Bool) (h : Keeps c₀ s₀ s) : ∃ t₁, execImgErase slotB s = .next t₁ ∧ Keeps c₀ s₀ t₁ := by
  refine ⟨_, rfl, ?_⟩
  repeat' first
    | with_reducible assumption
    | with_reducible apply State.imgCmd_keeps
    | with_reducible apply State.imgErase_keeps
    | intro _
    | dsimp only

theorem State.nameTrial_keeps {c₀ : Bool} {s₀ s : State} (k : SlotName)  (h : Keeps c₀ s₀ s) : Keeps c₀ s₀ (State.nameTrial s k) := by
  unfold State.nameTrial
  repeat' first
    | with_reducible assumption
    | split
    | dsimp only
    | with_reducible refine Keeps.of ?_ rfl rfl rfl rfl rfl rfl rfl rfl rfl rfl rfl rfl rfl rfl rfl rfl rfl rfl

theorem execImgTrial_keeps {c₀ : Bool} {s₀ s : State} (slotB : Bool) (h : Keeps c₀ s₀ s) : ∃ t₁, execImgTrial slotB s = .next t₁ ∧ Keeps c₀ s₀ t₁ := by
  refine ⟨_, rfl, ?_⟩
  repeat' first
    | with_reducible assumption
    | with_reducible apply State.imgCmd_keeps
    | with_reducible apply State.imgEnd_keeps
    | with_reducible apply State.nameTrial_keeps
    | intro _
    | dsimp only

theorem execImgRoute_keeps {c₀ : Bool} {s₀ s : State} (bytes : List Byte) (dmaOk : Bool) (h : Keeps c₀ s₀ s) : ∃ t₁, execImgRoute bytes dmaOk s = .next t₁ ∧ Keeps c₀ s₀ t₁ := by
  refine ⟨_, rfl, ?_⟩
  repeat' first
    | with_reducible assumption
    | with_reducible apply State.imgCmd_keeps
    | with_reducible apply State.imgRoute_keeps
    | intro _
    | dsimp only

end Sys2Proof.Machine
end

