-- ==== Sys2Proof/Laws/Keep/Mailbox.lean ====
section
/-! SUPPORT. What the operations of Machine.Mailbox keep. -/

namespace Sys2Proof.Machine

open Sys2Proof

set_option linter.unreachableTactic false
set_option linter.unusedTactic false
set_option linter.unusedVariables false
set_option Elab.async false

theorem State.mbxEnd_keeps {c₀ : Bool} {s₀ s : State} (st : MbxStatus) (n : Nat)  (h : Keeps c₀ s₀ s) : Keeps c₀ s₀ (State.mbxEnd s st n) := by
  unfold State.mbxEnd
  repeat' first
    | with_reducible assumption
    | with_reducible apply State.irq_keeps
    | dsimp only
    | with_reducible refine Keeps.of ?_ rfl rfl rfl rfl rfl rfl rfl rfl rfl rfl rfl rfl rfl rfl rfl rfl rfl rfl

theorem State.mbxStart_keeps {c₀ : Bool} {s₀ s : State} (op : Nat) (b : Bool) {f : State → State} (hf : ∀ s, Keeps c₀ s₀ s → Keeps c₀ s₀ (f s)) (h : Keeps c₀ s₀ s) : Keeps c₀ s₀ (State.mbxStart s op b f) := by
  unfold State.mbxStart
  repeat' first
    | with_reducible assumption
    | with_reducible apply hf
    | with_reducible apply State.mbxEnd_keeps
    | with_reducible apply State.newNonce_keeps
    | intro _
    | split
    | dsimp only
    | with_reducible refine Keeps.of ?_ rfl rfl rfl rfl rfl rfl rfl rfl rfl rfl rfl rfl rfl rfl rfl rfl rfl rfl

theorem State.mbxCmd_keeps {c₀ : Bool} {s₀ s : State} (op : Nat) (b : Bool) {f : State → State} (hf : ∀ s, Keeps c₀ s₀ s → Keeps c₀ s₀ (f s)) (h : Keeps c₀ s₀ s) : Keeps c₀ s₀ (State.mbxCmd s op b f) := by
  unfold State.mbxCmd
  repeat' first
    | with_reducible assumption
    | with_reducible apply hf
    | with_reducible apply State.newNonce_keeps
    | with_reducible apply State.logAcc_keeps
    | with_reducible apply State.mbxStart_keeps
    | intro _
    | split
    | dsimp only

theorem State.setFile_keeps {c₀ : Bool} {s₀ s : State} (fw : Bool) (k : SlotName) (f : Option CodeFile)  (h : Keeps c₀ s₀ s) : Keeps c₀ s₀ (State.setFile s fw k f) := by
  unfold State.setFile
  repeat' first
    | with_reducible assumption
    | split
    | dsimp only
    | with_reducible refine Keeps.of ?_ rfl rfl rfl rfl rfl rfl rfl rfl rfl rfl rfl rfl rfl rfl rfl rfl rfl rfl

theorem State.fileWrite_keeps {c₀ : Bool} {s₀ s : State} (fw : Bool) (k : SlotName) (bytes : List Byte) (dmaOk : Bool)  (h : Keeps c₀ s₀ s) : Keeps c₀ s₀ (State.fileWrite s fw k bytes dmaOk) := by
  unfold State.fileWrite
  repeat' first
    | with_reducible assumption
    | with_reducible apply State.mbxEnd_keeps
    | with_reducible apply State.setFile_keeps
    | split
    | dsimp only

theorem execMcWrite_keeps {c₀ : Bool} {s₀ s : State} (slotB : Bool) (bytes : List Byte) (dmaOk : Bool) (h : Keeps c₀ s₀ s) : ∃ t₁, execMcWrite slotB bytes dmaOk s = .next t₁ ∧ Keeps c₀ s₀ t₁ := by
  refine ⟨_, rfl, ?_⟩
  repeat' first
    | with_reducible assumption
    | with_reducible apply State.mbxCmd_keeps
    | with_reducible apply State.fileWrite_keeps
    | intro _
    | dsimp only

theorem State.mbxRespond_keeps {c₀ : Bool} {s₀ s : State} (bytes : List Byte) (dmaOk : Bool)  (h : Keeps c₀ s₀ s) : Keeps c₀ s₀ (State.mbxRespond s bytes dmaOk) := by
  unfold State.mbxRespond
  repeat' first
    | with_reducible assumption
    | with_reducible apply State.mbxEnd_keeps
    | with_reducible apply State.emit_keeps
    | split
    | dsimp only

theorem State.setOwner_keeps {c₀ : Bool} {s₀ s : State} (k : Nat) (v : Option (BitVec 512))  (h : Keeps c₀ s₀ s) : Keeps c₀ s₀ (State.setOwner s k v) := by
  unfold State.setOwner
  repeat' first
    | with_reducible assumption
    | dsimp only
    | with_reducible refine Keeps.of ?_ rfl rfl rfl rfl rfl rfl rfl rfl rfl rfl rfl rfl rfl rfl rfl rfl rfl rfl

theorem State.owner_keeps {c₀ : Bool} {s₀ s : State} (fill : Bool) (bytes : List Byte) (dmaOk : Bool)  (h : Keeps c₀ s₀ s) : Keeps c₀ s₀ (State.owner s fill bytes dmaOk) := by
  unfold State.owner
  repeat' first
    | with_reducible assumption
    | with_reducible apply State.mbxEnd_keeps
    | with_reducible apply State.setOwner_keeps
    | split
    | dsimp only

theorem execOwnerFill_keeps {c₀ : Bool} {s₀ s : State} (bytes : List Byte) (dmaOk : Bool) (h : Keeps c₀ s₀ s) : ∃ t₁, execOwnerFill bytes dmaOk s = .next t₁ ∧ Keeps c₀ s₀ t₁ := by
  refine ⟨_, rfl, ?_⟩
  repeat' first
    | with_reducible assumption
    | with_reducible apply State.mbxCmd_keeps
    | with_reducible apply State.owner_keeps
    | intro _
    | dsimp only

theorem execPeatRead_keeps {c₀ : Bool} {s₀ s : State} (dmaOk : Bool) (h : Keeps c₀ s₀ s) : ∃ t₁, execPeatRead dmaOk s = .next t₁ ∧ Keeps c₀ s₀ t₁ := by
  refine ⟨_, rfl, ?_⟩
  repeat' first
    | with_reducible assumption
    | with_reducible apply State.mbxCmd_keeps
    | with_reducible apply State.mbxRespond_keeps
    | intro _
    | dsimp only

theorem execGetInfo_keeps {c₀ : Bool} {s₀ s : State} (dmaOk : Bool) (h : Keeps c₀ s₀ s) : ∃ t₁, execGetInfo dmaOk s = .next t₁ ∧ Keeps c₀ s₀ t₁ := by
  refine ⟨_, rfl, ?_⟩
  repeat' first
    | with_reducible assumption
    | with_reducible apply State.mbxCmd_keeps
    | with_reducible apply State.mbxRespond_keeps
    | intro _
    | dsimp only

theorem State.fileVerify_keeps {c₀ : Bool} {s₀ s : State} (fw : Bool) (k : SlotName)  (h : Keeps c₀ s₀ s) : Keeps c₀ s₀ (State.fileVerify s fw k) := by
  unfold State.fileVerify
  repeat' first
    | with_reducible assumption
    | with_reducible apply State.mbxEnd_keeps
    | with_reducible apply State.setFile_keeps
    | split
    | dsimp only

theorem execMcVerify_keeps {c₀ : Bool} {s₀ s : State} (slotB : Bool) (h : Keeps c₀ s₀ s) : ∃ t₁, execMcVerify slotB s = .next t₁ ∧ Keeps c₀ s₀ t₁ := by
  refine ⟨_, rfl, ?_⟩
  repeat' first
    | with_reducible assumption
    | with_reducible apply State.mbxCmd_keeps
    | with_reducible apply State.fileVerify_keeps
    | intro _
    | dsimp only

theorem execFwVerify_keeps {c₀ : Bool} {s₀ s : State} (slotB : Bool) (h : Keeps c₀ s₀ s) : ∃ t₁, execFwVerify slotB s = .next t₁ ∧ Keeps c₀ s₀ t₁ := by
  refine ⟨_, rfl, ?_⟩
  repeat' first
    | with_reducible assumption
    | with_reducible apply State.mbxCmd_keeps
    | with_reducible apply State.fileVerify_keeps
    | intro _
    | dsimp only

theorem execFwWrite_keeps {c₀ : Bool} {s₀ s : State} (slotB : Bool) (bytes : List Byte) (dmaOk : Bool) (h : Keeps c₀ s₀ s) : ∃ t₁, execFwWrite slotB bytes dmaOk s = .next t₁ ∧ Keeps c₀ s₀ t₁ := by
  refine ⟨_, rfl, ?_⟩
  repeat' first
    | with_reducible assumption
    | with_reducible apply State.mbxCmd_keeps
    | with_reducible apply State.fileWrite_keeps
    | intro _
    | dsimp only

theorem State.mbxBad_keeps {c₀ : Bool} {s₀ s : State} (op : Nat)  (h : Keeps c₀ s₀ s) : Keeps c₀ s₀ (State.mbxBad s op) := by
  unfold State.mbxBad
  repeat' first
    | with_reducible assumption
    | with_reducible apply State.mbxEnd_keeps
    | split
    | dsimp only
    | with_reducible refine Keeps.of ?_ rfl rfl rfl rfl rfl rfl rfl rfl rfl rfl rfl rfl rfl rfl rfl rfl rfl rfl

theorem State.mbxRunning_keeps {c₀ : Bool} {s₀ s : State}   (h : Keeps c₀ s₀ s) : Keeps c₀ s₀ (State.mbxRunning s) := by
  unfold State.mbxRunning
  repeat' first
    | with_reducible assumption
    | dsimp only
    | with_reducible refine Keeps.of ?_ rfl rfl rfl rfl rfl rfl rfl rfl rfl rfl rfl rfl rfl rfl rfl rfl rfl rfl

theorem execOwnerEmpty_keeps {c₀ : Bool} {s₀ s : State} (bytes : List Byte) (dmaOk : Bool) (h : Keeps c₀ s₀ s) : ∃ t₁, execOwnerEmpty bytes dmaOk s = .next t₁ ∧ Keeps c₀ s₀ t₁ := by
  refine ⟨_, rfl, ?_⟩
  repeat' first
    | with_reducible assumption
    | with_reducible apply State.mbxCmd_keeps
    | with_reducible apply State.owner_keeps
    | intro _
    | dsimp only

end Sys2Proof.Machine
end

