-- ==== Sys2Proof/Laws/Keep/HostLink.lean ====
section
/-! SUPPORT. What the operations of Machine.HostLink keep. -/

namespace Sys2Proof.Machine

open Sys2Proof

set_option linter.unreachableTactic false
set_option linter.unusedTactic false
set_option linter.unusedVariables false
set_option Elab.async false

theorem State.sendPba_keeps {c₀ : Bool} {s₀ s : State} (fn : Nat) (vec : Nat)  (h : Keeps c₀ s₀ s) : Keeps c₀ s₀ (State.sendPba s fn vec) := by
  unfold State.sendPba
  repeat' first
    | with_reducible assumption
    | with_reducible apply State.irq_keeps
    | with_reducible apply State.modMsix_keeps
    | split
    | dsimp only

theorem State.sendAllPba_keeps {c₀ : Bool} {s₀ s : State}   (h : Keeps c₀ s₀ s) : Keeps c₀ s₀ (State.sendAllPba s) := by
  unfold State.sendAllPba
  repeat' first
    | with_reducible assumption
    | with_reducible apply State.sendPba_keeps
    | with_reducible refine Keeps.foldl ?_ ?_
    | with_reducible refine Keeps.foldl1 ?_ ?_
    | intro _
    | dsimp only

theorem State.cfgReq_keeps {c₀ : Bool} {s₀ s : State} (x : CfgReq)  (h : Keeps c₀ s₀ s) : Keeps c₀ s₀ (State.cfgReq s x) := by
  unfold State.cfgReq
  repeat' first
    | with_reducible assumption
    | with_reducible apply State.sendAllPba_keeps
    | with_reducible apply State.dumpDmaErr_keeps
    | split
    | dsimp only
    | with_reducible refine Keeps.of ?_ rfl rfl rfl rfl rfl rfl rfl rfl rfl rfl rfl rfl rfl rfl rfl rfl rfl rfl

theorem State.dmaAbort_keeps {c₀ : Bool} {s₀ s : State}   (h : Keeps c₀ s₀ s) : Keeps c₀ s₀ (State.dmaAbort s) := by
  unfold State.dmaAbort
  repeat' first
    | with_reducible assumption
    | with_reducible apply State.imgEnd_keeps
    | with_reducible apply State.imgLog_keeps
    | with_reducible apply State.setSlot_keeps
    | with_reducible apply State.mbxEnd_keeps
    | with_reducible apply State.newNonce_keeps
    | with_reducible apply State.dumpDmaErr_keeps
    | split
    | dsimp only

theorem State.hostReset_keeps {c₀ : Bool} {s₀ s : State} (held : Bool)  (h : Keeps c₀ s₀ s) : Keeps c₀ s₀ (State.hostReset s held) := by
  unfold State.hostReset
  repeat' first
    | with_reducible assumption
    | with_reducible apply State.dmaAbort_keeps
    | dsimp only
    | with_reducible refine Keeps.of ?_ rfl rfl rfl rfl rfl rfl rfl rfl rfl rfl rfl rfl rfl rfl rfl rfl rfl rfl

theorem State.spdmAnswer_keeps {c₀ : Bool} {s₀ s : State} (code : Nat) (xs : List (BitVec 1024)) (signed : Bool)  (h : Keeps c₀ s₀ s) : Keeps c₀ s₀ (State.spdmAnswer s code xs signed) := by
  unfold State.spdmAnswer
  repeat' first
    | with_reducible assumption
    | with_reducible apply State.emit_keeps
    | split
    | dsimp only

theorem execFlrVf_keeps {c₀ : Bool} {s₀ s : State} (k : Nat) (h : Keeps c₀ s₀ s) : ∃ t₁, execFlrVf k s = .next t₁ ∧ Keeps c₀ s₀ t₁ := by
  refine ⟨_, rfl, ?_⟩
  repeat' first
    | with_reducible assumption
    | with_reducible apply State.modPage_keeps
    | with_reducible apply State.modMsix_keeps
    | split
    | dsimp only

theorem execCert_keeps {c₀ : Bool} {s₀ s : State} (slot : Nat) (h : Keeps c₀ s₀ s) : ∃ t₁, execCert slot s = .next t₁ ∧ Keeps c₀ s₀ t₁ := by
  refine ⟨_, rfl, ?_⟩
  repeat' first
    | with_reducible assumption
    | with_reducible apply State.spdmAnswer_keeps
    | split
    | dsimp only

theorem execConfigurationRequest_keeps {c₀ : Bool} {s₀ s : State} (x : CfgReq) (h : Keeps c₀ s₀ s) : ∃ t₁, execConfigurationRequest x s = .next t₁ ∧ Keeps c₀ s₀ t₁ := by
  refine ⟨_, rfl, ?_⟩
  repeat' first
    | with_reducible assumption
    | with_reducible apply State.emit_keeps
    | with_reducible apply State.cfgReq_keeps
    | split
    | dsimp only

theorem execIdeKm_keeps {c₀ : Bool} {s₀ s : State} (session : Nat) (key : BitVec 256) (h : Keeps c₀ s₀ s) : ∃ t₁, execIdeKm session key s = .next t₁ ∧ Keeps c₀ s₀ t₁ := by
  refine ⟨_, rfl, ?_⟩
  repeat' first
    | with_reducible assumption
    | split
    | dsimp only
    | with_reducible refine Keeps.of ?_ rfl rfl rfl rfl rfl rfl rfl rfl rfl rfl rfl rfl rfl rfl rfl rfl rfl rfl

theorem execPerstN_keeps {c₀ : Bool} {s₀ s : State} (low : Bool) (h : Keeps c₀ s₀ s) : ∃ t₁, execPerstN low s = .next t₁ ∧ Keeps c₀ s₀ t₁ := by
  refine ⟨_, rfl, ?_⟩
  repeat' first
    | with_reducible assumption
    | with_reducible apply State.hostReset_keeps
    | split
    | dsimp only
    | with_reducible refine Keeps.of ?_ rfl rfl rfl rfl rfl rfl rfl rfl rfl rfl rfl rfl rfl rfl rfl rfl rfl rfl

theorem execHbeat_keeps {c₀ : Bool} {s₀ s : State} (session : Nat) (h : Keeps c₀ s₀ s) : ∃ t₁, execHbeat session s = .next t₁ ∧ Keeps c₀ s₀ t₁ := by
  refine ⟨_, rfl, ?_⟩
  repeat' first
    | with_reducible assumption
    | with_reducible apply State.spdmAnswer_keeps
    | split
    | dsimp only

theorem execMeasurements_keeps {c₀ : Bool} {s₀ s : State} (blocks : List Nat) (h : Keeps c₀ s₀ s) : ∃ t₁, execMeasurements blocks s = .next t₁ ∧ Keeps c₀ s₀ t₁ := by
  refine ⟨_, rfl, ?_⟩
  repeat' first
    | with_reducible assumption
    | with_reducible apply State.spdmAnswer_keeps
    | split
    | dsimp only

theorem execKeyEx_keeps {c₀ : Bool} {s₀ s : State} (share : BitVec 768) (h : Keeps c₀ s₀ s) : ∃ t₁, execKeyEx share s = .next t₁ ∧ Keeps c₀ s₀ t₁ := by
  refine ⟨_, rfl, ?_⟩
  repeat' first
    | with_reducible assumption
    | with_reducible apply State.spdmAnswer_keeps
    | with_reducible apply State.drawn_keeps
    | split
    | dsimp only
    | with_reducible refine Keeps.of ?_ rfl rfl rfl rfl rfl rfl rfl rfl rfl rfl rfl rfl rfl rfl rfl rfl rfl rfl

theorem execChal_keeps {c₀ : Bool} {s₀ s : State} (nonce : BitVec 256) (h : Keeps c₀ s₀ s) : ∃ t₁, execChal nonce s = .next t₁ ∧ Keeps c₀ s₀ t₁ := by
  refine ⟨_, rfl, ?_⟩
  repeat' first
    | with_reducible assumption
    | with_reducible apply State.spdmAnswer_keeps
    | split
    | dsimp only

theorem execVectorUnmask_keeps {c₀ : Bool} {s₀ s : State} (fn : Nat) (vec : Nat) (h : Keeps c₀ s₀ s) : ∃ t₁, execVectorUnmask fn vec s = .next t₁ ∧ Keeps c₀ s₀ t₁ := by
  refine ⟨_, rfl, ?_⟩
  repeat' first
    | with_reducible assumption
    | with_reducible apply State.sendPba_keeps
    | with_reducible apply State.modMsix_keeps
    | split
    | dsimp only

theorem execFlr_keeps {c₀ : Bool} {s₀ s : State}  (h : Keeps c₀ s₀ s) : ∃ t₁, execFlr s = .next t₁ ∧ Keeps c₀ s₀ t₁ := by
  refine ⟨_, rfl, ?_⟩
  repeat' first
    | with_reducible assumption
    | with_reducible apply State.hostReset_keeps
    | split
    | dsimp only

theorem execIdeCheckFail_keeps {c₀ : Bool} {s₀ s : State}  (h : Keeps c₀ s₀ s) : ∃ t₁, execIdeCheckFail s = .next t₁ ∧ Keeps c₀ s₀ t₁ := by
  refine ⟨_, rfl, ?_⟩
  repeat' first
    | with_reducible assumption
    | split
    | dsimp only
    | with_reducible refine Keeps.of ?_ rfl rfl rfl rfl rfl rfl rfl rfl rfl rfl rfl rfl rfl rfl rfl rfl rfl rfl

theorem execMsixPendingSend_keeps {c₀ : Bool} {s₀ s : State} (fn : Nat) (vec : Nat) (h : Keeps c₀ s₀ s) : ∃ t₁, execMsixPendingSend fn vec s = .next t₁ ∧ Keeps c₀ s₀ t₁ := by
  refine ⟨_, rfl, ?_⟩
  repeat' first
    | with_reducible assumption
    | with_reducible apply State.irq_keeps
    | with_reducible apply State.modMsix_keeps
    | split
    | dsimp only

end Sys2Proof.Machine
end

