-- ==== Sys2Proof/Laws/Keep/Power.lean ====
section
/-! SUPPORT. What the operations of Machine.Power keep. -/

namespace Sys2Proof.Machine

open Sys2Proof

set_option linter.unreachableTactic false
set_option linter.unusedTactic false
set_option linter.unusedVariables false
set_option Elab.async false

theorem execAlwaysOnDomainStart_keeps {c₀ : Bool} {s₀ s : State} (smbAddr : BitVec 3) (h : Keeps c₀ s₀ s) : ∃ t₁, execAlwaysOnDomainStart smbAddr s = .next t₁ ∧ Keeps c₀ s₀ t₁ := by
  refine ⟨_, rfl, ?_⟩
  split
  · exact h.trans ⟨rfl, fun h => cntOk_filter h _, id, fun _ => rfl, Nat.le_refl _, List.prefix_refl _, Nat.le_refl _, id, id, id, id, id, id, id, id, fun h => twf_filter h _, id, id, id⟩
  · exact h

theorem execResetN_keeps {c₀ : Bool} {s₀ s : State} (flushUs : Nat) (durable : Bool) (h : Keeps c₀ s₀ s) : ∃ t₁, execResetN flushUs durable s = .next t₁ ∧ Keeps c₀ s₀ t₁ := by
  refine ⟨_, rfl, ?_⟩
  repeat' first
    | with_reducible assumption
    | with_reducible apply State.toDormant_keeps
    | with_reducible apply State.irq_keeps
    | split
    | dsimp only
    | with_reducible refine Keeps.of ?_ rfl rfl rfl rfl rfl rfl rfl rfl rfl rfl rfl rfl rfl rfl rfl rfl rfl rfl

theorem execRefLost_keeps {c₀ : Bool} {s₀ s : State} (noEdge : Bool) (ppm : Nat) (h : Keeps c₀ s₀ s) : ∃ t₁, execRefLost noEdge ppm s = .next t₁ ∧ Keeps c₀ s₀ t₁ := by
  refine ⟨_, rfl, ?_⟩
  repeat' first
    | with_reducible assumption
    | with_reducible apply State.irq_keeps
    | with_reducible apply State.rep_keeps
    | split
    | dsimp only
    | with_reducible refine Keeps.of ?_ rfl rfl rfl rfl rfl rfl rfl rfl rfl rfl rfl rfl rfl rfl rfl rfl rfl rfl

theorem execPfwN_keeps {c₀ : Bool} {s₀ s : State} (byPlatform : Bool) (flushUs : Nat) (durable : Bool) (h : Keeps c₀ s₀ s) : ∃ t₁, execPfwN byPlatform flushUs durable s = .next t₁ ∧ Keeps c₀ s₀ t₁ := by
  refine ⟨_, rfl, ?_⟩
  repeat' first
    | with_reducible assumption
    | with_reducible apply State.toDormant_keeps
    | with_reducible apply State.irq_keeps
    | split
    | dsimp only
    | with_reducible refine Keeps.of ?_ rfl rfl rfl rfl rfl rfl rfl rfl rfl rfl rfl rfl rfl rfl rfl rfl rfl rfl

theorem State.pmbTemp_keeps {c₀ : Bool} {s₀ s : State} (i : Nat)  (h : Keeps c₀ s₀ s) : Keeps c₀ s₀ (State.pmbTemp s i) := by
  unfold State.pmbTemp
  repeat' first
    | with_reducible assumption
    | dsimp only
    | with_reducible refine Keeps.of ?_ rfl rfl rfl rfl rfl rfl rfl rfl rfl rfl rfl rfl rfl rfl rfl rfl rfl rfl

theorem State.drivePfw_keeps {c₀ : Bool} {s₀ s : State} (c : LastOff)  (h : Keeps c₀ s₀ s) : Keeps c₀ s₀ (State.drivePfw s c) := by
  unfold State.drivePfw
  repeat' first
    | with_reducible assumption
    | split
    | dsimp only
    | with_reducible refine Keeps.of ?_ rfl rfl rfl rfl rfl rfl rfl rfl rfl rfl rfl rfl rfl rfl rfl rfl rfl rfl

theorem State.setSensor_keeps {c₀ : Bool} {s₀ s : State} (x : Sensor) (c : Int)  (h : Keeps c₀ s₀ s) : Keeps c₀ s₀ (State.setSensor s x c) := by
  unfold State.setSensor
  repeat' first
    | with_reducible assumption
    | split
    | dsimp only
    | with_reducible refine Keeps.of ?_ rfl rfl rfl rfl rfl rfl rfl rfl rfl rfl rfl rfl rfl rfl rfl rfl rfl rfl

theorem execThermal_keeps {c₀ : Bool} {s₀ s : State} (x : Sensor) (c : Int) (h : Keeps c₀ s₀ s) : ∃ t₁, execThermal x c s = .next t₁ ∧ Keeps c₀ s₀ t₁ := by
  refine ⟨_, rfl, ?_⟩
  repeat' first
    | with_reducible assumption
    | with_reducible apply State.pmbTemp_keeps
    | with_reducible apply State.drivePfw_keeps
    | with_reducible apply State.setSensor_keeps
    | split
    | dsimp only
    | with_reducible refine Keeps.of ?_ rfl rfl rfl rfl rfl rfl rfl rfl rfl rfl rfl rfl rfl rfl rfl rfl rfl rfl

theorem State.writeBacks_keeps {c₀ : Bool} {s₀ s : State} (n : Nat) (d : Nat) (D : ImgDomain)  (h : Keeps c₀ s₀ s) : Keeps c₀ s₀ (State.writeBacks s n d D) := by
  unfold State.writeBacks
  repeat' first
    | with_reducible assumption
    | with_reducible apply State.takeVictim_keeps
    | with_reducible refine Keeps.foldl ?_ ?_
    | with_reducible refine Keeps.foldl1 ?_ ?_
    | intro _
    | split
    | dsimp only

theorem State.pmbInput_keeps {c₀ : Bool} {s₀ s : State} (i : Nat)  (h : Keeps c₀ s₀ s) : Keeps c₀ s₀ (State.pmbInput s i) := by
  unfold State.pmbInput
  repeat' first
    | with_reducible assumption
    | dsimp only
    | with_reducible refine Keeps.of ?_ rfl rfl rfl rfl rfl rfl rfl rfl rfl rfl rfl rfl rfl rfl rfl rfl rfl rfl

theorem execOvervolt_keeps {c₀ : Bool} {s₀ s : State} (mv : Nat) (h : Keeps c₀ s₀ s) : ∃ t₁, execOvervolt mv s = .next t₁ ∧ Keeps c₀ s₀ t₁ := by
  refine ⟨_, rfl, ?_⟩
  repeat' first
    | with_reducible assumption
    | with_reducible apply State.pmbInput_keeps
    | with_reducible apply State.drivePfw_keeps
    | split
    | dsimp only

theorem execRefReturn_keeps {c₀ : Bool} {s₀ s : State}  (h : Keeps c₀ s₀ s) : ∃ t₁, execRefReturn s = .next t₁ ∧ Keeps c₀ s₀ t₁ := by
  refine ⟨_, rfl, ?_⟩
  repeat' first
    | with_reducible assumption
    | with_reducible apply State.irq_keeps
    | with_reducible apply State.relock_keeps
    | split
    | dsimp only
    | with_reducible refine Keeps.of ?_ rfl rfl rfl rfl rfl rfl rfl rfl rfl rfl rfl rfl rfl rfl rfl rfl rfl rfl

theorem execRide_keeps {c₀ : Bool} {s₀ s : State} (mv : Nat) (bank : Nat) (h : Keeps c₀ s₀ s) : ∃ t₁, execRide mv bank s = .next t₁ ∧ Keeps c₀ s₀ t₁ := by
  refine ⟨_, rfl, ?_⟩
  repeat' first
    | with_reducible assumption
    | with_reducible apply State.irq_keeps
    | with_reducible apply State.bump_keeps
    | split
    | dsimp only
    | with_reducible refine Keeps.of ?_ rfl rfl rfl rfl rfl rfl rfl rfl rfl rfl rfl rfl rfl rfl rfl rfl rfl rfl

theorem execInputInvalid_keeps {c₀ : Bool} {s₀ s : State} (mv bank : Nat) (h : Keeps c₀ s₀ s) : ∃ t₁, execInputInvalid mv bank s = .next t₁ ∧ Keeps c₀ s₀ t₁ := by
  refine ⟨_, rfl, ?_⟩
  split
  · exact h.trans ⟨rfl, fun _ => List.forall_mem_nil _, fun _ => Nat.zero_le _, fun _ => rfl, Nat.le_refl _, List.prefix_refl _, Nat.le_refl _, fun _ => rfl, fun _ => rfl, fun _ => rfl, fun _ => rfl, fun _ => rfl, fun _ => rfl, fun _ => rfl, fun _ => rfl, fun _ => rfl, fun _ => rfl, fun _ => rfl, fun _ => rfl⟩
  · exact h

theorem State.pmbCml_keeps {c₀ : Bool} {s₀ s : State} (i : Nat)  (h : Keeps c₀ s₀ s) : Keeps c₀ s₀ (State.pmbCml s i) := by
  unfold State.pmbCml
  repeat' first
    | with_reducible assumption
    | dsimp only
    | with_reducible refine Keeps.of ?_ rfl rfl rfl rfl rfl rfl rfl rfl rfl rfl rfl rfl rfl rfl rfl rfl rfl rfl

theorem execPfwRelease_keeps {c₀ : Bool} {s₀ s : State} (mv : Nat) (heldUs : Nat) (h : Keeps c₀ s₀ s) : ∃ t₁, execPfwRelease mv heldUs s = .next t₁ ∧ Keeps c₀ s₀ t₁ := by
  refine ⟨_, rfl, ?_⟩
  repeat' first
    | with_reducible assumption
    | split
    | dsimp only
    | with_reducible refine Keeps.of ?_ rfl rfl rfl rfl rfl rfl rfl rfl rfl rfl rfl rfl rfl rfl rfl rfl rfl rfl

theorem execDipTimer_keeps {c₀ : Bool} {s₀ s : State}  (h : Keeps c₀ s₀ s) : ∃ t₁, execDipTimer s = .next t₁ ∧ Keeps c₀ s₀ t₁ := by
  refine ⟨_, rfl, ?_⟩
  repeat' first
    | with_reducible assumption
    | with_reducible apply State.drivePfw_keeps
    | split
    | dsimp only

theorem execEWarn_keeps {c₀ : Bool} {s₀ s : State} (bank : Nat) (h : Keeps c₀ s₀ s) : ∃ t₁, execEWarn bank s = .next t₁ ∧ Keeps c₀ s₀ t₁ := by
  refine ⟨_, rfl, ?_⟩
  repeat' first
    | with_reducible assumption
    | with_reducible apply State.drivePfw_keeps
    | split
    | dsimp only
    | with_reducible refine Keeps.of ?_ rfl rfl rfl rfl rfl rfl rfl rfl rfl rfl rfl rfl rfl rfl rfl rfl rfl rfl

theorem execVinDip_keeps {c₀ : Bool} {s₀ s : State} (mv : Nat) (h : Keeps c₀ s₀ s) : ∃ t₁, execVinDip mv s = .next t₁ ∧ Keeps c₀ s₀ t₁ := by
  refine ⟨_, rfl, ?_⟩
  repeat' first
    | with_reducible assumption
    | with_reducible apply State.pmbInput_keeps
    | split
    | dsimp only
    | with_reducible refine Keeps.of ?_ rfl rfl rfl rfl rfl rfl rfl rfl rfl rfl rfl rfl rfl rfl rfl rfl rfl rfl

theorem execQuiescent_keeps {c₀ : Bool} {s₀ s : State} (durable : Bool) (h : Keeps c₀ s₀ s) : ∃ t₁, execQuiescent durable s = .next t₁ ∧ Keeps c₀ s₀ t₁ := by
  refine ⟨_, rfl, ?_⟩
  repeat' first
    | with_reducible assumption
    | with_reducible apply State.writeBacks_keeps
    | with_reducible apply State.shipWrites_keeps
    | with_reducible apply State.persistFlush_keeps
    | with_reducible apply State.cmdst_keeps
    | with_reducible apply State.standbyIn_keeps
    | with_reducible apply State.relock_keeps
    | with_reducible apply State.setMode_keeps
    | with_reducible refine Keeps.foldl ?_ ?_
    | with_reducible refine Keeps.foldl1 ?_ ?_
    | intro _
    | split
    | dsimp only
    | with_reducible refine Keeps.of ?_ rfl rfl rfl rfl rfl rfl rfl rfl rfl rfl rfl rfl rfl rfl rfl rfl rfl rfl

theorem execWarn_keeps {c₀ : Bool} {s₀ s : State} (x : Sensor) (c : Int) (h : Keeps c₀ s₀ s) : ∃ t₁, execWarn x c s = .next t₁ ∧ Keeps c₀ s₀ t₁ := by
  refine ⟨_, rfl, ?_⟩
  repeat' first
    | with_reducible assumption
    | with_reducible apply State.irq_keeps
    | with_reducible apply State.bump_keeps
    | with_reducible apply State.pmbTemp_keeps
    | with_reducible apply State.setSensor_keeps
    | split
    | dsimp only
    | with_reducible refine Keeps.of ?_ rfl rfl rfl rfl rfl rfl rfl rfl rfl rfl rfl rfl rfl rfl rfl rfl rfl rfl

end Sys2Proof.Machine
end

