-- ==== Sys2Proof/Laws/Keep/Pmbus.lean ====
section
/-! SUPPORT. What the operations of Machine.Pmbus keep. -/

namespace Sys2Proof.Machine

open Sys2Proof

set_option linter.unreachableTactic false
set_option linter.unusedTactic false
set_option linter.unusedVariables false
set_option Elab.async false

theorem State.transfer_keeps {c₀ : Bool} {s₀ s : State} (pecOk : Bool) {f : State → State} (hf : ∀ s, Keeps c₀ s₀ s → Keeps c₀ s₀ (f s)) (h : Keeps c₀ s₀ s) : Keeps c₀ s₀ (State.transfer s pecOk f) := by
  unfold State.transfer
  repeat' first
    | with_reducible assumption
    | with_reducible apply hf
    | with_reducible apply State.pmbCml_keeps
    | intro _
    | split
    | dsimp only

theorem State.answerBytes_keeps {c₀ : Bool} {s₀ s : State} (pecOk : Bool) (bs : List Byte)  (h : Keeps c₀ s₀ s) : Keeps c₀ s₀ (State.answerBytes s pecOk bs) := by
  unfold State.answerBytes
  repeat' first
    | with_reducible assumption
    | with_reducible apply State.transfer_keeps
    | with_reducible apply State.emit_keeps
    | intro _
    | dsimp only

theorem execStatusVout_keeps {c₀ : Bool} {s₀ s : State} (pecOk : Bool) (h : Keeps c₀ s₀ s) : ∃ t₁, execStatusVout pecOk s = .next t₁ ∧ Keeps c₀ s₀ t₁ := by
  refine ⟨_, rfl, ?_⟩
  repeat' first
    | with_reducible assumption
    | with_reducible apply State.answerBytes_keeps
    | dsimp only

theorem State.answerWord_keeps {c₀ : Bool} {s₀ s : State} (pecOk : Bool) (v : BitVec 16)  (h : Keeps c₀ s₀ s) : Keeps c₀ s₀ (State.answerWord s pecOk v) := by
  unfold State.answerWord
  repeat' first
    | with_reducible assumption
    | with_reducible apply State.answerBytes_keeps
    | dsimp only

theorem execReadVin_keeps {c₀ : Bool} {s₀ s : State} (pecOk : Bool) (h : Keeps c₀ s₀ s) : ∃ t₁, execReadVin pecOk s = .next t₁ ∧ Keeps c₀ s₀ t₁ := by
  refine ⟨_, rfl, ?_⟩
  repeat' first
    | with_reducible assumption
    | with_reducible apply State.answerWord_keeps
    | dsimp only

theorem execStatusInput_keeps {c₀ : Bool} {s₀ s : State} (pecOk : Bool) (h : Keeps c₀ s₀ s) : ∃ t₁, execStatusInput pecOk s = .next t₁ ∧ Keeps c₀ s₀ t₁ := by
  refine ⟨_, rfl, ?_⟩
  repeat' first
    | with_reducible assumption
    | with_reducible apply State.answerBytes_keeps
    | dsimp only

theorem State.answerBlock_keeps {c₀ : Bool} {s₀ s : State} (pecOk : Bool) (bs : List Nat)  (h : Keeps c₀ s₀ s) : Keeps c₀ s₀ (State.answerBlock s pecOk bs) := by
  unfold State.answerBlock
  repeat' first
    | with_reducible assumption
    | with_reducible apply State.answerBytes_keeps
    | dsimp only

theorem execMfrRevision_keeps {c₀ : Bool} {s₀ s : State} (pecOk : Bool) (h : Keeps c₀ s₀ s) : ∃ t₁, execMfrRevision pecOk s = .next t₁ ∧ Keeps c₀ s₀ t₁ := by
  refine ⟨_, rfl, ?_⟩
  repeat' first
    | with_reducible assumption
    | with_reducible apply State.answerBlock_keeps
    | dsimp only

theorem execReadTemperature3_keeps {c₀ : Bool} {s₀ s : State} (pecOk : Bool) (h : Keeps c₀ s₀ s) : ∃ t₁, execReadTemperature3 pecOk s = .next t₁ ∧ Keeps c₀ s₀ t₁ := by
  refine ⟨_, rfl, ?_⟩
  repeat' first
    | with_reducible assumption
    | with_reducible apply State.answerWord_keeps
    | dsimp only

theorem execCapability_keeps {c₀ : Bool} {s₀ s : State} (pecOk : Bool) (h : Keeps c₀ s₀ s) : ∃ t₁, execCapability pecOk s = .next t₁ ∧ Keeps c₀ s₀ t₁ := by
  refine ⟨_, rfl, ?_⟩
  repeat' first
    | with_reducible assumption
    | with_reducible apply State.answerBytes_keeps
    | dsimp only

theorem execReadTemperature2_keeps {c₀ : Bool} {s₀ s : State} (pecOk : Bool) (h : Keeps c₀ s₀ s) : ∃ t₁, execReadTemperature2 pecOk s = .next t₁ ∧ Keeps c₀ s₀ t₁ := by
  refine ⟨_, rfl, ?_⟩
  repeat' first
    | with_reducible assumption
    | with_reducible apply State.answerWord_keeps
    | dsimp only

theorem State.latchStatus_keeps {c₀ : Bool} {s₀ s : State}   (h : Keeps c₀ s₀ s) : Keeps c₀ s₀ (State.latchStatus s) := by
  unfold State.latchStatus
  repeat' first
    | with_reducible assumption
    | dsimp only
    | with_reducible refine Keeps.of ?_ rfl rfl rfl rfl rfl rfl rfl rfl rfl rfl rfl rfl rfl rfl rfl rfl rfl rfl

theorem execSensorRefresh_keeps {c₀ : Bool} {s₀ s : State} (x : Readings) (h : Keeps c₀ s₀ s) : ∃ t₁, execSensorRefresh x s = .next t₁ ∧ Keeps c₀ s₀ t₁ := by
  refine ⟨_, rfl, ?_⟩
  repeat' first
    | with_reducible assumption
    | with_reducible apply State.bump_keeps
    | with_reducible apply State.latchStatus_keeps
    | split
    | dsimp only
    | with_reducible refine Keeps.of ?_ rfl rfl rfl rfl rfl rfl rfl rfl rfl rfl rfl rfl rfl rfl rfl rfl rfl rfl

theorem execStatusTemperature_keeps {c₀ : Bool} {s₀ s : State} (pecOk : Bool) (h : Keeps c₀ s₀ s) : ∃ t₁, execStatusTemperature pecOk s = .next t₁ ∧ Keeps c₀ s₀ t₁ := by
  refine ⟨_, rfl, ?_⟩
  repeat' first
    | with_reducible assumption
    | with_reducible apply State.answerBytes_keeps
    | dsimp only

theorem execReadTemperature1_keeps {c₀ : Bool} {s₀ s : State} (pecOk : Bool) (h : Keeps c₀ s₀ s) : ∃ t₁, execReadTemperature1 pecOk s = .next t₁ ∧ Keeps c₀ s₀ t₁ := by
  refine ⟨_, rfl, ?_⟩
  repeat' first
    | with_reducible assumption
    | with_reducible apply State.answerWord_keeps
    | dsimp only

theorem execVoutMode_keeps {c₀ : Bool} {s₀ s : State} (pecOk : Bool) (h : Keeps c₀ s₀ s) : ∃ t₁, execVoutMode pecOk s = .next t₁ ∧ Keeps c₀ s₀ t₁ := by
  refine ⟨_, rfl, ?_⟩
  repeat' first
    | with_reducible assumption
    | with_reducible apply State.answerBytes_keeps
    | dsimp only

theorem execMfrModel_keeps {c₀ : Bool} {s₀ s : State} (pecOk : Bool) (h : Keeps c₀ s₀ s) : ∃ t₁, execMfrModel pecOk s = .next t₁ ∧ Keeps c₀ s₀ t₁ := by
  refine ⟨_, rfl, ?_⟩
  repeat' first
    | with_reducible assumption
    | with_reducible apply State.answerBlock_keeps
    | dsimp only

theorem execReadIin_keeps {c₀ : Bool} {s₀ s : State} (pecOk : Bool) (h : Keeps c₀ s₀ s) : ∃ t₁, execReadIin pecOk s = .next t₁ ∧ Keeps c₀ s₀ t₁ := by
  refine ⟨_, rfl, ?_⟩
  repeat' first
    | with_reducible assumption
    | with_reducible apply State.answerWord_keeps
    | dsimp only

theorem execReadVout_keeps {c₀ : Bool} {s₀ s : State} (pecOk : Bool) (h : Keeps c₀ s₀ s) : ∃ t₁, execReadVout pecOk s = .next t₁ ∧ Keeps c₀ s₀ t₁ := by
  refine ⟨_, rfl, ?_⟩
  repeat' first
    | with_reducible assumption
    | with_reducible apply State.answerWord_keeps
    | split
    | dsimp only

theorem execStatusIout_keeps {c₀ : Bool} {s₀ s : State} (pecOk : Bool) (h : Keeps c₀ s₀ s) : ∃ t₁, execStatusIout pecOk s = .next t₁ ∧ Keeps c₀ s₀ t₁ := by
  refine ⟨_, rfl, ?_⟩
  repeat' first
    | with_reducible assumption
    | with_reducible apply State.answerBytes_keeps
    | dsimp only

theorem execClearFaults_keeps {c₀ : Bool} {s₀ s : State} (pecOk : Bool) (h : Keeps c₀ s₀ s) : ∃ t₁, execClearFaults pecOk s = .next t₁ ∧ Keeps c₀ s₀ t₁ := by
  refine ⟨_, rfl, ?_⟩
  repeat' first
    | with_reducible assumption
    | with_reducible apply State.transfer_keeps
    | with_reducible apply State.latchStatus_keeps
    | intro _
    | dsimp only
    | with_reducible refine Keeps.of ?_ rfl rfl rfl rfl rfl rfl rfl rfl rfl rfl rfl rfl rfl rfl rfl rfl rfl rfl

theorem execStatusWord_keeps {c₀ : Bool} {s₀ s : State} (pecOk : Bool) (h : Keeps c₀ s₀ s) : ∃ t₁, execStatusWord pecOk s = .next t₁ ∧ Keeps c₀ s₀ t₁ := by
  refine ⟨_, rfl, ?_⟩
  repeat' first
    | with_reducible assumption
    | with_reducible apply State.answerWord_keeps
    | dsimp only

theorem execPmbusRevision_keeps {c₀ : Bool} {s₀ s : State} (pecOk : Bool) (h : Keeps c₀ s₀ s) : ∃ t₁, execPmbusRevision pecOk s = .next t₁ ∧ Keeps c₀ s₀ t₁ := by
  refine ⟨_, rfl, ?_⟩
  repeat' first
    | with_reducible assumption
    | with_reducible apply State.answerBytes_keeps
    | dsimp only

theorem execMfrId_keeps {c₀ : Bool} {s₀ s : State} (pecOk : Bool) (h : Keeps c₀ s₀ s) : ∃ t₁, execMfrId pecOk s = .next t₁ ∧ Keeps c₀ s₀ t₁ := by
  refine ⟨_, rfl, ?_⟩
  repeat' first
    | with_reducible assumption
    | with_reducible apply State.answerBlock_keeps
    | dsimp only

theorem execReadPin_keeps {c₀ : Bool} {s₀ s : State} (pecOk : Bool) (h : Keeps c₀ s₀ s) : ∃ t₁, execReadPin pecOk s = .next t₁ ∧ Keeps c₀ s₀ t₁ := by
  refine ⟨_, rfl, ?_⟩
  repeat' first
    | with_reducible assumption
    | with_reducible apply State.answerWord_keeps
    | dsimp only

theorem execPmbusInvalidCommand_keeps {c₀ : Bool} {s₀ s : State} (code : Byte) (write : Bool) (h : Keeps c₀ s₀ s) : ∃ t₁, execPmbusInvalidCommand code write s = .next t₁ ∧ Keeps c₀ s₀ t₁ := by
  refine ⟨_, rfl, ?_⟩
  repeat' first
    | with_reducible assumption
    | with_reducible apply State.pmbCml_keeps
    | with_reducible apply State.emit_keeps
    | split
    | dsimp only

theorem execAlertResponse_keeps {c₀ : Bool} {s₀ s : State}  (h : Keeps c₀ s₀ s) : ∃ t₁, execAlertResponse s = .next t₁ ∧ Keeps c₀ s₀ t₁ := by
  refine ⟨_, rfl, ?_⟩
  repeat' first
    | with_reducible assumption
    | with_reducible apply State.emit_keeps
    | split
    | dsimp only
    | with_reducible refine Keeps.of ?_ rfl rfl rfl rfl rfl rfl rfl rfl rfl rfl rfl rfl rfl rfl rfl rfl rfl rfl

theorem execStatusByte_keeps {c₀ : Bool} {s₀ s : State} (pecOk : Bool) (h : Keeps c₀ s₀ s) : ∃ t₁, execStatusByte pecOk s = .next t₁ ∧ Keeps c₀ s₀ t₁ := by
  refine ⟨_, rfl, ?_⟩
  repeat' first
    | with_reducible assumption
    | with_reducible apply State.answerBytes_keeps
    | dsimp only

theorem execReadIout_keeps {c₀ : Bool} {s₀ s : State} (pecOk : Bool) (h : Keeps c₀ s₀ s) : ∃ t₁, execReadIout pecOk s = .next t₁ ∧ Keeps c₀ s₀ t₁ := by
  refine ⟨_, rfl, ?_⟩
  repeat' first
    | with_reducible assumption
    | with_reducible apply State.answerWord_keeps
    | split
    | dsimp only

theorem execReadPout_keeps {c₀ : Bool} {s₀ s : State} (pecOk : Bool) (h : Keeps c₀ s₀ s) : ∃ t₁, execReadPout pecOk s = .next t₁ ∧ Keeps c₀ s₀ t₁ := by
  refine ⟨_, rfl, ?_⟩
  repeat' first
    | with_reducible assumption
    | with_reducible apply State.answerWord_keeps
    | dsimp only

theorem execStatusCml_keeps {c₀ : Bool} {s₀ s : State} (pecOk : Bool) (h : Keeps c₀ s₀ s) : ∃ t₁, execStatusCml pecOk s = .next t₁ ∧ Keeps c₀ s₀ t₁ := by
  refine ⟨_, rfl, ?_⟩
  repeat' first
    | with_reducible assumption
    | with_reducible apply State.answerBytes_keeps
    | dsimp only

theorem execPage_keeps {c₀ : Bool} {s₀ s : State} (v : Byte) (pecOk : Bool) (h : Keeps c₀ s₀ s) : ∃ t₁, execPage v pecOk s = .next t₁ ∧ Keeps c₀ s₀ t₁ := by
  refine ⟨_, rfl, ?_⟩
  repeat' first
    | with_reducible assumption
    | with_reducible apply State.transfer_keeps
    | with_reducible apply State.pmbCml_keeps
    | intro _
    | split
    | dsimp only
    | with_reducible refine Keeps.of ?_ rfl rfl rfl rfl rfl rfl rfl rfl rfl rfl rfl rfl rfl rfl rfl rfl rfl rfl

end Sys2Proof.Machine
end

