-- ==== Sys2Proof/Laws/Keep/Protect.lean ====
section
/-! SUPPORT. What the operations of Machine.Protect keep. -/

namespace Sys2Proof.Machine

open Sys2Proof

set_option linter.unreachableTactic false
set_option linter.unusedTactic false
set_option linter.unusedVariables false
set_option Elab.async false

theorem State.crozPut_keeps {c₀ : Bool} {s₀ s : State} (j : Nat) (r : Nat) (new : Nat) (reseed : Bool) (e : RngEnt)  (h : Keeps c₀ s₀ s) : Keeps c₀ s₀ (State.crozPut s j r new reseed e) := by
  unfold State.crozPut
  repeat' first
    | with_reducible assumption
    | with_reducible apply State.modJob_keeps
    | dsimp only

theorem State.sweepAll_keeps {c₀ : Bool} {s₀ s : State} (D : ImgDomain) (j : SweepJob)  (h : Keeps c₀ s₀ s) : Keeps c₀ s₀ (State.sweepAll s D j) := by
  unfold State.sweepAll
  repeat' first
    | with_reducible assumption
    | with_reducible apply State.modSlice_keeps
    | with_reducible refine Keeps.foldl ?_ ?_
    | with_reducible refine Keeps.foldl1 ?_ ?_
    | intro _
    | split
    | dsimp only

theorem State.drainedNow_keeps {c₀ : Bool} {s₀ s : State}   (h : Keeps c₀ s₀ s) : Keeps c₀ s₀ (State.drainedNow s) := by
  unfold State.drainedNow
  repeat' first
    | with_reducible assumption
    | dsimp only
    | with_reducible refine Keeps.of ?_ rfl rfl rfl rfl rfl rfl rfl rfl rfl rfl rfl rfl rfl rfl rfl rfl rfl rfl

theorem State.doRelease_keeps {c₀ : Bool} {s₀ s : State}   (h : Keeps c₀ s₀ s) : Keeps c₀ s₀ (State.doRelease s) := by
  unfold State.doRelease
  repeat' first
    | with_reducible assumption
    | split
    | dsimp only
    | with_reducible refine Keeps.of ?_ rfl rfl rfl rfl rfl rfl rfl rfl rfl rfl rfl rfl rfl rfl rfl rfl rfl rfl

theorem execRelease_keeps {c₀ : Bool} {s₀ s : State}  (h : Keeps c₀ s₀ s) : ∃ t₁, execRelease s = .next t₁ ∧ Keeps c₀ s₀ t₁ := by
  refine ⟨_, rfl, ?_⟩
  repeat' first
    | with_reducible assumption
    | with_reducible apply State.doRelease_keeps
    | dsimp only

theorem State.doPop_keeps {c₀ : Bool} {s₀ s : State} (h : Keeps c₀ s₀ s) : Keeps c₀ s₀ (State.doPop s) :=
  h.trans ⟨rfl, id, fun h => Nat.le_trans (by simp [State.doPop]) h, fun _ => rfl, Nat.le_refl _, List.prefix_refl _, Nat.le_refl _, id, id, id, id, id, id, id, id, id, id, id, id⟩

theorem execPop_keeps {c₀ : Bool} {s₀ s : State}  (h : Keeps c₀ s₀ s) : ∃ t₁, execPop s = .next t₁ ∧ Keeps c₀ s₀ t₁ := by
  refine ⟨_, rfl, ?_⟩
  repeat' first
    | with_reducible assumption
    | with_reducible apply State.doPop_keeps
    | dsimp only

theorem State.clrEnd_keeps {c₀ : Bool} {s₀ s : State} (st : Nat)  (h : Keeps c₀ s₀ s) : Keeps c₀ s₀ (State.clrEnd s st) := by
  unfold State.clrEnd
  repeat' first
    | with_reducible assumption
    | dsimp only
    | with_reducible refine Keeps.of ?_ rfl rfl rfl rfl rfl rfl rfl rfl rfl rfl rfl rfl rfl rfl rfl rfl rfl rfl

theorem State.crozFields_keeps {c₀ : Bool} {s₀ s : State} (j : Nat) (r : Nat) (new : Nat) (op : Nat)  (h : Keeps c₀ s₀ s) : Keeps c₀ s₀ (State.crozFields s j r new op) := by
  unfold State.crozFields
  repeat' first
    | with_reducible assumption
    | dsimp only
    | with_reducible refine Keeps.of ?_ rfl rfl rfl rfl rfl rfl rfl rfl rfl rfl rfl rfl rfl rfl rfl rfl rfl rfl

theorem State.crozEnd_keeps {c₀ : Bool} {s₀ s : State} (st : Nat)  (h : Keeps c₀ s₀ s) : Keeps c₀ s₀ (State.crozEnd s st) := by
  unfold State.crozEnd
  repeat' first
    | with_reducible assumption
    | dsimp only
    | with_reducible refine Keeps.of ?_ rfl rfl rfl rfl rfl rfl rfl rfl rfl rfl rfl rfl rfl rfl rfl rfl rfl rfl

theorem State.doRekey_keeps {c₀ : Bool} {s₀ s : State} (j : Nat) (r : Nat) (new : Nat)  (h : Keeps c₀ s₀ s) : Keeps c₀ s₀ (State.doRekey s j r new) := by
  unfold State.doRekey
  repeat' first
    | with_reducible assumption
    | with_reducible apply State.crozFields_keeps
    | with_reducible apply State.crozEnd_keeps
    | with_reducible apply State.crozPut_keeps
    | split
    | dsimp only

theorem State.keyEnd_keeps {c₀ : Bool} {s₀ s : State} (st : Nat)  (h : Keeps c₀ s₀ s) : Keeps c₀ s₀ (State.keyEnd s st) := by
  unfold State.keyEnd
  repeat' first
    | with_reducible assumption
    | with_reducible apply State.irq_keeps
    | dsimp only
    | with_reducible refine Keeps.of ?_ rfl rfl rfl rfl rfl rfl rfl rfl rfl rfl rfl rfl rfl rfl rfl rfl rfl rfl

theorem State.doUnfence_keeps {c₀ : Bool} {s₀ s : State} (frond : Bool) (i : Nat)  (h : Keeps c₀ s₀ s) : Keeps c₀ s₀ (State.doUnfence s frond i) := by
  unfold State.doUnfence
  repeat' first
    | with_reducible assumption
    | with_reducible apply State.clrEnd_keeps
    | with_reducible apply State.unfenced_keeps
    | with_reducible apply State.toDetect_keeps
    | split
    | dsimp only
    | with_reducible refine Keeps.of ?_ rfl rfl rfl rfl rfl rfl rfl rfl rfl rfl rfl rfl rfl rfl rfl rfl rfl rfl

theorem State.reseedHomes_keeps {c₀ : Bool} {s₀ s : State} (D : ImgDomain) (e : RngEnt)  (h : Keeps c₀ s₀ s) : Keeps c₀ s₀ (State.reseedHomes s D e) := by
  unfold State.reseedHomes
  repeat' first
    | with_reducible assumption
    | with_reducible apply State.raDrop_keeps
    | with_reducible apply State.enqHome_keeps
    | with_reducible refine Keeps.foldl ?_ ?_
    | with_reducible refine Keeps.foldl1 ?_ ?_
    | intro _
    | split
    | dsimp only

theorem State.doReseed_keeps {c₀ : Bool} {s₀ s : State} (j : Nat) (r : Nat) (new : Nat)  (h : Keeps c₀ s₀ s) : Keeps c₀ s₀ (State.doReseed s j r new) := by
  unfold State.doReseed
  repeat' first
    | with_reducible assumption
    | with_reducible apply State.crozFields_keeps
    | with_reducible apply State.crozEnd_keeps
    | with_reducible apply State.crozPut_keeps
    | with_reducible apply State.reseedHomes_keeps
    | with_reducible apply State.sweepAll_keeps
    | with_reducible apply State.recheckAll_keeps
    | split
    | dsimp only
    | with_reducible refine Keeps.of ?_ rfl rfl rfl rfl rfl rfl rfl rfl rfl rfl rfl rfl rfl rfl rfl rfl rfl rfl

theorem execReseed_keeps {c₀ : Bool} {s₀ s : State} (job : Nat) (rng : Nat) (newkey : Nat) (h : Keeps c₀ s₀ s) : ∃ t₁, execReseed job rng newkey s = .next t₁ ∧ Keeps c₀ s₀ t₁ := by
  refine ⟨_, rfl, ?_⟩
  repeat' first
    | with_reducible assumption
    | with_reducible apply State.doReseed_keeps
    | dsimp only

theorem State.doClaim_keeps {c₀ : Bool} {s₀ s : State}   (h : Keeps c₀ s₀ s) : Keeps c₀ s₀ (State.doClaim s) := by
  unfold State.doClaim
  repeat' first
    | with_reducible assumption
    | split
    | dsimp only
    | with_reducible refine Keeps.of ?_ rfl rfl rfl rfl rfl rfl rfl rfl rfl rfl rfl rfl rfl rfl rfl rfl rfl rfl

theorem execClaim_keeps {c₀ : Bool} {s₀ s : State}  (h : Keeps c₀ s₀ s) : ∃ t₁, execClaim s = .next t₁ ∧ Keeps c₀ s₀ t₁ := by
  refine ⟨_, rfl, ?_⟩
  repeat' first
    | with_reducible assumption
    | with_reducible apply State.doClaim_keeps
    | dsimp only

theorem State.invStop_keeps {c₀ : Bool} {s₀ s : State} (st : Nat)  (h : Keeps c₀ s₀ s) : Keeps c₀ s₀ (State.invStop s st) := by
  unfold State.invStop
  repeat' first
    | with_reducible assumption
    | with_reducible apply State.irq_keeps
    | dsimp only
    | with_reducible refine Keeps.of ?_ rfl rfl rfl rfl rfl rfl rfl rfl rfl rfl rfl rfl rfl rfl rfl rfl rfl rfl

theorem State.doInv_keeps {c₀ : Bool} {s₀ s : State} (d : Nat)  (h : Keeps c₀ s₀ s) : Keeps c₀ s₀ (State.doInv s d) := by
  unfold State.doInv
  repeat' first
    | with_reducible assumption
    | with_reducible apply State.invStop_keeps
    | with_reducible apply State.sweepAll_keeps
    | split
    | dsimp only
    | with_reducible refine Keeps.of ?_ rfl rfl rfl rfl rfl rfl rfl rfl rfl rfl rfl rfl rfl rfl rfl rfl rfl rfl

theorem State.keyStop_keeps {c₀ : Bool} {s₀ s : State} (st : Nat)  (h : Keeps c₀ s₀ s) : Keeps c₀ s₀ (State.keyStop s st) := by
  unfold State.keyStop
  repeat' first
    | with_reducible assumption
    | with_reducible apply State.irq_keeps
    | dsimp only
    | with_reducible refine Keeps.of ?_ rfl rfl rfl rfl rfl rfl rfl rfl rfl rfl rfl rfl rfl rfl rfl rfl rfl rfl

theorem execRangeInvalidation_keeps {c₀ : Bool} {s₀ s : State} (d : Nat) (h : Keeps c₀ s₀ s) : ∃ t₁, execRangeInvalidation d s = .next t₁ ∧ Keeps c₀ s₀ t₁ := by
  refine ⟨_, rfl, ?_⟩
  repeat' first
    | with_reducible assumption
    | with_reducible apply State.doInv_keeps
    | dsimp only

theorem State.doKeygen_keeps {c₀ : Bool} {s₀ s : State} (k : Nat)  (h : Keeps c₀ s₀ s) : Keeps c₀ s₀ (State.doKeygen s k) := by
  unfold State.doKeygen
  repeat' first
    | with_reducible assumption
    | with_reducible apply State.keyStop_keeps
    | with_reducible apply State.keyGen_keeps
    | split
    | dsimp only
    | with_reducible refine Keeps.of ?_ rfl rfl rfl rfl rfl rfl rfl rfl rfl rfl rfl rfl rfl rfl rfl rfl rfl rfl

theorem State.doRetire_keeps {c₀ : Bool} {s₀ s : State} (k : Nat)  (h : Keeps c₀ s₀ s) : Keeps c₀ s₀ (State.doRetire s k) := by
  unfold State.doRetire
  repeat' first
    | with_reducible assumption
    | with_reducible apply State.keyStop_keeps
    | with_reducible apply State.keyRetire_keeps
    | with_reducible apply State.recheckAll_keeps
    | with_reducible apply State.modKey_keeps
    | split
    | dsimp only
    | with_reducible refine Keeps.of ?_ rfl rfl rfl rfl rfl rfl rfl rfl rfl rfl rfl rfl rfl rfl rfl rfl rfl rfl

theorem execRetire_keeps {c₀ : Bool} {s₀ s : State} (k : Nat) (h : Keeps c₀ s₀ s) : ∃ t₁, execRetire k s = .next t₁ ∧ Keeps c₀ s₀ t₁ := by
  refine ⟨_, rfl, ?_⟩
  repeat' first
    | with_reducible assumption
    | with_reducible apply State.doRetire_keeps
    | dsimp only

theorem State.raAll_keeps {c₀ : Bool} {s₀ s : State}   (h : Keeps c₀ s₀ s) : Keeps c₀ s₀ (State.raAll s) := by
  unfold State.raAll
  repeat' first
    | with_reducible assumption
    | with_reducible apply State.raDrop_keeps
    | with_reducible refine Keeps.foldl ?_ ?_
    | with_reducible refine Keeps.foldl1 ?_ ?_
    | intro _
    | dsimp only

theorem execEpochDrained_keeps {c₀ : Bool} {s₀ s : State}  (h : Keeps c₀ s₀ s) : ∃ t₁, execEpochDrained s = .next t₁ ∧ Keeps c₀ s₀ t₁ := by
  refine ⟨_, rfl, ?_⟩
  repeat' first
    | with_reducible assumption
    | with_reducible apply State.irq_keeps
    | split
    | dsimp only
    | with_reducible refine Keeps.of ?_ rfl rfl rfl rfl rfl rfl rfl rfl rfl rfl rfl rfl rfl rfl rfl rfl rfl rfl

theorem execUnfence_keeps {c₀ : Bool} {s₀ s : State} (frond : Bool) (index : Nat) (h : Keeps c₀ s₀ s) : ∃ t₁, execUnfence frond index s = .next t₁ ∧ Keeps c₀ s₀ t₁ := by
  refine ⟨_, rfl, ?_⟩
  repeat' first
    | with_reducible assumption
    | with_reducible apply State.doUnfence_keeps
    | dsimp only

theorem execRekey_keeps {c₀ : Bool} {s₀ s : State} (job : Nat) (rng : Nat) (newkey : Nat) (h : Keeps c₀ s₀ s) : ∃ t₁, execRekey job rng newkey s = .next t₁ ∧ Keeps c₀ s₀ t₁ := by
  refine ⟨_, rfl, ?_⟩
  repeat' first
    | with_reducible assumption
    | with_reducible apply State.doRekey_keeps
    | dsimp only

theorem State.doCommit_keeps {c₀ : Bool} {s₀ s : State}   (h : Keeps c₀ s₀ s) : Keeps c₀ s₀ (State.doCommit s) := by
  unfold State.doCommit
  repeat' first
    | with_reducible assumption
    | with_reducible apply State.bump_keeps
    | with_reducible apply State.drainedNow_keeps
    | with_reducible apply State.recheckAll_keeps
    | with_reducible apply State.raAll_keeps
    | with_reducible apply State.commitEdge_keeps
    | with_reducible apply State.irq_keeps
    | split
    | dsimp only
    | with_reducible refine Keeps.of ?_ rfl rfl rfl rfl rfl rfl rfl rfl rfl rfl rfl rfl rfl rfl rfl rfl rfl rfl

theorem execKeygen_keeps {c₀ : Bool} {s₀ s : State} (k : Nat) (h : Keeps c₀ s₀ s) : ∃ t₁, execKeygen k s = .next t₁ ∧ Keeps c₀ s₀ t₁ := by
  refine ⟨_, rfl, ?_⟩
  repeat' first
    | with_reducible assumption
    | with_reducible apply State.doKeygen_keeps
    | dsimp only

theorem execRetireEnd_keeps {c₀ : Bool} {s₀ s : State} (k : Nat) (h : Keeps c₀ s₀ s) : ∃ t₁, execRetireEnd k s = .next t₁ ∧ Keeps c₀ s₀ t₁ := by
  refine ⟨_, rfl, ?_⟩
  repeat' first
    | with_reducible assumption
    | with_reducible apply State.bump_keeps
    | with_reducible apply State.modKey_keeps
    | with_reducible apply State.unfenced_keeps
    | with_reducible apply State.keyEnd_keeps
    | split
    | dsimp only
    | with_reducible refine Keeps.of ?_ rfl rfl rfl rfl rfl rfl rfl rfl rfl rfl rfl rfl rfl rfl rfl rfl rfl rfl

theorem execCommit_keeps {c₀ : Bool} {s₀ s : State}  (h : Keeps c₀ s₀ s) : ∃ t₁, execCommit s = .next t₁ ∧ Keeps c₀ s₀ t₁ := by
  refine ⟨_, rfl, ?_⟩
  repeat' first
    | with_reducible assumption
    | with_reducible apply State.doCommit_keeps
    | dsimp only

end Sys2Proof.Machine
end

