-- ==== Sys2Proof/Laws/Keep/TestPort.lean ====
section
/-! SUPPORT. What the operations of Machine.TestPort keep. -/

namespace Sys2Proof.Machine

open Sys2Proof

set_option linter.unreachableTactic false
set_option linter.unusedTactic false
set_option linter.unusedVariables false
set_option Elab.async false

theorem State.arrayOp_keeps {c₀ : Bool} {s₀ s : State} (x : ArrayOp)  (h : Keeps c₀ s₀ s) : Keeps c₀ s₀ (State.arrayOp s x) := by
  unfold State.arrayOp
  repeat' first
    | with_reducible assumption
    | with_reducible apply State.emit_keeps
    | with_reducible apply State.modSlice_keeps
    | split
    | dsimp only

theorem State.tapLoad_keeps {c₀ : Bool} {s₀ s : State} (i : TapInstr)  (h : Keeps c₀ s₀ s) : Keeps c₀ s₀ (State.tapLoad s i) := by
  unfold State.tapLoad
  repeat' first
    | with_reducible assumption
    | dsimp only
    | with_reducible refine Keeps.of ?_ rfl rfl rfl rfl rfl rfl rfl rfl rfl rfl rfl rfl rfl rfl rfl rfl rfl rfl

theorem execIdcode_keeps {c₀ : Bool} {s₀ s : State}  (h : Keeps c₀ s₀ s) : ∃ t₁, execIdcode s = .next t₁ ∧ Keeps c₀ s₀ t₁ := by
  refine ⟨_, rfl, ?_⟩
  repeat' first
    | with_reducible assumption
    | with_reducible apply State.emit_keeps
    | with_reducible apply State.tapLoad_keeps
    | split
    | dsimp only

theorem State.bypassShift_keeps {c₀ : Bool} {s₀ s : State} (tdi : Bool)  (h : Keeps c₀ s₀ s) : Keeps c₀ s₀ (State.bypassShift s tdi) := by
  unfold State.bypassShift
  repeat' first
    | with_reducible assumption
    | with_reducible apply State.tapLoad_keeps
    | with_reducible apply State.emit_keeps
    | split
    | dsimp only
    | with_reducible refine Keeps.of ?_ rfl rfl rfl rfl rfl rfl rfl rfl rfl rfl rfl rfl rfl rfl rfl rfl rfl rfl

theorem execBypass_keeps {c₀ : Bool} {s₀ s : State} (tdi : Bool) (h : Keeps c₀ s₀ s) : ∃ t₁, execBypass tdi s = .next t₁ ∧ Keeps c₀ s₀ t₁ := by
  refine ⟨_, rfl, ?_⟩
  repeat' first
    | with_reducible assumption
    | with_reducible apply State.bypassShift_keeps
    | split
    | dsimp only

theorem execSamplePreload_keeps {c₀ : Bool} {s₀ s : State} (cells : List Bool) (h : Keeps c₀ s₀ s) : ∃ t₁, execSamplePreload cells s = .next t₁ ∧ Keeps c₀ s₀ t₁ := by
  refine ⟨_, rfl, ?_⟩
  repeat' first
    | with_reducible assumption
    | with_reducible apply State.tapLoad_keeps
    | with_reducible apply State.emit_keeps
    | with_reducible apply State.drawn_keeps
    | split
    | dsimp only
    | with_reducible refine Keeps.of ?_ rfl rfl rfl rfl rfl rfl rfl rfl rfl rfl rfl rfl rfl rfl rfl rfl rfl rfl

theorem execArrayInstruction_keeps {c₀ : Bool} {s₀ s : State} (x : ArrayOp) (h : Keeps c₀ s₀ s) : ∃ t₁, execArrayInstruction x s = .next t₁ ∧ Keeps c₀ s₀ t₁ := by
  refine ⟨_, rfl, ?_⟩
  repeat' first
    | with_reducible assumption
    | with_reducible apply State.arrayOp_keeps
    | with_reducible apply State.tapLoad_keeps
    | split
    | dsimp only

theorem execExtest_keeps {c₀ : Bool} {s₀ s : State} (cells : List Bool) (h : Keeps c₀ s₀ s) : ∃ t₁, execExtest cells s = .next t₁ ∧ Keeps c₀ s₀ t₁ := by
  refine ⟨_, rfl, ?_⟩
  repeat' first
    | with_reducible assumption
    | with_reducible apply State.tapLoad_keeps
    | with_reducible apply State.emit_keeps
    | with_reducible apply State.drawn_keeps
    | split
    | dsimp only
    | with_reducible refine Keeps.of ?_ rfl rfl rfl rfl rfl rfl rfl rfl rfl rfl rfl rfl rfl rfl rfl rfl rfl rfl

end Sys2Proof.Machine
end

