-- ==== Sys2Proof/Laws/Keep/RegWrite.lean ====
section
/-! SUPPORT. What the operations of Machine.RegWrite keep. -/

namespace Sys2Proof.Machine

open Sys2Proof

set_option linter.unreachableTactic false
set_option linter.unusedTactic false
set_option linter.unusedVariables false
set_option Elab.async false

theorem State.loadCnt_keeps {c₀ : Bool} {s₀ s : State} (k v : Nat) (h : Keeps c₀ s₀ s) : Keeps c₀ s₀ (s.loadCnt k v) :=
  h.trans ⟨rfl, fun h => cntOk_tset h _ _ (Nat.le_sub_one_of_lt (Nat.mod_lt _ (by decide))), id, fun _ => rfl, Nat.le_refl _, List.prefix_refl _, Nat.le_refl _, id, id, id, id, id, id, id, id, fun h => twf_tset h _ _, id, id, id⟩

theorem State.cntPut_keeps {c₀ : Bool} {s₀ s : State} (o : Nat) (size : Nat) (val : BitVec 64) (inc : Nat)  (h : Keeps c₀ s₀ s) : Keeps c₀ s₀ (State.cntPut s o size val inc) := by
  unfold State.cntPut
  repeat' first
    | with_reducible assumption
    | with_reducible apply State.loadCnt_keeps
    | with_reducible apply State.pageN_keeps
    | with_reducible apply State.bumpN_keeps
    | split
    | dsimp only

theorem State.accPut_keeps {c₀ : Bool} {s₀ s : State} (base : Nat) (w : Wr)  (h : Keeps c₀ s₀ s) : Keeps c₀ s₀ (State.accPut s base w) := by
  unfold State.accPut
  repeat' first
    | with_reducible assumption
    | with_reducible apply State.modAcc_keeps
    | split
    | dsimp only
    | with_reducible refine Keeps.of ?_ rfl rfl rfl rfl rfl rfl rfl rfl rfl rfl rfl rfl rfl rfl rfl rfl rfl rfl

theorem State.modeCmd_keeps {c₀ : Bool} {s₀ s : State} (w : Wr)  (h : Keeps c₀ s₀ s) : Keeps c₀ s₀ (State.modeCmd s w) := by
  unfold State.modeCmd
  repeat' first
    | with_reducible assumption
    | with_reducible apply State.doDrain_keeps
    | with_reducible apply State.doMaint_keeps
    | with_reducible apply State.doResume_keeps
    | with_reducible apply State.cmdst_keeps
    | with_reducible apply State.doPairGood_keeps
    | with_reducible apply State.doFenceForget_keeps
    | split
    | dsimp only
    | with_reducible refine Keeps.of ?_ rfl rfl rfl rfl rfl rfl rfl rfl rfl rfl rfl rfl rfl rfl rfl rfl rfl rfl

theorem State.setSphMax_keeps {c₀ : Bool} {s₀ s : State} (k v : Nat) (h : Keeps c₀ s₀ s) : Keeps c₀ s₀ (s.setSphMax k v) :=
  h.trans ⟨rfl, id, id, fun _ => rfl, Nat.le_refl _, List.prefix_refl _, Nat.le_refl _, id, id, id, id, id, id, id, fun h => twf_tset h _ _, id, id, id, id⟩

theorem State.when__keeps {c₀ : Bool} {s₀ s : State} (b : Bool) {f : State → State} (hf : ∀ s, Keeps c₀ s₀ s → Keeps c₀ s₀ (f s)) (h : Keeps c₀ s₀ s) : Keeps c₀ s₀ (State.when_ s b f) := by
  unfold State.when_
  repeat' first
    | with_reducible assumption
    | with_reducible apply hf
    | intro _
    | split
    | dsimp only

theorem State.lockPut_keeps {c₀ : Bool} {s₀ s : State} (w : Wr)  (h : Keeps c₀ s₀ s) : Keeps c₀ s₀ (State.lockPut s w) := by
  unfold State.lockPut
  repeat' first
    | with_reducible assumption
    | with_reducible apply State.when__keeps
    | with_reducible apply State.startLock_keeps
    | intro _
    | split
    | dsimp only
    | with_reducible refine Keeps.of ?_ rfl rfl rfl rfl rfl rfl rfl rfl rfl rfl rfl rfl rfl rfl rfl rfl rfl rfl

theorem State.glbPutHi_keeps {c₀ : Bool} {s₀ s : State} (o : Nat) (w : Wr)  (h : Keeps c₀ s₀ s) : Keeps c₀ s₀ (State.glbPutHi s o w) := by
  unfold State.glbPutHi
  repeat' first
    | with_reducible assumption
    | with_reducible apply State.modDom_keeps
    | with_reducible apply State.setSphMax_keeps
    | with_reducible apply State.lockPut_keeps
    | split
    | dsimp only
    | with_reducible refine Keeps.of ?_ rfl rfl rfl rfl rfl rfl rfl rfl rfl rfl rfl rfl rfl rfl rfl rfl rfl rfl

theorem State.glbPut_keeps {c₀ : Bool} {s₀ s : State} (o : Nat) (w : Wr)  (h : Keeps c₀ s₀ s) : Keeps c₀ s₀ (State.glbPut s o w) := by
  unfold State.glbPut
  repeat' first
    | with_reducible assumption
    | with_reducible apply State.accPut_keeps
    | with_reducible apply State.modeCmd_keeps
    | with_reducible apply State.glbPutHi_keeps
    | split
    | dsimp only
    | with_reducible refine Keeps.of ?_ rfl rfl rfl rfl rfl rfl rfl rfl rfl rfl rfl rfl rfl rfl rfl rfl rfl rfl

theorem State.imgGo_keeps {s₀ s : State} (op : Nat) (b : Bool)  (h : Keeps true s₀ s) : Keeps true s₀ (State.imgGo s op b) := by
  unfold State.imgGo
  repeat' first
    | with_reducible assumption
    | with_reducible apply State.imgStart_keeps
    | with_reducible apply State.imgVerify_keeps
    | with_reducible apply State.imgEnd_keeps
    | with_reducible apply State.nameTrial_keeps
    | with_reducible apply State.imgConfirm_keeps
    | with_reducible apply State.imgErase_keeps
    | with_reducible apply State.imgRunning_keeps
    | with_reducible apply State.imgWrite_keeps
    | with_reducible apply State.imgRoute_keeps
    | intro _
    | split
    | dsimp only

theorem State.imgPut_keeps {s₀ s : State} (o : Nat) (w : Wr)  (h : Keeps true s₀ s) : Keeps true s₀ (State.imgPut s o w) := by
  unfold State.imgPut
  repeat' first
    | with_reducible assumption
    | with_reducible apply State.imgGo_keeps
    | with_reducible apply State.accPut_keeps
    | split
    | dsimp only
    | with_reducible refine Keeps.of ?_ rfl rfl rfl rfl rfl rfl rfl rfl rfl rfl rfl rfl rfl rfl rfl rfl rfl rfl

theorem State.gatePut_keeps {c₀ : Bool} {s₀ s : State} (g : Nat) (o : Nat) (w : Wr)  (h : Keeps c₀ s₀ s) : Keeps c₀ s₀ (State.gatePut s g o w) := by
  unfold State.gatePut
  repeat' first
    | with_reducible assumption
    | with_reducible apply State.modGate_keeps
    | with_reducible apply State.when__keeps
    | with_reducible apply State.doHoldClr_keeps
    | with_reducible apply State.doGateAudit_keeps
    | with_reducible apply State.accPut_keeps
    | intro _
    | split
    | dsimp only

theorem State.slcPutHi_keeps {c₀ : Bool} {s₀ s : State} (n : Nat) (o : Nat) (w : Wr)  (h : Keeps c₀ s₀ s) : Keeps c₀ s₀ (State.slcPutHi s n o w) := by
  unfold State.slcPutHi
  repeat' first
    | with_reducible assumption
    | with_reducible apply State.modSlice_keeps
    | with_reducible apply State.modPool_keeps
    | with_reducible apply State.when__keeps
    | with_reducible apply State.doFlush_keeps
    | intro _
    | split
    | dsimp only

theorem State.slcPut_keeps {c₀ : Bool} {s₀ s : State} (n : Nat) (o : Nat) (w : Wr)  (h : Keeps c₀ s₀ s) : Keeps c₀ s₀ (State.slcPut s n o w) := by
  unfold State.slcPut
  repeat' first
    | with_reducible assumption
    | with_reducible apply State.modSlice_keeps
    | with_reducible apply State.when__keeps
    | with_reducible apply State.doQrel_keeps
    | with_reducible apply State.askLstest_keeps
    | with_reducible apply State.doPredClr_keeps
    | with_reducible apply State.accPut_keeps
    | with_reducible apply State.doSlcAudit_keeps
    | with_reducible apply State.slcPutHi_keeps
    | intro _
    | split
    | dsimp only

theorem State.homPut_keeps {c₀ : Bool} {s₀ s : State} (n : Nat) (o : Nat) (w : Wr)  (h : Keeps c₀ s₀ s) : Keeps c₀ s₀ (State.homPut s n o w) := by
  unfold State.homPut
  repeat' first
    | with_reducible assumption
    | with_reducible apply State.modHome_keeps
    | with_reducible apply State.when__keeps
    | with_reducible apply State.doHomQrel_keeps
    | with_reducible apply State.accPut_keeps
    | with_reducible apply State.doNcAudit_keeps
    | intro _
    | split
    | dsimp only

theorem State.rtrPut_keeps {c₀ : Bool} {s₀ s : State} (n : Nat) (o : Nat) (w : Wr)  (h : Keeps c₀ s₀ s) : Keeps c₀ s₀ (State.rtrPut s n o w) := by
  unfold State.rtrPut
  repeat' first
    | with_reducible assumption
    | with_reducible apply State.modRouter_keeps
    | with_reducible apply State.when__keeps
    | with_reducible apply State.doRtrAudit_keeps
    | with_reducible apply State.accPut_keeps
    | intro _
    | split
    | dsimp only

theorem State.portPut_keeps {c₀ : Bool} {s₀ s : State} (p : Nat) (o : Nat) (w : Wr)  (h : Keeps c₀ s₀ s) : Keeps c₀ s₀ (State.portPut s p o w) := by
  unfold State.portPut
  repeat' first
    | with_reducible assumption
    | with_reducible apply State.modPort_keeps
    | with_reducible apply State.when__keeps
    | with_reducible apply State.doRetrain_keeps
    | with_reducible apply State.doPortDrain_keeps
    | with_reducible apply State.accPut_keeps
    | intro _
    | split
    | dsimp only

theorem State.keyCmd_keeps {c₀ : Bool} {s₀ s : State} (w : Wr)  (h : Keeps c₀ s₀ s) : Keeps c₀ s₀ (State.keyCmd s w) := by
  unfold State.keyCmd
  repeat' first
    | with_reducible assumption
    | with_reducible apply State.when__keeps
    | with_reducible apply State.doKeygen_keeps
    | with_reducible apply State.doRetire_keeps
    | intro _
    | split
    | dsimp only
    | with_reducible refine Keeps.of ?_ rfl rfl rfl rfl rfl rfl rfl rfl rfl rfl rfl rfl rfl rfl rfl rfl rfl rfl

theorem State.crozCmd_keeps {c₀ : Bool} {s₀ s : State} (w : Wr)  (h : Keeps c₀ s₀ s) : Keeps c₀ s₀ (State.crozCmd s w) := by
  unfold State.crozCmd
  repeat' first
    | with_reducible assumption
    | with_reducible apply State.crozFields_keeps
    | with_reducible apply State.when__keeps
    | with_reducible apply State.doRekey_keeps
    | with_reducible apply State.doReseed_keeps
    | intro _
    | split
    | dsimp only

theorem State.protPutHi_keeps {c₀ : Bool} {s₀ s : State} (o : Nat) (w : Wr)  (h : Keeps c₀ s₀ s) : Keeps c₀ s₀ (State.protPutHi s o w) := by
  unfold State.protPutHi
  repeat' first
    | with_reducible assumption
    | with_reducible apply State.keyCmd_keeps
    | with_reducible apply State.crozCmd_keeps
    | with_reducible apply State.modJob_keeps
    | split
    | dsimp only
    | with_reducible refine Keeps.of ?_ rfl rfl rfl rfl rfl rfl rfl rfl rfl rfl rfl rfl rfl rfl rfl rfl rfl rfl

theorem State.protPut_keeps {c₀ : Bool} {s₀ s : State} (o : Nat) (w : Wr)  (h : Keeps c₀ s₀ s) : Keeps c₀ s₀ (State.protPut s o w) := by
  unfold State.protPut
  repeat' first
    | with_reducible assumption
    | with_reducible apply State.when__keeps
    | with_reducible apply State.doClaim_keeps
    | with_reducible apply State.doCommit_keeps
    | with_reducible apply State.doRelease_keeps
    | with_reducible apply State.accPut_keeps
    | with_reducible apply State.doInv_keeps
    | with_reducible apply State.protPutHi_keeps
    | intro _
    | split
    | dsimp only
    | with_reducible refine Keeps.of ?_ rfl rfl rfl rfl rfl rfl rfl rfl rfl rfl rfl rfl rfl rfl rfl rfl rfl rfl

theorem State.fltPut_keeps {c₀ : Bool} {s₀ s : State} (o : Nat) (w : Wr)  (h : Keeps c₀ s₀ s) : Keeps c₀ s₀ (State.fltPut s o w) := by
  unfold State.fltPut
  repeat' first
    | with_reducible assumption
    | with_reducible apply State.when__keeps
    | with_reducible apply State.doPop_keeps
    | with_reducible apply State.accPut_keeps
    | with_reducible apply State.doUnfence_keeps
    | intro _
    | split
    | dsimp only
    | with_reducible refine Keeps.of ?_ rfl rfl rfl rfl rfl rfl rfl rfl rfl rfl rfl rfl rfl rfl rfl rfl rfl rfl

theorem State.capCmd_keeps {c₀ : Bool} {s₀ s : State} (w : Wr)  (h : Keeps c₀ s₀ s) : Keeps c₀ s₀ (State.capCmd s w) := by
  unfold State.capCmd
  repeat' first
    | with_reducible assumption
    | with_reducible apply State.when__keeps
    | with_reducible apply State.doArm_keeps
    | with_reducible apply State.doDisarm_keeps
    | with_reducible apply State.doSnap_keeps
    | with_reducible apply State.doZero_keeps
    | intro _
    | dsimp only

theorem State.capPutHi_keeps {c₀ : Bool} {s₀ s : State} (o : Nat) (w : Wr)  (h : Keeps c₀ s₀ s) : Keeps c₀ s₀ (State.capPutHi s o w) := by
  unfold State.capPutHi
  repeat' first
    | with_reducible assumption
    | with_reducible apply State.modPage_keeps
    | with_reducible apply State.when__keeps
    | with_reducible apply State.pageZero_keeps
    | intro _
    | split
    | dsimp only
    | with_reducible refine Keeps.of ?_ rfl rfl rfl rfl rfl rfl rfl rfl rfl rfl rfl rfl rfl rfl rfl rfl rfl rfl

theorem State.capPut_keeps {c₀ : Bool} {s₀ s : State} (o : Nat) (w : Wr)  (h : Keeps c₀ s₀ s) : Keeps c₀ s₀ (State.capPut s o w) := by
  unfold State.capPut
  repeat' first
    | with_reducible assumption
    | with_reducible apply State.modCap_keeps
    | with_reducible apply State.capCmd_keeps
    | with_reducible apply State.accPut_keeps
    | with_reducible apply State.capPutHi_keeps
    | split
    | dsimp only

theorem State.mbxGo_keeps {c₀ : Bool} {s₀ s : State} (op : Nat) (b : Bool)  (h : Keeps c₀ s₀ s) : Keeps c₀ s₀ (State.mbxGo s op b) := by
  unfold State.mbxGo
  repeat' first
    | with_reducible assumption
    | with_reducible apply State.mbxBad_keeps
    | with_reducible apply State.mbxStart_keeps
    | with_reducible apply State.fileVerify_keeps
    | with_reducible apply State.mbxEnd_keeps
    | with_reducible apply State.mbxRunning_keeps
    | with_reducible apply State.newNonce_keeps
    | intro _
    | split
    | dsimp only

theorem State.mbxPut_keeps {c₀ : Bool} {s₀ s : State} (o : Nat) (w : Wr)  (h : Keeps c₀ s₀ s) : Keeps c₀ s₀ (State.mbxPut s o w) := by
  unfold State.mbxPut
  repeat' first
    | with_reducible assumption
    | with_reducible apply State.mbxGo_keeps
    | with_reducible apply State.accPut_keeps
    | split
    | dsimp only
    | with_reducible refine Keeps.of ?_ rfl rfl rfl rfl rfl rfl rfl rfl rfl rfl rfl rfl rfl rfl rfl rfl rfl rfl

theorem State.slowPut_keeps {c₀ : Bool} {s₀ s : State} (k : Nat) (o : Nat) (w : Wr)  (h : Keeps c₀ s₀ s) : Keeps c₀ s₀ (State.slowPut s k o w) := by
  unfold State.slowPut
  repeat' first
    | with_reducible assumption
    | with_reducible apply State.modSlow_keeps
    | split
    | dsimp only

theorem State.regPut_keeps {s₀ s : State} (b : Blk) (o : Nat) (w : Wr)  (h : Keeps true s₀ s) : Keeps true s₀ (State.regPut s b o w) := by
  unfold State.regPut
  repeat' first
    | with_reducible assumption
    | with_reducible apply State.glbPut_keeps
    | with_reducible apply State.imgPut_keeps
    | with_reducible apply State.gatePut_keeps
    | with_reducible apply State.slcPut_keeps
    | with_reducible apply State.homPut_keeps
    | with_reducible apply State.rtrPut_keeps
    | with_reducible apply State.portPut_keeps
    | with_reducible apply State.protPut_keeps
    | with_reducible apply State.fltPut_keeps
    | with_reducible apply State.capPut_keeps
    | with_reducible apply State.mbxPut_keeps
    | with_reducible apply State.slowPut_keeps
    | split
    | dsimp only

end Sys2Proof.Machine
end

