-- ==== Sys2Proof/Laws/Keep/Regs.lean ====
section
/-! SUPPORT. What the operations of Machine.Regs keep. -/

namespace Sys2Proof.Machine

open Sys2Proof

set_option linter.unreachableTactic false
set_option linter.unusedTactic false
set_option linter.unusedVariables false
set_option Elab.async false

theorem State.cfgReply_keeps {c₀ : Bool} {s₀ s : State} (p : Nat) (at_ : KTime) (m : Msg)  (h : Keeps c₀ s₀ s) : Keeps c₀ s₀ (State.cfgReply s p at_ m) := by
  unfold State.cfgReply
  repeat' first
    | with_reducible assumption
    | with_reducible apply State.modGate_keeps
    | dsimp only

theorem State.writeAt_keeps {s₀ s : State} (a : Access) (v : View) (b : Blk) (o : Nat) (val : BitVec 64)  (h : Keeps true s₀ s) : Keeps true s₀ (State.writeAt s a v b o val) := by
  unfold State.writeAt
  repeat' first
    | with_reducible assumption
    | with_reducible apply State.logAcc_keeps
    | with_reducible apply State.cntPut_keeps
    | with_reducible apply State.regPut_keeps
    | split
    | dsimp only

theorem State.readAt_keeps {c₀ : Bool} {s₀ s : State} (b : Blk) (o : Nat) (size : Nat)  (h : Keeps c₀ s₀ s) : Keeps c₀ s₀ (State.readAt s b o size).1 := by
  unfold State.readAt
  repeat' first
    | with_reducible assumption
    | with_reducible apply State.drawn_keeps
    | split
    | dsimp only

theorem State.perform_keeps {s₀ s : State} (a : Access) (v : View) (b : Blk) (o : Nat)  (h : Keeps true s₀ s) : Keeps true s₀ (State.perform s a v b o).1 := by
  unfold State.perform
  repeat' first
    | with_reducible assumption
    | with_reducible apply State.logAcc_keeps
    | with_reducible apply State.writeAt_keeps
    | with_reducible apply State.readAt_keeps
    | split
    | with_reducible refine Keeps.pair (by assumption) ?_
    | dsimp only

theorem State.access_keeps {s₀ s : State} (a : Access)  (h : Keeps true s₀ s) : Keeps true s₀ (State.access s a).1 := by
  unfold State.access
  repeat' first
    | with_reducible assumption
    | with_reducible apply State.logAcc_keeps
    | with_reducible apply State.perform_keeps
    | split
    | with_reducible refine Keeps.pair (by assumption) ?_
    | dsimp only

theorem State.complete_keeps {c₀ : Bool} {s₀ s₁ : State} {r : Reply} (write : Bool) (h : Keeps c₀ s₀ r.1) : Keeps c₀ s₀ (State.complete r write) := by
  unfold State.complete
  exact State.emit_keeps _ h

theorem State.regAccess_keeps {s₀ s : State} (a : Access)  (h : Keeps true s₀ s) : Keeps true s₀ (State.regAccess s a) := by
  unfold State.regAccess
  repeat' first
    | with_reducible assumption
    | with_reducible apply State.access_keeps
    | with_reducible apply State.complete_keeps
    | split
    | with_reducible refine Keeps.pair (by assumption) ?_
    | dsimp only

theorem State.pageRead_keeps {s₀ s : State} (k : Nat) (off : Nat) (size : Nat)  (h : Keeps true s₀ s) : Keeps true s₀ (State.pageRead s k off size).1 := by
  unfold State.pageRead
  repeat' first
    | with_reducible assumption
    | with_reducible apply State.perform_keeps
    | with_reducible apply State.capDenied_keeps
    | split
    | with_reducible refine Keeps.pair (by assumption) ?_
    | dsimp only

theorem State.barRead_keeps {s₀ s : State} (who : Requester) (bar : Nat) (off : Nat) (size : Nat)  (h : Keeps true s₀ s) : Keeps true s₀ (State.barRead s who bar off size) := by
  unfold State.barRead
  repeat' first
    | with_reducible assumption
    | with_reducible apply State.regAccess_keeps
    | with_reducible apply State.complete_keeps
    | with_reducible apply State.pageRead_keeps
    | split
    | with_reducible refine Keeps.pair (by assumption) ?_
    | dsimp only

theorem State.cfgAccess_keeps {s₀ s : State} (p : Nat) (m : Msg) (write : Bool)  (h : Keeps true s₀ s) : Keeps true s₀ (State.cfgAccess s p m write) := by
  unfold State.cfgAccess
  repeat' first
    | with_reducible assumption
    | with_reducible apply State.ingressEdge_keeps
    | with_reducible apply State.bump_keeps
    | with_reducible apply State.cfgReply_keeps
    | with_reducible apply State.access_keeps
    | split
    | with_reducible refine Keeps.pair (by assumption) ?_
    | dsimp only

theorem execSphMaxWrite_keeps {s₀ s : State} (who : Requester) (t : Nat) (val : BitVec 32) (h : Keeps true s₀ s) : ∃ t₁, execSphMaxWrite who t val s = .next t₁ ∧ Keeps true s₀ t₁ := by
  refine ⟨_, rfl, ?_⟩
  repeat' first
    | with_reducible assumption
    | with_reducible apply State.regAccess_keeps
    | split
    | dsimp only

theorem execCfgWr_keeps {s₀ s : State} (port : Nat) (m : Msg) (h : Keeps true s₀ s) : ∃ t₁, execCfgWr port m s = .next t₁ ∧ Keeps true s₀ t₁ := by
  refine ⟨_, rfl, ?_⟩
  repeat' first
    | with_reducible assumption
    | with_reducible apply State.atPort_keeps
    | with_reducible apply State.cfgAccess_keeps
    | intro _
    | dsimp only

theorem execShadowWrite_keeps {s₀ s : State} (who : Requester) (off : BitVec 26) (size : Nat) (val : BitVec 64) (h : Keeps true s₀ s) : ∃ t₁, execShadowWrite who off size val s = .next t₁ ∧ Keeps true s₀ t₁ := by
  refine ⟨_, rfl, ?_⟩
  repeat' first
    | with_reducible assumption
    | with_reducible apply State.regAccess_keeps
    | split
    | dsimp only

theorem execCfgRd_keeps {s₀ s : State} (port : Nat) (m : Msg) (h : Keeps true s₀ s) : ∃ t₁, execCfgRd port m s = .next t₁ ∧ Keeps true s₀ t₁ := by
  refine ⟨_, rfl, ?_⟩
  repeat' first
    | with_reducible assumption
    | with_reducible apply State.atPort_keeps
    | with_reducible apply State.cfgAccess_keeps
    | intro _
    | dsimp only

theorem execCounterWrite_keeps {s₀ s : State} (who : Requester) (off : BitVec 26) (size : Nat) (val : BitVec 64) (inc : Nat) (h : Keeps true s₀ s) : ∃ t₁, execCounterWrite who off size val inc s = .next t₁ ∧ Keeps true s₀ t₁ := by
  refine ⟨_, rfl, ?_⟩
  repeat' first
    | with_reducible assumption
    | with_reducible apply State.regAccess_keeps
    | split
    | dsimp only

theorem execRegisterWrite_keeps {s₀ s : State} (who : Requester) (off : BitVec 26) (size : Nat) (val : BitVec 64) (h : Keeps true s₀ s) : ∃ t₁, execRegisterWrite who off size val s = .next t₁ ∧ Keeps true s₀ t₁ := by
  refine ⟨_, rfl, ?_⟩
  repeat' first
    | with_reducible assumption
    | with_reducible apply State.regAccess_keeps
    | dsimp only

theorem execAliasWrite_keeps {s₀ s : State} (who : Requester) (off : BitVec 26) (size : Nat) (val : BitVec 64) (h : Keeps true s₀ s) : ∃ t₁, execAliasWrite who off size val s = .next t₁ ∧ Keeps true s₀ t₁ := by
  refine ⟨_, rfl, ?_⟩
  repeat' first
    | with_reducible assumption
    | with_reducible apply State.regAccess_keeps
    | split
    | dsimp only

theorem execRegisterRead_keeps {s₀ s : State} (who : Requester) (bar : Nat) (off : BitVec 26) (size : Nat) (h : Keeps true s₀ s) : ∃ t₁, execRegisterRead who bar off size s = .next t₁ ∧ Keeps true s₀ t₁ := by
  refine ⟨_, rfl, ?_⟩
  repeat' first
    | with_reducible assumption
    | with_reducible apply State.barRead_keeps
    | dsimp only

theorem execSlowWrite_keeps {s₀ s : State} (who : Requester) (off : BitVec 26) (size : Nat) (val : BitVec 64) (h : Keeps true s₀ s) : ∃ t₁, execSlowWrite who off size val s = .next t₁ ∧ Keeps true s₀ t₁ := by
  refine ⟨_, rfl, ?_⟩
  repeat' first
    | with_reducible assumption
    | with_reducible apply State.regAccess_keeps
    | split
    | dsimp only

theorem execSlowWriteDone_keeps {c₀ : Bool} {s₀ s : State} (k : Nat) (h : Keeps c₀ s₀ s) : ∃ t₁, execSlowWriteDone k s = .next t₁ ∧ Keeps c₀ s₀ t₁ := by
  refine ⟨_, rfl, ?_⟩
  repeat' first
    | with_reducible assumption
    | with_reducible apply State.modSlow_keeps
    | with_reducible apply State.accPut_keeps
    | split
    | dsimp only

end Sys2Proof.Machine
end

