-- ==== Sys2Proof/Laws/Keep/Clock.lean ====
section
/-! SUPPORT. What the operations of Machine.Clock keep. -/

namespace Sys2Proof.Machine

open Sys2Proof

set_option linter.unreachableTactic false
set_option linter.unusedTactic false
set_option linter.unusedVariables false
set_option Elab.async false

theorem tsorted_map {α β : Type} (g : α → β) (t : Tab α) : tsorted (t.map (fun e => (e.1, g e.2))) = tsorted t := by
  induction t with
  | nil => rfl
  | cons a t ih => cases t with
    | nil => rfl
    | cons b t => simp only [List.map_cons, tsorted] at ih ⊢; rw [ih]

theorem twf_map {α : Type} [DecidableEq α] {d : α} {t : Tab α} (g : α → α) (hg : ∀ v, v ≠ d → g v ≠ d) (h : twf d t = true) :
    twf d (t.map (fun e => (e.1, g e.2))) = true := by
  simp only [twf, Bool.and_eq_true, List.all_eq_true, decide_eq_true_eq, tsorted_map] at h ⊢
  refine ⟨h.1, fun e he => ?_⟩
  obtain ⟨x, hx, rfl⟩ := List.mem_map.1 he
  exact hg _ (h.2 x hx)

theorem tickDomain_ne {v : Domain} (h : v ≠ {}) : tickDomain v ≠ {} := by
  unfold tickDomain
  split
  · rename_i hr
    intro hc
    have := congrArg Domain.running hc
    simp [hr] at this
  · exact h

theorem State.countEdge_keeps {c₀ : Bool} {s₀ s : State}   (h : Keeps c₀ s₀ s) : Keeps c₀ s₀ (State.countEdge s) := by
  unfold State.countEdge
  repeat' first
    | with_reducible assumption
    | dsimp only
    | exact h.trans ⟨rfl, id, id, fun _ => rfl, Nat.le_refl _, List.prefix_refl _, Nat.le_refl _, id, id, id, id, id, id, fun h => twf_map _ (fun v => tickDomain_ne) h, id, id, id, id, id⟩
    | with_reducible refine Keeps.of ?_ rfl rfl rfl rfl rfl rfl rfl rfl rfl rfl rfl rfl rfl rfl rfl rfl rfl rfl

theorem State.creditEdge_keeps {c₀ : Bool} {s₀ s : State}   (h : Keeps c₀ s₀ s) : Keeps c₀ s₀ (State.creditEdge s) := by
  unfold State.creditEdge
  repeat' first
    | with_reducible assumption
    | with_reducible apply State.returnCredits_keeps
    | with_reducible refine Keeps.foldl ?_ ?_
    | with_reducible refine Keeps.foldl1 ?_ ?_
    | intro _
    | split
    | dsimp only

theorem tickAclk_keeps {c₀ : Bool} {s₀ s : State}   (h : Keeps c₀ s₀ s) : Keeps c₀ s₀ (tickAclk s) := by
  unfold tickAclk
  repeat' first
    | with_reducible assumption
    | split
    | dsimp only
    | with_reducible refine Keeps.of ?_ rfl rfl rfl rfl rfl rfl rfl rfl rfl rfl rfl rfl rfl rfl rfl rfl rfl rfl

theorem State.tick_keeps {c₀ : Bool} {s₀ s : State}   (h : Keeps c₀ s₀ s) : Keeps c₀ s₀ (State.tick s) := by
  unfold State.tick
  repeat' first
    | with_reducible assumption
    | with_reducible apply tickAclk_keeps
    | with_reducible apply State.creditEdge_keeps
    | with_reducible apply State.cellFences_keeps
    | with_reducible apply State.auditEdge_keeps
    | with_reducible apply State.countEdge_keeps
    | split
    | dsimp only

end Sys2Proof.Machine
end

