-- ==== Sys2Proof/Laws/Link.lean ====
section
/-! SUPPORT. What the link layer changes when a message arrives under a credit: the port's link state, counters and what has left, and nothing else. -/

namespace Sys2Proof.Machine

open Sys2Proof

/-- Two states of a port that differ in its link layer only; with `c` its ingress queue holds the same cells too. -/
def SamePort (c : Bool) (x y : Port) : Prop :=
  y.state = x.state ∧ y.detach = x.detach ∧ y.carriedIn = x.carriedIn ∧ y.carriedUsed = x.carriedUsed ∧ y.pcarried = x.pcarried ∧ (c = true → y.inHeld = x.inHeld)

/-- `t` is `s` but for link layers, counters and what has left. -/
def LinkOnly (c : Bool) (s t : State) : Prop :=
  (∃ P C O, t = { s with ports := P, cnt := C, out := O }) ∧ ∀ q, SamePort c (s.port q) (t.port q)

theorem LinkOnly.refl (c : Bool) (s : State) : LinkOnly c s s := ⟨⟨_, _, _, rfl⟩, fun _ => ⟨rfl, rfl, rfl, rfl, rfl, fun _ => rfl⟩⟩

theorem LinkOnly.bumpN {c : Bool} {r s : State} (k i : Nat) (h : LinkOnly c r s) : LinkOnly c r (s.bumpN k i) := by
  obtain ⟨⟨P, C, O, rfl⟩, h⟩ := h
  exact ⟨⟨_, _, _, rfl⟩, h⟩

theorem LinkOnly.emit {c : Bool} {r s : State} (o : Out) (h : LinkOnly c r s) : LinkOnly c r (s.emit o) := by
  obtain ⟨⟨P, C, O, rfl⟩, h⟩ := h
  exact ⟨⟨_, _, _, rfl⟩, h⟩

theorem LinkOnly.modPort {c : Bool} {r s : State} (p : Nat) {f : Port → Port} (hf : ∀ x, SamePort c x (f x)) (h : LinkOnly c r s) : LinkOnly c r (s.modPort p f) := by
  obtain ⟨⟨P, C, O, rfl⟩, h⟩ := h
  refine ⟨⟨_, _, _, rfl⟩, fun q => ?_⟩
  rw [State.modPort_port]
  split
  · rename_i e
    subst e
    obtain ⟨h1, h2, h3, h4, h5, h6⟩ := h q
    obtain ⟨k1, k2, k3, k4, k5, k6⟩ := hf (State.port _ q)
    exact ⟨k1.trans h1, k2.trans h2, k3.trans h3, k4.trans h4, k5.trans h5, fun e => (k6 e).trans (h6 e)⟩
  · exact h q

theorem LinkOnly.toLane {c : Bool} {r s : State} (p : Nat) (seq : BitVec 16) (f : BitVec 672) (h : LinkOnly c r s) : LinkOnly c r (s.toLane p seq f) := by
  unfold State.toLane
  dsimp only
  split
  · split
    · apply LinkOnly.emit; apply LinkOnly.emit; apply LinkOnly.emit; refine LinkOnly.modPort p (fun x => ?_) h; exact ⟨rfl, rfl, rfl, rfl, rfl, fun _ => rfl⟩
    · apply LinkOnly.emit; apply LinkOnly.emit; refine LinkOnly.modPort p (fun x => ?_) h; exact ⟨rfl, rfl, rfl, rfl, rfl, fun _ => rfl⟩
  · apply LinkOnly.emit; refine LinkOnly.modPort p (fun x => ?_) h; exact ⟨rfl, rfl, rfl, rfl, rfl, fun _ => rfl⟩

theorem LinkOnly.linkFlit {c : Bool} {r s : State} (p : Nat) (nak : Bool) (seq : BitVec 16) (h : LinkOnly c r s) : LinkOnly c r (s.linkFlit p nak seq) :=
  ((h.bumpN _ 1).toLane _ _ _).emit _

theorem LinkOnly.gotFlits (c : Bool) (s : State) (p h d m : Nat) : LinkOnly c s (s.gotFlits p h d m) := by
  unfold State.gotFlits
  dsimp only
  split
  · apply LinkOnly.linkFlit; apply LinkOnly.bumpN; apply LinkOnly.bumpN; apply LinkOnly.bumpN
    refine LinkOnly.modPort p (fun x => ?_) (LinkOnly.refl c s); exact ⟨rfl, rfl, rfl, rfl, rfl, fun _ => rfl⟩
  · apply LinkOnly.bumpN; apply LinkOnly.bumpN; apply LinkOnly.bumpN
    refine LinkOnly.modPort p (fun x => ?_) (LinkOnly.refl c s); exact ⟨rfl, rfl, rfl, rfl, rfl, fun _ => rfl⟩

theorem LinkOnly.iport {c : Bool} {s t : State} (h : LinkOnly c s t) : t.iport = s.iport := by
  obtain ⟨⟨P, C, O, rfl⟩, _⟩ := h
  rfl

/-- A message is taken exactly when the credits cover it. -/
theorem State.takeCredit_taken (s : State) (p : Nat) (m : Msg) : (s.takeCredit p m).2 = s.covered p m := by
  unfold State.takeCredit State.covered
  dsimp only
  have h := LinkOnly.gotFlits true s p 1 (dfNum m) 0
  rw [h.iport, (h.2 p).2.2.2.2.2 rfl]
  split <;> simp_all

/-- A message that arrives under a credit at a port in service is taken in the state `landed`. -/
theorem State.atPort_landed (s : State) (p : Nat) (m : Msg) (f : State → State) (h1 : s.inSvc p = true) (h2 : s.covered p m = true) :
    s.atPort p m f = f (s.landed p m) := by
  unfold State.atPort State.landed
  rw [if_pos h1]
  simp only [State.takeCredit_taken, h2, if_true]

/-- Arriving under a credit changes the link layer only. -/
theorem State.landed_frame (s : State) (p : Nat) (m : Msg) (h2 : s.covered p m = true) : LinkOnly false s (s.landed p m) := by
  have h := State.takeCredit_taken s p m
  rw [h2] at h
  unfold State.landed State.takeCredit at *
  dsimp only at *
  split at h
  · rename_i hc
    rw [if_pos hc]
    refine LinkOnly.modPort p (fun x => ?_) (LinkOnly.modPort p (fun x => ?_) (LinkOnly.gotFlits false s p 1 (dfNum m) 0))
    · exact ⟨rfl, rfl, rfl, rfl, rfl, nofun⟩
    · exact ⟨rfl, rfl, rfl, rfl, rfl, nofun⟩
  · cases h

/-- The ingress edge of a request changes its Gate only. -/
theorem State.ingressEdge_frame (s : State) (g k : Nat) : ∃ f, (s.ingressEdge g k).1 = s.modGate g f := by
  unfold State.ingressEdge
  dsimp only
  split
  · exact ⟨_, rfl⟩
  · split <;> exact ⟨_, rfl⟩

end Sys2Proof.Machine
end

