-- ==== Sys2Proof/WellFormed.lean ====
section
/-! DEFINITION. The operands that a command may carry: numbers inside the ranges of R16 to R23, R95 to R102, R140, R276, R396, R423, R577. -/

namespace Sys2Proof

def nodeOk (n : Nat) : Bool := decide (n < 64)
def portOk (p : Nat) : Bool := decide (p < 256)
def domOk (d : Nat) : Bool := decide (d < 16)
def tenOk (t : Nat) : Bool := decide (t < 16)
def keyOk (k : Nat) : Bool := decide (k < 64)
def jobOk (j : Nat) : Bool := decide (j < 8)
def vfOk (k : Nat) : Bool := decide (1 ≤ k) && decide (k ≤ 16)
/-- A requester of R549. -/
def whoOk : Requester → Bool | .pf0 => true | .vf k => vfOk k | .window d => domOk d | .medulla => true
/-- Width of a register access in bytes. -/
def sizeOk (n : Nat) : Bool := decide (1 ≤ n) && decide (n ≤ 4096)
def barOk (b : Nat) : Bool := decide (b = 0) || decide (b = 2) || decide (b = 4)
/-- A vector of a function (R561, R562). -/
def vecOk (fn vec : Nat) : Bool := decide (fn ≤ 16) && decide (vec < if fn = 0 then 256 else 8)
/-- An offset in the SET, CLR or TGL view (R547). -/
def aliasOk (a : BitVec 26) : Bool := decide (0x1400000 ≤ a.toNat) && decide (0x400000 ≤ a.toNat % 0x1000000)
def slowOk (a : BitVec 26) : Bool := decide (0x1200000 ≤ a.toNat) && decide (a.toNat < 0x1250000)
def counterOk (a : BitVec 26) : Bool := decide (0x1001000 ≤ a.toNat) && decide (a.toNat < 0x1050000)
/-- A sensor of R537. -/
def sensorOk : Sensor → Bool | .die i => decide (i < 8) | .tile i => decide (i < 16) | .pstage i => decide (i < 2) | .inlet => true
/-- The words of a set that a trip's bit errors name: 16 tag words and 8 presence words, and a way in which a hit was resolved. -/
def tryOk (x : PassTry) : Bool :=
  x.tags.all (fun e => decide (e.1 < 16)) && x.pres.all (fun e => decide (e.1 < 8)) &&
    (match x.differ with | some (some w) => decide (w < 16) | _ => true)
/-- What a pass may meet: words of its set, and the 16 codewords of one line. -/
def faultOk (x : PassFault) : Bool := tryOk x.first && tryOk x.replay && decide (x.tile.length ≤ 16)
def passOk (p : PassAt) : Bool := nodeOk p.n && faultOk p.x
/-- The ways of a peer-directory set. -/
def dirFaultOk : DirFault → Bool | .clean => true | .corrected w _ => decide (w < 16) | .lost w _ => decide (w < 16)
def arrivalOk : Arrival → Bool | .port k _ => decide (k < 4) | _ => true
def arrayOk : ArrayOp → Bool | .readLine n k => nodeOk n && decide (k < 65536) | .writeLine n k _ => nodeOk n && decide (k < 65536) | .forbidden => true
def cfgReqOk : CfgReq → Bool | .read f => decide (f ≤ 16) | .setBars f _ => decide (f ≤ 16) | .other f => decide (f ≤ 16) | _ => true
/-- DISC_CFG's narrow fields (R365). -/
def discOk (x : DiscCfg) : Bool := decide (x.cred.length = 5) && decide (x.rootIdx < 4) && decide (x.rootHops < 16)
/-- A start finds each partner on a port that exists, and reports at most 11 steps (R493). -/
def startOk (x : StartIn) : Bool := x.found.all (fun f => portOk f.port) && decide (x.elapsed.length ≤ 11)
def applyOk (x : ApplyIn) : Bool := x.dirty.all (fun e => domOk e.1) && x.nodes.all (fun e => decide (e.1 < 8) && decide (e.2.1 < 64)) && x.silent.all portOk

/-- Whether a command's operands lie in their ranges. -/
def Instr.wf : Instr → Bool
  | .start x => startOk x
  | .supplyRetry x => startOk x
  | .resetN _ _ => true
  | .pfwN _ _ _ => true
  | .inputInvalid _ _ => true
  | .vinDip _ => true
  | .dipTimer => true
  | .eWarn _ => true
  | .ride _ _ => true
  | .overvolt _ => true
  | .thermal x _ => sensorOk x
  | .warn x _ => sensorOk x
  | .pfwRelease _ _ => true
  | .perstN _ => true
  | .flr => true
  | .flrVf k => vfOk k
  | .refLost _ _ => true
  | .refReturn => true
  | .drain => true
  | .quiescent _ => true
  | .maint => true
  | .resume => true
  | .forcePair x => startOk x
  | .pairGood => true
  | .fenceForget => true
  | .knownGood => true
  | .imgWrite _ _ _ => true
  | .imgVerify _ => true
  | .imgTrial _ => true
  | .imgApply _ x y => applyOk x && startOk y
  | .imgConfirm => true
  | .imgErase _ => true
  | .imgRoute _ _ => true
  | .getInfo _ => true
  | .fwWrite _ _ _ => true
  | .fwVerify _ => true
  | .mcWrite _ _ _ => true
  | .mcVerify _ => true
  | .ownerFill _ _ => true
  | .ownerEmpty _ _ => true
  | .peatRead _ => true
  | .measurements blocks => blocks.all (fun i => decide (1 ≤ i) && decide (i ≤ 8))
  | .cert slot => decide (slot < 8)
  | .chal _ => true
  | .keyEx _ => true
  | .hbeat _ => true
  | .ideKm _ _ => true
  | .ideCheckFail => true
  | .msixPendingSend fn vec => vecOk fn vec
  | .registerWrite who _ size _ => whoOk who && sizeOk size
  | .aliasWrite who off size _ => whoOk who && sizeOk size && aliasOk off
  | .counterWrite who off size _ inc => whoOk who && sizeOk size && counterOk off && decide (inc < 4096)
  | .slowWrite who off size _ => whoOk who && sizeOk size && slowOk off
  | .slowWriteDone k => decide (k < 80)
  | .shadowWrite who _ size _ => whoOk who && sizeOk size
  | .sphMaxWrite who t _ => whoOk who && decide (t < 16)
  | .cfgRd port _ => portOk port
  | .cfgWr port _ => portOk port
  | .qrel n => nodeOk n
  | .homQrel n => nodeOk n
  | .lstest n _ => nodeOk n
  | .predClr n => nodeOk n
  | .predClrDone n => nodeOk n
  | .slcAudit n => nodeOk n
  | .slcAuditEnd n => nodeOk n
  | .flush n q => nodeOk n && decide (q < 256)
  | .flushDone n q => nodeOk n && decide (q < 256)
  | .holdClr g => nodeOk g
  | .gateAudit g => nodeOk g
  | .gateAuditEnd g => nodeOk g
  | .rtrAudit n => nodeOk n
  | .rtrAuditEnd n => nodeOk n
  | .homNcAudit n => nodeOk n
  | .homNcAuditEnd n => nodeOk n
  | .lock ten => tenOk ten
  | .unlock ten => tenOk ten
  | .lockPass p _ ten => passOk p && tenOk ten
  | .unlockPass p _ ten => passOk p && tenOk ten
  | .claim => true
  | .release => true
  | .commit => true
  | .epochDrained => true
  | .keygen k => keyOk k
  | .retire k => keyOk k
  | .retireEnd k => keyOk k
  | .rangeInvalidation d => domOk d
  | .rekey job rng newkey => jobOk job && decide (rng < 256) && keyOk newkey
  | .reseed job rng newkey => jobOk job && decide (rng < 256) && keyOk newkey
  | .crozierPass job _ => jobOk job
  | .pop => true
  | .unfence _ index => decide (index < 256)
  | .arm => true
  | .disarm => true
  | .snap => true
  | .zero incs => incs.all (fun e => decide (e.2 < 4096))
  | .capsuleLatch => true
  | .dumpEnd _ => true
  | .pageZero who t incs => whoOk who && tenOk t && incs.all (fun e => decide (e.1 < 32) && decide (e.2 < 4096))
  | .rdSh port _ => portOk port
  | .rdOwn port _ => portOk port
  | .ownUpg port _ => portOk port
  | .ownNodata port _ => portOk port
  | .rdNa port _ => portOk port
  | .wr port _ => portOk port
  | .carriedRequest port _ => portOk port
  | .holdExpire g h => nodeOk g && decide (h < 32)
  | .retryOrderClose g slot _ => nodeOk g && decide (slot < 4)
  | .balancer d => domOk d
  | .slotAdvance d => domOk d
  | .watchTimeout g i => nodeOk g && decide (i < 1024)
  | .tailExpire g _ => nodeOk g
  | .completionEgress port _ => portOk port
  | .barrier port _ => portOk port
  | .barDone g _ => nodeOk g
  | .lookupPass n _ x => nodeOk n && faultOk x
  | .pfHint n _ => nodeOk n
  | .runAheadExpire n _ => nodeOk n
  | .tileData n slot _ flips _ _ => nodeOk n && decide (slot < 65536) && decide (flips.length ≤ 8)
  | .halfFill n _ => nodeOk n
  | .snpSh n _ x => nodeOk n && faultOk x
  | .snpOwn n _ x => nodeOk n && faultOk x
  | .snpInv n _ x => nodeOk n && faultOk x
  | .snpCur n _ x => nodeOk n && faultOk x
  | .rspI _ n _ x => nodeOk n && faultOk x
  | .rspS _ n _ x => nodeOk n && faultOk x
  | .rspFwd _ n _ x => nodeOk n && faultOk x
  | .sdata _ n _ x => nodeOk n && faultOk x
  | .compAck _ p _ => passOk p
  | .data n _ x => nodeOk n && faultOk x
  | .grant p _ => passOk p
  | .cmp p _ => passOk p
  | .dur p _ => passOk p
  | .err p _ => passOk p
  | .wbAck n _ => nodeOk n
  | .wbSuperseded n _ => nodeOk n
  | .wb _ p _ => passOk p
  | .evn _ p _ => passOk p
  | .rolloverEnd n _ => nodeOk n
  | .homeSequence n _ src => nodeOk n && decide (src < 512)
  | .activation p _ => nodeOk p.n && dirFaultOk p.x
  | .memData n _ _ => nodeOk n
  | .memAck n _ => nodeOk n
  | .memDur n _ _ => nodeOk n
  | .memWrEjected n _ => nodeOk n
  | .mshrTimeout n i => nodeOk n && decide (i < 192)
  | .nodeClean n _ => nodeOk n
  | .epoch n => nodeOk n
  | .sphagnumMove n => nodeOk n
  | .sweepMarker n => nodeOk n
  | .sweepPass p => passOk p
  | .sweepEnd n => nodeOk n
  | .patrolScrub n flips x => nodeOk n && decide (flips.length ≤ 16) && faultOk x
  | .dirScrub n x => nodeOk n && dirFaultOk x
  | .ncScrub n _ _ => nodeOk n
  | .stipeScrub disagree badKeys => badKeys.all keyOk && disagree.all (fun e => decide (e.1 < 512) && decide (e.2 < 3))
  | .spareRemap n => nodeOk n
  | .sliceDrainStep n => nodeOk n
  | .drainEnd n => nodeOk n
  | .handoverEnd n => nodeOk n
  | .detour d => domOk d
  | .detourReorderEnd d => domOk d
  | .unitArrival n a _ => nodeOk n && arrivalOk a
  | .detect p _ => portOk p
  | .train p _ => portOk p
  | .discId p _ => portOk p
  | .discCfg p x => portOk p && discOk x
  | .discKeyx p _ _ _ => portOk p
  | .discDone p _ => portOk p
  | .discRej p reason => portOk p && decide (reason < 16)
  | .discTimeout p => portOk p
  | .failedReturn p => portOk p
  | .timeStep d => domOk d
  | .tsyncExchange p _ => portOk p
  | .tsyncReq p _ _ _ => portOk p
  | .tsyncRsp p _ _ _ _ _ rootIdx rootHops => portOk p && decide (rootIdx < 4) && decide (rootHops < 16)
  | .syncLost d => domOk d
  | .lack p _ => portOk p
  | .lnak p _ => portOk p
  | .tag p _ _ _ _ => portOk p
  | .linkKeyExchange p _ _ _ => portOk p
  | .retrain p => portOk p
  | .fastRetrainEnd p _ => portOk p
  | .portDrain p => portOk p
  | .detachReq p => portOk p
  | .detachAck p => portOk p
  | .detachDone p => portOk p
  | .drainFallback p => portOk p
  | .partnerDead p => portOk p
  | .isolationEnd p => portOk p
  | .sensorRefresh _ => true
  | .page _ _ => true
  | .clearFaults _ => true
  | .capability _ => true
  | .voutMode _ => true
  | .statusByte _ => true
  | .statusWord _ => true
  | .statusVout _ => true
  | .statusIout _ => true
  | .statusInput _ => true
  | .statusTemperature _ => true
  | .statusCml _ => true
  | .readVin _ => true
  | .readIin _ => true
  | .readVout _ => true
  | .readIout _ => true
  | .readTemperature1 _ => true
  | .readTemperature2 _ => true
  | .readTemperature3 _ => true
  | .readPout _ => true
  | .readPin _ => true
  | .pmbusRevision _ => true
  | .mfrId _ => true
  | .mfrModel _ => true
  | .mfrRevision _ => true
  | .alertResponse => true
  | .idcode => true
  | .bypass _ => true
  | .samplePreload _ => true
  | .extest _ => true
  | .arrayInstruction x => arrayOk x
  | .linkCheckFail p _ => portOk p
  | .trainingBudget p _ => portOk p
  | .registerRead who bar _ size => whoOk who && barOk bar && sizeOk size
  | .configurationRequest x => cfgReqOk x
  | .vectorUnmask fn vec => vecOk fn vec
  | .alwaysOnDomainStart _ => true
  | .retryResend d => domOk d
  | .pmbusInvalidCommand _ _ => true

end Sys2Proof
end

