-- ==== Sys2Proof/Tests/Slice0.lean ====
section
/-! SUPPORT. Tests: ill-formed commands that the check refuses, a witness for every statement with hypotheses, and results worked out from the manual. -/

namespace Sys2Proof.Tests

open Sys2Proof Sys2Proof.Machine

set_option Elab.async false

/-! ### Small states -/

/-- A Compact domain of nodes 0, 1, 8 and 9, device 5; line 0 and its tag 0 belong to node 0, set 0. -/
def dc : ImgDomain := { nlog := 2, wlog := 1, device := 5, cfgwin := 0x1000 }
/-- A Full domain of nodes 32 to 63, device 6. -/
def df : ImgDomain := { nlog := 5, origin := 32, wlog := 1, device := 6 }
/-- Eight credits in each virtual network, and a port in service whose partner grants as many. -/
def c8 : List Nat := [8, 8, 8, 8, 8]
def ps : Port := { state := .service, wact := some 0, padv := c8, pcarried := 4 }
/-- Port 0 NEAR, port 1 PLAIN, port 2 MEMORY, port 3 PEER, all of node 0; tenancies 0 and 1 of domain 0. -/
def im : Thallus := {
  doms := [(0, dc), (1, df)]
  ports := [(0, { role := .near, cred := c8 }), (1, { role := .plain, cred := c8 }), (2, { role := .memory, durable := 1000, cred := c8 }),
    (3, { role := .peer, carried := 4, cred := c8 }), (128, { role := .plain, cred := c8 })]
  tens := [(0, { domain := 0, min := 1, max := 2 }), (1, { domain := 0, min := 2, max := 2 })]
  nears := [{ domain := 0, group := 0, ports := [0] }]
  homes := [{ domain := 0, size := 1, port := 2, prot := true, metaBase := 0x80000000 }]
  svcs := [(0, { burst := List.replicate 9 8, rate := List.replicate 9 1, t2Limit := 4, t2Share := 4, snoopShare := 4, span := 40 })]
  routes := [(0, [{ dev := 9, ports := [3] }])] }

def perm (t : BitVec 4) : PermEnt := { valid := true, rd := true, wr := true, cfg := true, trust := true, ten := t }

/-- Serving, with every port of `im` in service and one range over the first MiB of domain 0. -/
def up : State := {
  start := { mode := .serving, firmDone := true }
  imgc := { img := some im, inForce := .a }
  host := { inReset := false, bme := true, bars := [0] }
  doms := [(0, { ktime := ns 5000, running := true }), (1, { ktime := ns 5000, running := true })]
  ports := [(0, ps), (1, ps), (2, ps), (3, ps), (128, ps)]
  clk := { fclk := 100 }
  sphMax := [(0, 2), (1, 2)]
  prot := { permAct := [(0, perm 0), (1, perm 0), (2, perm 0), (3, perm 0)], rngAct := [(0, { lim := 255, valid := true, home := 5 })] }
  slices := [(0, { wayOwn := [0, 0] })] }

/-- `up` in another mode. -/
def md (m : Mode) : State := { up with start := { up.start with mode := m } }
/-- A unit that carries `m`. -/
def un (m : Msg) : FUnit := { src := 0, dst := 0, sink := .slice, msg := m }
/-- With a message in queue `q` of node 0. -/
def qd (s : State) (q : Nat) (m : Msg) : State := s.modPool 0 (fun p => { p with q := tmod [] p.q q (fun l => l ++ [un m]) })
/-- With line 0 in way 0 of node 0. -/
def ln (s : State) (t : TagWord) : State := s.modSlice 0 (fun x => { x with tags := tset {} x.tags 0 t })
def at0 : At := { n := 0, d := 0, D := dc, l := 0 }

/-! ### Witnesses: concrete states and operands that meet the hypotheses of each statement together, clause by clause -/

/-- A start right after reset, at the lowest VIN that begins one. -/
def x0 : StartIn := { vin := 8700, heldUs := 1000, pfwHighUs := 0 }

theorem witness_StartEndsInBareServingOrDegraded :
    (State.reset.start.mode = .dormant ∧ State.reset.pwr.pfwOut = false ∧ x0.resetHigh = true ∧ x0.pfwHigh = true
      ∧ State.reset.pfwSettled x0.pfwHighUs = true ∧ State.reset.inputOk x0.vin x0.heldUs = true ∧ x0.railsOk = true ∧ x0.rootLocks = true)
    ∧ (let s : State := { start := { mode := .rising, supplyWait := true } }; s.start.mode = .rising ∧ s.start.supplyWait = true) := by decide +kernel

theorem witness_SupervisorEvents :
    let s : State := { pwr := { inputValid := true, dip := true, die := List.replicate 8 40 }, clk := { aclk := 5000 } }
    s.pwr.inputValid = true ∧ 8399 < 8400 ∧ s.pwr.dip = true ∧ s.pwr.dipAt + 5000 ≤ s.clk.aclk ∧ s.pwr.offCause = .none ∧ 720000 ≤ 720000 ∧ 8400 ≤ 8400 ∧ s.pwr.pfwOut = false
      ∧ 63000 < 63001 ∧ (45 : Int) < 46 ∧ 7 < 8 ∧ (105 : Int) ≤ 105 ∧ s.pwr.die.length = 8 := by decide +kernel

theorem witness_ResetsAndPowerFail :
    (up.start.mode ≠ .dormant ∧ up.pwr.pfwOut = false ∧ up.pwr.offCause = .none ∧ 1999 < 2000)
    ∧ (let s : State := { pwr := { pfwOut := true } }
       s.start.mode = .dormant ∧ s.pwr.pfwOut = true ∧ (∀ c ∈ s.pwr.die, c ≤ 85) ∧ (∀ c ∈ s.pwr.tile, c ≤ 75) ∧ (∀ c ∈ s.pwr.pstage, c ≤ 95))
    ∧ (State.reset.start.mode = .dormant ∧ State.reset.pwr.inputValid = false)
    ∧ (up.imgc.run = false ∧ up.mbx.run = false ∧ up.cap.dumping = false ∧ up.host.inReset = false)
    ∧ (let s : State := { up with clk := { rootLock := true } }; s.clk.rootLock = true ∧ s.clk.holdover = false)
    ∧ (let s : State := { up with clk := { holdover := true } }
       s.clk.holdover = true ∧ s.clk.relockPend = false ∧ s.start.mode = .serving) := by decide +kernel

theorem witness_ModeCommands :
    (up.start.mode = .serving ∨ up.start.mode = .degraded) ∧ (md .quiescent).start.mode = .quiescent ∧ (md .quiescent).imgc.img.isSome = true
    ∧ (let s : State := { up with start := { up.start with fwUse := .a, mcUse := .a, kgTime := 15000000000 } }
       s.start.mode = .serving ∧ s.isKnownGood = false ∧ s.start.forced = false ∧ 15000000000 ≤ s.start.kgTime)
    ∧ (md .maintenance).start.mode = .maintenance
    ∧ (let s : State := { start := { mode := .bare, stopWhy := .pair } }; s.start.mode = .bare ∧ s.start.stopWhy = .pair)
    ∧ (let s : State := { up with start := { up.start with mode := .draining, drainRun := true }, ports := [] }
       s.start.mode = .draining ∧ s.allQuiet = true ∧ s.protBusy = false) := by decide +kernel

theorem witness_ImageCommands :
    let w (op : Nat) (m : Mode) : State := { md m with imgc := { up.imgc with op := op, run := true } }
    ((w 0 .serving).start.mode ≠ .dormant ∧ (w 0 .serving).start.recovery = false ∧ (w 0 .serving).imgc.run = true ∧ (w 0 .serving).imgc.op = 0
      ∧ (w 0 .serving).imgc.slotB = false ∧ (w 0 .serving).mram.trial = .none ∧ (w 0 .serving).host.bme = true ∧ (w 0 .serving).host.d3hot = false)
    ∧ ((w 1 .serving).imgc.run = true ∧ (w 1 .serving).imgc.op = 1 ∧ (w 6 .serving).imgc.op = 6)
    ∧ (let s : State := { up with flash := { stB := .valid } }
       s.start.mode = .serving ∧ s.start.recovery = false ∧ s.imgc.run = false ∧ s.slotState (slotOfB true) = .valid)
    ∧ (let s : State := { up with mram := { trial := .a } }; s.imgc.run = false ∧ s.imgc.inForce ≠ .none ∧ s.mram.trial = s.imgc.inForce)
    ∧ up.slotHeld (slotOfB true) = false
    ∧ ((w 3 .maintenance).start.mode = .maintenance ∧ (w 3 .maintenance).imgc.run = true ∧ (w 3 .maintenance).imgc.op = 3) := by decide +kernel

theorem witness_MailboxCommands :
    let f : CodeFile := { version := 1, mif := 1, hwMin := 0, hwMax := 255, partners := [], digest := 0 }
    let w (op : Nat) : State := { up with mbx := { op := op, run := true }, flash := { fwA := some f, mcA := some f } }
    (w 1).start.mode ≠ .dormant ∧ (w 1).start.firmDone = true ∧ (w 1).mbx.run = true ∧ (w 1).host.bme = true ∧ (w 1).host.d3hot = false
      ∧ (w 1).mbx.op = 1 ∧ (w 7).mbx.op = 7 ∧ (w 2).mbx.op = 2 ∧ (w 2).mbx.slotB = false ∧ (w 2).start.fwUse ≠ slotOfB false ∧ (w 4).start.mcUse ≠ slotOfB false
      ∧ (w 3).codeFile true (slotOfB false) = some f ∧ (w 5).codeFile false (slotOfB false) = some f ∧ (w 6).mbx.op = 6 := by decide +kernel

theorem witness_AttestationAndIde :
    (up.host.inReset = false ∧ up.start.firmDone = true)
    ∧ (let s : State := { up with host := { up.host with sessions := [1], ide := .secure } }; 1 ∈ s.host.sessions ∧ s.host.ide = .secure)
    ∧ (let s : State := { up with host := { up.host with msix := [(0, { held := [5], sent := [(5, 1)] })] }, clk := { aclk := 250 } }
       5 ∈ (s.msix 0).held ∧ tget 0 (s.msix 0).sent 5 + 250 ≤ s.clk.aclk + 1)
    ∧ (up.host.inReset = false ∧ 5 < vecsOf 0 ∧ 5 ∉ (up.msix 0).pba) := by decide +kernel

theorem witness_RegisterAccesses :
    Claims.hostUp up = true ∧ locate 0xF00014 = some (.normal, .flt, 0x14) ∧ locate 0x1F00014 = some (.set, .flt, 0x14) ∧ locate 0x2F00014 = some (.clr, .flt, 0x14)
    ∧ locate 0x3F00014 = some (.tgl, .flt, 0x14) ∧ 0x3F00014 < 0x4000000 ∧ up.regWord .flt 0x14 = some 0x7C ∧ up.regWord .flt 0x64 = some 0
    ∧ up.regDrop .flt 0x14 (wrOf .pf0 .normal 0x7C 0x7F) = none ∧ up.regDrop .flt 0x14 (wrOf .pf0 .tgl 0x7C 0x7F) = none
    ∧ up.regDrop .flt 0x14 { who := .pf0, nv := 0x7C ||| 3, ones := 3, touch := 3 } = none
    ∧ up.regDrop .flt 0x14 { who := .pf0, nv := 0x7C &&& ~~~4, ones := 0, touch := 4 } = none
    ∧ up.regDrop .flt 0x14 { who := .pf0, nv := 0x7C ^^^ 5, ones := 0, touch := 5 } = none
    ∧ up.regDrop .flt 0x64 (wrOf .pf0 .normal 0 0x200) = some .encoding := by decide +kernel

theorem witness_RangedWrites :
    (Claims.hostUp up = true ∧ 105 < 106 ∧ 4095 < 4096)
    ∧ (15 < 16 ∧ (up.slowB 15).busy = false ∧ up.regDrop (.slow 15) 0x10 (wrOf .pf0 .normal ((up.slowReg 15 0x10).getD 0) 1) = none)
    ∧ (let s : State := { up with slow := [(15, { busy := true, postOff := 0x10, posted := 1 })] }; (s.slowB 15).busy = true ∧ (s.slowB 15).postOff = 0x10)
    ∧ (let s : State := { up with prot := { up.prot with owner := .pf0 } }; Claims.hostUp s = true ∧ s.prot.owner = .pf0 ∧ 255 < 256)
    ∧ ((up.iten 1).isSome = true ∧ up.sphMaxBad 1 2 = false) := by decide +kernel

theorem witness_WindowAccesses :
    (∀ op ∈ [Op.cfgRd, .cfgWr], up.covered 1 { op := op } = true)
    ∧ up.portDom 1 = some (0, dc) ∧ up.inSvc 1 = true ∧ (up.port 1).state ≠ .draining ∧ up.open_ = true ∧ up.stopped 0 = false ∧ (up.iport 1).role ≠ .memory
    ∧ (up.iport 1).role ≠ .off ∧ (up.permOfPort 1).valid = true ∧ (up.permOfPort 1).cfg = true ∧ dc.cfgwin ≠ 0 := by decide +kernel

theorem witness_Audits :
    let s : State := { (up.modSlice 0 (fun x => { x with audRun := true, audLatch := some (0, 0) })).modHome 0 (fun x => { x with ncAudRun := true, ncLatch := some (0, false) })
      with clk := { fclk := 48000 } }
    let g : State := (s.modGate 0 (fun x => { x with audRun := true, audLatch := some (0, false) })).modRouter 0 (fun x => { x with audRun := true, audLatch := some (0, false, false) })
    (g.nodeDom 0 = some (0, dc) ∧ (g.slice 0).audRun = true ∧ (g.slice 0).audLatch = some (0, 0) ∧ 0 + 8192 ≤ g.clk.fclk ∧ g.auditWindow 0 = false)
    ∧ (let b := g.modSlice 0 (fun x => { x with audLatch := some (0, 1) }); (b.slice 0).audRun = true ∧ (b.slice 0).audLatch = some (0, 1) ∧ (1 : BitVec 4) ≠ 0)
    ∧ (let b := g.modSlice 0 (fun x => { x with audLatch := none }); (b.slice 0).audLatch = none ∧ (b.slice 0).audAt + 48000 ≤ b.clk.fclk)
    ∧ (g.gateServes 0 = true ∧ g.isBalancer 0 = true ∧ dc.nodes.any g.auditWindow = false ∧ (g.gate 0).audRun = true ∧ (g.gate 0).audLatch = some (0, false))
    ∧ (g.isFenced (.router 0) = false ∧ (g.router 0).audRun = true ∧ (g.router 0).audLatch = some (0, false, false))
    ∧ (g.isFenced (.home 0) = false ∧ (g.home 0).ncAudRun = true ∧ (g.home 0).ncLatch = some (0, false)) := by decide +kernel

theorem witness_SliceHomeAndPoolCommands :
    let s : State := (up.modSlice 0 (fun x => { x with quar := [(32767, 1)], predClr := true })).modHome 0 (fun x => { x with quar := [(2047, 15)] })
    (s.nodeDom 0 = some (0, dc) ∧ s.isFenced (.slice 0) = false ∧ s.isFenced (.home 0) = false ∧ (s.slice 0).quar = (32767, 1) :: [] ∧ (s.home 0).quar = (2047, 15) :: []
      ∧ (s.slice 0).predClr = true ∧ (up.slice 0).quar = [] ∧ (up.home 0).quar = [])
    ∧ ((up.pool 0).cmdq.toNat ∉ (up.pool 0).flushing ∧ 0 ∉ (up.pool 0).flushing ∧ up.flushAllowed 0 0 = false
      ∧ (let t : State := { up with flt := { fslc := [0] } }
         (t.pool 0).cmdq.toNat ∉ (t.pool 0).flushing ∧ 40 ∉ (t.pool 0).flushing ∧ t.flushAllowed 0 40 = true)
      ∧ (let t := up.modPool 0 (fun p => { p with flushing := [3], cmdq := 3 }); 3 ∈ (t.pool 0).flushing ∧ (t.pool 0).cmdq.toNat ∈ (t.pool 0).flushing)) := by
  decide +kernel

theorem witness_LockCommand :
    let T : ImgTen := { domain := 0, min := 2, max := 2 }
    let L (op : Bool) : State := ({ up with lock := { cnt := 1, go := true, op := op, ten := 1 } }).modSlice 0 (fun x => { x with wayOwn := [1, 1], floor := 3 })
    (let s : State := { up with lock := { base := 0x1FFFFFFFFFFF, cnt := 1 } }
     s.lock.go = false ∧ s.lock.base.toNat + s.lock.cnt.toNat ≤ 2 ^ 45 ∧ s.iten 1 = some T ∧ 1 < T.min ∧ s.open_ = true ∧ s.lock.cnt ≠ 0 ∧ s.iten 2 = none)
    ∧ (let s : State := { up with lock := { base := 0x1FFFFFFFFFFF, cnt := 2 } }; s.lock.go = false ∧ 2 ^ 45 < s.lock.base.toNat + s.lock.cnt.toNat)
    ∧ (let s := L false
       s.lockAt 0 0 1 false = some at0 ∧ s.setLost at0 = false ∧ s.matchWay at0 = none
        ∧ ((List.range at0.D.ways).filter (fun w => (s.tagAt 0 (at0.slot w)).lock && decide ((s.tagAt 0 (at0.slot w)).ten.toNat = 1))).length < s.minOf 1 - 1
        ∧ (s.pickWay at0 (s.cands at0 1 true)).2 = some (0, false, false))
    ∧ (let s := (L false).modSlice 0 (fun x => { x with tags := [(1, { ten := 1, lock := true, tag := 5 })] })
       s.lockAt 0 0 1 false = some at0 ∧ s.setLost at0 = false ∧ s.matchWay at0 = none
        ∧ s.minOf 1 - 1 ≤ ((List.range at0.D.ways).filter (fun w => (s.tagAt 0 (at0.slot w)).lock && decide ((s.tagAt 0 (at0.slot w)).ten.toNat = 1))).length)
    ∧ (let s := ln (L true) { state := .s, ten := 1, lock := true }
       s.lockAt 0 0 1 true = some at0 ∧ s.matchWay at0 = some 0 ∧ (s.tagAt 0 (at0.slot 0)).lock = true ∧ (s.tagAt 0 (at0.slot 0)).ten.toNat = 1) := by decide +kernel

theorem witness_CommitsAndKeys :
    (up.prot.owner = .none ∧ ({ up with prot := { up.prot with owner := .medulla } } : State).prot.owner = .medulla
      ∧ ({ up with prot := { up.prot with owner := .pf0 } } : State).prot.owner = .pf0)
    ∧ up.gates = []
    ∧ (({ up with prot := { up.prot with owner := .pf0, permShd := up.prot.permAct, rngShd := up.prot.rngAct } } : State).commitCheck = 0 ∧ ({ up with prot := { up.prot with drained := false } } : State).commitCheck ≠ 0)
    ∧ (let s : State := { up with prot := { up.prot with drained := false } }; s.prot.drained = false ∧ (∀ g ∈ s.gates, ∀ w ∈ g.2.watch, w.epoch = s.prot.epoch))
    ∧ (up.open_ = true ∧ 0 < 63 ∧ 63 < 64 ∧ (up.key 63).st = .free)
    ∧ (let s := up.modKey 63 (fun e => { e with st := .active })
       s.open_ = true ∧ s.sweepBusy = false ∧ (s.key 63).st = .active ∧ (∀ j ∈ s.prot.jobs, j.2.active = true → j.2.old.toNat ≠ 63 ∧ j.2.new.toNat ≠ 63))
    ∧ (let s := ({ up with prot := { up.prot with keyRun := true, keyJob := 63 } }).modKey 63 (fun e => { e with st := .retiring })
       (s.key 63).st = .retiring ∧ s.sweeping (.key 63) = false ∧ (∀ x ∈ s.slices, x.2.sweep.waiting ≠ some (.key 63)) ∧ s.keyAtHomes 63 = false ∧ 63 ∉ s.flt.fkey
        ∧ s.prot.keyRun = true ∧ s.prot.keyJob = 63) := by decide +kernel

/-- A protected range under key 1, with key 2 active. -/
def keyed : State := { up with prot := { up.prot with
  rngAct := [(0, { lim := 255, valid := true, home := 5, keyid := 1 })], keys := [(1, { st := .active }), (2, { st := .active })] } }

theorem witness_InvalidationAndCrozierJobs :
    (up.open_ = true ∧ up.sweepBusy = false ∧ up.idom 0 = some dc ∧ up.prot.invBase.toNat % 2 ^ 40 ≤ up.prot.invLim.toNat % 2 ^ 40)
    ∧ keyed.crozCheck 0 0 2 false = .ok (0, dc) ∧ keyed.crozCheck 0 0 2 true = .ok (0, dc) := ⟨by decide +kernel, rfl, rfl⟩

theorem witness_FaultAndCapsuleCommands :
    (let s : State := { up with flt := { fifo := [{ sev := 3 }], frond := [0], fport := [1] } }
     s.flt.fifo = { sev := 3 } :: [] ∧ s.open_ = true ∧ 0 ∈ s.flt.frond ∧ 1 ∈ s.flt.fport ∧ (s.port 1).state ≠ .off)
    ∧ (let c : Cap := { base := 4096, slots := 1 }; c.slots ≠ 0 ∧ c.base.toNat % 4096 = 0 ∧ capDest c = false ∧ c.snapWait = false ∧ c.period = 0)
    ∧ (let s : State := { up with cap := { armed := true, period := 1, dumping := true }, clk := { aclk := 25 }, doms := [(0, { ktime := ns 1000000, running := true })] }
       s.cap.armed = true ∧ s.cap.disarming = false ∧ s.cap.period ≠ 0 ∧ s.cap.lastEdge < s.capTime / (1000 * s.cap.period.toNat) ∧ s.cap.dumping = true ∧ s.cap.snapWait = false)
    ∧ (let s : State := { up with cap := { armed := true, period := 1 }, clk := { aclk := 25 }, doms := [(0, { ktime := ns 1000000, running := true })] }
       s.cap.armed = true ∧ s.cap.disarming = false ∧ s.cap.period ≠ 0 ∧ s.cap.lastEdge < s.capTime / (1000 * s.cap.period.toNat) ∧ s.cap.dumping = false)
    ∧ (let h : CapHdr := { ktime := 0, dtime := 0, epoch := 0, mode := .serving, skipped := 0, snap := true }
       let s : State := { up with cap := { dumping := true, hdr := some h } }
       s.cap.dumping = true ∧ s.cap.hdr = some h ∧ capDest s.cap = false ∧ s.host.bme = true ∧ s.host.d3hot = false)
    ∧ (let s : State := { up with cap := { dumping := true, ctl := 1, retryAt := some 5 } }
       s.cap.retryAt = some 5 ∧ s.cap.dumping = true ∧ capDest s.cap = true ∧ capCdom s.cap = 0 ∧ 5 ≤ s.kt 0) := by decide +kernel

/-- The first MiB's entry. -/
def e0 : RngEnt := { lim := 255, valid := true, home := 5 }
/-- A request at port `p` as the Gate takes it, with class `c`. -/
def rq (op : Op) (p : Nat) (c : BitVec 2) : State × Adm := Claims.taken up op p 0 dc { op := op, cls := c }

theorem witness_RequestsAreAdmitted :
    (∀ op ∈ [Op.rdNa, .wr], ∀ c ∈ [0, 1, 2], (up.covered 1 { op := op, cls := c } = true ∧ up.portDom 1 = some (0, dc) ∧ up.inSvc 1 = true ∧ (up.port 1).state ≠ .draining)
      ∧ Claims.admissible (rq op 1 c).1 (rq op 1 c).2 (0, e0) = true)
    ∧ (∀ op ∈ [Op.rdSh, .rdOwn, .ownUpg, .ownNodata], up.covered 0 { op := op, cls := 2 } = true ∧ Claims.admissible (rq op 0 2).1 (rq op 0 2).2 (0, e0) = true)
    ∧ (let v := rq .wr 1 2; (v.1.targetOf v.2 e0).cls = .t2 ∧ (v.1.gate 0).t2 < (v.1.isvc 0).t2Limit)
    ∧ (let v := rq .wr 1 0
       let t := v.1.targetOf v.2 e0
       let k := slotOf (v.1.kt 0 + fclks (v.2.adm - v.1.clk.fclk))
       t.cls ≠ .t2 ∧ (v.1.pickAll 0 dc v.2.g k 0 (k + 4096) (v.2.foot t (v.1.fenceLate v.2 t))).2 = []) := by decide +kernel

theorem witness_RequestsOutsideServingAreRefused :
    let s := md .draining
    s.portDom 1 = some (0, dc) ∧ 1 < 256 ∧ s.inSvc 1 = true ∧ s.covered 1 { op := .wr } = true ∧ s.start.mode ≠ .serving ∧ s.start.mode ≠ .degraded := by decide +kernel

theorem witness_CarriedRequestsAreTaken :
    let m : Msg := { op := .rdSh, requester := portEp 9 0, cls := 2, destDev := 5, dl := ns 9000 }
    let v := (Claims.taken up m.op 3 0 dc m).1
    let a := (Claims.taken up m.op 3 0 dc m).2
    up.portDom 3 = some (0, dc) ∧ up.inSvc 3 = true ∧ up.covered 3 m = true ∧ (up.port 3).state ≠ .draining ∧ (up.iport 3).role = .peer ∧ up.open_ = true
      ∧ carriedOp m.op = true ∧ m.cls ≠ 3 ∧ m.nodl = false ∧ m.destDev = dc.device ∧ (v.port 3).carriedIn < (v.iport 3).carried ∧ v.stopped 0 = false
      ∧ v.permFail a false = none ∧ v.homeHands 0 dc m.line = false := by decide +kernel

/-- A watch entry of port 1 whose deadline has passed. -/
def w0 : Watch := { port := 1, req := portEp 5 1, agent := 0, line := 0, op := .rdNa, cls := .t2 }

theorem witness_GateEventsAndCompletions :
    (let h : Hold := { num := 3, agent := 0, line := 0, op := .rdNa, retryAt := 0, units := [] }
     let e : RetryEnt := { slot := 1, agent := 0, line := 0, retryAt := 0, reason := .watch }
     let t : Tail := { port := 1, agent := 0, line := 0, write := false, dl := 0 }
     let s : State := { (up.modGate 0 (fun G => { G with holds := [h], retryOrd := [e], watch := [w0], tails := [t] })) with doms := [(0, { ktime := ns 30000 })] }
     s.nodeDom 0 = some (0, dc) ∧ h ∈ (s.gate 0).holds ∧ (∀ y ∈ (s.gate 0).holds, y.num = h.num → y = h) ∧ h.retryAt + ns 5 + fclks 6 < s.kt 0
      ∧ ((s.gate 0).retryOrd.filter (fun e => decide (e.slot = 1)))[0]? = some e ∧ e.retryAt + ns 5 < s.kt 0
      ∧ (s.gate 0).watch[0]? = some w0 ∧ w0.queued = false ∧ w0.dl ≤ s.kt w0.dom + fclks 29 ∧ (s.gate 0).tails[0]? = some t ∧ t.dl + ns 20000 ≤ s.kt 0
      ∧ s.idom 0 = some dc ∧ (s.dom 0).lastBal < s.kt 0 / ns 1000)
    ∧ (let m : Msg := { op := .cmp, requester := portEp 5 1 }
       let c : Msg := { op := .cfgAck, requester := portEp 5 1 }
       let s := qd up (egressQ 1 m) m
       let t := up.modGate (up.gateOf 256) (fun G => { G with writerOut := [m] })
       let r := up.modGate 0 (fun G => { G with cfgOut := [(1, 7, c)] })
       (1 < 256 ∧ s.nextOut 1 = some (un m)) ∧ (256 ≤ 256 ∧ (t.gate (t.gateOf 256)).writerOut.find? (fun x => decide (x.line = m.line)) = some m)
        ∧ (r.nextOut 1 = none ∧ (r.gate (portNode 1)).cfgOut.find? (fun c => decide (c.1 = 1)) = some (1, 7, c) ∧ r.sendable 1 c = true))
    ∧ (let i := (up.landed 1 { op := .barrier }).ingressEdge 0 1
       up.covered 1 { op := .barrier } = true ∧ (i.1.barriersOf (i.1.agentPorts 0 1)).length < 4 ∧ i.1.stopped 0 = false)
    ∧ (up.portDom 1 = some (0, dc) ∧ up.inSvc 1 = true ∧ (up.port 1).state ≠ .draining ∧ up.open_ = true ∧ (up.iport 1).role ≠ .memory ∧ (up.iport 1).role ≠ .off)
    ∧ (let b : Barrier := { port := 1, agent := 0, cover := [], req := portEp 5 1 }
       let s := up.modGate 0 (fun G => { G with barriers := [b] })
       s.nodeDom 0 = some (0, dc) ∧ (s.gate 0).barriers[0]? = some b ∧ b.cover = [] ∧ (∀ x ∈ s.barriersOf (s.agentPorts 0 b.port), b.ord ≤ x.ord) ∧ b.lost = 0
        ∧ b.late = false) := by decide +kernel

theorem witness_LookupPassCommits :
    let m : Msg := { op := .rdNa, requester := portEp 5 1, cls := 2 }
    let s := qd up 40 m
    s.nodeDom 0 = some (0, dc) ∧ s.isFenced (.slice 0) = false ∧ s.accepts 0 3 m = true := by decide +kernel

/-- `up` with line 0 in a record range. -/
def rec : State := { up with prot := { up.prot with rngAct := [(0, { lim := 255, valid := true, home := 5, record := true })] } }
/-- What every clause about a line asks of it. -/
def idle (s : State) : Bool :=
  !s.sweepDenies at0 && (s.mshrOf 0 0).isNone && (s.vbOf 0 0).isNone && !s.drainPend 0 0

theorem witness_LookupDecisions :
    (idle up = true ∧ up.wayOf at0 = none ∧ up.setLost at0 = false ∧ up.lineRecord at0 = false
      ∧ up.cands at0 (up.askTen 0 (portEp 5 1) 0) false ≠ [])
    ∧ (let s := up.modSlice 0 (fun x => { x with wayOwn := [1, 1] })
       idle s = true ∧ s.wayOf at0 = none ∧ s.setLost at0 = false ∧ s.lineRecord at0 = false ∧ s.cands at0 (s.askTen 0 (portEp 5 1) 0) false = [] ∧ s.matchWay at0 = none)
    ∧ (idle rec = true ∧ rec.wayOf at0 = none ∧ rec.setLost at0 = false ∧ rec.lineRecord at0 = true)
    ∧ (∀ st ∈ [CohState.s, .e, .o, .m], let s := ln up { state := st }
       idle s = true ∧ s.wayOf at0 = some 0 ∧ s.lineRecord at0 = false ∧ (s.tagAt 0 (at0.slot 0)).near = none ∧ (s.tagAt 0 (at0.slot 0)).state = st
        ∧ s.othersOf at0 (at0.slot 0) { op := .rdOwn, requester := portEp 5 1 } = 0 ∧ s.presAt 0 (at0.slot 0) = 0 ∧ (tget {} (s.slice 0).tile (at0.slot 0)).marks = 0)
    ∧ (let s := ln up { state := .e, owner := 0 }
       idle s = true ∧ s.wayOf at0 = some 0 ∧ (s.tagAt 0 (at0.slot 0)).near = some 0 ∧ s.reqGroup (portEp 5 1) ≠ some 0
        ∧ (s.openMiss at0 { op := .rdSh, requester := portEp 5 1 } .rdSh false (some { pend := [0], owner := some 0, reqNear := false })).isSome = true) := by decide +kernel

/-- A read with one flipped bit returns the stored word and says it was corrected; a mark is read as a mark (R434, R435). -/
theorem test_reads_correct_and_mark :
    let x : LineData := { bits := 0x123456789ABCDEF0 }
    (halfData 3 x false [1#80]).2 = x ∧ (halfData 3 x false [1#80]).1.any CwOut.isCorr = true
      ∧ (halfData 3 { x with marks := 2 } false []).2.marks = 2 := by decide +kernel

theorem witness_TileHalves :
    let m : Msg := { op := .data, requester := portEp 5 1 }
    let r (x : Option Msg) (f : Option (Bool × LineData × Bool)) : TileRead := { slot := 0, line := 0, msg := x, first := f }
    let s (x : Option Msg) (f : Option (Bool × LineData × Bool)) := up.modSlice 0 (fun y => { y with reads := [r x f] })
    up.nodeDom 0 = some (0, dc) ∧ ((s (some m) none).slice 0).reads.find? (readIs 0 false true m) = some (r (some m) none)
      ∧ readTurn ((s (some m) none).slice 0).reads (r (some m) none) = true
      ∧ ((s (some m) (some (false, {}, false))).slice 0).reads.find? (readIs 0 true true m) = some (r (some m) (some (false, {}, false)))
      ∧ ((s none (some (false, {}, false))).slice 0).reads.find? (readIs 0 true false m) = some (r none (some (false, {}, false)))
      ∧ (∀ o ∈ (halfData 0 {} false []).1, o = .clean ∨ o = .mark) ∧ (∀ o ∈ (halfData 0 {} true []).1, o = .clean ∨ o = .mark) := by decide +kernel

/-- An MSHR of node 0 for line 0, and a message in the slice's answer queue. -/
def miss (e : Mshr) (m : Msg) : State := (qd up 43 m).modSlice 0 (fun x => { x with mshrs := [(0, some e)] })
def inQ (s : State) (q : Nat) (m : Msg) : Bool := (s.qOf 0 q).any (fun u => decide (u.msg = m))

theorem witness_MshrAnswersAndTimeouts :
    (∀ op ∈ [Op.data, .grant, .cmp, .dur, .err], ∀ rq ∈ [Op.rdSh, .wrThru, .wrDur], let m : Msg := { op := op }
      let e : Mshr := { line := 0, req := rq, waiters := [{ agent := portEp 5 1, op := .wr }] }
      let s := miss e m
      s.nodeDom 0 = some (0, dc) ∧ s.isFenced (.slice 0) = false ∧ s.accepts 0 0 m = true ∧ inQ s 43 m = true ∧ s.mshrOf 0 0 = some (0, e) ∧ e.near = none ∧ m.half = none ∧ e.durErr = false
        ∧ (s.slice 0).halves.any (fun h => decide (h.1 = m.line)) = false
        ∧ e.waiters.any (fun w => decide (w.op = .wr)) = true ∧ inQ s 47 m = false
        ∧ ((s.stamp 0 0 none 10).bump (cSlc 0 8)).wayOf at0 = none)
    ∧ (let m : Msg := { op := .data, half := some true }
       let e : Mshr := { line := 0, req := .rdOwn, waiters := [{ agent := portEp 5 1, op := .wr }] }
       inQ (miss e m) 43 m = true ∧ m.half = some true)
    ∧ (let e : Mshr := { line := 0, req := .rdSh, waiters := [{ agent := portEp 5 1, op := .rdNa, dl := ns 5000 }] }
       let s := miss e { op := .cmp }
       tget none (s.slice 0).mshrs 0 = some e ∧ firstDl e.waiters = some (ns 5000) ∧ e.st ≠ .orphan ∧ ns 5000 ≤ s.kt 0 + fclks 29) := by decide +kernel

theorem witness_SnoopsAreAnswered :
    (∀ op ∈ [Op.snpSh, .snpOwn, .snpInv, .snpCur], let m : Msg := { op := op, answerTo := homeEp 5 0 }
      let s := qd up 41 m
      (s.nodeDom 0 = some (0, dc) ∧ inQ s 41 m = true ∧ s.isFenced (.slice 0) = false ∧ s.accepts 0 1 m = true ∧ s.snoopHeld at0 = false ∧ s.vbOf 0 0 = none
        ∧ s.wayOf at0 = none ∧ s.setLost at0 = false)
      ∧ (let v : VbEnt := { line := 0, sent := true }
         (s.modSlice 0 (fun x => { x with vbuf := [(0, some v)] })).vbOf 0 0 = some (0, v) ∧ v.sent = true)
      ∧ (∀ st ∈ [CohState.s, .e, .o, .m], let t := ln s { state := st }
         inQ t 41 m = true ∧ t.vbOf 0 0 = none ∧ t.wayOf at0 = some 0 ∧ (t.tagAt 0 (at0.slot 0)).state = st ∧ (t.tagAt 0 (at0.slot 0)).near = none ∧ m.nodata = false)) := by
  decide +kernel

theorem witness_SnoopAnswersAreTaken :
    (∀ op ∈ [Op.rspI, .rspS, .rspFwd, .sdata], let m : Msg := { op := op, sender := portEp 5 0 }
      let nm : NearMiss := { pend := [0], snpAt := ns 1 }
      let e : Mshr := { line := 0, req := .rdSh, near := some nm }
      let s := miss e m
      ((qd up (if op = .sdata then 48 else 47) m).qOf 0 (if op = .sdata then 48 else 47)).find? (fun u => decide (u.msg = m)) = some (un m)
      ∧ s.nodeDom 0 = some (0, dc) ∧ (s.qOf 0 43).find? (fun u => decide (u.msg = m)) = some (un m) ∧ (un m).ing ≤ nm.snpAt + ns 60 ∧ s.isFenced (.slice 0) = false ∧ s.fromGroup dc m = some 0 ∧ s.mshrOf 0 0 = some (0, e) ∧ 0 ∈ nm.pend)
    ∧ (let m : Msg := { op := .compAck, txn := 7 }
       let t : Tx := { line := 0, msg := { op := .rdSh }, txn := 7, started := true }
       let s := (qd up 47 m).modHome 0 (fun x => { x with txs := [t] })
       inQ s 47 m = true ∧ s.txOf 0 0 = some t ∧ t.txn = m.txn ∧ t.kind = .request)
    ∧ (let m : Msg := { op := .compAck, sender := portEp 5 0 }
       let e : Mshr := { line := 0, req := .rdSh, near := some { acks := 1 } }
       inQ (miss e m) 43 m = true ∧ (miss e m).fromGroup dc m = some 0 ∧ (miss e m).mshrOf 0 0 = some (0, e)) := by decide +kernel

theorem witness_WriteBacksAndVictims :
    (∀ op ∈ [Op.wb, .evn], let m : Msg := { op := op, sender := portEp 5 0 }
      let s := qd up 42 m
      (s.nodeDom 0 = some (0, dc) ∧ inQ s 42 m = true ∧ s.isFenced (.slice 0) = false ∧ s.accepts 0 2 m = true ∧ s.fromGroup dc m = some 0
        ∧ (m.line, 0) ∉ (s.slice 0).evictDue ∧ s.askedNear at0 0 = false ∧ s.nearRuns at0 = false ∧ (ln s { state := .e, owner := 0 }).wayOf at0 = some 0)
      ∧ (let t := s.modSlice 0 (fun x => { x with evictDue := [(0, 0)] }); (m.line, 0) ∈ (t.slice 0).evictDue)
      ∧ (let h := qd up 46 m
         h.isFenced (.home 0) = false ∧ ((h.orderEdge 0 0 dc).home 0).order.head? = some (46, m)
          ∧ (h.qOf 0 46).find? (fun v => decide (v.msg = m)) = some (un m)))
    ∧ (∀ op ∈ [Op.wbAck, .wbSuperseded], let m : Msg := { op := op }
      let v : VbEnt := { line := 0, sent := true }
      let s := (qd up 43 m).modSlice 0 (fun x => { x with vbuf := [(127, some v)] })
      s.nodeDom 0 = some (0, dc) ∧ inQ s 43 m = true ∧ s.vbOf 0 0 = some (127, v) ∧ v.sent = true ∧ m.err = .none) := by decide +kernel

theorem witness_SequencingAndActivation :
    (let m : Msg := { op := .rdSh, requester := sliceEp 5 1, sender := sliceEp 5 1 }
     let s := qd up 45 m
     s.nodeDom 0 = some (0, dc) ∧ s.isFenced (.home 0) = false ∧ ((s.orderEdge 0 0 dc).home 0).order = (45, m) :: []
      ∧ (s.qOf 0 45).find? (fun u => decide (u.msg = m)) = some (un m))
    ∧ (let t : Tx := { line := 0, msg := { op := .rdSh } }
       let s := up.modHome 0 (fun x => { x with txs := [t] })
       s.txOf 0 0 = some t ∧ t.started = false ∧ s.isFenced (.home 0) = false ∧ s.activeTxs 0 < 256) := by decide +kernel

theorem witness_MemoryTraffic :
    (let m : Msg := { op := .memData, txn := 7 }
     let s := qd up 48 m
     let t := s.modHome 0 (fun x => { x with txs := [{ line := 0, msg := { op := .rdSh }, txn := 7, memAt := ns 1 }] })
     s.nodeDom 0 = some (0, dc) ∧ m.half = none ∧ (s.qOf 0 48).find? (fun u => decide (u.msg = m)) = some (un m) ∧ s.readAskedAt at0 m.txn = 0
      ∧ (un m).ing ≤ t.readAskedAt at0 m.txn + ns 110 ∧ t.readAskedAt at0 m.txn = ns 1
      ∧ (s.home 0).fetches.any (fun f => decide (f.line = m.line) && decide (f.txn = m.txn)) = false)
    ∧ inQ (qd up 47 { op := .memAck }) 47 { op := .memAck } = true
    ∧ (let m : Msg := { op := .memDur, txn := 1 }
       let t : Tx := { line := 0, msg := { op := .wrDur }, txn := 1, durDue := true, port := 2, started := true }
       let s := (qd up 47 m).modHome 0 (fun x => { x with txs := [t] })
       (s.qOf 0 47).find? (fun u => decide (u.msg = m)) = some (un m) ∧ s.txOf 0 0 = some t ∧ t.durDue = true ∧ t.txn = m.txn
        ∧ (un m).ing ≤ t.memAt + ns (s.iport t.port).durable)
    ∧ (let t : Tx := { line := 0, msg := { op := .wrThru }, txn := 1, memWr := true, started := true }
       let s := up.modHome 0 (fun x => { x with txs := [t] })
       s.txOf 0 0 = some t ∧ t.memWr = true ∧ s.onWay (fun u => memUnit at0 t.txn .memWr u || memUnit at0 t.txn .memWrDur u) = false
        ∧ t.kind = .request ∧ t.err = .none ∧ t.durDue = false) := by decide +kernel

theorem witness_RunAheadOfTheHome :
    let m : Msg := { op := .pfHint, requester := sliceEp 5 0 }
    let s := up.modHome 0 (fun x => { x with hints := [m] })
    let q := s.modHome 0 (fun y => { y with hints := rmFirst m y.hints })
    (s.nodeDom 0 = some (0, dc) ∧ m ∈ (s.home 0).hints ∧ s.isFenced (.home 0) = false ∧ s.txOf 0 0 = none
      ∧ (s.home 0).ra.any (fun r => decide (r.line = m.line)) = false ∧ (s.home 0).ra.length < 32
      ∧ q.rngHome 0 0 = some (0, { lim := 255, valid := true, home := 5 }) ∧ q.memPort at0 = some 2 ∧ q.inSvc 2 = true ∧ q.lostAt at0 = false)
    ∧ ((s.modHome 0 (fun x => { x with txs := [{ line := 0, msg := m }] })).txOf 0 0).isSome = true
    ∧ (let t := s.modHome 0 (fun x => { x with ra := List.replicate 32 { line := 1 } })
       t.txOf 0 0 = none ∧ (t.home 0).ra.any (fun r => decide (r.line = m.line)) = false ∧ 32 ≤ (t.home 0).ra.length) := by decide +kernel

theorem witness_HomePasses :
    (let s : State := { up with prot := { up.prot with jobs := [(0, { active := true })] } }
     let J := s.job 0
     let e := tget {} s.prot.rngAct J.rng
     s.iten e.ten.toNat = some { domain := 0, min := 1, max := 2 } ∧ s.idom 0 = some dc ∧ J.active = true ∧ J.sweeping = false ∧ J.cl ≤ 63 ∧ 63 < J.cl + 64
      ∧ 63 ≤ rngHi e ∧ 63 ∉ J.doneLines ∧ (s.home (s.homeNode 0 dc 63)).passes.any (fun p => decide (p.line = 63) && decide (p.job = some 0)) = false
      ∧ (s.home (s.homeNode 0 dc 63)).txs.any (fun t => decide (t.line = 63) && decide (t.kind = .crozier (some 0))) = false)
    ∧ (let h : ImgHome := { domain := 0, size := 1, port := 2, prot := true, metaBase := 0x80000000 }
       let e (l : Nat) : NcEnt := { tree := 0, pos := 0, level := l, index := 0, dirty := true }
       let s (l : Nat) : State := { (up.modHome 0 (fun x => { x with nc := [e l] })) with doms := [(0, { ktime := ns 10000 })] }
       (s 1).nodeDom 0 = some (0, dc) ∧ ((s 1).home 0).nc[0]? = some (e 1) ∧ (e 1).crown = false ∧ (e 1).dirty = true ∧ (e 1).pins = 0
        ∧ (e 1).dirtyAt + ns 10000 ≤ (s 1).kt 0 ∧ (s 1).treeHome (e 1).tree = some h ∧ (e (treeT dc h)).level = treeT dc h ∧ 1 ≠ treeT dc h
        ∧ (match (s 1).nodeVal dc h 0 0 8 2 0 with | some p => decide (slotMinor (p.slot 0) ≠ 8191) | none => false) = true)
    ∧ (let e : NcEnt := { tree := 0, pos := 0, level := 1, index := 0, roll := some false, node := { slots := List.replicate 64 8192#14 } }
       let s := up.modHome 0 (fun x => { x with nc := [e] })
       (s.home 0).nc[0]? = some e ∧ e.roll = some false ∧ e.node.allOn (!false) = true ∧ e.rollDue = false) := by decide +kernel

theorem witness_SphagnumEpochs :
    (let s : State := { up with doms := [(0, { ktime := ns 1000000 })] }; s.nodeDom 0 = some (0, dc) ∧ (s.slice 0).lastEpoch < s.kt 0 / ns 1000000)
    ∧ (let s : State := { (up.modSlice 0 (fun x => { x with sphPend := some (1, 0, 1, 1) })) with doms := [(0, { ktime := ns 1000200 })] }
       s.nodeDom 0 = some (0, dc) ∧ (s.slice 0).sphPend = some (1, 0, 1, 1) ∧ ns (1 * 1000000 + 200) ≤ s.kt 0) := by decide +kernel

theorem witness_Sweeps :
    let j : SweepJob := .range 0 0 0xFFFF false
    let s (a : Bool) (k : Nat) := up.modSlice 0 (fun x => { x with sweep := { job := some j, active := a, next := k } })
    ((s false 0).nodeDom 0 = some (0, dc) ∧ ((s false 0).slice 0).sweep.job = some j ∧ ((s false 0).slice 0).sweep.active = false ∧ (s false 0).isFenced (.slice 0) = false)
    ∧ ((s true 32767).maintWaits 0 = true ∧ (s true 32767).acceptsMaint 0 ((s true 32767).slice 0).sweep.waitAt = true
        ∧ ((s true 32767).sweepWays 0 0 dc 32767 j).length ≤ (s true 32767).vbFree 0)
    ∧ (let t := (s true 0).modSlice 0 (fun x => { x with tags := [(0, { state := .s }), (1, { state := .s, tag := 1 })] })
       t.maintWaits 0 = true ∧ t.acceptsMaint 0 (t.slice 0).sweep.waitAt = true ∧ (t.sweepWays 0 0 dc 0 j).length = 2 ∧ 2 ≤ t.vbFree 0
       ∧ (let u := t.modSlice 0 (fun x => { x with vbuf := (List.range 127).map (fun i => (i, some { line := 64 * BitVec.ofNat 45 (i + 1) })) })
          u.maintWaits 0 = true ∧ u.acceptsMaint 0 (u.slice 0).sweep.waitAt = true ∧ (u.sweepWays 0 0 dc 0 j).length = 2 ∧ u.vbFree 0 < 2))
    ∧ (dc.sets ≤ ((s true 32768).slice 0).sweep.next ∧ (s true 32768).sweepPre 0 0 = 0 ∧ ((s true 32768).slice 0).sweep.active = true) := by decide +kernel

theorem witness_Scrubs :
    (let s := up.modSlice 0 (fun x => { x with scrubNext := 65535 })
     let v := s.modSlice 0 (fun x => { x with scrubDue := [65535] })
     s.nodeDom 0 = some (0, dc) ∧ s.isFenced (.slice 0) = false ∧ s.chanFree 0 0 = true ∧ (s.slice 0).scrubDue = [] ∧ (s.slice 0).scrubAt ≤ s.clk.aclk
      ∧ (s.slice 0).scrubNext % dc.ways ≠ 0 ∧ s.slotLine dc 0 (s.slice 0).scrubNext = none ∧ v.chanFree 0 0 = true ∧ (v.slice 0).scrubDue = 65535 :: [])
    ∧ (let e : NcEnt := { tree := 0, pos := 0, level := 1, index := 0 }
       let s := up.modHome 0 (fun x => { x with nc := [e] })
       s.isFenced (.home 0) = false ∧ (s.home 0).dirScrubAt ≤ s.clk.aclk ∧ 15 < 16 ∧ (s.home 0).ncScrubAt ≤ s.clk.aclk ∧ (s.home 0).nc[(s.home 0).ncScrubNext]? = some e)
    ∧ ((up.treeHome (63 / 64)).isSome = true ∧ 2 ≤ 2 ∧ up.prot.stipeAt ≤ up.clk.aclk)
    ∧ (let u : SpareUse := { col := false, bank := 0, idx := 0, spare := 0, runtime := true, live := false }
       ((up.modSlice 0 (fun x => { x with spares := [u] })).slice 0).spares.find? (fun u => !u.live) = some u) := by decide +kernel

theorem witness_DrainAndHandover :
    (let s := (ln up { state := .m }).modSlice 0 (fun x => { x with drain := { running := true } })
     s.nodeDom 0 = some (0, dc) ∧ (s.slice 0).drain.running = true ∧ (s.slice 0).drain.startAt ≤ s.clk.fclk ∧ s.isFenced (.router 0) = false
      ∧ (s.slice 0).drain.poison = false ∧ s.drainNext 0 dc = some 0 ∧ s.mshrOf 0 (dc.lineOf (s.tagAt 0 0).origin.toNat 0 (s.tagAt 0 0).tag) = none)
    ∧ (let s := up.modSlice 0 (fun x => { x with drain := { running := true } })
       (s.slice 0).drain.running = true ∧ s.drainNext 0 dc = none ∧ (s.slice 0).outs = [] ∧ (s.slice 0).mshrs.any (fun e => e.2.isSome) = false)
    ∧ (let s := up.modHome 0 (fun x => { x with handover := true })
       (s.home 0).handover = true ∧ (s.home 0).absorbed = []
        ∧ dc.nodes.any (fun m => (s.home m).txs.any (fun t => decide (t.kind = .handover) && decide (t.fromNode = 0))) = false) := by decide +kernel

/-- A request of node 33 to the slice of node `n`. -/
def ru (n : Nat) : FUnit := { src := 33, dst := n, sink := .slice, msg := { op := .rdNa, cls := 2 } }

theorem witness_FabricMoves :
    (3 < 4 ∧ up.portDom (4 * 0 + 0) = some (0, dc) ∧ up.inSvc (4 * 0 + 0) = true ∧ (up.iport 0).role = .near ∧ up.inSvc 2 = true ∧ (up.iport 2).role = .memory
      ∧ (∀ op ∈ [Op.compAck, .wb, .evn], up.covered 0 { op := op } = true) ∧ (∀ op ∈ [Op.memData, .memAck, .memDur], up.covered 2 { op := op } = true))
    ∧ (let s (u : FUnit) := up.modRouter 33 (fun r => { r with inq := [(0, [u])] })
       let hd (s : State) := s.earliest 1 ((s.linkHeads 33 .px).filter (fun e => decide (s.linkMove 1 df 33 .px e.1 e.2 ≠ .none)))
       ((s (ru 33)).nodeDom 33 = some (1, df) ∧ (s (ru 33)).isFenced (.router 33) = false ∧ df.compact = false
        ∧ hd (s (ru 33)) = some (0, ru 33) ∧ (s (ru 33)).fullHop 1 df 33 (ru 33) = .eject ∧ (s (ru 33)).allowed (ru 33) = true ∧ (s (ru 33)).ejectRoom 33 = true)
       ∧ (hd (s (ru 34)) = some (0, ru 34) ∧ (s (ru 34)).fullHop 1 df 33 (ru 34) = .go .px 0 ∧ sameRing .px .px = true
        ∧ (match (s (ru 34)).candOf 1 df 33 (dirNum .px) (some .px) (ru 34) with | some c => (s (ru 34)).candWins 1 df 33 c | none => false) = true)
       ∧ (let t := (s (ru 41)).modRouter 33 (fun r => { r with turn := [(0, [ru 41])] })
          hd t = some (0, ru 41) ∧ t.fullHop 1 df 33 (ru 41) = .go .py 0 ∧ sameRing .py .px = false ∧ tget [] (t.router 33).turn 0 ≠ []))
    ∧ (let s := up.modPool 33 (fun p => { p with q := [(84, [ru 34])] })
       (∀ v, tget [] (s.router 33).turn v = []) ∧ s.goesDead (ru 34) = false
        ∧ s.earliest 1 ((s.injHeads 1 df 33).filter (fun e => decide (s.entryMove 1 df 33 5 e.2 ≠ .none))) = some (84, ru 34)
        ∧ s.fullHop 1 df 33 (ru 34) = .go .px 0
        ∧ (match s.candOf 1 df 33 5 none (ru 34) with | some c => s.candWins 1 df 33 c | none => false) = true)
    ∧ (up.nodeDom 0 = some (0, dc) ∧ up.isFenced (.router 0) = false ∧ dc.compact = true ∧ (up.router 0).edgeAt ≤ up.clk.fclk) :=
  ⟨by decide +kernel, by decide +kernel, ⟨fun _ => rfl, by decide +kernel⟩, by decide +kernel⟩

theorem witness_FabricMoves_detours :
    let s : State := { up with doms := [(1, { detourPend := [33], reorderTill := 5 })], clk := { fclk := 5 } }
    (s.dom 1).detourPend ≠ [] ∧ s.idom 1 = some df ∧ df.compact = false ∧ (s.dom 1).reorderTill ≠ 0 ∧ (s.dom 1).reorderTill ≤ s.clk.fclk := by decide +kernel

/-- `up` with port 1 in state `p`. -/
def pt (p : Port) : State := { up with ports := tset {} up.ports 1 p }

theorem witness_PortTraining :
    (let s := pt { state := .detect }; 1 < 256 ∧ s.polls 1 = true ∧ s.mayTrain 1 = true)
    ∧ (let x : TrainResult := { eqOk := [true], skew := 64 }
       let s : State := { pt { state := .train } with clk := { aclk := 250000 } }
       (s.port 1).state = .train ∧ s.clk.aclk ≤ (s.port 1).trainAt + 250000 ∧ trainWidth (s.iport 1) x.eqOk = some 0 ∧ x.lockOk = true ∧ x.skew ≤ 64
        ∧ x.flitOk = true ∧ (s.iport 1).reduce = false ∧ (s.port 1).trainAt + trainBudget (s.iport 1) { x with flitOk := false } ≤ s.clk.aclk)
    ∧ (let s : State := { pt { state := .failed } with clk := { aclk := 2500000 } }; (s.port 1).state = .failed ∧ (s.port 1).failedAt + 2500000 ≤ s.clk.aclk)
    ∧ (up.port 1).state = .service ∧ ((pt { state := .failed }).port 1).state ≠ .service
    ∧ (let s := pt { state := .retrain, retrainAt := 0 }
       let u : State := { s with clk := { fclk := 48000 } }
       (u.port 1).state = .retrain ∧ (u.port 1).drainRun = false ∧ (u.port 1).asked = false ∧ u.clk.fclk ≤ (u.port 1).retrainAt + 48000
        ∧ (((u.modPort 1 (fun x => { x with retrained := true, retrainRun := false, train := .idle, state := .service })).bump (cPort 1 17)).winHit 11 (.port 1)).2 = false) := by
  decide +kernel

theorem witness_PortDiscovery :
    let s (g : DiscStage) := pt { state := .find, stage := g, wact := some 0 }
    let got (x : DiscId) := ((s .none).gotFlits 1 0 0 1).modPort 1 (fun y => { y with
      pkind := x.kind, plink := x.linkver, linkver := 0x10#8 + BitVec.ofNat 8 (min 1 (x.linkver.toNat % 16)), puid := x.uid, pcaps := x.caps
      pagent := if ((s .none).iport 1).role = .peer then x.agent else epAgent (portEp ((s .none).portDev 1) 1) })
    let adv (x : DiscCfg) := ((s .id).gotFlits 1 0 0 1).modPort 1 (fun y => { y with
      padv := (List.range 5).map (fun v => x.cred.getD v 0), pcarried := if ((s .id).iport 1).role = .peer then x.carried else 0
      pcontract := x.contract, pdurable := x.durable, psync := x.timeSync, prootIdx := x.rootIdx, prootHops := x.rootHops })
    let i (k : BitVec 8) : DiscId := { kind := k, linkver := 0x10 }
    let c (r : Nat) : DiscCfg := { cred := [2, 2, 2, 2, r] }
    (1 < 256 ∧ ((s .none).port 1).state = .find ∧ ((s .none).port 1).stage = .none
      ∧ (got (i (BitVec.ofNat 8 (kindOf .plain)))).idChecks 1 (i (BitVec.ofNat 8 (kindOf .plain))) = 0 ∧ (got (i 0xFF)).idChecks 1 (i 0xFF) ≠ 0)
    ∧ (((s .id).port 1).stage = .id ∧ ((s .id).iport 1).encReq = false ∧ (adv (c 2)).cfgChecks 1 (c 2) = 0 ∧ (adv (c 1)).cfgChecks 1 (c 1) ≠ 0)
    ∧ (let u : State := { s .none with clk := { aclk := 50000 } }; (u.port 1).flitAt + u.discLimit 1 ≤ u.clk.aclk)
    ∧ (((s .cfg).port 1).stage = .cfg ∧ (s .cfg).portDom 1 = some (0, dc) ∧ ((s .cfg).iport 1).role ≠ .peer ∧ ((s .cfg).iport 1).encReq = false
      ∧ (s .cfg).clk.aclk < ((s .cfg).port 1).flitAt + (s .cfg).discLimit 1) := by decide +kernel

theorem witness_TimeExchange :
    (let s : State := { up with doms := [(0, { stepPend := some (-1), upstream := some 3, ktime := 1 })] }
     s.idom 0 = some dc ∧ (s.dom 0).stepPend = some (-1) ∧ s.watchesEmpty dc = true
      ∧ s.iports.all (fun e => !(decide ((s.port e.1).state = .find) && decide ((s.port e.1).stage = .done) && dc.has (portNode e.1))) = true
      ∧ (let u := s.modDom 0 (fun x => { x with ktime := ns 100000 }); u.idom 0 = some dc ∧ u.syncOver 0 dc = true ∧ u.isRoot 0 dc = false))
    ∧ (up.peerUp 3 = true ∧ (up.port 3).tsyncAt = 0 ∧ ((up.modPort 3 (fun x => { x with tsyncOut := some 9 })).port 3).tsyncOut = some 9) := by decide +kernel

/-- The CRC of an IDLE flit that carries nothing (R350, R351), twelve bytes at a time. -/
def twelve (c : BitVec 16) : BitVec 16 := (List.replicate 12 (0 : Byte)).foldl crc16Byte c
theorem test_crc_0 : twelve 0xffff = 0x84f9 := by decide +kernel
theorem test_crc_1 : twelve 0x84f9 = 0xef8a := by decide +kernel
theorem test_crc_2 : twelve 0xef8a = 0x8135 := by decide +kernel
theorem test_crc_3 : twelve 0x8135 = 0xdf9d := by decide +kernel
theorem test_crc_4 : twelve 0xdf9d = 0xa445 := by decide +kernel
theorem test_crc_5 : twelve 0xa445 = 0x40e := by decide +kernel
theorem test_crc_6 : twelve 0x40e = 0x5eae := by decide +kernel
theorem test_crc_of_an_idle_flit : flitCrc (0x5eae : BitVec 672) = 0x5eae := by
  have h : (List.range 84).map (fun i => ((0x5eae : BitVec 672) &&& ~~~ (0xFFFF#672)).extractLsb' (8 * i) 8) = List.replicate 84 (0 : Byte) := by decide +kernel
  have e : List.replicate 84 (0 : Byte) = List.replicate 12 0 ++ (List.replicate 12 0 ++ (List.replicate 12 0 ++ (List.replicate 12 0 ++ (List.replicate 12 0
    ++ (List.replicate 12 0 ++ List.replicate 12 0))))) := by decide
  show crc16 _ = _
  rw [h, e]
  simp only [crc16, List.foldl_append]
  show twelve (twelve (twelve (twelve (twelve (twelve (twelve 0xffff)))))) = _
  rw [test_crc_0, test_crc_1, test_crc_2, test_crc_3, test_crc_4, test_crc_5, test_crc_6]

theorem witness_ReplayAndEncryption :
    (1 < 256 ∧ up.inSvc 1 = true ∧ (up.port 1).lnakAt.length < 63 ∧ (up.port 1).state = .service ∧ (up.port 1).train = .idle ∧ (up.port 1).lnakSent = false)
    ∧ linkCheck (up.port 1) 0 0xE0000000#672 0 = false ∧ linkCheck (up.port 1) 0 0x5eae 0 = true ∧ flitFt 0x5eae = 0
    ∧ (let s := pt { state := .service, enc := true }; s.inSvc 1 = true ∧ (s.port 1).enc = true) := by
  refine ⟨by decide +kernel, ?_, ?_, by decide +kernel, by decide +kernel⟩
  · have h : decide (flitFt 0xE0000000#672 ≤ 5) = false := by decide +kernel
    rw [linkCheck, h, Bool.and_false, Bool.false_and]
  · simp only [linkCheck, test_crc_of_an_idle_flit]; decide +kernel

theorem witness_PortsLeaveService :
    ((up.port 1).drainRun = false ∧ (up.port 1).state = .service ∧ up.drainInUse 1 = false)
    ∧ ((up.port 3).drainRun = false ∧ (up.port 3).state = .service ∧ up.drainInUse 3 = true)
    ∧ (let s := pt { state := .draining, detach := .asked }; (s.port 1).state = .draining ∧ (s.port 1).detach = .asked)
    ∧ (let s := pt { state := .draining, detach := .acked }; (s.port 1).state = .draining ∧ (s.port 1).detach = .acked ∧ s.detachQuiet 1 = true)
    ∧ (let s : State := { pt { state := .draining } with clk := { fclk := 2400 } }; (s.port 1).state = .draining ∧ (s.port 1).goodAt + 2400 ≤ s.clk.fclk)
    ∧ (let s : State := { pt { state := .draining } with clk := { aclk := 50000 } }; (s.port 1).state = .draining ∧ (s.port 1).detachAt + 50000 ≤ s.clk.aclk)
    ∧ ((pt { state := .isolating }).port 1).state = .isolating := by decide +kernel

theorem witness_PmbusCommands :
    (4 : Byte).toNat ≤ 4 ∧ 4 < (5 : Byte).toNat ∧ (1 : Byte).toNat ∉ pmbCodes ∧ ((0x78 : Byte) ≠ 0x00 ∧ (0x78 : Byte) ≠ 0x03) ∧ up.pmb.alert = false
      ∧ (let s : State := { up with pmb := { alert := true }, pwr := { vin := 12000, inputValid := true } }; s.pmb.alert = true ∧ s.anyCond = false) := by decide +kernel

theorem witness_TestPort :
    (up.start.mode ≠ .dormant ∧ up.tap.instr = .bypass ∧ up.tap.zeros = false ∧ up.tapTest = false)
    ∧ (let s : State := { md .maintenance with pwr := { testEn := true } }
       s.tapTest = true ∧ (s.tagAt 63 65535).keyid = 0 ∧ 63 < 64 ∧ ((ln s { keyid := 1 }).tagAt 0 0).keyid ≠ 0) := by decide +kernel

/-- The invariants, and a step with a command in front. -/
theorem witness_wholeMachine :
    (up.pending = [] ∧ up.start.mode ≠ .dormant ∧ State.reset.pending = [] ∧ State.reset.start.mode = .dormant)
    ∧ (up.flt.fifo.length ≤ 256 ∧ up.canonical = true ∧ State.reset.canonical = true)
    ∧ (let s : State := { up with cnt := [(cGlb 0, 2 ^ 48 - 1)] }; tget 0 s.cnt (cGlb 0) ≤ 2 ^ 48 - 1) := by decide +kernel

theorem witness_CountersStayWithin48Bits : (∀ k, tget 0 up.cnt k ≤ 2 ^ 48 - 1) ∧ ∃ t, step up = .next t :=
  ⟨fun _ => Nat.zero_le _, _, rfl⟩

theorem witness_FloorChangesOnlyAtConfirm :
    let s : State := { up with imgc := { up.imgc with img := some { im with seq := 7 } }, mram := { trial := .a } }
    ∃ t, exec .imgConfirm s = .next t ∧ t.mram.floor ≠ s.mram.floor := ⟨_, rfl, by decide +kernel⟩

theorem witness_CountersAndCodes :
    4095 ≤ 4095 ∧ tget 0 ({ up with cnt := [(cGlb 0, 2 ^ 48 - 1)] } : State).cnt (cGlb 0) = 2 ^ 48 - 1
    ∧ ([(cGlb 0, 4095)].map (·.1)).Nodup ∧ (∀ e ∈ [(cGlb 0, 4095)], e.2 < 4096) ∧ alwaysOnCnt (cGlb 60) ≠ alwaysOnCnt (cGlb 0)
    ∧ (2 ≤ 2 ∧ 6 ≤ 6 ∧ 1 ≤ 1 ∧ 4 ≤ 4) ∧ 79 < 80 := by decide +kernel

theorem witness_ErrorRecords :
    (let s : State := { up with flt := { fifo := List.replicate 255 {} } }; s.flt.fifo.length < 256 ∧ s.start.firmDone = true)
    ∧ (let s : State := { up with flt := { fifo := [{ sev := 3 }] ++ ({ sev := 0 } : ErrRec) :: List.replicate 254 { sev := 1 } } }
       s.flt.fifo.length = 256 ∧ (∀ y ∈ [({ sev := 3 } : ErrRec)], y.sev ≠ 0))
    ∧ (let s : State := { up with flt := { fifo := List.replicate 256 { sev := 1 } } }; s.flt.fifo.length = 256 ∧ (∀ y ∈ s.flt.fifo, y.sev ≠ 0)) := by decide +kernel

theorem witness_FullModeRoutes :
    up.flt.frtr = [] ∧ (ru 34).det = 0
    ∧ (∀ n ∈ [34, 38, 42, 58], let dx := (df.pos n % shapeW df.nlog + shapeW df.nlog - df.pos 33 % shapeW df.nlog) % shapeW df.nlog
        let dy := (df.pos n / shapeW df.nlog + shapeH df.nlog - df.pos 33 / shapeW df.nlog) % shapeH df.nlog
        0 < dx ∨ (dx = 0 ∧ 0 < dy)) := by decide +kernel

theorem witness_PositionSetAndTagRecoverTheLine : (2 ≤ dc.nlog ∧ dc.nlog ≤ 6 ∧ 1 ≤ dc.wlog ∧ dc.wlog ≤ 4) ∧ (2 ≤ df.nlog ∧ df.nlog ≤ 6 ∧ 1 ≤ df.wlog ∧ df.wlog ≤ 4) := by
  decide +kernel

/-! ### Well-formedness: an ill-formed command for each check, and its well-formed neighbour -/

theorem test_ill_formed_numbers_are_refused :
    ∀ c ∈ [Instr.qrel 64, .rdSh 256 { op := .rdSh }, .balancer 16, .lock 16, .keygen 64, .rekey 8 0 1, .rekey 0 256 1, .flrVf 0, .flrVf 17,
      .registerWrite (.vf 17) 0 4 0, .registerWrite (.window 16) 0 4 0, .registerWrite .pf0 0 0 0, .registerRead .pf0 1 0 4, .msixPendingSend 0 256,
      .msixPendingSend 1 8, .aliasWrite .pf0 0 4 0, .slowWrite .pf0 0x1250000 4 0, .counterWrite .pf0 0x1001000 8 0 4096, .counterWrite .pf0 0x1050000 8 0 0,
      .slowWriteDone 80, .sphMaxWrite .pf0 16 0, .flush 0 256, .cert 8, .measurements [9], .unfence true 256, .zero [(0, 4096)], .pageZero .pf0 0 [(32, 0)]],
      c.wf = false := by decide +kernel

theorem test_ill_formed_records_are_refused :
    ∀ c ∈ [Instr.start { found := [{ port := 256 }] }, .supplyRetry { elapsed := List.replicate 12 0 }, .imgApply true { silent := [256] } {},
      .imgApply true { nodes := [(8, 0, 1, 0, 0)] } {}, .thermal (.die 8) 0, .warn (.tile 16) 0, .warn (.pstage 2) 0, .lookupPass 0 { op := .rdSh } { first := { tags := [(16, 0)] } },
      .snpSh 0 { op := .snpSh } { replay := { pres := [(8, 0)] } },
      .evn false { n := 0, x := { first := { differ := some (some 16) } } } { op := .evn }, .sweepPass { n := 0, x := { tile := List.replicate 17 0 } }, .dirScrub 0 (.corrected 16 0), .unitArrival 0 (.port 4 { op := .rdSh }) .clean, .arrayInstruction (.readLine 64 0),
      .arrayInstruction (.writeLine 0 65536 {}), .configurationRequest (.setBars 17 true), .discCfg 0 { cred := [1, 1, 1, 1] }, .discCfg 0 { cred := [1, 1, 1, 1, 1], rootIdx := 4 }],
      c.wf = false := by decide +kernel

theorem test_well_formed_neighbours_pass :
    ∀ c ∈ [Instr.qrel 63, .rdSh 255 { op := .rdSh }, .balancer 15, .lock 15, .keygen 63, .rekey 7 255 1, .flrVf 16, .msixPendingSend 0 255, .msixPendingSend 16 7,
      .aliasWrite .pf0 0x1F00014 4 0, .slowWrite .pf0 0x1200010 4 0, .counterWrite .pf0 0x1001000 8 0 4095, .thermal (.die 7) 0, .warn (.pstage 1) 0,
      .unitArrival 63 (.port 3 { op := .rdSh }) .clean, .arrayInstruction (.readLine 63 65535), .discCfg 0 { cred := [2, 2, 2, 2, 2], rootIdx := 3 }], c.wf = true := by
  decide +kernel

/-! ### Results: one command each, checked in one or two fields against the manual -/

/-- The state a command leaves. -/
def after (c : Instr) (s : State) : State := match exec c s with | .next t => t | _ => s

/-- R516: a dip begins below 8.4 V, not at it. -/
theorem test_dip_threshold :
    let s : State := { pwr := { inputValid := true } }
    (after (.vinDip 8399) s).pwr.dip = true ∧ (after (.vinDip 8400) s).pwr.dip = false := by decide +kernel
/-- R519, R520: the power fail begins at an E_WARN of 0.72 J. -/
theorem test_hold_up_warning :
    let s : State := { pwr := { inputValid := true, dip := true } }
    (after (.eWarn 720000) s).pwr.pfwOut = true ∧ (after (.eWarn 720001) s).pwr.pfwOut = false := by decide +kernel
/-- R510: DRAIN is for Serving and Degraded; elsewhere CMDST reads NOTMODE. -/
theorem test_drain_modes : (after .drain up).start.mode = .draining ∧ (after .drain (md .quiescent)).start.cmdst = 2 := by decide +kernel
/-- R486: the image in force is not confirmed unless it is the trial. -/
theorem test_confirm_needs_trial : (after .imgConfirm up).mram.confirmed = .none := by decide +kernel
/-- R15, R547: the SET view sets the written ones, and CLR clears them. -/
theorem test_set_and_clear_views :
    (after (.aliasWrite .pf0 0x1F00014 4 3) up).flt.intEn = 0x7F ∧ (after (.aliasWrite .pf0 0x2F00014 4 4) up).flt.intEn = 0x78 := by decide +kernel
/-- R552: a 2-byte write is dropped and logged NARROW, one at an odd offset ALIGN. -/
theorem test_narrow_and_misaligned_writes :
    ((after (.registerWrite .pf0 0xF00014 2 0) up).accOf 0xF00000).cause = some .narrow
    ∧ ((after (.registerWrite .pf0 0xF00015 2 0) up).accOf 0xF00000).cause = some .align := by decide +kernel
/-- R573: a counter write loads 48 bits and the increment of its edge, and saturates. -/
theorem test_counter_write : tget 0 (after (.counterWrite .pf0 0x1001008 8 0xFFFFFFFFFFFF 3) up).cnt (cGlb 1) = 2 ^ 48 - 1 := by decide +kernel
/-- R390: the Medulla's claim keeps PF0's CLAIM from taking the shadows. -/
theorem test_claim : (after .claim up).prot.owner = .pf0 ∧ (after .claim { up with prot := { up.prot with owner := .medulla } }).prot.owner = .medulla := by decide +kernel
/-- R397, R430: KEYGEN of KEYID 0 does nothing; of a FREE entry it makes it ACTIVE. -/
theorem test_keygen_of_key_0 : ((after (.keygen 0) up).key 0).st = .free ∧ ((after (.keygen 5) up).key 5).st = .active := by decide +kernel
/-- R445: FAULT_N falls when the last fence is lifted. -/
theorem test_unfence :
    let s : State := { up with flt := { up.flt with fport := [1] }, pwr := { faultOut := true } }
    (after (.unfence false 1) s).flt.fport = [] ∧ (after (.unfence false 1) s).pwr.faultOut = false := by decide +kernel
/-- R276: an admitted request has a watch entry with the ingress time of the port's domain. -/
theorem test_admission_opens_a_watch_entry :
    (((after (.rdNa 1 { op := .rdNa, cls := 2 }) up).gate 0).watch.map (fun w => (w.port, w.ingress))) = [(1, ns 5000)] := by decide +kernel
/-- R141, R142: a miss takes the lowest free MSHR, in SENT. -/
theorem test_miss_takes_an_mshr :
    let m : Msg := { op := .rdNa, requester := portEp 5 1, cls := 2 }
    ((tget none ((after (.lookupPass 0 m {}) (qd up 40 m)).slice 0).mshrs 0).map (fun e => (e.req, e.st))) = some (.rdNa, .sent) := by decide +kernel
/-- R202: a shared line answers SNP_SH with RSP_S and stays. -/
theorem test_snoop_of_a_shared_line :
    let m : Msg := { op := .snpSh, answerTo := homeEp 5 0 }
    ((after (.snpSh 0 m {}) (ln (qd up 41 m) { state := .s })).tagAt 0 0).state = .s := by decide +kernel
/-- R202: SNP_INV leaves no copy. -/
theorem test_snoop_invalidates :
    let m : Msg := { op := .snpInv, answerTo := homeEp 5 0 }
    ((after (.snpInv 0 m {}) (ln (qd up 41 m) { state := .m })).tagAt 0 0).state = .i := by decide +kernel
/-- R129: an epoch's end halves the utility counters. -/
theorem test_epoch_halves_utility :
    let s : State := { (up.modSlice 0 (fun x => { x with uh := [(3, 9)] })) with doms := [(0, { ktime := ns 1000000 })] }
    ((after (.epoch 0) s).slice 0).uh = [(3, 4)] := by decide +kernel
/-- R326: a unit that enters at node 33 for node 41 takes the Y ring. -/
theorem test_turn_to_the_y_ring :
    (tget [] ((after (.unitArrival 33 .inject .clean) (up.modPool 33 (fun p => { p with q := [(84, [ru 41])] }))).router 41).inq 10).length = 1 := by decide +kernel
/-- R362: a port whose lane failed EQ does not go on. -/
theorem test_training_needs_its_lane :
    ((after (.train 1 { eqOk := [true] }) (pt { state := .train })).port 1).state = .find
    ∧ ((after (.train 1 { eqOk := [false] }) (pt { state := .train })).port 1).state ≠ .find := by decide +kernel
/-- R370: the offset of an exchange is half the difference of its two ways. -/
theorem test_offset_of_an_exchange : theta 0 1000 1000 0 = 256000 ∧ theta 0 1000 1000 2000 = 0 := by decide +kernel
/-- R356: LACK frees the flits up to its number, across the wrap of the sequence. -/
theorem test_lack_wraps :
    ((after (.lack 1 1) (pt { state := .service, unacked := [0xFFFF, 0, 1, 2].map (fun q => { seq := q, bits := 0, plain := 0 }) })).port 1).unacked.map (fun f => f.seq) = [2] := by decide +kernel
/-- R532: a wrong PEC leaves PAGE and sets the invalid-data bit. -/
theorem test_wrong_pec : (after (.page 2 false) up).pmb.page = 0 ∧ (after (.page 2 false) up).pmb.stCml = 0x40 := by decide +kernel
/-- R37: an edge with no command moves Karik time by the rate word of 0.416667 ns. -/
theorem test_idle_edge : (match step up with | .next t => (t.clk.fclk, t.kt 0) | _ => (0, 0)) = (101, ns 5000 + 6990512) := by decide +kernel
/-- R434: an inverted position 40 of a codeword is put right. -/
theorem test_correction : decodeCw false (flipPos (encodeCw false 0x123456789) 40) = (.corrected 40 none, 0x123456789) := by decide +kernel
/-- R37, R253: 5 ns hold four calendar slots. -/
theorem test_calendar_slots : slotOf (ns 5) = 4 ∧ slotOf (ns 5 - 1) = 3 := by decide +kernel
end Sys2Proof.Tests
end

/-! ## Proofs of the family 00_scope: the start, requests outside service, register accesses, the state after reset -/

namespace Sys2Proof.Machine

open Sys2Proof

/-! ### The mode in which a start ends (R6, R493) -/

@[simp] theorem State.irq_start (s : State) (fn vec : Nat) : (s.irq fn vec).start = s.start := by
  unfold State.irq
  dsimp only
  split
  · rfl
  · split <;> rfl

@[simp] theorem State.peat_start (s : State) (typ : Byte) (body : BitVec 96) : (s.peat typ body).start = s.start := by
  unfold State.peat
  split <;> rfl

/-- A fold of operations that leave the start sequencer alone leaves it alone. -/
theorem foldS_start {α : Type} (l : List α) {f : α → State → State} (hf : ∀ x s, (f x s).start = s.start) (s : State) :
    (foldS l f s).start = s.start := by
  unfold foldS
  induction l generalizing s with
  | nil => rfl
  | cons x l ih => exact (ih _).trans (hf x s)

/-- Whatever the mode was, a mode change ends in the mode asked for. -/
theorem State.setMode_mode (s : State) (m : Mode) (cause : Nat) : (s.setMode m cause).start.mode = m := by
  unfold State.setMode
  split
  · assumption
  · dsimp only
    rw [foldS_start _ (fun _ _ => State.irq_start _ _ _), State.irq_start]
    split <;> split <;> simp

theorem State.servingMode_eq (s : State) : s.servingMode = .serving ∨ s.servingMode = .degraded := by
  unfold State.servingMode
  split
  · exact .inr rfl
  · exact .inl rfl

/-- The modes in which a start that SUPPLY lets pass may end. -/
def Mode.endsStart (m : Mode) : Prop := m = .bare ∨ m = .serving ∨ m = .degraded

theorem Mode.endsStart_ite {c : Prop} [Decidable c] {s t : State} (hs : Mode.endsStart s.start.mode) (ht : Mode.endsStart t.start.mode) :
    Mode.endsStart (if c then s else t).start.mode := by
  split
  · exact hs
  · exact ht

theorem State.stopBare_endsStart (s : State) (x : StartIn) (why : StopWhy) (at_ frm : Nat) :
    Mode.endsStart (s.stopBare x why at_ frm).start.mode := .inl (State.setMode_mode _ _ _)

theorem State.runServe_endsStart (s : State) (x : StartIn) : Mode.endsStart (s.runServe x).start.mode := by
  unfold State.runServe
  dsimp only
  rw [State.setMode_mode]
  exact .inr (State.servingMode_eq _)

theorem State.runLink_endsStart (s : State) (x : StartIn) : Mode.endsStart (s.runLink x).start.mode :=
  State.runServe_endsStart _ x

/-- With an image in force the start goes on to LINK, without one it stops in Bare. -/
theorem State.runImage_endsStart (s : State) (x : StartIn) : Mode.endsStart (s.runImage x).start.mode := by
  unfold State.runImage
  dsimp only
  exact Mode.endsStart_ite (State.runLink_endsStart _ x) (State.stopBare_endsStart _ x _ _ _)

/-- From FUSE on every way through the start stops in Bare or reaches IMAGE. -/
theorem State.runOn_endsStart (s : State) (x : StartIn) : Mode.endsStart (s.runOn x).start.mode := by
  unfold State.runOn
  dsimp only
  exact Mode.endsStart_ite (State.stopBare_endsStart _ x _ _ _)
    (Mode.endsStart_ite (State.stopBare_endsStart _ x _ _ _) (State.runImage_endsStart _ x))

/-- With the rails up and the root clock locked SUPPLY passes, and the start runs on. -/
theorem State.runSupply_endsStart (s : State) (x : StartIn) (hr : x.railsOk = true) (hl : x.rootLocks = true) :
    Mode.endsStart (s.runSupply x).start.mode := by
  unfold State.runSupply
  dsimp only
  rw [if_pos (by simp [hr, hl])]
  exact State.runOn_endsStart _ x

/-- Settles O1: each way through a start ends in Bare or in the mode that SERVE sets. -/
theorem startEndsInBareServingOrDegraded : Obligations.StartEndsInBareServingOrDegraded := by
  unfold Obligations.StartEndsInBareServingOrDegraded
  refine ⟨fun x s hm hp hrst hpfw hset hin hr hl => ⟨(s.beginStart x).runSupply x, ?_, State.runSupply_endsStart _ x hr hl⟩,
    fun x s hm hw hr hl => ⟨s.runSupply x, ?_, State.runSupply_endsStart _ x hr hl⟩⟩
  · change execStart x s = _
    rw [execStart, if_pos (by simp [hm, hp, hrst, hpfw, hset, hin])]
  · change execSupplyRetry x s = _
    rw [execSupplyRetry, if_pos ⟨hm, hw⟩]

/-- Settles O51: every claim is a value of the state after reset. -/
theorem resetState : Obligations.ResetState := by
  unfold Obligations.ResetState
  refine ⟨rfl, rfl, rfl, rfl, rfl, rfl, fun _ => rfl, rfl, rfl, rfl, Nat.zero_le _, fun _ => Nat.zero_le _, rfl⟩

/-! ### Requests outside Serving and Degraded (R7, R265) -/

theorem State.open_eq_false {s : State} (h1 : s.start.mode ≠ .serving) (h2 : s.start.mode ≠ .degraded) : s.open_ = false := by
  simp [State.open_, h1, h2]

/-- The command of a request kind takes its message under that kind at a port, or as the controller writer's. -/
theorem exec_requestCmd {op : Op} (hop : op ∈ [Op.rdSh, .rdOwn, .ownUpg, .ownNodata, .rdNa, .wr]) (p : Nat) (m : Msg) (s : State) :
    exec (Claims.requestCmd op p m) s = .next (s.requestAs op p m) := by
  simp only [List.mem_cons, List.not_mem_nil, or_false] at hop
  rcases hop with rfl | rfl | rfl | rfl | rfl | rfl <;> rfl

/-- R358: at a port in service a request that a credit covers completes ingress where its cells have left the ingress queue. -/
theorem State.requestAs_landed {s : State} {op : Op} {p : Nat} {m : Msg} (hp : p < 256) (hsvc : s.inSvc p = true)
    (hcov : s.covered p { m with op := op } = true) :
    s.requestAs op p m = (s.landed p { m with op := op }).request p { m with op := op } := by
  unfold State.requestAs
  rw [if_neg (by omega)]
  exact State.atPort_landed s p _ _ hsvc hcov

/-- R7: a Gate that is not open refuses a request before it looks at the port's role. -/
theorem State.request_notServing {s : State} {p d : Nat} {D : ImgDomain} {m : Msg} (hd : s.portDom p = some (d, D)) (ho : s.open_ = false) :
    s.request p m =
      let i := s.ingressEdge (portNode p) (portSlot p)
      ((i.1.admEdge (portNode p) i.2).1.gateAnswer p (refusal m .notServing)).bump (cGate (portNode p) 14) := by
  simp only [State.request, hd, ho, Bool.not_false, if_true, State.refuse]

theorem LinkOnly.open_ {c : Bool} {s t : State} (h : LinkOnly c s t) : t.open_ = s.open_ := by
  obtain ⟨⟨P, C, O, rfl⟩, _⟩ := h
  rfl

theorem LinkOnly.portDom {c : Bool} {s t : State} (h : LinkOnly c s t) : t.portDom = s.portDom := by
  obtain ⟨⟨P, C, O, rfl⟩, _⟩ := h
  rfl

/-- Settles O18: the arrival leaves mode and image alone, and the refusal comes before every other step of the test. -/
theorem requestsOutsideServingAreRefused : Obligations.RequestsOutsideServingAreRefused := by
  unfold Obligations.RequestsOutsideServingAreRefused
  intro s op p d D m hop hd hp hsvc hcov hm1 hm2
  have hland := State.landed_frame s p { m with op := op } hcov
  have hd' : (s.landed p { m with op := op }).portDom p = some (d, D) := by rw [hland.portDom, hd]
  have ho' : (s.landed p { m with op := op }).open_ = false := by rw [hland.open_, State.open_eq_false hm1 hm2]
  rw [exec_requestCmd hop, State.requestAs_landed hp hsvc hcov, State.request_notServing hd' ho']
  rfl

/-! ### Register accesses of PF0 through BAR0 (R541 to R552) -/

/-- An access of PF0 inside BAR0, while BAR0 is up, reaches the register network and completes (R541, R545). -/
theorem State.regAccess_pf0 {s : State} (hup : Claims.hostUp s = true) {off : Nat} (hoff : off < 0x4000000) (size : Nat) (wr : Option (BitVec 64)) (inc : Nat) :
    s.regAccess { who := .pf0, off := off, size := size, wr := wr, inc := inc }
      = State.complete (s.access { who := .pf0, off := off, size := size, wr := wr, inc := inc }) wr.isSome := by
  simp only [Claims.hostUp, Bool.and_eq_true, Bool.not_eq_true', decide_eq_true_eq, decide_eq_false_iff_not] at hup
  obtain ⟨⟨⟨⟨⟨hrst, hmode⟩, hfirm⟩, hd3⟩, hbar⟩, -⟩ := hup
  simp [State.regAccess, hrst, hmode, fnOf, State.barUp, hfirm, hd3, hbar, hoff]

/-- R549, R550: outside recovery PF0 reaches every register. -/
theorem State.access_pf0 {s : State} (hup : Claims.hostUp s = true) {a : Access} (hwho : a.who = .pf0) {v : View} {b : Blk} {o : Nat}
    (hloc : locate a.off = some (v, b, o)) : s.access a = s.perform a v b o := by
  simp only [Claims.hostUp, Bool.and_eq_true, Bool.not_eq_true'] at hup
  simp [State.access, hloc, State.inRecovery, hup.2, State.reach, hwho]

theorem widthOf_word {o : Nat} (b : Blk) (ho : o % 4 = 0) : widthOf b o 4 = .word := by simp [widthOf, ho]

theorem widthOf_pair {b : Blk} {o : Nat} (hp : isPair b o = true) : widthOf b o 8 = .pair := by simp [widthOf, hp]

/-- R552: a write of a whole register or of a documented pair is tried. -/
theorem State.perform_write {s : State} {a : Access} {v : View} {b : Blk} {o : Nat} {val : BitVec 64}
    (hw : widthOf b o a.size = .word ∨ widthOf b o a.size = .pair) (hwr : a.wr = some val) :
    s.perform a v b o = (s.writeAt a v b o val, .ok, 0) := by
  rcases hw with hw | hw <;> simp only [State.perform, hw, hwr]

/-- A write of PF0 of a whole register or a documented pair. -/
theorem State.regAccess_write {s : State} (hup : Claims.hostUp s = true) {off : Nat} (hoff : off < 0x4000000) {v : View} {b : Blk} {o : Nat}
    (hloc : locate off = some (v, b, o)) {size : Nat} (hw : widthOf b o size = .word ∨ widthOf b o size = .pair) (val : BitVec 64) (inc : Nat) :
    s.regAccess { who := .pf0, off := off, size := size, wr := some val, inc := inc }
      = (s.writeAt { who := .pf0, off := off, size := size, wr := some val, inc := inc } v b o val).emit (.hostDone .ok) := by
  rw [State.regAccess_pf0 hup hoff, State.access_pf0 hup rfl hloc, State.perform_write hw rfl]
  rfl

/-- R13, R556, R560: a write of a whole register that is no counter is dropped and logged, or takes effect. -/
theorem State.writeAt_word {s : State} {a : Access} {v : View} {b : Blk} {o : Nat} {val : BitVec 64} {old : BitVec 32}
    (hs : a.size = 4) (hold : s.regWord b o = some old) (hc : b ≠ .cap ∨ cntAt o = none) :
    s.writeAt a v b o val = (s.regDrop b o (wrOf a.who v old (val.setWidth 32))).elim
      (s.regPut b o (wrOf a.who v old (val.setWidth 32))) (fun c => s.logAcc b.base a.who c true o a.off) := by
  simp only [State.writeAt, hold, hs]
  split
  next c hcnt =>
    split at hcnt
    · simp [hcnt] at hc
    · cases hcnt
  next => cases s.regDrop b o (wrOf a.who v old (val.setWidth 32)) <;> rfl

/-- What PF0 sees of an aligned 32-bit write: it completes, whether it took effect or was dropped. -/
theorem State.regAccess_word {s : State} (hup : Claims.hostUp s = true) {off : Nat} (hoff : off < 0x4000000) {v : View} {b : Blk} {o : Nat}
    (hloc : locate off = some (v, b, o)) (ho : o % 4 = 0) {old : BitVec 32} (hold : s.regWord b o = some old) (hc : b ≠ .cap ∨ cntAt o = none)
    (val : BitVec 64) :
    s.regAccess { who := .pf0, off := off, size := 4, wr := some val }
      = ((s.regDrop b o (wrOf .pf0 v old (val.setWidth 32))).elim
          (s.regPut b o (wrOf .pf0 v old (val.setWidth 32))) (fun c => s.logAcc b.base .pf0 c true o off)).emit (.hostDone .ok) := by
  rw [State.regAccess_write hup hoff hloc (.inl (widthOf_word b ho)), State.writeAt_word rfl hold hc]

theorem exec_registerWrite_word {s : State} (hup : Claims.hostUp s = true) {off : BitVec 26} (hoff : off.toNat < 0x4000000) {v : View} {b : Blk}
    {o : Nat} (hloc : locate off.toNat = some (v, b, o)) (ho : o % 4 = 0) {old : BitVec 32} (hold : s.regWord b o = some old)
    (hc : b ≠ .cap ∨ cntAt o = none) (val : BitVec 64) :
    exec (.registerWrite .pf0 off 4 val) s
      = .next (((s.regDrop b o (wrOf .pf0 v old (val.setWidth 32))).elim
          (s.regPut b o (wrOf .pf0 v old (val.setWidth 32))) (fun c => s.logAcc b.base .pf0 c true o off.toNat)).emit (.hostDone .ok)) :=
  congrArg Host.Outcome.next (State.regAccess_word hup hoff hloc ho hold hc val)

/-- The SET, CLR and TGL views are the aliased ones (R546). -/
theorem inAlias_of_locate {a : Nat} {v : View} {b : Blk} {o : Nat} (hloc : locate a = some (v, b, o)) (hv : v ≠ .normal) : inAlias a = true := by
  unfold locate at hloc
  unfold inAlias
  split at hloc
  · cases hloc
  next v' n hview =>
    have hvv : v' = v := by
      split at hloc
      · cases hloc
      · cases hloc; rfl
    subst hvv
    rw [hview]
    cases v' with
    | normal => exact absurd rfl hv
    | set | clr | tgl => rfl

/-- R556: an aliased write takes effect as the write of its view does. -/
theorem exec_aliasWrite_taken {s : State} (hup : Claims.hostUp s = true) {off : BitVec 26} (hoff : off.toNat < 0x4000000) {v : View} {b : Blk}
    {o : Nat} (hloc : locate off.toNat = some (v, b, o)) (hv : v ≠ .normal) (ho : o % 4 = 0) {old : BitVec 32} (hold : s.regWord b o = some old)
    (hc : b ≠ .cap ∨ cntAt o = none) (val : BitVec 64) (hd : s.regDrop b o (wrOf .pf0 v old (val.setWidth 32)) = none) :
    exec (.aliasWrite .pf0 off 4 val) s = .next ((s.regPut b o (wrOf .pf0 v old (val.setWidth 32))).emit (.hostDone .ok)) := by
  change execAliasWrite .pf0 off 4 val s = _
  rw [execAliasWrite, if_pos (inAlias_of_locate hloc hv), State.regAccess_word hup hoff hloc ho hold hc, hd]
  rfl

/-- R15, R552: a read of a whole register answers its word; only the SerDes readings draw a free value for it. -/
theorem State.readAt_word {s : State} {b : Blk} {o : Nat} (ho : o % 4 = 0) {old : BitVec 32} (hold : s.regWord b o = some old)
    (hsds : ∀ k, b = .slow k → k < 16 ∨ (o ≠ 0x14 ∧ o ≠ 0x18)) : s.readAt b o 4 = (s, BitVec.ofNat 64 old.toNat) := by
  have ho4 : o / 4 * 4 = o := by omega
  simp only [State.readAt, ho4, hold, widthOf_word b ho, Option.getD_some]
  cases b with
  | slow k =>
    have hk := hsds k rfl
    rw [if_neg]
    simp only [Bool.and_eq_true, Bool.or_eq_true, decide_eq_true_eq]
    omega
  | _ => rfl

theorem exec_registerRead_word {s : State} (hup : Claims.hostUp s = true) {off : BitVec 26} (hoff : off.toNat < 0x4000000) {v : View} {b : Blk}
    {o : Nat} (hloc : locate off.toNat = some (v, b, o)) (ho : o % 4 = 0) {old : BitVec 32} (hold : s.regWord b o = some old)
    (hsds : ∀ k, b = .slow k → k < 16 ∨ (o ≠ 0x14 ∧ o ≠ 0x18)) :
    exec (.registerRead .pf0 0 off 4) s = .next (s.emit (.hostRead (BitVec.ofNat 64 old.toNat) .ok)) := by
  change Host.Outcome.next (s.regAccess { who := .pf0, off := off.toNat, size := 4 }) = _
  rw [State.regAccess_pf0 hup hoff, State.access_pf0 hup rfl hloc]
  simp only [State.perform, widthOf_word b ho, State.readAt_word ho hold hsds]
  rfl

/-- Settles O8: the access reaches the register's word, and its view gives the write that `regDrop` and `regPut` meet. -/
theorem registerAccesses : Obligations.RegisterAccesses := by
  unfold Obligations.RegisterAccesses
  intro s off v b o old hup hoff hloc ho hold hc
  refine ⟨fun val hd => ?_, fun val c hd => ?_, ?_, ?_, ?_, fun hsds => exec_registerRead_word hup hoff hloc ho hold hsds⟩
  · rw [exec_registerWrite_word hup hoff hloc ho hold hc, hd]
    rfl
  · rw [exec_registerWrite_word hup hoff hloc ho hold hc, hd]
    rfl
  · rintro val rfl hd
    exact exec_aliasWrite_taken hup hoff hloc nofun ho hold hc val hd
  · rintro val rfl hd
    exact exec_aliasWrite_taken hup hoff hloc nofun ho hold hc val hd
  · rintro val rfl hd
    exact exec_aliasWrite_taken hup hoff hloc nofun ho hold hc val hd


/-! ### Writes of counters, of the slow domain, of the protection shadows and of SPH_MAX (R102, R390, R558, R573) -/

/-- R594: in the normal view an offset names its block, from the block's base. -/
theorem locate_normal {a : Nat} {b : Blk} (ha : a < 0x1400000) (hb : blkAt a = some b) : locate a = some (.normal, b, a - b.base) := by
  simp [locate, viewAt, ha, hb]

theorem locate_glb {o : Nat} (ho : o < 0x100000) : locate o = some (.normal, .glb, o) :=
  locate_normal (by omega) (by simp [blkAt, ho])

theorem locate_prot {o : Nat} (ho : o < 0x100000) : locate (0xE00000 + o) = some (.normal, .prot, o) := by
  rw [locate_normal (b := .prot) (by omega)]
  · simp [Blk.base]
  · unfold blkAt
    repeat rw [if_neg (by omega)]
    rw [if_pos (by omega)]

theorem locate_cap {o : Nat} (ho : o < 0x100000) : locate (0x1000000 + o) = some (.normal, .cap, o) := by
  rw [locate_normal (b := .cap) (by omega)]
  · simp [Blk.base]
  · unfold blkAt
    repeat rw [if_neg (by omega)]
    rw [if_pos (by omega)]

theorem locate_slow {k o : Nat} (hk : k < 80) (ho : o < 0x1000) : locate (0x1200000 + 0x1000 * k + o) = some (.normal, .slow k, o) := by
  rw [locate_normal (b := .slow k) (by omega)]
  · simp [Blk.base]
  · unfold blkAt
    repeat rw [if_neg (by omega)]
    rw [if_pos (by omega), show (0x1200000 + 0x1000 * k + o - 0x1200000) / 0x1000 = k by omega]

theorem toNat_offset {n : Nat} (hn : n < 0x4000000) : (BitVec.ofNat 26 n).toNat = n := Nat.mod_eq_of_lt hn

/-- R577: the first 106 indices of the global counters are named. -/
theorem cntAt_glb {k : Nat} (hk : k < 106) : cntAt (0x1000 + 8 * k) = some (.glb, true) := by
  have hi : (0x1000 + 8 * k) / 8 = 0x200 + k := by omega
  unfold cntAt
  simp only [hi]
  rw [if_neg (by omega), if_pos (by omega)]
  simp [hk]

theorem State.regWord_counter {s : State} {o : Nat} {c : CntOf} (h1 : 0x1000 ≤ o) (h2 : o < 0x40000) (hcnt : cntAt o = some (c, true)) :
    ∃ w, s.regWord .cap o = some w := by
  change ∃ w, s.capReg o = some w
  unfold State.capReg
  rw [if_neg (by omega), if_neg (by omega), hcnt]
  exact ⟨_, rfl⟩

/-- R572, R574: a write of a counter that some table names, of a unit that is there. -/
theorem State.writeAt_counter {s : State} {a : Access} {v : View} {o : Nat} {val : BitVec 64} {c : CntOf} (h1 : 0x1000 ≤ o) (h2 : o < 0x40000)
    (hcnt : cntAt o = some (c, true)) (hlive : s.cntDead c = false) : s.writeAt a v .cap o val = s.cntPut o a.size val a.inc := by
  obtain ⟨w, hw⟩ := State.regWord_counter (s := s) h1 h2 hcnt
  simp [State.writeAt, hw, hcnt, hlive]

/-- R573: the count of a global counter after a 64-bit write. -/
theorem State.cntPut_glb (s : State) {k : Nat} (hk : k < 106) (val : BitVec 64) (inc : Nat) :
    s.cntPut (0x1000 + 8 * k) 8 val inc = (s.loadCnt (cGlb k) val.toNat).bumpN (cGlb k) (inc % 4096) := by
  have hi : (0x1000 + 8 * k) / 8 = cGlb k := by unfold cGlb; omega
  simp [State.cntPut, cntAt_glb hk, hi]

theorem inCounters_glb {k : Nat} (hk : k < 106) : inCounters (0x1000000 + (0x1000 + 8 * k)) = true := by
  have ho : 0x1000000 + (0x1000 + 8 * k) - 0x1000000 = 0x1000 + 8 * k := by omega
  simp only [inCounters, ho, cntAt_glb hk, Bool.and_eq_true, decide_eq_true_eq, Option.isSome_some, and_true]
  omega

theorem isPair_glb_counter {k : Nat} (hk : k < 106) : isPair .cap (0x1000 + 8 * k) = true := by
  have h8 : (0x1000 + 8 * k) % 8 = 0 := by omega
  simp [isPair, h8, cntAt_glb hk]

theorem exec_counterWrite_glb {s : State} (hup : Claims.hostUp s = true) {k : Nat} (hk : k < 106) (val : BitVec 64) (inc : Nat) :
    exec (.counterWrite .pf0 (BitVec.ofNat 26 (0x1001000 + 8 * k)) 8 val inc) s
      = .next (((s.loadCnt (cGlb k) val.toNat).bumpN (cGlb k) (inc % 4096)).emit (.hostDone .ok)) := by
  have hoff : (BitVec.ofNat 26 (0x1001000 + 8 * k)).toNat = 0x1000000 + (0x1000 + 8 * k) := by rw [toNat_offset (by omega)]; omega
  change execCounterWrite .pf0 _ 8 val inc s = _
  rw [execCounterWrite, hoff, if_pos (inCounters_glb hk),
    State.regAccess_write hup (by omega) (locate_cap (by omega)) (.inr (widthOf_pair (isPair_glb_counter hk))),
    State.writeAt_counter (by omega) (by omega) (cntAt_glb hk) rfl, State.cntPut_glb s hk]

/-- The part of O9 on counters (R573). -/
theorem counterWriteLoadsValuePlusIncrement : Claims.CounterWriteLoadsValuePlusIncrement := by
  intro s k val inc hup hk hinc
  refine ⟨_, exec_counterWrite_glb hup hk val inc, ?_, fun j hj => ?_, rfl⟩
  · rw [State.emit_cnt, State.bumpN_read, if_pos rfl, Nat.mod_eq_of_lt hinc]
    simp [State.loadCnt, satAdd, cntMax]
  · rw [State.emit_cnt, State.bumpN_read, if_neg hj]
    exact tget_tset_ne 0 s.cnt _ hj

/-- R557: the selection of a tile's sub-block is a register. -/
theorem State.regWord_slow_sel (s : State) {t : Nat} (ht : t < 16) : s.regWord (.slow t) 0x10 = some ((s.slowReg t 0x10).getD 0) := by
  have hlive : s.blkDead (.slow t) 0x10 = false := by simp [State.blkDead, ht]
  simp [State.regWord, hlive, State.slowReg]

/-- R558: a write of the slow domain that is not dropped is posted, and BUSY stands until its end. -/
theorem exec_slowWrite_sel {s : State} {t : Nat} {val : BitVec 64} (hup : Claims.hostUp s = true) (ht : t < 16)
    (hd : s.regDrop (.slow t) 0x10 (wrOf .pf0 .normal ((s.slowReg t 0x10).getD 0) (val.setWidth 32)) = none) :
    exec (.slowWrite .pf0 (BitVec.ofNat 26 (0x1200010 + 0x1000 * t)) 4 val) s
      = .next ((s.modSlow t (fun x => { x with busy := true, posted := val.setWidth 32, postOff := 0x10 })).emit (.hostDone .ok)) := by
  have hoff : (BitVec.ofNat 26 (0x1200010 + 0x1000 * t)).toNat = 0x1200000 + 0x1000 * t + 0x10 := by rw [toNat_offset (by omega)]; omega
  have hloc : locate (0x1200000 + 0x1000 * t + 0x10) = some (.normal, .slow t, 0x10) := locate_slow (by omega) (by omega)
  change execSlowWrite .pf0 _ 4 val s = _
  simp only [execSlowWrite, hoff, hloc]
  rw [State.regAccess_word hup (by omega) hloc rfl (State.regWord_slow_sel s ht) (.inl nofun), hd]
  rfl

theorem exec_slowWriteDone_sel {s : State} {t : Nat} (ht : t < 16) (hbusy : (s.slowB t).busy = true) (hoff : (s.slowB t).postOff = 0x10) :
    exec (.slowWriteDone t) s = .next { s with slow := tset {} s.slow t { sel := (s.slowB t).posted &&& 0x01377FFF } } := by
  change execSlowWriteDone t s = _
  simp [execSlowWriteDone, hbusy, hoff, ht, State.modSlow, tmod]

/-- R390: the shadow of a permission entry is a register. -/
theorem State.regWord_permShd (s : State) {p : Nat} (hp : p < 256) :
    s.regWord .prot (0x800 + 4 * p) = some (permWord (tget {} s.prot.permShd p)) := by
  have hi : (0x800 + 4 * p - 0x800) / 4 = p := by omega
  change s.protReg (0x800 + 4 * p) = _
  unfold State.protReg
  dsimp only
  rw [if_neg (by omega), if_neg (by omega), if_neg (by omega), if_pos (by omega), hi]

/-- R390: under PF0's claim nothing drops a write of a permission shadow. -/
theorem State.regDrop_permShd {s : State} (hown : s.prot.owner = .pf0) {p : Nat} (hp : p < 256) (w : Wr) :
    s.regDrop .prot (0x800 + 4 * p) w = none := by
  change s.protDrop (0x800 + 4 * p) w = none
  have h1 : ¬ 0x3000 ≤ 0x800 + 4 * p := by omega
  unfold State.protDrop
  rw [if_neg (by omega), if_neg (by omega), if_pos (by omega)]
  simp [State.shadowBad, hown, h1, dropIf]

theorem State.regPut_permShd (s : State) {p : Nat} (hp : p < 256) (w : Wr) :
    s.regPut .prot (0x800 + 4 * p) w = { s with prot := { s.prot with permShd := tset {} s.prot.permShd p (permOf w.nv.toNat) } } := by
  have hi : (0x800 + 4 * p - 0x800) / 4 = p := by omega
  change s.protPut (0x800 + 4 * p) w = _
  unfold State.protPut State.protPutHi
  repeat rw [if_neg (by omega)]
  rw [if_pos (by omega), hi]

theorem exec_shadowWrite_perm {s : State} (hup : Claims.hostUp s = true) (hown : s.prot.owner = .pf0) {p : Nat} (hp : p < 256) (val : BitVec 64) :
    exec (.shadowWrite .pf0 (BitVec.ofNat 26 (0xE00800 + 4 * p)) 4 val) s
      = .next ({ s with prot := { s.prot with permShd := tset {} s.prot.permShd p (permOf (val.toNat % 2 ^ 32)) } }.emit (.hostDone .ok)) := by
  have hoff : (BitVec.ofNat 26 (0xE00800 + 4 * p)).toNat = 0xE00000 + (0x800 + 4 * p) := by rw [toNat_offset (by omega)]; omega
  have hloc : locate (0xE00000 + (0x800 + 4 * p)) = some (.normal, .prot, 0x800 + 4 * p) := locate_prot (by omega)
  have hsh : inShadow (0xE00000 + (0x800 + 4 * p)) = true := by
    simp only [inShadow, hloc, Bool.or_eq_true, Bool.and_eq_true, decide_eq_true_eq]
    omega
  change execShadowWrite .pf0 _ 4 val s = _
  rw [execShadowWrite, hoff, if_pos hsh, State.regAccess_word hup (by omega) hloc (by omega) (State.regWord_permShd s hp) (.inl nofun),
    State.regDrop_permShd hown hp, Option.elim_none, State.regPut_permShd s hp, wrOf, BitVec.toNat_setWidth]

theorem State.regWord_sphTen (s : State) {t : Nat} (ht : t < 16) : s.regWord .glb (0x2100 + 4 * t) = some (s.sphTen t) := by
  have hi : (0x2100 + 4 * t - 0x2100) / 4 = t := by omega
  change s.glbReg (0x2100 + 4 * t) = _
  unfold State.glbReg
  repeat rw [if_neg (by omega)]
  rw [if_pos (by omega), hi]

/-- R102: a working maximum that its tenancy allows is not dropped. -/
theorem State.regDrop_sphTen {s : State} {t : Nat} (ht : t < 16) {w : Wr} (hok : s.sphMaxBad t (w.f 16 5) = false) :
    s.regDrop .glb (0x2100 + 4 * t) w = none := by
  have hi : (0x2100 + 4 * t - 0x2100) / 4 = t := by omega
  change s.glbDrop (0x2100 + 4 * t) w = none
  unfold State.glbDrop
  repeat rw [if_neg (by omega)]
  rw [if_pos (by omega), hi, hok, Bool.and_false]
  rfl

theorem State.regPut_sphTen {s : State} {t : Nat} (ht : t < 16) (hten : (s.iten t).isSome = true) (w : Wr) :
    s.regPut .glb (0x2100 + 4 * t) w = s.setSphMax t (w.f 16 5) := by
  have hi : (0x2100 + 4 * t - 0x2100) / 4 = t := by omega
  change s.glbPut (0x2100 + 4 * t) w = _
  unfold State.glbPut State.glbPutHi
  repeat rw [if_neg (by omega)]
  rw [if_pos (by omega), hi, if_pos hten]

theorem exec_sphMaxWrite_taken {s : State} (hup : Claims.hostUp s = true) {t : Nat} (ht : t < 16) (hten : (s.iten t).isSome = true)
    (val : BitVec 32) (hok : s.sphMaxBad t (val.toNat / 2 ^ 16 % 2 ^ 5) = false) :
    exec (.sphMaxWrite .pf0 t val) s = .next ({ s with sphMax := tset 0 s.sphMax t (val.toNat / 2 ^ 16 % 2 ^ 5) }.emit (.hostDone .ok)) := by
  have hf : (wrOf .pf0 .normal (s.sphTen t) ((val.setWidth 64).setWidth 32)).f 16 5 = val.toNat / 2 ^ 16 % 2 ^ 5 := by
    simp [wrOf, Wr.f, bitsN]
  change execSphMaxWrite .pf0 t val s = _
  rw [execSphMaxWrite, if_pos ht,
    State.regAccess_word hup (by omega) (locate_glb (by omega)) (by omega) (State.regWord_sphTen s ht) (.inl nofun),
    State.regDrop_sphTen ht (hf ▸ hok), Option.elim_none, State.regPut_sphTen ht hten, hf]
  rfl

/-- Settles O9: each write reaches its register, which no rule drops, and takes the effect of that register. -/
theorem rangedWrites : Obligations.RangedWrites := by
  refine ⟨counterWriteLoadsValuePlusIncrement, ?_, ?_, ?_, ?_⟩
  · exact fun s t val hup ht _ hd => exec_slowWrite_sel hup ht hd
  · exact fun s t ht hbusy hoff => exec_slowWriteDone_sel ht hbusy hoff
  · exact fun s p val hup hown hp => exec_shadowWrite_perm hup hown hp val
  · exact fun s t val hup ht hten hok => exec_sphMaxWrite_taken hup ht hten val hok

end Sys2Proof.Machine

/-! ## Proofs of the family 01_architecture: resets of the module and its endpoint, events of the Gates, completions and barriers, configuration windows -/

namespace Sys2Proof.Machine

open Sys2Proof

/-! ### Entry into Dormant (R413, R513, R521, R522) -/

/-- The Peat log is all that an entry changes. -/
theorem State.peat_frame (s : State) (typ : Byte) (body : BitVec 96) : ∃ m, s.peat typ body = { s with mram := m } := by
  unfold State.peat
  split
  · exact ⟨s.mram, rfl⟩
  · exact ⟨_, rfl⟩

/-- What the power supervisor and the flash hold: neither the flush of the trees nor a mode change touches them. -/
def State.supply (s : State) : Pwr × Flash := (s.pwr, s.flash)

theorem State.supply_eq_iff {s t : State} : t.supply = s.supply ↔ t.pwr = s.pwr ∧ t.flash = s.flash := Prod.mk_inj

/-- A fold of operations that leave the supply alone leaves it alone. -/
theorem foldl_supply {β : Type} (l : List β) {f : State → β → State} (hf : ∀ s x, (f s x).supply = s.supply) (s : State) :
    (l.foldl f s).supply = s.supply := by
  induction l generalizing s with
  | nil => rfl
  | cons x l ih => exact (ih _).trans (hf s x)

@[simp] theorem State.modHome_supply (s : State) (n : Nat) (f : Home → Home) : (s.modHome n f).supply = s.supply := rfl
@[simp] theorem State.modPool_supply (s : State) (n : Nat) (f : Pool → Pool) : (s.modPool n f).supply = s.supply := rfl
@[simp] theorem State.bump_supply (s : State) (k : Nat) : (s.bump k).supply = s.supply := rfl
@[simp] theorem State.emit_supply (s : State) (o : Out) : (s.emit o).supply = s.supply := rfl
@[simp] theorem State.drawn_supply (s : State) : s.drawn.supply = s.supply := rfl

@[simp] theorem State.inject_supply (s : State) (n v : Nat) (k : Sink) (m : Msg) : (s.inject n v k m).supply = s.supply := by
  simp [State.supply]

@[simp] theorem State.peat_supply (s : State) (typ : Byte) (body : BitVec 96) : (s.peat typ body).supply = s.supply := by
  obtain ⟨m, hm⟩ := s.peat_frame typ body
  rw [hm]
  rfl

@[simp] theorem State.irq_supply (s : State) (fn vec : Nat) : (s.irq fn vec).supply = s.supply := by
  unfold State.irq
  dsimp only
  split
  · rfl
  · split <;> rfl

@[simp] theorem State.ncPut_supply (s : State) (d : Nat) (D : ImgDomain) (n : Nat) (e : NcEnt) : (s.ncPut d D n e).supply = s.supply := rfl

@[simp] theorem State.bumpNode_supply (s : State) (d : Nat) (D : ImgDomain) (h : ImgHome) (n pos k i : Nat) :
    (s.bumpNode d D h n pos k i).supply = s.supply := by
  unfold State.bumpNode
  split
  · rfl
  · split <;> rfl

@[simp] theorem State.toMem_supply (s : State) (D : ImgDomain) (n p : Nat) (m : Msg) : (s.toMem D n p m).supply = s.supply := by
  unfold State.toMem
  dsimp only
  rw [State.inject_supply]
  split <;> rfl

@[simp] theorem State.writeNode_supply (s : State) (d : Nat) (D : ImgDomain) (h : ImgHome) (n : Nat) (e : NcEnt) (durable : Bool) :
    (s.writeNode d D h n e durable).supply = s.supply := by
  unfold State.writeNode
  dsimp only
  split <;> simp

@[simp] theorem State.flushRead_supply (s : State) (d : Nat) (D : ImgDomain) (h : ImgHome) (n pos k i : Nat) :
    (s.flushRead d D h n pos k i).supply = s.supply := by
  unfold State.flushRead
  split <;> rfl

@[simp] theorem State.flushPath_supply (s : State) (d : Nat) (D : ImgDomain) (h : ImgHome) (n : Nat) (e : NcEnt) :
    (s.flushPath d D h n e).supply = s.supply :=
  foldl_supply _ (fun _ _ => State.flushRead_supply _ _ _ _ _ _ _ _) s

@[simp] theorem State.flushNodes_supply (s : State) (d : Nat) (D : ImgDomain) (h : ImgHome) (n : Nat) :
    (s.flushNodes d D h n).supply = s.supply :=
  foldl_supply _ (fun _ _ => foldl_supply _ (fun _ _ => by simp) _) s

@[simp] theorem State.persistFlush_supply (s : State) (durable : Bool) : (s.persistFlush durable).supply = s.supply := by
  refine foldl_supply _ (fun s h => ?_) s
  dsimp only
  split
  · rfl
  next D _ =>
    have hflush : (D.nodes.foldl (fun s n => s.flushNodes h.domain D h n) s).supply = s.supply := foldl_supply _ (fun _ _ => by simp) s
    split
    · exact hflush
    · exact hflush

@[simp] theorem State.shipWrites_supply (s : State) (only : Op → Bool) : (s.shipWrites only).supply = s.supply := by
  refine foldl_supply _ (fun s n => ?_) s
  dsimp only
  rw [State.modPool_supply]
  refine foldl_supply _ (fun s u => ?_) s
  split <;> rfl

theorem State.ite_tap_supply (c : Prop) [Decidable c] (s : State) (x : Tap) : (if c then { s with tap := x } else s).supply = s.supply := by
  split <;> rfl

@[simp] theorem State.setMode_supply (s : State) (m : Mode) (cause : Nat) : (s.setMode m cause).supply = s.supply := by
  unfold State.setMode
  split
  · rfl
  · refine (foldl_supply _ (fun _ _ => State.irq_supply _ _ _) _).trans ?_
    rw [State.irq_supply, State.ite_tap_supply]
    split
    · exact State.peat_supply _ _ _
    · rfl

@[simp] theorem State.start_supply (s : State) (x : Start) : ({ s with start := x } : State).supply = s.supply := rfl

/-- The state in which power goes: from Rising at once, from another mode after the flush and the mode change. -/
def State.beforeOff (s : State) (cause : Nat) (durable : Bool) : State :=
  let rising : Bool := s.start.mode = .rising
  let s := if rising then s else ((s.persistFlush durable).shipWrites (fun o => o = .memWrDur)).setMode .dormant cause
  let s := if rising then { s with start := { s.start with mode := .dormant } }.bump (cGlb 16) else s
  { s with start := { s.start with firmDone := false } }

theorem State.beforeOff_mode (s : State) (cause : Nat) (durable : Bool) : (s.beforeOff cause durable).start.mode = .dormant := by
  unfold State.beforeOff
  cases decide (s.start.mode = .rising) with
  | true => rfl
  | false => simp [State.setMode_mode]

@[simp] theorem State.beforeOff_supply (s : State) (cause : Nat) (durable : Bool) : (s.beforeOff cause durable).supply = s.supply := by
  unfold State.beforeOff
  cases decide (s.start.mode = .rising) with
  | true => rfl
  | false => simp

/-- Entry into Dormant: power goes, and a POWER entry and LAST_OFF follow. -/
theorem State.toDormant_eq (s : State) (ev cause flushUs : Nat) (durable : Bool) (off : LastOff) :
    ∃ m, s.toDormant ev cause flushUs durable off
      = { (s.beforeOff cause durable).lostPower with mram := m, pwr := { (s.beforeOff cause durable).lostPower.pwr with lastOff := off } } := by
  obtain ⟨m, hm⟩ := (s.beforeOff cause durable).lostPower.peat_frame 0x09 (bodyOf ([ev, if durable then 0 else 1] ++ leBytes 4 flushUs))
  refine ⟨m, ?_⟩
  have ht : s.toDormant ev cause flushUs durable off
      = let t := (s.beforeOff cause durable).lostPower.peat 0x09 (bodyOf ([ev, if durable then 0 else 1] ++ leBytes 4 flushUs))
        { t with pwr := { t.pwr with lastOff := off } } := rfl
  rw [ht, hm]

/-- What stands after entry into Dormant: the supervisor's pins and sensors, the flash and the command queue, and nothing of the image's structure. -/
theorem State.toDormant_spec (s : State) (ev cause flushUs : Nat) (durable : Bool) (off : LastOff) :
    let t := s.toDormant ev cause flushUs durable off
    t.start.mode = .dormant ∧ t.pwr = { s.pwr with faultOut := false, rails := false, lastOff := off } ∧ t.flash = s.flash
      ∧ t.slices = [] ∧ t.homes = [] ∧ t.gates = [] ∧ t.prot = {} ∧ t.pending = s.pending := by
  have hpend := (State.toDormant_keeps (c₀ := false) ev cause flushUs durable off (Keeps.refl _ s)).1
  have hmode := s.beforeOff_mode cause durable
  obtain ⟨hpwr, hflash⟩ := State.supply_eq_iff.1 (s.beforeOff_supply cause durable)
  obtain ⟨m, ht⟩ := s.toDormant_eq ev cause flushUs durable off
  dsimp only
  rw [ht] at hpend ⊢
  refine ⟨hmode, ?_, hflash, rfl, rfl, rfl, rfl, hpend⟩
  simp only [State.lostPower, hpwr]

/-- The same after an interrupt has been raised first. -/
theorem State.irq_toDormant_spec (s : State) (fn vec ev cause flushUs : Nat) (durable : Bool) (off : LastOff) :
    let t := (s.irq fn vec).toDormant ev cause flushUs durable off
    t.start.mode = .dormant ∧ t.pwr = { s.pwr with faultOut := false, rails := false, lastOff := off } ∧ t.flash = s.flash
      ∧ t.slices = [] ∧ t.homes = [] ∧ t.gates = [] ∧ t.prot = {} ∧ t.pending = s.pending := by
  have hpend := (State.irq_keeps (c₀ := false) fn vec (Keeps.refl _ s)).1
  obtain ⟨hpwr, hflash⟩ := State.supply_eq_iff.1 (s.irq_supply fn vec)
  rw [← hpwr, ← hflash, ← hpend]
  exact State.toDormant_spec (s.irq fn vec) ev cause flushUs durable off

/-! ### Reset, power fail and the start of the always-on domain (R513, R517, R521, R522, R598) -/

/-- R513: RESET_N takes the module down. -/
theorem exec_resetN_down {s : State} (us : Nat) (dur : Bool) (hm : s.start.mode ≠ .dormant) (hp : s.pwr.pfwOut = false) :
    exec (.resetN us dur) s = .next ({ s with pwr := { s.pwr with resetHigh := false } }.toDormant 2 3 us dur .resetN) := by
  change execResetN us dur s = _
  simp [execResetN, hm, hp]

/-- R521: the platform's PFW_N takes the module down when the supervisor saw no cause of its own. -/
theorem exec_pfwN_down {s : State} (us : Nat) (dur : Bool) (hm : s.start.mode ≠ .dormant) (hc : s.pwr.offCause = .none) :
    exec (.pfwN true us dur) s
      = .next (({ s with pwr := { s.pwr with inputValid := false, pfwHigh := false } }.irq 0 5).toDormant 1 4 us dur .pfwPlatform) := by
  change execPfwN true us dur s = _
  simp [execPfwN, hm, hc]

/-- R517: without valid input it is declared valid by its range, its time and the temperatures. -/
theorem State.inputOk_of_ranges {s : State} {mv us : Nat} (hv : s.pwr.inputValid = false) (hlo : 8700 ≤ mv) (hhi : mv ≤ 61000) (hus : 1000 ≤ us)
    (hdie : ∀ c ∈ s.pwr.die, c ≤ 85) (htile : ∀ c ∈ s.pwr.tile, c ≤ 75) (hps : ∀ c ∈ s.pwr.pstage, c ≤ 95) : s.inputOk mv us = true := by
  simp only [State.inputOk, hv, Bool.false_eq_true, if_false, Bool.and_eq_true, decide_eq_true_eq, List.all_eq_true]
  exact ⟨⟨⟨⟨⟨hlo, hhi⟩, hus⟩, hdie⟩, htile⟩, hps⟩

/-- What a table reads after entries have been picked by their keys. -/
theorem tget_filter_key {α : Type} (d : α) (p : Nat → Bool) (t : Tab α) (k : Nat) :
    tget d (t.filter (fun e => p e.1)) k = if p k then tget d t k else d := by
  induction t with
  | nil => simp
  | cons e t ih =>
    obtain ⟨j, v⟩ := e
    by_cases hjk : j = k
    · subst hjk
      cases hp : p j <;> simp [hp, tget, ih]
    · cases hp : p j <;> simp [hp, tget, hjk, ih]

/-- The part of O3 on the module (R513, R517, R521, R522, R598). -/
theorem resetAndPowerFail : Claims.ResetAndPowerFail := by
  refine ⟨?resetN, ?pfwN, ?inputInvalid, ?release, ?alwaysOn⟩
  case resetN =>
    intro us dur s hm hp
    obtain ⟨hmode, hpwr, hflash, hsl, hho, hga, hpr, hpend⟩ :=
      State.toDormant_spec { s with pwr := { s.pwr with resetHigh := false } } 2 3 us dur .resetN
    exact ⟨_, exec_resetN_down us dur hm hp, hmode, by rw [hpwr], by rw [hpwr], hflash, hsl, hho, hga, hpr, hpend⟩
  case pfwN =>
    intro us dur s hm hc
    obtain ⟨hmode, hpwr, hflash, hsl, hho, hga, hpr, hpend⟩ :=
      State.irq_toDormant_spec { s with pwr := { s.pwr with inputValid := false, pfwHigh := false } } 0 5 1 4 us dur .pfwPlatform
    exact ⟨_, exec_pfwN_down us dur hm hc, hmode, by rw [hpwr], by rw [hpwr], hflash, hsl, hho, hga, hpr, hpend⟩
  case inputInvalid =>
    intro mv s hmv
    change execInputInvalid mv 0 s = _
    rw [execInputInvalid, if_pos ⟨hmv, rfl⟩]
  case release =>
    intro mv us s hm hp hlo hhi hus hdie htile hps
    change execPfwRelease mv us s = _
    rw [execPfwRelease, if_pos ⟨hm, hp, State.inputOk_of_ranges rfl hlo hhi hus hdie htile hps⟩]
  case alwaysOn =>
    intro a s hm hv
    refine ⟨{ s with
      pwr := { s.pwr with lastOff := .none }, pmb := { addr := 0x48 + a.setWidth 7 }, cnt := s.cnt.filter (fun e => !alwaysOnCnt e.1) },
      ?_, rfl, rfl, rfl, rfl, fun k hk => ?_, fun k hk => ?_⟩
    · change execAlwaysOnDomainStart a s = _
      rw [execAlwaysOnDomainStart, if_pos ⟨hm, hv⟩]
    · simp [tget_filter_key 0 (fun k => !alwaysOnCnt k), hk]
    · simp [tget_filter_key 0 (fun k => !alwaysOnCnt k), hk]

/-! ### Resets of the endpoint; the reference (R34, R36, R542) -/

/-- R542: with no image command, mailbox command or dump under way an endpoint reset clears the endpoint's state and nothing else. -/
theorem State.hostReset_idle {s : State} (hi : s.imgc.run = false) (hb : s.mbx.run = false) (hc : s.cap.dumping = false) (held : Bool) :
    s.hostReset held = { s with host := { nextSession := s.host.nextSession, inReset := held } } := by
  simp [State.hostReset, State.dmaAbort, State.dumpDmaErr, hi, hb, hc]

/-- The part of O3 on the endpoint and the reference (R34, R36, R542). -/
theorem endpointResetsAndReference : Claims.EndpointResetsAndReference := by
  refine ⟨?perstN, ?flr, ?flrVf, ?refLost, ?refReturn⟩
  case perstN =>
    intro s hi hb hc
    exact congrArg Host.Outcome.next (State.hostReset_idle (s := { s with pwr := { s.pwr with perstHigh := false } }) hi hb hc true)
  case flr =>
    intro s hi hb hc hr
    change execFlr s = _
    rw [execFlr, hr, if_neg (by simp), State.hostReset_idle hi hb hc]
  case flrVf =>
    intro k s hr hk1 hk2
    change execFlrVf k s = _
    rw [execFlrVf, if_neg (by simp [hr, hk1, hk2])]
    rfl
  case refLost =>
    intro ppm s hl hh
    change execRefLost true ppm s = _
    rw [execRefLost, if_pos (by simp [hl, hh, State.refGone])]
  case refReturn =>
    intro s hh hp hm
    change execRefReturn s = _
    rw [execRefReturn, if_neg (by simp [hh, hp])]
    simp [State.open_, hm]

/-- Settles O3: a reset of the module goes through entry into Dormant; every other event is one branch of its command. -/
theorem resetsAndPowerFail : Obligations.ResetsAndPowerFail :=
  ⟨resetAndPowerFail, endpointResetsAndReference⟩


/-! ### Events of a Gate (R258, R259, R267, R268, R277, R293, R301) -/

/-- The one element that satisfies a test is what a search by the test finds. -/
theorem find?_eq_some_of_unique {α : Type} {l : List α} {p : α → Bool} {a : α} (ha : a ∈ l) (hp : p a = true)
    (huniq : ∀ y ∈ l, p y = true → y = a) : l.find? p = some a := by
  cases hf : l.find? p with
  | none => exact absurd hp (List.find?_eq_none.1 hf a ha)
  | some y => rw [huniq y (List.mem_of_find?_eq_some hf) (List.find?_some hf)]

/-- R268: a hold that no request has matched is freed after its interval and the event is counted. -/
theorem exec_holdExpire_due {s : State} {g d : Nat} {D : ImgDomain} {h : Hold} (hd : s.nodeDom g = some (d, D)) (hh : h ∈ (s.gate g).holds)
    (huniq : ∀ y ∈ (s.gate g).holds, y.num = h.num → y = h) (ht : h.retryAt + ns 5 + fclks 6 < s.kt d) :
    exec (.holdExpire g h.num) s = .next
      ((s.modGate g (fun G => { G with holds := G.holds.filter (fun y => decide (y.num ≠ h.num)) })).bump (cGate g 12)) := by
  have hfind : (s.gate g).holds.find? (fun x => decide (x.num = h.num)) = some h :=
    find?_eq_some_of_unique hh (decide_eq_true rfl) (fun y hy hn => huniq y hy (of_decide_eq_true hn))
  change execHoldExpire g h.num s = _
  simp only [execHoldExpire, hfind, hd, ht, if_true]

/-- R293: a retry-order entry closes after its interval. -/
theorem exec_retryOrderClose_due {s : State} {g slot k d : Nat} {D : ImgDomain} {e : RetryEnt} (hd : s.nodeDom g = some (d, D))
    (he : ((s.gate g).retryOrd.filter (fun e => decide (e.slot = slot)))[k]? = some e) (ht : e.retryAt + ns 5 < s.kt d) :
    exec (.retryOrderClose g slot k) s = .next (s.modGate g (fun G => { G with retryOrd := rmFirst e G.retryOrd })) := by
  change execRetryOrderClose g slot k s = _
  simp only [execRetryOrderClose, he, hd, ht, if_true]

/-- R277: an access whose deadline comes without a queued completion is answered TIMEOUT. -/
theorem exec_watchTimeout_due {s : State} {g k : Nat} {w : Watch} (hw : (s.gate g).watch[k]? = some w) (hq : w.queued = false)
    (ht : w.dl ≤ s.kt w.dom + fclks 29) :
    exec (.watchTimeout g k) s = .next ((s.timedOut g w).gateAnswer w.port (errWatch w .timeout)) := by
  change execWatchTimeout g k s = _
  simp [execWatchTimeout, hw, hq, ht]

@[simp] theorem State.gates_dom (s : State) (G : Tab Gate) (d : Nat) : ({ s with gates := G } : State).dom d = s.dom d := rfl

/-- A run over Gates changes their records only. -/
theorem foldl_modGate_frame (ns : List Nat) (f : Gate → Gate) (s : State) :
    ∃ G, ns.foldl (fun s n => s.modGate n f) s = { s with gates := G } := by
  induction ns generalizing s with
  | nil => exact ⟨s.gates, rfl⟩
  | cons n ns ih => exact ih (s.modGate n f)

/-- After a run over Gates the record of each of them is one that the operation left. -/
theorem gate_foldl_modGate (ns : List Nat) (f : Gate → Gate) (s : State) {n : Nat} (hn : n ∈ ns) :
    ∃ G, (ns.foldl (fun s n => s.modGate n f) s).gate n = f G := by
  induction ns using List.reverseRecOn with
  | nil => cases hn
  | append_singleton ns m ih =>
    rw [List.foldl_append, List.foldl_cons, List.foldl_nil, State.modGate_gate]
    split
    · exact ⟨_, rfl⟩
    next hne =>
      refine ih ?_
      simpa [hne] using hn

/-- Does a calendar unit of slot `t` still stand when slot `cur` is current (R259)? Port egress counts by frames. -/
def slotStands (cur : Nat) (r : Res) (t : Nat) : Bool :=
  match r with | .egr _ => decide (cur / 16 ≤ t / 16) | _ => decide (cur < t)

/-- A Gate's calendar when slot `cur` is current. -/
def Gate.atSlot (cur : Nat) (G : Gate) : Gate :=
  { G with resv := G.resv.filter (fun u => slotStands cur u.res u.slot), moves := G.moves.filter (fun m => slotStands cur m.res m.slot) }

theorem exec_slotAdvance_eq {s : State} {d : Nat} {D : ImgDomain} (hd : s.idom d = some D) :
    exec (.slotAdvance d) s = .next (D.nodes.foldl (fun t n => t.modGate n (Gate.atSlot (slotOf (s.kt d))))
      (s.modDom d (fun x => { x with lastSlot := slotOf (s.kt d) }))) := by
  change execSlotAdvance d s = _
  simp only [execSlotAdvance, hd]
  rfl

/-- Of every resource but port egress, units that stand lie past the current slot. -/
theorem Gate.atSlot_resv {cur : Nat} {G : Gate} {u : CalUnit} (hu : u ∈ (G.atSlot cur).resv) {r : Nat}
    (hr : u.res = .acc r ∨ u.res = .chan r ∨ u.res = .seqr r) : cur < u.slot := by
  have hst := (List.mem_filter.1 hu).2
  rcases hr with hr | hr | hr <;> simpa [slotStands, hr] using hst

/-- R259: units of slots that have become current are consumed. -/
theorem exec_slotAdvance_consumes {s : State} {d : Nat} {D : ImgDomain} (hd : s.idom d = some D) :
    ∃ t, exec (.slotAdvance d) s = .next t ∧ (t.dom d).lastSlot = slotOf (s.kt d)
      ∧ (∀ n ∈ D.nodes, ∀ u ∈ (t.gate n).resv, ∀ r, u.res = .acc r ∨ u.res = .chan r ∨ u.res = .seqr r → slotOf (s.kt d) < u.slot)
      ∧ t = { s with doms := t.doms, gates := t.gates } := by
  obtain ⟨G, hframe⟩ := foldl_modGate_frame D.nodes (Gate.atSlot (slotOf (s.kt d))) (s.modDom d (fun x => { x with lastSlot := slotOf (s.kt d) }))
  refine ⟨_, exec_slotAdvance_eq hd, ?_, fun n hn u hu r hr => ?_, ?_⟩
  · rw [hframe, State.gates_dom, State.modDom_dom_self]
  · obtain ⟨G, hG⟩ := gate_foldl_modGate D.nodes (Gate.atSlot (slotOf (s.kt d))) (s.modDom d (fun x => { x with lastSlot := slotOf (s.kt d) })) hn
    rw [hG] at hu
    exact Gate.atSlot_resv hu hr
  · rw [hframe]
    rfl

/-- The part of O20 on the events of a Gate (R258, R259, R267, R268, R277, R293, R301). -/
theorem gateEvents : Claims.GateEvents := by
  refine ⟨?hold, ?retryOrder, ?watch, ?tail, ?slot, ?balancer⟩
  case hold => exact fun s g d D h hd hh huniq ht => exec_holdExpire_due hd hh huniq ht
  case retryOrder => exact fun s g slot k d D e hd he ht => exec_retryOrderClose_due hd he ht
  case watch => exact fun s g k w hw hq ht => exec_watchTimeout_due hw hq ht
  case tail =>
    intro s g k d D t hd htl ht
    change execTailExpire g k s = _
    simp only [execTailExpire, htl, hd]
    exact congrArg Host.Outcome.next (if_pos ht)
  case slot => exact fun s d D hd => exec_slotAdvance_consumes hd
  case balancer =>
    intro s d D hd hlt
    change execBalancer d s = _
    simp only [execBalancer, hd, Nat.not_le.2 hlt, if_false]

/-! ### What a message that arrives under a credit leaves as it was (R265, R358) -/

/-- `t` may be `s` after a message has arrived and its ingress edge has been fixed: they differ in links, counters, what has left and Gates only, and every
port is in the same state. -/
def Arrived (s t : State) : Prop :=
  (∃ P C O G, t = { s with ports := P, cnt := C, out := O, gates := G }) ∧ ∀ q, (t.port q).state = (s.port q).state ∧ (t.port q).detach = (s.port q).detach

theorem State.landed_ingressEdge_arrived {s : State} {p : Nat} {m : Msg} (hcov : s.covered p m = true) (g k : Nat) :
    Arrived s ((s.landed p m).ingressEdge g k).1 := by
  obtain ⟨⟨P, C, O, hl⟩, hports⟩ := State.landed_frame s p m hcov
  obtain ⟨f, hf⟩ := State.ingressEdge_frame (s.landed p m) g k
  rw [hf]
  refine ⟨⟨P, C, O, ((s.landed p m).modGate g f).gates, ?_⟩, fun q => ⟨(hports q).1, (hports q).2.1⟩⟩
  rw [hl]
  rfl

section
variable {s t : State} (h : Arrived s t)
include h

theorem Arrived.open_ : t.open_ = s.open_ := by
  obtain ⟨⟨P, C, O, G, rfl⟩, -⟩ := h
  rfl

theorem Arrived.stopped : t.stopped = s.stopped := by
  obtain ⟨⟨P, C, O, G, rfl⟩, -⟩ := h
  rfl

theorem Arrived.iport : t.iport = s.iport := by
  obtain ⟨⟨P, C, O, G, rfl⟩, -⟩ := h
  rfl

theorem Arrived.permOfPort : t.permOfPort = s.permOfPort := by
  obtain ⟨⟨P, C, O, G, rfl⟩, -⟩ := h
  rfl

end

/-! ### Register accesses through a configuration window (R29, R309, R310, R388) -/

/-- Steps 1 and 2 of R388 pass a port whose entry is VALID with CFG, in a domain with a window. -/
theorem State.cfgFail_eq_none {s : State} {p : Nat} {D : ImgDomain} (hv : (s.permOfPort p).valid = true) (hc : (s.permOfPort p).cfg = true)
    (hw : D.cfgwin ≠ 0) : s.cfgFail p D = none := by
  simp only [State.cfgFail, hv, hc, hw, Bool.not_true, Bool.false_or, decide_false, Bool.false_eq_true, if_false]

/-- A register access at a port is taken when a credit covers it. -/
theorem exec_cfg_landed {s : State} {p : Nat} {m : Msg} (write : Bool) (hsvc : s.inSvc p = true)
    (hcov : s.covered p { m with op := if write then .cfgWr else .cfgRd } = true) :
    exec (if write then .cfgWr p m else .cfgRd p m) s
      = .next ((s.landed p { m with op := if write then .cfgWr else .cfgRd }).cfgAccess p m write) := by
  cases write with
  | true => exact congrArg Host.Outcome.next (State.atPort_landed s p _ _ hsvc hcov)
  | false => exact congrArg Host.Outcome.next (State.atPort_landed s p _ _ hsvc hcov)

/-- R29: a register access that no check refuses is one access of the register network, on its ingress edge; its answer waits at the Gate. -/
theorem State.cfgAccess_taken {s : State} {p d : Nat} {D : ImgDomain} {m : Msg} {write : Bool} (hd : s.portDom p = some (d, D)) :
    let i := s.ingressEdge (portNode p) (portSlot p)
    i.1.open_ = true → i.1.stopped d = false → (i.1.port p).state ≠ .draining → (i.1.iport p).role ≠ .memory → (i.1.iport p).role ≠ .off →
    i.1.cfgFail p D = none →
    let q := { m with
      op := if write then .cfgWr else .cfgRd, requester := if (i.1.iport p).role = .peer then m.requester else portEp D.device p }
    let r := i.1.access { who := .window d, off := m.cfgOff.toNat, size := if m.cfgEight then 8 else 4, wr := if write then some m.cfgData else none }
    s.cfgAccess p m write = r.1.cfgReply p (i.1.kt d + fclks (i.2 - i.1.clk.fclk)) (cfgAnswer q write r.2.1 r.2.2) := by
  intro i ho hst hdr hmem hoff hfail q r
  simp only [State.cfgAccess, hd]
  rw [if_neg (by simp [i, ho, hst]), if_neg (fun h => hdr h.1), if_neg (fun h => h.elim hmem hoff), hfail]

/-- Settles O10: the arrival and the ingress edge leave all that the checks of a register access look at, so none of them refuses it. -/
theorem windowAccesses : Obligations.WindowAccesses := by
  unfold Obligations.WindowAccesses
  intro s p d D m write m' hsvc hcov hd hdr ho hst hmem hoff hv hc hw i q r
  have hland := State.landed_frame s p m' hcov
  have harr : Arrived s i.1 := State.landed_ingressEdge_arrived hcov _ _
  have htaken := State.cfgAccess_taken (s := s.landed p m') (m := m') (write := write) (hland.portDom ▸ hd)
    (harr.open_.trans ho) (harr.stopped ▸ hst) ((harr.2 p).1 ▸ hdr) (harr.iport ▸ hmem) (harr.iport ▸ hoff)
    (State.cfgFail_eq_none (harr.permOfPort ▸ hv) (harr.permOfPort ▸ hc) hw)
  rw [exec_cfg_landed (m := m') write hsvc hcov]
  refine congrArg Host.Outcome.next (htaken.trans ?_)
  rw [harr.iport]

/-! ### Completions and barriers (R29, R273, R274, R276, R297, R302, R305) -/

/-- R276: the message that the port serves next leaves it. -/
theorem exec_completionEgress_next {s : State} {p : Nat} {u : FUnit} (hp : p < 256) (hu : s.nextOut p = some u) :
    exec (.completionEgress p u.msg) s = .next (
      let t := (s.qTake (portNode p) (egressQ p u.msg) u.msg).leave p u.msg
      (if completes u.msg then t.completed p u.msg else t).portOut p) := by
  change execCompletionEgress p u.msg s = _
  rw [execCompletionEgress, if_neg (by omega)]
  simp only [hu, if_true]

/-- R30: the controller writer takes the oldest message of its line. -/
theorem exec_completionEgress_writer {s : State} {p : Nat} {m : Msg} (hp : 256 ≤ p)
    (hm : (s.gate (s.gateOf p)).writerOut.find? (fun x => decide (x.line = m.line)) = some m) :
    exec (.completionEgress p m) s = .next (
      let t := s.modGate (s.gateOf p) (fun G => { G with writerOut := rmFirst m G.writerOut })
      ((if completes m then t.completed p m else t).emit (.writerDone m.line (if m.op = .err then m.err else .none))).writerGot m) := by
  change execCompletionEgress p m s = _
  rw [execCompletionEgress, if_pos hp]
  simp only [State.writerTakes, hm, if_true]

/-- R29: an answer to a register access leaves a port that has nothing else to send. -/
theorem exec_completionEgress_cfg {s : State} {p : Nat} {at_ : KTime} {m : Msg} (hp : p < 256) (hn : s.nextOut p = none)
    (hc : (s.gate (portNode p)).cfgOut.find? (fun c => decide (c.1 = p)) = some (p, at_, m)) (hs : s.sendable p m = true) :
    exec (.completionEgress p m) s = .next (
      ((s.modGate (portNode p) (fun G => { G with cfgOut := rmFirst (p, at_, m) G.cfgOut })).handOver p m).modBarriers (barDrop p 0 at_ false false 0 0)) := by
  change execCompletionEgress p m s = _
  rw [execCompletionEgress, if_neg (by omega)]
  simp only [hn, State.cfgLeaves, hc, hs, and_self, if_true]

/-- R297: a barrier that no check refuses is taken; it covers what is under way for its agent and is not covered by an earlier one. -/
theorem State.barrierIn_taken {s : State} {p d : Nat} {D : ImgDomain} {m : Msg} (hd : s.portDom p = some (d, D)) :
    let i := s.ingressEdge (portNode p) (portSlot p)
    let bs := i.1.barriersOf (i.1.agentPorts d p)
    i.1.open_ = true → i.1.stopped d = false → ¬ ((i.1.port p).state = .draining ∧ (i.1.port p).detach = .acked) →
    (i.1.iport p).role ≠ .memory → (i.1.iport p).role ≠ .off → bs.length < 4 →
    let r := if (i.1.iport p).role = .peer then m.requester else portEp D.device p
    s.barrierIn p m = (i.1.modGate (portNode p) (fun G => { G with barriers := G.barriers ++ [{
        port := p, agent := epAgent r, req := r
        cover := (i.1.underWay (i.1.agentPorts d p) i.2).filter (fun c => !(bs.any (fun b => decide (c ∈ b.cover))))
        ord := bs.foldl (fun k b => max k (b.ord + 1)) 0 }] })).bump (cGate (portNode p) 24) := by
  intro i bs ho hst hdr hmem hoff hlen r
  simp only [State.barrierIn, hd]
  rw [if_neg (by simp [i, ho, hst]), if_neg hdr, if_neg (fun h => h.elim hmem hoff), if_neg (Nat.not_le.2 hlen)]

/-- R302, R305: an agent's oldest barrier that covers nothing any more, lost nothing and is not late ends OK. -/
theorem exec_barDone_ok {s : State} {g k d : Nat} {D : ImgDomain} {b : Barrier} (hd : s.nodeDom g = some (d, D)) (hb : (s.gate g).barriers[k]? = some b)
    (hcov : b.cover = []) (hold : ∀ x ∈ s.barriersOf (s.agentPorts d b.port), b.ord ≤ x.ord) (hlost : b.lost = 0) (hlate : b.late = false) :
    exec (.barDone g k) s = .next ((s.modGate g (fun G => { G with
      barriers := rmFirst b G.barriers, bars := setAt G.bars (portSlot b.port) {} })).egress b.port
        { op := .barDone, requester := b.req, destDev := epDev b.req, nodl := true }) := by
  have holdest : (s.barriersOf (s.agentPorts d b.port)).any (fun x => decide (x.ord < b.ord)) = false :=
    List.any_eq_false.2 (fun x hx => by simpa using hold x hx)
  have hst : barStatus b = .ok := by simp [barStatus, hlost, hlate]
  change execBarDone g k s = _
  simp only [execBarDone, hb, hd]
  rw [if_neg (by simp [hcov, holdest])]
  simp [hst, hlost]

/-- The part of O20 on completions and barriers (R29, R273, R274, R276, R297, R302, R305). -/
theorem completionsAndBarriers : Claims.CompletionsAndBarriers := by
  refine ⟨?next, ?writer, ?cfg, ?barrier, ?barDone⟩
  case next => exact fun s p u hp hu => exec_completionEgress_next hp hu
  case writer => exact fun s p m hp hm => exec_completionEgress_writer hp hm
  case cfg => exact fun s p at_ m hp hn hc hs => exec_completionEgress_cfg hp hn hc hs
  case barrier =>
    intro s p d D m harrives ho hmem hoff i bs hlen hst
    obtain ⟨hd, -, hsvc, hcov, hdr⟩ := harrives
    have hland := State.landed_frame s p { m with op := .barrier } hcov
    have harr : Arrived s i.1 := State.landed_ingressEdge_arrived hcov _ _
    have hdr' : ¬ ((i.1.port p).state = .draining ∧ (i.1.port p).detach = .acked) := by
      rw [(harr.2 p).1, (harr.2 p).2]
      exact hdr
    have htaken := State.barrierIn_taken (s := s.landed p { m with op := .barrier }) (m := m) (hland.portDom ▸ hd)
      (harr.open_.trans ho) hst hdr' (harr.iport ▸ hmem) (harr.iport ▸ hoff) hlen
    rw [harr.iport] at htaken
    change Host.Outcome.next (s.atPort p _ _) = _
    rw [State.atPort_landed s p _ _ hsvc hcov]
    exact congrArg Host.Outcome.next htaken
  case barDone => exact fun s g k d D b hd hb hcov hold hlost hlate => exec_barDone_ok hd hb hcov hold hlost hlate

/-- Settles O20: each event meets its condition and takes its one branch. -/
theorem gateEventsAndCompletions : Obligations.GateEventsAndCompletions :=
  ⟨gateEvents, completionsAndBarriers⟩

end Sys2Proof.Machine

/-! ## Proofs of the family 02_slice_pipeline: placement of lines, passes and lookups, snoops, tile reads, commands of a node's units, sweeps and scrubs -/

namespace Sys2Proof.Machine

open Sys2Proof

/-! ### Placement of lines (R45 to R50) -/

theorem ImgDomain.sets_eq_pow {D : ImgDomain} (hw : D.wlog ≤ 16) : D.sets = 2 ^ (16 - D.wlog) := by
  unfold ImgDomain.sets
  exact Nat.pow_div (x := 2) hw (by decide)

/-- R46 reads the bits above the lowest chunk alone. -/
theorem foldHash_congr {n : Nat} {l l' : LineAddr} (h : l.toNat / 2 ^ n = l'.toNat / 2 ^ n) : foldHash n l = foldHash n l' := by
  have hchunk : ∀ j, l.toNat / 2 ^ (n * (j + 1)) = l'.toNat / 2 ^ (n * (j + 1)) := fun j => by
    rw [Nat.mul_succ, Nat.pow_add, Nat.mul_comm, ← Nat.div_div_eq_div_mul, ← Nat.div_div_eq_div_mul, h]
  simp only [foldHash, hchunk]

/-- A tag has room for what lies above chunk and set index. -/
theorem ImgDomain.tag_toNat {D : ImgDomain} {i : Nat} (hs : D.sets = 2 ^ i) (hni : 14 ≤ D.nlog + i) (l : LineAddr) :
    (D.tag l).toNat = l.toNat / 2 ^ (D.nlog + i) := by
  have hlt : l.toNat / 2 ^ (D.nlog + i) < 2 ^ 31 :=
    (Nat.div_le_div_left (Nat.pow_le_pow_right (by decide) hni) (by decide)).trans_lt (by omega)
  rw [ImgDomain.tag, hs, Nat.div_div_eq_div_mul, ← Nat.pow_add, BitVec.toNat_ofNat, Nat.mod_eq_of_lt hlt]

theorem xor_hash_cancel (a f s : Nat) : a ^^^ f ^^^ s ^^^ f ^^^ s = a := by
  rw [Nat.xor_right_comm (a ^^^ f), Nat.xor_xor_cancel_right, Nat.xor_xor_cancel_right]

/-- R48: the tag and the set index give the bits above the lowest chunk, which give the hash of R46, which with the position gives the chunk. -/
theorem ImgDomain.lineOf_hash_set_tag {D : ImgDomain} {l : LineAddr} (htag : (D.tag l).toNat = l.toNat / 2 ^ D.nlog / D.sets) :
    D.lineOf (D.hash l) (D.set l) (D.tag l) = l := by
  have hhi : (D.tag l).toNat * D.sets + D.set l = l.toNat / 2 ^ D.nlog := by
    rw [htag, ImgDomain.set, Nat.mul_comm, Nat.div_add_mod]
  have hlt : l.toNat / 2 ^ D.nlog * 2 ^ D.nlog < 2 ^ 45 := (Nat.div_mul_le_self _ _).trans_lt l.isLt
  have hfold : foldHash D.nlog (BitVec.ofNat 45 (l.toNat / 2 ^ D.nlog * 2 ^ D.nlog)) = foldHash D.nlog l := by
    refine foldHash_congr ?_
    rw [BitVec.toNat_ofNat, Nat.mod_eq_of_lt hlt, Nat.mul_div_cancel _ (Nat.two_pow_pos _)]
  simp only [ImgDomain.lineOf, ImgDomain.hash, hhi, hfold, xor_hash_cancel, Nat.div_add_mod', BitVec.ofNat_toNat, BitVec.setWidth_eq]

/-- Settles O55: with 2^i sets the parts of a line address are its digits, and the recovery puts them together again. -/
theorem positionSetAndTagRecoverTheLine : Obligations.PositionSetAndTagRecoverTheLine := by
  unfold Obligations.PositionSetAndTagRecoverTheLine
  intro D l hn2 hn6 hw1 hw4 i
  have hi : i = 16 - D.wlog := rfl
  have hsets : D.sets = 2 ^ i := ImgDomain.sets_eq_pow (by omega)
  have htag := ImgDomain.tag_toNat hsets (by omega) l
  have hrange : l.toNat / 2 ^ (D.nlog + i) < 2 ^ (45 - D.nlog - i) := by
    rw [Nat.div_lt_iff_lt_mul (Nat.two_pow_pos _), ← Nat.pow_add, show 45 - D.nlog - i + (D.nlog + i) = 45 by omega]
    exact l.isLt
  refine ⟨rfl, hsets, by rw [ImgDomain.set, hsets], htag, htag ▸ hrange, ImgDomain.lineOf_hash_set_tag ?_⟩
  rw [htag, hsets, Nat.div_div_eq_div_mul, Nat.pow_add]

/-- Settles O60: placement of the worked line, and the map of the worked addresses, computed. -/
theorem workedAddresses : Obligations.WorkedAddresses := by
  unfold Obligations.WorkedAddresses
  refine ⟨?_, rfl, rfl, rfl, rfl, rfl, rfl, rfl, rfl, rfl, rfl, rfl, rfl, rfl, rfl⟩
  rintro D l rfl rfl
  decide

/-! ### A pass that meets no fault (R80 to R92) -/

@[simp] theorem State.eccStage_clean (s : State) (n d : Nat) (D : ImgDomain) (set : Nat) : s.eccStage n d D set {} = (s, false, false) := rfl

/-- A pass of an unfenced slice that meets no fault commits on its first trip, over the state it found. -/
theorem State.runPass_clean {s : State} {n : Nat} (hf : s.isFenced (.slice n) = false) (d : Nat) (D : ImgDomain) (set : Nat) (hit : State → Option Nat)
    (pr : Option Nat) (due : Nat → Bool) : s.runPass n d D set hit pr due {} = { st := s, fin := .go, reads := pr.toList } := by
  simp [State.runPass, hf, State.lastTrip]

theorem State.passFaults_clean {s : State} {n : Nat} (hf : s.isFenced (.slice n) = false) (d : Nat) (D : ImgDomain) (set : Nat) :
    s.passFaults n d D set {} = (s, .go) := by
  simp [State.passFaults, State.runPass_clean hf]

@[simp] theorem State.stamp_isFenced (s : State) (d : Nat) (l : LineAddr) (who : Option Endpoint) (k : Nat) (u : FenceUnit) :
    (s.stamp d l who k).isFenced u = s.isFenced u := by
  have hflt : (s.stamp d l who k).flt = s.flt := by
    simp only [State.stamp, State.setTraces]
    split <;> rfl
  simp only [State.isFenced, hflt]

/-! ### LOOKUP_PASS (R59, R67 to R70, R116, R142) -/

/-- A lookup pass that meets no fault, at an unfenced slice. -/
theorem State.lookupIn_clean {s : State} {a : At} (hf : s.isFenced (.slice a.n) = false) (m : Msg) :
    let u := s.stamp a.d a.l (some m.requester) 2
    let v := if (u.predicted a).isNone then u.bump (cSlc a.n 16) else u
    let w := v.wayOf a
    let r := v.look a m none false false
    let t := (r.1.readsDone v a m (u.predicted a).toList (r.2.commits w) w ((r.1.slice a.n).reads ≠ (v.slice a.n).reads)).bump (cSlc a.n 0)
    s.lookupIn a m {} = ((t.lookDone a m w r.2).stamp a.d a.l (some m.requester) 3).workEnd a.n a.l := by
  have hf' : (s.stamp a.d a.l (some m.requester) 2).isFenced (.slice a.n) = false := by simpa using hf
  simp only [State.lookupIn, State.runPass_clean hf']

/-- Settles O21: the accept stage takes the request from its queue, and its pass meets no fault. -/
theorem lookupPassCommits : Obligations.LookupPassCommits := by
  unfold Obligations.LookupPassCommits
  intro s n d D m hd hf hacc a q
  have hexec : exec (.lookupPass n m {}) s = .next (q.lookupIn a m {}) := by
    change execLookupPass n m {} s = _
    by_cases hr : m ∈ (s.slice n).reissue <;>
      simp only [execLookupPass, hd, hf, hacc, hr, q, a, Bool.not_true, Bool.or_self, Bool.false_eq_true, if_true, if_false]
  have hq : q.isFenced (.slice a.n) = false := by
    simp only [q]
    split <;> exact hf
  exact hexec.trans (congrArg Host.Outcome.next (State.lookupIn_clean hq m))

/-! ### What a lookup decides (R142, R158, R198, R199) -/

section Look
variable {s : State} {a : At} (hk : s.sweepDenies a = false) (hm : s.mshrOf a.n a.l = none) (hv : s.vbOf a.n a.l = none)
  (hp : s.drainPend a.n a.l = false)
include hk hm hv hp

/-- A lookup with nothing of its line under way, of a line that the slice does not hold; in a record range it asks for no ownership. -/
theorem State.look_of_absent (m : Msg) (hw : s.wayOf a = none) {rcd : Bool} (hr : s.lineRecord a = rcd) :
    s.look a m none false false = s.lookAbsent a m (if rcd && isOwn m.op then .rdSh else m.op) rcd := by
  simp only [State.look, State.lookOn, hk, hm, hv, hp, hw, hr, Bool.or_false, Option.isSome_none, Bool.false_eq_true, if_false]

theorem State.look_of_present (m : Msg) {w : Nat} (hw : s.wayOf a = some w) (hr : s.lineRecord a = false) :
    s.look a m none false false = s.lookPresent a w m m.op false none false [] := by
  simp only [State.look, State.lookOn, hk, hm, hv, hp, hw, hr, Bool.or_false, Bool.false_and, Option.isSome_none, Bool.false_eq_true, if_false]

end Look

/-! ### What a lookup does with a line that is absent (R142, R158, R161, R162) -/

section Absent
variable {s : State} {a : At} {m : Msg} (hl : s.setLost a = false)
include hl

/-- A read or an ownership request that takes no upgrade misses as it is. -/
theorem State.lookAbsent_read {op : Op} (hop : op ∈ [Op.rdSh, .rdOwn, .ownNodata, .rdNa]) (rcd : Bool) :
    s.lookAbsent a m op rcd = s.missWith a m op false [] := by
  simp only [List.mem_cons, List.not_mem_nil, or_false] at hop
  obtain rfl | rfl | rfl | rfl := hop <;> simp [State.lookAbsent, hl]

/-- There is nothing to upgrade: the line is asked for with its data. -/
theorem State.lookAbsent_ownUpg (rcd : Bool) : s.lookAbsent a m .ownUpg rcd = s.missWith a m .rdOwn false [] := by
  simp [State.lookAbsent, hl]

theorem State.lookAbsent_wr_of_record : s.lookAbsent a m .wr true = s.missWith a m .wrDur true [] := by
  simp [State.lookAbsent, hl]

/-- A write whose tenancy can take a way misses for ownership. -/
theorem State.lookAbsent_wr_of_cands (hc : s.cands a (s.askTen a.d m.requester a.l) false ≠ []) :
    s.lookAbsent a m .wr false = s.missWith a m (if m.mask = fullMask then .ownNodata else .rdOwn) true [] := by
  simp [State.lookAbsent, hl, hc]

/-- A write whose tenancy can take no way goes through. -/
theorem State.lookAbsent_wr_of_noWay (hc : s.cands a (s.askTen a.d m.requester a.l) false = []) (hw : s.matchWay a = none) :
    s.lookAbsent a m .wr false = s.missWith a m .wrThru true [] := by
  simp [State.lookAbsent, hl, hc, hw]

end Absent

/-- In a record range an ownership request is a read. -/
theorem recordOp_eq_rdSh {op : Op} (hop : op ∈ [Op.rdSh, .rdOwn, .ownUpg, .ownNodata]) : (if true && isOwn op then Op.rdSh else op) = .rdSh := by
  simp only [List.mem_cons, List.not_mem_nil, or_false] at hop
  obtain rfl | rfl | rfl | rfl := hop <;> rfl

/-- The part of O22 on absent lines. -/
theorem lookupsOfAbsentLines : Claims.LookupsOfAbsentLines := by
  intro s a m hk hm hv hp hw hl
  have hout (hr : s.lineRecord a = false) : s.look a m none false false = s.lookAbsent a m m.op false :=
    State.look_of_absent hk hm hv hp m hw hr
  have hrecord (hr : s.lineRecord a = true) : s.look a m none false false = s.lookAbsent a m (if true && isOwn m.op then .rdSh else m.op) true :=
    State.look_of_absent hk hm hv hp m hw hr
  refine ⟨?read, ?upgrade, ?write, ?through, ?durable, ?record⟩
  case read => exact fun hr hop => (hout hr).trans (State.lookAbsent_read hl hop false)
  case upgrade => exact fun hr hop => (hout hr).trans (hop ▸ State.lookAbsent_ownUpg hl false)
  case write => exact fun hr hop hc => (hout hr).trans (hop ▸ State.lookAbsent_wr_of_cands hl hc)
  case through => exact fun hr hop hc hmatch => (hout hr).trans (hop ▸ State.lookAbsent_wr_of_noWay hl hc hmatch)
  case durable => exact fun hr hop => (hrecord hr).trans (hop ▸ State.lookAbsent_wr_of_record hl)
  case record =>
    intro hr hop
    rw [hrecord hr, recordOp_eq_rdSh hop]
    exact State.lookAbsent_read hl List.mem_cons_self true

/-! ### What a lookup does with a line that is present and has no near owner (R142, R158, R191, R198) -/

section Present
variable {s : State} {a : At} {w : Nat} {m : Msg} (hn : (s.tagAt a.n (a.slot w)).near = none)
include hn

/-- A line held in S is read without ownership. -/
theorem State.lookPresent_rdSh_of_shared (hs : (s.tagAt a.n (a.slot w)).state = .s) :
    s.lookPresent a w m .rdSh false none false [] =
      ((s.setPres a.n (a.slot w) (adding (s.presAt a.n (a.slot w)) (s.reqGroup m.requester))).tileRead a.n (a.slot w)
        (dataFor a { m with dl := m.hitDl } .s false), .hit w) := by
  simp [State.lookPresent, hn, State.hitShared, hs, State.give, atHit]

theorem State.lookPresent_rdNa :
    s.lookPresent a w m .rdNa false none false [] =
      (s.tileRead a.n (a.slot w) (dataFor a { m with dl := m.hitDl } .i false), .hit w) := by
  simp [State.lookPresent, hn, State.hitNa, State.give, atHit]

/-- A line held in E or M that no other group has is given with ownership. -/
theorem State.lookPresent_rdOwn_of_owned (hs : (s.tagAt a.n (a.slot w)).state = .e ∨ (s.tagAt a.n (a.slot w)).state = .m)
    (ho : s.othersOf a (a.slot w) m = 0) :
    s.lookPresent a w m .rdOwn false none false [] =
      ((s.takeOwn a (a.slot w) (s.reqGroup m.requester)).tileRead a.n (a.slot w) (dataFor a { m with dl := m.hitDl } .m false), .hit w) := by
  simp [State.lookPresent, hn, State.hitOwn, hs, ho, State.give, atHit]

/-- A line held in S or O has its ownership asked of the home. -/
theorem State.lookPresent_own_of_notOwned (hs : (s.tagAt a.n (a.slot w)).state = .s ∨ (s.tagAt a.n (a.slot w)).state = .o)
    {op : Op} (hop : op ∈ [Op.rdOwn, .ownUpg]) :
    s.lookPresent a w m op false none false [] =
      s.upgWith a (a.slot w) m false (nearSnoops (s.tagAt a.n (a.slot w)) (s.presAt a.n (a.slot w)) (s.reqGroup m.requester) .snpInv false)
        (only (s.reqGroup m.requester)) := by
  have hne : ¬ ((s.tagAt a.n (a.slot w)).state = .e ∨ (s.tagAt a.n (a.slot w)).state = .m) := by
    obtain h | h := hs <;> simp [h]
  have hown : s.lookPresent a w m op false none false [] = s.hitOwn a w m op none false := by
    simp only [List.mem_cons, List.not_mem_nil, or_false] at hop
    obtain rfl | rfl := hop <;> simp [State.lookPresent, hn]
  simp only [hown, State.hitOwn, hne, if_false]

/-- A line held in E or M that no group has takes a write at once. -/
theorem State.lookPresent_wr (hs : (s.tagAt a.n (a.slot w)).state = .e ∨ (s.tagAt a.n (a.slot w)).state = .m)
    (hpr : s.presAt a.n (a.slot w) = 0) :
    s.lookPresent a w m .wr false none false [] = s.writeHit a w m [] := by
  simp [State.lookPresent, State.hitWrite, hs, hn, hpr]

end Present

/-- A near owner that is not the requester's group is asked for a line that it may share. -/
theorem State.lookPresent_rdSh_of_owner {s u : State} {a : At} {w o i : Nat} {m : Msg} (hn : (s.tagAt a.n (a.slot w)).near = some o)
    (hg : s.reqGroup m.requester ≠ some o)
    (hu : s.openMiss a m .rdSh false (some { pend := [o], owner := some o, reqNear := (s.reqGroup m.requester).isSome }) = some (u, i)) :
    s.lookPresent a w m .rdSh false none false [] =
      (let v := u.setPres a.n (a.slot w) (adding (u.presAt a.n (a.slot w)) (s.reqGroup m.requester))
       (v.snoopNear a o .snpSh false m.requester (v.nearDl a m) m.cls, .near)) := by
  simp [State.lookPresent, hn, hg.symm, State.hitShared, State.nearWith, hu]

/-- A write of all 128 bytes replaces the line, marks and all. -/
theorem State.writeHit_full (s : State) (a : At) (w : Nat) {m : Msg} (hmask : m.mask = fullMask) :
    s.writeHit a w m [] = (((s.writeTile a.n (a.slot w) m.mask
        { bits := layBytes (tget {} (s.slice a.n).tile (a.slot w)).bits m.data.bits m.mask, marks := 0 }).modTag a.n (a.slot w)
          (fun t => { t with state := .m, subd := t.subd ||| subdOf m.mask })).answer a m (cmpFor a { m with dl := m.hitDl }), .hit w) := by
  simp only [State.writeHit, hmask, ite_true, decide_true, Bool.true_eq_false, and_false, if_false]
  rfl

/-- A partial write is merged over the line as read, unless that carries a mark. -/
theorem State.writeHit_partial (s : State) (a : At) (w : Nat) {m : Msg} (hmask : m.mask ≠ fullMask) :
    s.writeHit a w m [] =
      (let c := s.checkLine a.n a.d a.D (a.slot w) []
       let x := tget {} (c.slice a.n).tile (a.slot w)
       if x.marks ≠ 0 then c.lookErr a m .poison
       else (((c.writeTile a.n (a.slot w) m.mask { bits := layBytes x.bits m.data.bits m.mask, marks := x.marks }).modTag a.n (a.slot w)
         (fun t => { t with state := .m, subd := t.subd ||| subdOf m.mask })).answer a m (cmpFor a { m with dl := m.hitDl }), .hit w)) := by
  simp only [State.writeHit, hmask, if_false, decide_false, and_true, Bool.false_eq_true]
  rfl

/-- The part of O22 on lines that the slice holds. -/
theorem lookupsOfPresentLines : Claims.LookupsOfPresentLines := by
  intro s a m w hk hm hv hp hw hr k t g pr h
  rw [State.look_of_present hk hm hv hp m hw hr]
  refine ⟨?shared, ?nonAlloc, ?owner, ?own, ?upgrade, ?full, ?part⟩
  case shared => exact fun hn hs hop => hop ▸ State.lookPresent_rdSh_of_shared hn hs
  case nonAlloc => exact fun hn hop => hop ▸ State.lookPresent_rdNa hn
  case owner => exact fun o hn hg hop u i hu => hop ▸ State.lookPresent_rdSh_of_owner hn hg hu
  case own => exact fun hn hs ho hop => hop ▸ State.lookPresent_rdOwn_of_owned hn hs ho
  case upgrade => exact fun hn hs hop => State.lookPresent_own_of_notOwned hn hs hop
  case full => exact fun hs hpr hn hop hmask => hop ▸ (State.lookPresent_wr hn hs hpr).trans (State.writeHit_full s a w hmask)
  case part => exact fun hs hpr hn hop hmask => hop ▸ (State.lookPresent_wr hn hs hpr).trans (State.writeHit_partial s a w hmask)

/-- Settles O22: a lookup with nothing of its line under way goes by whether the slice holds the line, and then by the request's type. -/
theorem lookupDecisions : Obligations.LookupDecisions := ⟨lookupsOfAbsentLines, lookupsOfPresentLines⟩

/-! ### What a snoop does to a line that is present (R201 to R203) -/

section SnpPresent
variable {s : State} {a : At} {w : Nat} {m : Msg}

theorem State.snpPresent_snpSh_of_shared (hop : m.op = .snpSh) (hs : (s.tagAt a.n (a.slot w)).state = .s) :
    s.snpPresent a w m = s.snpReply a m .rspS .s 0 false := by
  simp [State.snpPresent, hop, hs]

theorem State.snpPresent_snpCur_of_clean (hop : m.op = .snpCur) (hn : (s.tagAt a.n (a.slot w)).near = none)
    (hs : (s.tagAt a.n (a.slot w)).state = .s ∨ (s.tagAt a.n (a.slot w)).state = .e) :
    s.snpPresent a w m = s.snpReply a m .rspS (s.tagAt a.n (a.slot w)).state 0 false := by
  obtain h | h := hs <;> simp [State.snpPresent, hop, hn, h]

theorem State.snpPresent_snpCur_of_dirty (hop : m.op = .snpCur) (hn : (s.tagAt a.n (a.slot w)).near = none)
    (hs : (s.tagAt a.n (a.slot w)).state = .m ∨ (s.tagAt a.n (a.slot w)).state = .o) :
    s.snpPresent a w m = (s.snpTile a (a.slot w) (fwdData a m .i false)).snpReply a m .rspFwd (s.tagAt a.n (a.slot w)).state 0 false := by
  simp [State.snpPresent, hop, hn, hs]

/-- A snoop that takes a shared line leaves nothing and forwards nothing. -/
theorem State.snpPresent_take_of_shared (hop : m.op ∈ [Op.snpOwn, .snpInv]) (hs : (s.tagAt a.n (a.slot w)).state = .s) :
    s.snpPresent a w m = (s.snpTake a w m).1.snpReply a m .rspI .i (s.snpTake a w m).2 false := by
  simp only [List.mem_cons, List.not_mem_nil, or_false] at hop
  obtain h | h := hop <;> simp [State.snpPresent, h, hs]

section Owned
variable (hn : (s.tagAt a.n (a.slot w)).near = none)
  (hs : (s.tagAt a.n (a.slot w)).state = .e ∨ (s.tagAt a.n (a.slot w)).state = .m ∨ (s.tagAt a.n (a.slot w)).state = .o)
include hn hs

/-- The owned line's data goes to the requester, and the slice keeps a shared copy, or a dirty one that it still owns. -/
theorem State.snpPresent_snpSh_of_owned (hop : m.op = .snpSh) :
    s.snpPresent a w m =
      (let ns : CohState := if (s.tagAt a.n (a.slot w)).state = .e then .s else .o
       ((s.modTag a.n (a.slot w) (fun t => { t with state := ns })).snpTile a (a.slot w) (fwdData a m .s false)).snpReply a m .rspFwd ns 0 false) := by
  obtain h | h | h := hs <;> simp [State.snpPresent, hop, hn, h]

theorem State.snpPresent_snpOwn_of_owned (hop : m.op = .snpOwn) :
    s.snpPresent a w m =
      (let r := (s.snpTile a (a.slot w) (fwdData a m .m false)).snpTake a w m
       r.1.snpReply a m .rspFwd .i r.2 false) := by
  obtain h | h | h := hs <;> simp [State.snpPresent, hop, hn, h]

theorem State.snpPresent_snpInv_of_owned (hop : m.op = .snpInv) (hd : m.nodata = false) :
    s.snpPresent a w m =
      (let r := s.snpTake a w m
       r.1.snpTile a (a.slot w) (snpAnswer a m .sdata .i r.2 false)) := by
  obtain h | h | h := hs <;> simp [State.snpPresent, hop, hn, h, hd]

end Owned
end SnpPresent

/-! ### A snoop that finds its line idle (R59, R200, R227) -/

/-- A snoop pass that meets no fault, of a line that nothing holds it for, at an unfenced slice. -/
theorem State.snoopIn_clean {s : State} {a : At} {m : Msg} (hf : s.isFenced (.slice a.n) = false) (hacc : s.accepts a.n 1 m = true)
    (hheld : s.snoopHeld a = false) : s.snoopIn a m {} = Claims.snooped s a m (fun u => u.snoopDo a m) := by
  simp only [State.snoopIn, hf, hacc, hheld, State.runPass_clean hf, Claims.snooped, Bool.not_false, Bool.not_true, Bool.and_false,
    Bool.false_eq_true, if_false]

theorem exec_snoopCmd {op : Op} (hop : op ∈ [Op.snpSh, .snpOwn, .snpInv, .snpCur]) (n : Nat) (m : Msg) (x : PassFault) (s : State) :
    exec (Claims.snoopCmd op n m x) s = .next (s.snoop op n m x) := by
  simp only [List.mem_cons, List.not_mem_nil, or_false] at hop
  obtain rfl | rfl | rfl | rfl := hop <;> rfl

/-- The commit of a snoop pass works on a state that differs from the one it found in the pool and the counters only. -/
theorem Claims.snooped_congr {s : State} {a : At} {m : Msg} {f g : State → State} (h : ∀ u : State, u.slice = s.slice → f u = g u) :
    Claims.snooped s a m f = Claims.snooped s a m g := by
  simp only [Claims.snooped, h ((s.qTake a.n 41 m).bump (cSlc a.n 6)) rfl]

section OfSlice
variable {s u : State} (h : u.slice = s.slice)
include h

theorem State.tagAt_of_slice : u.tagAt = s.tagAt := by funext n k; simp only [State.tagAt, h]
theorem State.vbOf_of_slice : u.vbOf = s.vbOf := by funext n l; simp only [State.vbOf, h]
theorem State.setLost_of_slice : u.setLost = s.setLost := by funext a; simp only [State.setLost, h]
theorem State.wayOf_of_slice : u.wayOf = s.wayOf := by funext a; unfold State.wayOf State.matchWay; rw [State.tagAt_of_slice h, h]

end OfSlice

section SnoopDo
variable {s : State} {a : At} {m : Msg}

theorem State.snoopDo_absent (hv : s.vbOf a.n a.l = none) (hw : s.wayOf a = none) (hl : s.setLost a = false) :
    s.snoopDo a m = s.snpReply a m .rspI .i 0 false := by simp [State.snoopDo, hv, hw, hl]

theorem State.snoopDo_victim {j : Nat} {v : VbEnt} (hv : s.vbOf a.n a.l = some (j, v)) : s.snoopDo a m = s.snpVictim a v m := by
  simp only [State.snoopDo, hv]

theorem State.snoopDo_present {w : Nat} (hv : s.vbOf a.n a.l = none) (hw : s.wayOf a = some w) : s.snoopDo a m = s.snpPresent a w m := by
  simp only [State.snoopDo, hv, hw]

end SnoopDo

/-- Settles O25: the pass is the one of an accepted snoop without a fault, and what it does at COM goes by where the line is and by its state. -/
theorem snoopsAreAnswered : Obligations.SnoopsAreAnswered := by
  unfold Obligations.SnoopsAreAnswered
  intro s op n d D m hop hm hd hq hf hacc a hheld
  have hexec : exec (Claims.snoopCmd op n m {}) s = .next (Claims.snooped s a m (fun u => u.snoopDo a m)) := by
    rw [exec_snoopCmd hop, State.snoop, hd]
    simp only [hm, hq, and_self, if_true]
    exact congrArg Host.Outcome.next (State.snoopIn_clean hf hacc hheld)
  have hpass {f : State → State} (h : ∀ u : State, u.slice = s.slice → u.snoopDo a m = f u) :
      exec (Claims.snoopCmd op n m {}) s = .next (Claims.snooped s a m f) :=
    hexec.trans (congrArg Host.Outcome.next (Claims.snooped_congr h))
  refine ⟨fun hv hw hl => ?absent, fun j v hv => ?victim, fun w hv hw => ?present⟩
  case absent =>
    exact hpass fun u hu => State.snoopDo_absent (State.vbOf_of_slice hu ▸ hv) (State.wayOf_of_slice hu ▸ hw) (State.setLost_of_slice hu ▸ hl)
  case victim => exact hpass fun u hu => State.snoopDo_victim (State.vbOf_of_slice hu ▸ hv)
  have hpresent {f : State → State} (h : ∀ u : State, u.tagAt = s.tagAt → u.snpPresent a w m = f u) :
      exec (Claims.snoopCmd op n m {}) s = .next (Claims.snooped s a m f) :=
    hpass fun u hu => (State.snoopDo_present (State.vbOf_of_slice hu ▸ hv) (State.wayOf_of_slice hu ▸ hw)).trans (h u (State.tagAt_of_slice hu))
  intro k t
  refine ⟨?sharedRead, ?cleanCur, ?dirtyCur, ?ownedRead, ?ownedOwn, ?ownedInv, ?sharedTake⟩
  case sharedRead =>
    rintro hs rfl
    exact hpresent fun u hu => State.snpPresent_snpSh_of_shared hm (hu ▸ hs)
  case cleanCur =>
    rintro hs hn rfl
    refine hpresent fun u hu => ?_
    rw [State.snpPresent_snpCur_of_clean hm (hu ▸ hn) (hu ▸ hs), hu]
  case dirtyCur =>
    rintro hs hn rfl
    refine hpresent fun u hu => ?_
    rw [State.snpPresent_snpCur_of_dirty hm (hu ▸ hn) (hu ▸ hs), hu]
  case ownedRead =>
    rintro hs hn rfl
    refine hpresent fun u hu => ?_
    rw [State.snpPresent_snpSh_of_owned (hu ▸ hn) (hu ▸ hs) hm, hu]
  case ownedOwn =>
    rintro hs hn rfl
    exact hpresent fun u hu => State.snpPresent_snpOwn_of_owned (hu ▸ hn) (hu ▸ hs) hm
  case ownedInv =>
    rintro hs hn hd rfl
    exact hpresent fun u hu => State.snpPresent_snpInv_of_owned (hu ▸ hn) (hu ▸ hs) hm hd
  case sharedTake =>
    intro hs hop'
    exact hpresent fun u hu => State.snpPresent_take_of_shared (hm ▸ hop') (hu ▸ hs)

/-! ### TILE_DATA of a half without an error (R69, R73 to R79) -/

/-- Codewords that are clean or marks cause nothing, and none of them was corrected. -/
theorem State.foldl_cwEvent_clean {os : List CwOut} (h : ∀ o ∈ os, o = .clean ∨ o = .mark) (s : State) (n d : Nat) (D : ImgDomain) (slot : Nat)
    (j : CwOut × Nat → Nat) (l : LineAddr) (syn : CwOut × Nat → BitVec 16) :
    os.zipIdx.foldl (fun s o => s.cwEvent n d D slot (j o) l o.1 (syn o)) s = s := by
  have hzip : ∀ o ∈ os.zipIdx, o.1 = .clean ∨ o.1 = .mark := fun o ho => h o.1 (List.fst_mem_of_mem_zipIdx ho)
  generalize os.zipIdx = l' at hzip
  induction l' with
  | nil => rfl
  | cons o l' ih =>
    have hstep : s.cwEvent n d D slot (j o) l o.1 (syn o) = s := by
      obtain ho | ho := hzip o List.mem_cons_self <;> simp only [ho, State.cwEvent]
    rw [List.foldl_cons, hstep]
    exact ih fun x hx => hzip x (List.mem_cons_of_mem o hx)

theorem any_isCorr_eq_false {os : List CwOut} (h : ∀ o ∈ os, o = .clean ∨ o = .mark) : os.any CwOut.isCorr = false := by
  refine List.any_eq_false.2 fun o ho => ?_
  obtain rfl | rfl := h o ho <;> simp [CwOut.isCorr]

/-- Settles O23: the half has no error, so it is kept, or joined to the first half for the answer that waits, or dropped. -/
theorem tileHalves : Obligations.TileHalves := by
  unfold Obligations.TileHalves
  intro s n slot d D upper used flips m r hd hr hturn hclean
  have hcorr := any_isCorr_eq_false hclean
  rw [show exec (.tileData n slot upper flips used m) s = execTileData n slot upper flips used m s from rfl]
  refine ⟨fun hfirst => ?kept, fun u h0 c0 m' hfirst hmsg => ?sent, fun u h0 c0 hfirst hmsg => ?dropped⟩
  case kept =>
    simp [execTileData, hd, hr, hturn, State.foldl_cwEvent_clean hclean, hcorr, hfirst]
  case sent =>
    simp [execTileData, hd, hr, hturn, State.foldl_cwEvent_clean hclean, hcorr, hfirst, hmsg]
  case dropped =>
    simp [execTileData, hd, hr, hturn, State.foldl_cwEvent_clean hclean, hfirst, hmsg]

/-! ### Commands of slices and home shards (R85, R90, R95, R96, R217) -/

/-- A command of a unit of an assigned node that is not fenced is carried out. -/
theorem State.unitCmd_taken {s : State} {n d : Nat} {D : ImgDomain} (hd : s.nodeDom n = some (d, D)) (base off : Nat) (who : Requester) (f : State → State) :
    s.unitCmd n false base off who f = f s := by
  simp [State.unitCmd, hd]

theorem exec_predClrDone {s : State} {n : Nat} (h : (s.slice n).predClr = true) :
    exec (.predClrDone n) s = .next (s.modSlice n (fun x => { x with predClr := x.predAgain, predAgain := false, pred := [] })) := by
  change execPredClrDone n s = _
  simp only [execPredClrDone, h, if_true]

/-- The part of O12 on slices and home shards. -/
theorem sliceAndHomeCommands : Claims.SliceAndHomeCommands := by
  have hslice {s : State} {n d : Nat} {D : ImgDomain} (hd : s.nodeDom n = some (d, D)) (hf : s.isFenced (.slice n) = false) (f : State → State) :
      s.unitCmd n (s.isFenced (.slice n)) (slcBase n) 4 .pf0 f = f s := hf ▸ State.unitCmd_taken hd _ _ _ f
  have hhome {s : State} {n d : Nat} {D : ImgDomain} (hd : s.nodeDom n = some (d, D)) (hf : s.isFenced (.home n) = false) (f : State → State) :
      s.unitCmd n (s.isFenced (.home n)) (homBase n) 4 .pf0 f = f s := hf ▸ State.unitCmd_taken hd _ _ _ f
  refine ⟨?qrel, ?qrelNone, ?homQrel, ?homQrelNone, ?lstest, ?predClr, fun s n h => exec_predClrDone h⟩
  case qrel =>
    intro s n d D set w q hd hf hq
    refine congrArg Host.Outcome.next ((hslice hd hf _).trans ?_)
    simp only [State.doQrel, hq, hd]
  case qrelNone =>
    intro s n d D hd hf hq
    refine congrArg Host.Outcome.next ((hslice hd hf _).trans ?_)
    simp only [State.doQrel, hq]
  case homQrel =>
    intro s n d D set w q hd hf hq
    refine congrArg Host.Outcome.next ((hhome hd hf _).trans ?_)
    simp only [State.doHomQrel, hq]
  case homQrelNone =>
    intro s n d D hd hf hq
    refine congrArg Host.Outcome.next ((hhome hd hf _).trans ?_)
    simp only [State.doHomQrel, hq]
  case lstest =>
    intro s n d D hd hf
    exact ⟨congrArg Host.Outcome.next (hslice hd hf _), congrArg Host.Outcome.next (hslice hd hf _)⟩
  case predClr =>
    intro s n d D hd hf
    exact congrArg Host.Outcome.next (hslice hd hf _)

/-! ### FLUSH of a queue (R174, R175, R181) -/

theorem mem_insNat_self (x : Nat) (l : List Nat) : x ∈ insNat x l := by
  induction l with
  | nil => exact List.mem_singleton_self x
  | cons y l ih =>
    unfold insNat
    split
    · exact List.mem_cons_self
    · split
      · next h => exact h ▸ List.mem_cons_self
      · exact List.mem_cons_of_mem y ih

/-- A write of FLUSH is dropped and logged while FLUSH reads 1; else the queue is flushed if software may. -/
theorem exec_flush {s : State} {n d : Nat} {D : ImgDomain} (hd : s.nodeDom n = some (d, D)) (q : Nat) :
    exec (.flush n q) s = .next (
      if (s.pool n).cmdq.toNat ∈ (s.pool n).flushing then s.logAcc (slcBase n) .pf0 .busy true 0x6C (slcBase n + 0x6C) else s.doFlush n q .pf0) :=
  congrArg Host.Outcome.next (State.unitCmd_taken hd _ _ _ _)

/-- The part of O12 on queues. -/
theorem queueFlush : Claims.QueueFlush := by
  refine ⟨?flushed, ?spliced, ?busy, ?done⟩
  case flushed =>
    intro s n d q D hd hc hq hok
    have hexec : exec (.flush n q) s = .next ((s.flushQ n q .unreachable).modPool n (fun p => { p with
        flushing := insNat q p.flushing, cmdq := BitVec.ofNat 8 q })) := by
      rw [exec_flush hd, if_neg hc, State.doFlush, if_neg hq, if_pos hok]
    exact ⟨_, hexec, by simp [mem_insNat_self], by simp, rfl⟩
  case spliced => simp [State.splice, State.qOf, mem_insNat_self]
  case busy =>
    rintro s n d q D hd (hc | ⟨hq, hno⟩)
    · rw [exec_flush hd, if_pos hc]
    · rw [exec_flush hd, State.doFlush, if_neg hq, hno]
      simp
  case done =>
    intro s n q hq
    change execFlushDone n q s = _
    simp only [execFlushDone, hq, if_true]

/-- Settles O12: the node is assigned and its unit is not fenced, so each command is carried out. -/
theorem sliceHomeAndPoolCommands : Obligations.SliceHomeAndPoolCommands := ⟨sliceAndHomeCommands, queueFlush⟩

/-! ### Sweeps (R60, R228 to R233) -/

/-- R228: the marker marks the open MSHRs. -/
theorem exec_sweepMarker {s : State} {n d : Nat} {D : ImgDomain} {j : SweepJob} (hd : s.nodeDom n = some (d, D)) (hj : (s.slice n).sweep.job = some j)
    (ha : (s.slice n).sweep.active = false) (hf : s.isFenced (.slice n) = false) :
    exec (.sweepMarker n) s = .next (s.modSlice n (fun x => { x with
      sweep := { x.sweep with active := true, kind := jobKind j, next := 0, waitAt := s.clk.fclk, held := false }
      mshrs := x.mshrs.map (fun e => (e.1, e.2.map (fun m => { m with preMarker := true }))) })) := by
  change execSweepMarker n s = _
  simp only [execSweepMarker, hd, hj, ha, hf, Bool.or_self, Bool.false_eq_true, if_false]

/-- R229, R232: a sweep pass that the accept stage takes commits its set, or waits for victim-buffer entries. -/
theorem exec_sweepPass_taken {s : State} {n d : Nat} {D : ImgDomain} {j : SweepJob} (hd : s.nodeDom n = some (d, D)) (hj : (s.slice n).sweep.job = some j)
    (hw : s.maintWaits n = true) (hf : s.isFenced (.slice n) = false) (hacc : s.acceptsMaint n (s.slice n).sweep.waitAt = true) :
    let set := (s.slice n).sweep.next
    let ws := s.sweepWays n d D set j
    exec (.sweepPass { n := n }) s = .next (
      if s.vbFree n < ws.length then s.modSlice n (fun y => { y with sweep := { y.sweep with held := true } }) else s.sweepSet n d D set j ws []) := by
  change execSweepPass { n := n } s = _
  simp only [execSweepPass, hd, hj, hw, hf, hacc, State.passFaults_clean hf, Bool.not_true, Bool.or_self, Bool.false_eq_true, if_false, ne_eq,
    not_true_eq_false]

/-- R233: a sweep that has done every set, with no covered MSHR of before the marker left, ends. -/
theorem exec_sweepEnd {s : State} {n d : Nat} {D : ImgDomain} {j : SweepJob} (hd : s.nodeDom n = some (d, D)) (hj : (s.slice n).sweep.job = some j)
    (ha : (s.slice n).sweep.active = true) (hsets : D.sets ≤ (s.slice n).sweep.next) (hpre : s.sweepPre n d = 0) :
    exec (.sweepEnd n) s = .next (((s.modSlice n (fun y => { y with
      sweep := { y.sweep with active := false, done := true, job := y.sweep.waiting, waiting := none }
      mshrs := y.mshrs.map (fun e => (e.1, e.2.map (fun m => { m with preMarker := false }))) })).irq 0 (128 + n)).sweepsOver j) := by
  change execSweepEnd n s = _
  simp [execSweepEnd, hd, hj, ha, hpre, hsets]

/-- Settles O33: each command meets its condition, and a pass that meets no fault goes by the free victim-buffer entries. -/
theorem sweeps : Obligations.Sweeps := by
  unfold Obligations.Sweeps
  refine ⟨?marker, ?pass, ?ends⟩
  case marker => exact fun s n d D j hd hj ha hf => exec_sweepMarker hd hj ha hf
  case pass =>
    intro s n d D j hd hj hw hf hacc set ws
    have hpass := exec_sweepPass_taken hd hj hw hf hacc
    exact ⟨fun hroom => hpass.trans (congrArg Host.Outcome.next (if_neg (Nat.not_lt.2 hroom))),
      fun hfull => hpass.trans (congrArg Host.Outcome.next (if_pos hfull))⟩
  case ends => exact fun s n d D j hd hj ha hsets hpre => exec_sweepEnd hd hj ha hsets hpre

/-! ### Scrubs (R76, R217, R412, R420, R436, R437) and spares (R441) -/

/-- Writing back what a table holds after a write changes nothing, whatever the table's form. -/
theorem tset_tset_self {α : Type} [DecidableEq α] (d : α) (t : Tab α) (k : Nat) (v : α) : tset d (tset d t k v) k v = tset d t k v := by
  unfold tset
  split
  · induction t with
    | nil => rfl
    | cons e t ih =>
      by_cases h : e.1 = k <;> simp [tdel, h, ih]
  · induction t with
    | nil => simp [tins]
    | cons e t ih =>
      obtain ⟨j, w⟩ := e
      simp only [tins]
      split
      · simp [tins]
      · split <;> simp [tins, *]

/-- An update that leaves the record of a slice as an update before it made it is no update. -/
theorem State.modSlice_modSlice_of_eq (s : State) (n : Nat) {f g : Slice → Slice} (h : g (f (s.slice n)) = f (s.slice n)) :
    (s.modSlice n f).modSlice n g = s.modSlice n f := by
  have hg : g (tget {} (tmod {} s.slices n f) n) = f (tget {} s.slices n) := by rw [tget_tmod_self]; exact h
  simp only [State.modSlice]
  rw [tmod, hg, tmod, tset_tset_self]

/-- R76: a slot whose scrub an error has scheduled goes first. -/
theorem exec_patrolScrub_due {s : State} {n d k : Nat} {D : ImgDomain} {ks : List Nat} (hd : s.nodeDom n = some (d, D))
    (hf : s.isFenced (.slice n) = false) (hc : s.chanFree n d = true) (hdue : (s.slice n).scrubDue = k :: ks) (flips : List (BitVec 80)) :
    exec (.patrolScrub n flips {}) s = .next (s.scrubSlot n d D k flips) := by
  change execPatrolScrub n flips {} s = _
  simp only [execPatrolScrub, hd, hf, hc, hdue, Bool.not_true, Bool.or_self, Bool.false_eq_true, if_false]

/-- The scrub of a slot without a line leaves a slice with no scrub scheduled as it is. -/
theorem State.scrubSlot_modSlice_of_noLine {s : State} {n : Nat} {f : Slice → Slice} {D : ImgDomain} {k : Nat}
    (htags : ∀ x, (f x).tags = x.tags) (hsd : ∀ x, (f x).scrubDue = x.scrubDue)
    (hdue : (s.slice n).scrubDue = []) (hline : s.slotLine D n k = none) (d : Nat) (flips : List (BitVec 80)) :
    (s.modSlice n f).scrubSlot n d D k flips = s.modSlice n f := by
  have hline' : (s.modSlice n f).slotLine D n k = none := by
    simpa only [State.slotLine, State.slotAddr, State.modSlice_slice_self, htags] using hline
  have hfilter : ({ f (s.slice n) with scrubDue := (f (s.slice n)).scrubDue.filter (fun j => decide (j ≠ k)) } : Slice) = f (s.slice n) := by
    have he : (f (s.slice n)).scrubDue = [] := (hsd _).trans hdue
    rw [he, List.filter_nil, ← he]
  simp only [State.scrubSlot, hline', Option.isSome_none, Bool.false_eq_true, if_false]
  exact State.modSlice_modSlice_of_eq s n hfilter

/-- R217, R437: a directory scrub whose interval has passed. -/
theorem exec_dirScrub {s : State} {n d : Nat} {D : ImgDomain} (hd : s.nodeDom n = some (d, D)) (hf : s.isFenced (.home n) = false)
    (ht : (s.home n).dirScrubAt ≤ s.clk.aclk) (x : DirFault) :
    exec (.dirScrub n x) s = .next ((s.modHome n (fun y => { y with
      dirScrubNext := ((s.home n).dirScrubNext + 1) % 2048, dirScrubAt := s.clk.aclk + 62500000 })).dirCheck n d (s.home n).dirScrubNext x) := by
  change execDirScrub n x s = _
  simp only [execDirScrub, hd, hf, Nat.not_lt.2 ht, decide_false, Bool.or_self, Bool.false_eq_true, if_false]

theorem State.dirCheck_corrected (s : State) (n d set : Nat) {w : Nat} (hw : w < 16) (y : BitVec 15) :
    s.dirCheck n d set (.corrected w y) = ((s.modHome n (fun h => { h with dirCorr := true })).bump (cHom n 14)).raise {
      sev := 0, source := .home, inst := n, code := .ceTag, domain := d, set := set, way := w, syn := y.setWidth 16
      addr := BitVec.ofNat 48 (16 * set + w) } := if_neg (Nat.not_le.2 hw)

/-- R420, R437: a node-cache entry without an uncorrectable word. -/
theorem exec_ncScrub {s : State} {n d : Nat} {D : ImgDomain} {e : NcEnt} (hd : s.nodeDom n = some (d, D)) (hf : s.isFenced (.home n) = false)
    (ht : (s.home n).ncScrubAt ≤ s.clk.aclk) (he : (s.home n).nc[(s.home n).ncScrubNext]? = some e) (b : Bool) :
    exec (.ncScrub n b false) s = .next (
      let t := s.modHome n (fun y => { y with ncScrubNext := ((s.home n).ncScrubNext + 1) % 512, ncScrubAt := s.clk.aclk + 25000 })
      if b then t.bump (cHom n 25) else t) := by
  have hlen : ¬ (s.home n).nc.length ≤ (s.home n).ncScrubNext := Nat.not_le.2 (List.getElem?_eq_some_iff.1 he).1
  change execNcScrub n b false s = _
  simp only [execNcScrub, hd, hf, Nat.not_lt.2 ht, decide_false, Bool.or_self, Bool.false_eq_true, if_false, State.modHome_home_self, he, hlen]

/-- R412, R437: a Stipe position two copies agree on is put right. -/
theorem exec_stipeScrub_fixed {s : State} {k c : Nat} {h : ImgHome} (hh : s.treeHome (k / 64) = some h) (hc : 2 ≤ c) (ht : s.prot.stipeAt ≤ s.clk.aclk) :
    exec (.stipeScrub [(k, c)] []) s = .next { s with prot := { s.prot with stipeFixed := true, stipeAt := s.clk.aclk + 25000000 } } := by
  change execStipeScrub [(k, c)] [] s = _
  have hh' : State.treeHome { s with prot := { s.prot with stipeAt := s.clk.aclk + 25000000 } } (k / 64) = some h := hh
  simp only [execStipeScrub, Nat.not_lt.2 ht, if_false, List.foldl_cons, List.foldl_nil, hh', hc, if_true]

theorem State.peat_nodeDom (s : State) (typ : Byte) (body : BitVec 96) : (s.peat typ body).nodeDom = s.nodeDom := by
  obtain ⟨m, hm⟩ := s.peat_frame typ body
  rw [hm]
  rfl

/-- R441: the oldest copy of a spare that has ended takes effect. -/
theorem exec_spareRemap {s : State} {n d : Nat} {D : ImgDomain} {u : SpareUse} (hd : s.nodeDom n = some (d, D))
    (hu : (s.slice n).spares.find? (fun u => !u.live) = some u) :
    let v := (if u.col then 2 ^ 23 else 0) + u.bank * 2 ^ 20 + u.spare * 2 ^ 18 + u.idx
    exec (.spareRemap n) s = .next (((((s.modSlice n (fun x => { x with
      spares := modFirst (fun y => decide (y = u)) (fun y => { y with live := true }) x.spares })).bump (cChn n (if u.col then 10 else 9))).peat 0x05
        (bodyOf ([n, 1] ++ leBytes 3 v))).raise {
          sev := 1, source := .channel, inst := n, code := if u.col then .colSpared else .rowSpared, domain := d, set := u.idx, way := u.bank })) := by
  intro v
  change execSpareRemap n s = _
  have hd' (f : Slice → Slice) (k : Nat) : ((s.modSlice n f).bump k).nodeDom n = some (d, D) := hd
  simp only [execSpareRemap, hu, State.peat_nodeDom, hd']
  rfl

/-- Settles O34: each scrub meets its condition; a slot without a line leaves nothing to scrub, so the patrol only moves on. -/
theorem scrubs : Obligations.Scrubs := by
  unfold Obligations.Scrubs
  refine ⟨fun s n d D flips hd hf hc => ⟨?due, ?next⟩, ?dir, ?nodeCache, ?stipe, ?spare⟩
  case due => exact fun k r hdue => exec_patrolScrub_due hd hf hc hdue flips
  case next =>
    intro hdue ht hk hline
    change execPatrolScrub n flips {} s = _
    simp only [execPatrolScrub, hd, hf, hc, hdue, Nat.not_lt.2 ht, hk, Bool.not_true, Bool.or_self, Bool.false_eq_true, if_false, ne_eq,
      not_false_eq_true, if_true]
    refine congrArg Host.Outcome.next (State.scrubSlot_modSlice_of_noLine ?_ ?_ hdue hline d flips)
    · exact fun _ => rfl
    · exact fun _ => rfl
  case dir =>
    intro s n d w y D b hd hf ht hw
    rw [exec_dirScrub hd hf ht]
    cases b with
    | false => rfl
    | true => exact congrArg Host.Outcome.next (State.dirCheck_corrected _ n d _ hw y)
  case nodeCache => exact fun s n d D e b hd hf ht he => exec_ncScrub hd hf ht he b
  case stipe => exact fun s k c h hh hc ht => exec_stipeScrub_fixed hh hc ht
  case spare => exact fun s n d D u hd hu => exec_spareRemap hd hu

end Sys2Proof.Machine

/-! ## Proofs of the family 03_placement_allocation: the lock command and its passes, and the epochs of the allocator -/

namespace Sys2Proof.Machine

open Sys2Proof

/-! ### The lock command (R134) -/

theorem exec_lockOrUnlock (t : Nat) (b : Bool) (s : State) : exec (if b then .unlock t else .lock t) s = .next (s.startLock t b) := by
  cases b <;> rfl

@[simp] theorem State.lock_iten (s : State) (k : LockCmd) : ({ s with lock := k } : State).iten = s.iten := rfl

@[simp] theorem State.lock_open_ (s : State) (k : LockCmd) : ({ s with lock := k } : State).open_ = s.open_ := rfl

section StartLock
variable {s : State} (hgo : s.lock.go = false)
include hgo

theorem State.startLock_started {t : Nat} {T : ImgTen} {b : Bool} (hlen : s.lock.base.toNat + s.lock.cnt.toNat ≤ 2 ^ 45) (hT : s.iten t = some T)
    (hmin : b = false → 1 < T.min) (ho : s.open_ = true) (hcnt : s.lock.cnt ≠ 0) :
    s.startLock t b = { s with lock := { s.lock with
      ten := t, op := b, go := true, status := 1, done := 0, fail := 0, waitAt := s.clk.fclk, held := false } } := by
  have hten : ¬ (b = false ∧ T.min ≤ 1) := fun h => Nat.not_lt.2 h.2 (hmin h.1)
  simp only [State.startLock, hgo, Nat.not_lt.2 hlen, State.lock_iten, hT, Option.map_some, Option.isNone_some, Option.getD_some, hten,
    State.lock_open_, ho, hcnt, Bool.not_true, Bool.false_eq_true, or_self, if_false]

theorem State.startLock_length (t : Nat) (b : Bool) (hlen : 2 ^ 45 < s.lock.base.toNat + s.lock.cnt.toNat) :
    s.startLock t b = State.irq { s with lock := { s.lock with ten := t, op := b, status := 2 } } 0 6 := by
  simp only [State.startLock, hgo, hlen, Bool.false_eq_true, if_false, if_true]

theorem State.startLock_noTenancy {t : Nat} (b : Bool) (hlen : s.lock.base.toNat + s.lock.cnt.toNat ≤ 2 ^ 45) (hT : s.iten t = none) :
    s.startLock t b = State.irq { s with lock := { s.lock with ten := t, op := b, status := 4 } } 0 6 := by
  simp only [State.startLock, hgo, Nat.not_lt.2 hlen, State.lock_iten, hT, Option.map_none, Option.isNone_none, true_or, Bool.false_eq_true,
    if_false, if_true]

end StartLock

/-! ### Its passes (R113 to R115) -/

/-- A pass is issued at the node that holds its line, whose slice is not fenced. -/
theorem State.node_and_unfenced_of_lockAt {s : State} {n t : Nat} {l : LineAddr} {b : Bool} {a : At} (h : s.lockAt n l t b = some a) :
    a.n = n ∧ s.isFenced (.slice n) = false := by
  unfold State.lockAt at h
  split at h
  · dsimp only at h
    split at h
    case isTrue hc =>
      simp only [Bool.and_eq_true, Bool.not_eq_true'] at hc
      obtain ⟨⟨⟨⟨⟨-, hf⟩, -⟩, -⟩, -⟩, -⟩ := hc
      exact ⟨by rw [← Option.some.inj h], hf⟩
    case isFalse => cases h
  · cases h

theorem State.passFaults_of_lockAt {s : State} {n t : Nat} {l : LineAddr} {b : Bool} {a : At} (h : s.lockAt n l t b = some a) :
    s.passFaults n a.d a.D a.set {} = (s, .go) :=
  State.passFaults_clean (State.node_and_unfenced_of_lockAt h).2 _ _ _

/-- A lock pass that meets no fault and need not wait for a victim-buffer entry. -/
theorem exec_lockPass_clean {s u : State} {n t : Nat} {l : LineAddr} {a : At} {failed : Bool} (ha : s.lockAt n l t false = some a)
    (hpass : s.lockPass a t [] = some (u, failed)) : exec (.lockPass { n := n } l t) s = .next (u.passDone n failed) := by
  change execLockPass { n := n } l t s = _
  simp only [execLockPass, ha, State.passFaults_of_lockAt ha, ne_eq, not_true_eq_false, if_false, hpass]

theorem exec_unlockPass_clean {s : State} {n t : Nat} {l : LineAddr} {a : At} (ha : s.lockAt n l t true = some a) :
    exec (.unlockPass { n := n } l t) s = .next ((s.unlockPass a t).passDone n false) := by
  change execUnlockPass { n := n } l t s = _
  simp only [execUnlockPass, ha, State.passFaults_of_lockAt ha, ne_eq, not_true_eq_false, if_false]

/-- The ways of the set of `a` that hold a lock or a reservation of tenancy `t`. -/
def State.lockedWays (s : State) (a : At) (t : Nat) : List Nat :=
  (List.range a.D.ways).filter (fun w => (s.tagAt a.n (a.slot w)).lock && decide ((s.tagAt a.n (a.slot w)).ten.toNat = t))

section AbsentLine
variable {s : State} {a : At} (hl : s.setLost a = false) (hm : s.matchWay a = none)
include hl hm

/-- R113: one floor way of the tenancy stays without a lock, so a pass that would take it ends Not locked. -/
theorem State.lockPass_absent_full {t : Nat} (h : s.minOf t - 1 ≤ (s.lockedWays a t).length) (flips : List (BitVec 80)) :
    s.lockPass a t flips = some (s, true) := by
  rw [State.lockedWays] at h
  simp only [State.lockPass, hl, hm, h, Bool.false_eq_true, if_false, if_true]

theorem State.lockPass_absent_room {t : Nat} (h : (s.lockedWays a t).length < s.minOf t - 1) (flips : List (BitVec 80)) :
    s.lockPass a t flips = (s.reserve a t flips).map (fun u => (u, false)) := by
  rw [State.lockedWays] at h
  simp only [State.lockPass, hl, hm, Nat.not_le.2 h, Bool.false_eq_true, if_false]

end AbsentLine

theorem State.reserve_emptyWay {s : State} {a : At} {t w : Nat} {fo : Bool} (h : (s.pickWay a (s.cands a t true)).2 = some (w, false, fo))
    (flips : List (BitVec 80)) : s.reserve a t flips = some ((s.pickWay a (s.cands a t true)).1.putRes a t w) := by
  simp only [State.reserve, h]

theorem State.unlockPass_locked {s : State} {a : At} {t w : Nat} (hm : s.matchWay a = some w) (hlock : (s.tagAt a.n (a.slot w)).lock = true)
    (hten : (s.tagAt a.n (a.slot w)).ten.toNat = t) :
    s.unlockPass a t = if (s.tagAt a.n (a.slot w)).state = .i then (s.modTag a.n (a.slot w) (fun _ => {})).setRrv a.n (a.slot w) 3
      else s.modTag a.n (a.slot w) (fun y => { y with lock := false }) := by
  simp only [State.unlockPass, hm, hlock, hten, and_self, if_true]

/-- Settles O13: the checks of a start one by one; then each pass meets no fault, and what it commits follows from the line's way and the floor's room. -/
theorem lockCommand : Obligations.LockCommand := by
  unfold Obligations.LockCommand
  refine ⟨?started, fun s t b hgo => ⟨?length, ?noTenancy⟩, ?full, ?reserved, ?unlocked⟩
  case started =>
    intro s t T b hgo hlen hT hmin ho hcnt
    rw [exec_lockOrUnlock, State.startLock_started hgo hlen hT hmin ho hcnt]
  case length =>
    intro hlen
    rw [exec_lockOrUnlock, State.startLock_length hgo t b hlen]
  case noTenancy =>
    intro hlen hT
    rw [exec_lockOrUnlock, State.startLock_noTenancy hgo b hlen hT]
  case full => exact fun s n t l a ha hl hm hfull => exec_lockPass_clean ha (State.lockPass_absent_full hl hm hfull [])
  case reserved =>
    intro s n t w fo l a ha hl hm hroom hway
    refine exec_lockPass_clean ha ?_
    rw [State.lockPass_absent_room hl hm hroom, State.reserve_emptyWay hway, Option.map_some, State.putRes]
  case unlocked =>
    intro s n t w l a ha hm hlock hten
    rw [exec_unlockPass_clean ha, State.unlockPass_locked hm hlock hten]

/-! ### The allocator's epochs (R127 to R130) -/

/-- Settles O32: an ended epoch passes the one check of EPOCH, and its three bits for a move are the statement's; a move that is due passes the check of its time. -/
theorem sphagnumEpochs : Obligations.SphagnumEpochs := by
  unfold Obligations.SphagnumEpochs
  refine ⟨fun s n d D hd hlt => ?epoch, fun s n d e l g w D hd hp ht => ?move⟩
  case epoch =>
    intro e mv t
    change execEpoch n s = _
    simp only [execEpoch, hd, Nat.not_le.2 hlt, if_false, Bool.and_eq_true, Bool.not_eq_true', and_assoc]
    rfl
  case move =>
    change execSphagnumMove n s = _
    simp only [execSphagnumMove, hd, hp, Nat.not_lt.2 ht, if_false]

end Sys2Proof.Machine

/-! ## Proofs of the family 04_miss_write_path: audits, fills of MSHRs, write-backs and victims, run-ahead, memory traffic, and the fabric -/

namespace Sys2Proof.Machine

open Sys2Proof

/-! ### Messages in the queues of a home shard -/

theorem any_msg_of_find? {us : List FUnit} {m : Msg} {u : FUnit} (h : us.find? (fun u => decide (u.msg = m)) = some u) :
    us.any (fun u => decide (u.msg = m)) = true :=
  List.any_eq_true.2 ⟨u, List.mem_of_find?_eq_some h, List.find?_some (p := fun u : FUnit => decide (u.msg = m)) h⟩

section Queue
variable {s : State} {n q d : Nat} {D : ImgDomain} {m : Msg} (hd : s.nodeDom n = some (d, D))
include hd

/-- A message stands in a queue of an assigned node's shard. -/
theorem State.homeHas_of_any (hq : (s.qOf n q).any (fun u => decide (u.msg = m)) = true) :
    s.homeHas n q m = some { n := n, d := d, D := D, l := m.line } := by
  simp only [State.homeHas, hd, hq, if_true]

theorem State.homeHas_eq_none (hq : (s.qOf n q).any (fun u => decide (u.msg = m)) = false) : s.homeHas n q m = none := by
  simp only [State.homeHas, hd, hq, Bool.false_eq_true, if_false]

end Queue

/-! ### Audits of slices (R137, R176, R177) -/

/-- No ledger of a slice reads its audit. -/
theorem State.slcBalance_modSlice (s : State) (n : Nat) {f : Slice → Slice} (hm : (f (s.slice n)).mshrs = (s.slice n).mshrs)
    (hw : (f (s.slice n)).wbuf = (s.slice n).wbuf) (hv : (f (s.slice n)).vbuf = (s.slice n).vbuf) :
    (s.modSlice n f).slcBalance n = s.slcBalance n := by
  have hpool : (s.modSlice n f).poolUsed n = s.poolUsed n := rfl
  have hmresv : (s.modSlice n f).mshrResv n = s.mshrResv n := rfl
  have hwresv : (s.modSlice n f).wbResv n = s.wbResv n := rfl
  have hbusy : (s.modSlice n f).vbBusy n = s.vbBusy n := by simp only [State.vbBusy, State.modSlice_slice_self, hv]
  have hvresv : (s.modSlice n f).vbResv n = s.vbResv n := by simp only [State.vbResv, State.modSlice_slice_self, hm, State.modSlice_gate_of]
  simp only [State.slcBalance, hpool, hmresv, hwresv, hbusy, hvresv, State.modSlice_slice_self, hm, hw]

/-- An audit that has just started takes its latch at once, unless a window is open. -/
theorem State.auditLatch_atStart {α : Type} (s : State) (win : Bool) (v : α) :
    s.auditLatch true win s.clk.fclk none v = if win then none else some v := by
  cases win <;> simp [State.auditLatch]

/-- R177: SLC_AUDIT starts an audit. -/
theorem exec_slcAudit {s : State} {n d : Nat} {D : ImgDomain} (hd : s.nodeDom n = some (d, D)) :
    ∃ t, exec (.slcAudit n) s = .next t ∧ SliceOnly n s t ∧ t.slice n = { s.slice n with
      audRun := true, audWindow := false, audBad := 0, audAt := s.clk.fclk
      audLatch := if s.auditWindow n then none else some (s.clk.fclk, s.slcBalance n) } := by
  refine ⟨s.doSlcAudit n, congrArg Host.Outcome.next (State.unitCmd_taken hd _ _ _ _), ⟨rfl, fun m hm => ?others⟩, ?slice⟩
  case others => exact (State.modSlice_slice_ne _ _ hm).trans (State.modSlice_slice_ne s _ hm)
  case slice =>
    have hwin (f : Slice → Slice) : (s.modSlice n f).auditWindow n = s.auditWindow n := rfl
    have hlatch (f : Slice → Slice) (v : Nat × BitVec 4) : (s.modSlice n f).auditLatch true (s.auditWindow n) s.clk.fclk none v
        = if s.auditWindow n then none else some v := State.auditLatch_atStart (s.modSlice n f) _ v
    simp only [State.doSlcAudit, State.slcLatch, State.modSlice_slice_self, State.modSlice_clk, hwin, hlatch, State.slcBalance_modSlice]

/-- The sum of what is busy and what is reserved exceeds the capacity. -/
theorem exceeds_iff (cap busy resv : Nat) : (!(decide (busy ≤ cap) && decide (resv ≤ cap - busy))) = true ↔ cap < busy + resv := by
  simp only [Bool.not_eq_true', Bool.and_eq_false_iff, decide_eq_false_iff_not]
  omega

theorem getLsbD_fourBits (b3 b2 b1 b0 : Bool) :
    let x := BitVec.ofBool b3 ++ BitVec.ofBool b2 ++ BitVec.ofBool b1 ++ BitVec.ofBool b0
    x.getLsbD 0 = b0 ∧ x.getLsbD 1 = b1 ∧ x.getLsbD 2 = b2 ∧ x.getLsbD 3 = b3 := by
  revert b3 b2 b1 b0
  decide

/-- R137: each bit says that a ledger's sum exceeds its capacity. -/
theorem State.slcBalance_bits (s : State) (n : Nat) :
    ((s.slcBalance n).getLsbD 0 = true ↔ 192 < tbusy (s.slice n).mshrs + s.mshrResv n)
    ∧ ((s.slcBalance n).getLsbD 1 = true ↔ 256 < tbusy (s.slice n).wbuf + s.wbResv n)
    ∧ ((s.slcBalance n).getLsbD 2 = true ↔ 128 < s.vbBusy n + s.vbResv n)
    ∧ ((s.slcBalance n).getLsbD 3 = true ↔ 4096 < s.poolUsed n) := by
  unfold State.slcBalance
  dsimp only
  obtain ⟨h0, h1, h2, h3⟩ := getLsbD_fourBits (decide (4096 < s.poolUsed n)) (!(decide (s.vbBusy n ≤ 128) && decide (s.vbResv n ≤ 128 - s.vbBusy n)))
    (!(decide (tbusy (s.slice n).wbuf ≤ 256) && decide (s.wbResv n ≤ 256 - tbusy (s.slice n).wbuf)))
    (!(decide (tbusy (s.slice n).mshrs ≤ 192) && decide (s.mshrResv n ≤ 192 - tbusy (s.slice n).mshrs)))
  rw [h0, h1, h2, h3]
  exact ⟨exceeds_iff .., exceeds_iff .., exceeds_iff .., decide_eq_true_iff⟩

section SliceEnd
variable {s : State} {n d : Nat} {D : ImgDomain} (hd : s.nodeDom n = some (d, D)) (hrun : (s.slice n).audRun = true)
include hd hrun

/-- R177: an audit ends 4,096 FCLK after its latch with the bits latched; a bad ledger is recorded. -/
theorem exec_slcAuditEnd_latched {at_ : Nat} {b : BitVec 4} (hl : (s.slice n).audLatch = some (at_, b)) (ht : at_ + 4096 ≤ s.clk.fclk) :
    let u := s.modSlice n (fun x => { x with audRun := false, audDone := true, audWindow := false, audBad := b, audLatch := none })
    exec (.slcAuditEnd n) s = .next ((if b = 0 then u else u.rep .slice n .auditBad d).irq 0 (128 + n)) := by
  intro u
  have hu : s.modSlice n (fun x => { x with audRun := false, audDone := true, audWindow := x.audLatch.isNone, audBad := b, audLatch := none }) = u :=
    State.modSlice_congr (by simp only [hl, Option.isNone_some])
  change execSlcAuditEnd n s = _
  simp only [execSlcAuditEnd, hd, State.auditOver, hrun, hl, ht, decide_true, Bool.and_self, if_true, hu]

/-- R177: an audit that found no edge to latch ends after 20 µs with WINDOW. -/
theorem exec_slcAuditEnd_window (hl : (s.slice n).audLatch = none) (ht : (s.slice n).audAt + 48000 ≤ s.clk.fclk) :
    exec (.slcAuditEnd n) s = .next ((s.modSlice n (fun x => { x with
      audRun := false, audDone := true, audWindow := true, audBad := 0, audLatch := none })).irq 0 (128 + n)) := by
  have hu : s.modSlice n (fun x => { x with audRun := false, audDone := true, audWindow := x.audLatch.isNone, audBad := 0, audLatch := none })
      = s.modSlice n (fun x => { x with audRun := false, audDone := true, audWindow := true, audBad := 0, audLatch := none }) :=
    State.modSlice_congr (by simp only [hl, Option.isNone_none])
  change execSlcAuditEnd n s = _
  simp only [execSlcAuditEnd, hd, State.auditOver, hrun, hl, ht, decide_true, Bool.and_self, if_true, hu]

end SliceEnd

/-- The part of O11 on slices holds. -/
theorem sliceAudit : Claims.SliceAudit := by
  refine ⟨fun s n d D hd => exec_slcAudit hd, State.slcBalance_bits, ?good, ?bad, fun s n d D hd hrun hl ht => exec_slcAuditEnd_window hd hrun hl ht⟩
  case good =>
    intro s n d at_ D hd hrun hl ht
    rw [exec_slcAuditEnd_latched hd hrun hl ht, if_pos rfl]
  case bad =>
    intro s n d at_ b D hd hrun hl ht hb
    rw [exec_slcAuditEnd_latched hd hrun hl ht, if_neg hb]

/-! ### The audit of a node cache (R417) -/

/-- A key below every listed one is unlisted. -/
theorem tget_of_above {α : Type} {d : α} {k : Nat} {t : Tab α} (h : above k t) : tget d t k = d := by
  induction t with
  | nil => rfl
  | cons e t ih =>
    have hne : e.1 ≠ k := (h e List.mem_cons_self).ne'
    simp only [tget, hne, if_false]
    exact ih fun x hx => h x (List.mem_cons_of_mem e hx)

/-- Where keys rise, a write that keeps what `g` lists of a key's entry keeps what `g` lists of the whole table. -/
theorem flatMap_tins {α β : Type} {d : α} {g : α → List β} (hd : g d = []) {t : Tab α} (ht : tsorted t = true) {k : Nat} {v : α}
    (hv : g v = g (tget d t k)) : (tins t k v).flatMap (fun e => g e.2) = t.flatMap (fun e => g e.2) := by
  induction t with
  | nil => simp [tins, hv, hd]
  | cons e t ih =>
    obtain ⟨j, w⟩ := e
    obtain ⟨habove, ht'⟩ := (tsorted_cons j w t).1 ht
    obtain hlt | rfl | hgt := Nat.lt_trichotomy k j
    · have hnone : tget d ((j, w) :: t) k = d := tget_of_above fun e he => by
        obtain rfl | he := List.mem_cons.1 he
        · exact hlt
        · exact hlt.trans (habove e he)
      simp [tins, hlt, hv, hnone, hd]
    · simp [tins, hv, tget]
    · have hrest : tget d ((j, w) :: t) k = tget d t k := if_neg hgt.ne
      simp [tins, hgt.not_gt, hgt.ne', ih ht' (hv.trans (congrArg g hrest))]

/-- A shard whose node-cache audit starts on edge `now`, before its latch. -/
def Home.ncAuditStarted (now : Nat) (x : Home) : Home := { x with
  ncAudRun := true, ncWindow := false, ncBad := false, ncAudAt := now, ncLatch := none }

theorem Home.ncAuditStarted_ne_default (now : Nat) (x : Home) : x.ncAuditStarted now ≠ {} :=
  fun h => Bool.noConfusion (congrArg Home.ncAudRun h)

/-- The ledger of a node cache does not read the audit of its shard, where the keys of the shards rise. -/
theorem State.ncBalanced_modHome {s : State} (hs : tsorted s.homes = true) (n : Nat) {f : Home → Home} (hnc : (f (s.home n)).nc = (s.home n).nc)
    (htxs : (f (s.home n)).txs = (s.home n).txs) (hne : f (s.home n) ≠ {}) (d : Nat) (D : ImgDomain) :
    (s.modHome n f).ncBalanced d D n = s.ncBalanced d D n := by
  have hflat : (s.modHome n f).homes.flatMap (fun e => e.2.txs) = s.homes.flatMap (fun e => e.2.txs) := by
    change (tset {} s.homes n (f (s.home n))).flatMap _ = _
    rw [tset, if_neg hne]
    exact flatMap_tins (d := ({} : Home)) (g := Home.txs) rfl hs htxs
  have hpins : (s.modHome n f).ncPins n = s.ncPins n := by simp only [State.ncPins, State.modHome_home_self, hnc]
  have hholders : (s.modHome n f).pinHolders n = s.pinHolders n := by simp only [State.pinHolders, State.modHome_home_self, hnc, hflat]
  have hcrown : (s.modHome n f).crownSize d D = s.crownSize d D := rfl
  have hfenced : (s.modHome n f).fencedAny = s.fencedAny := rfl
  simp only [State.ncBalanced, State.modHome_home_self, hnc, hpins, hholders, hcrown, hfenced]

/-- R417: HOM_NC_AUDIT starts an audit and latches the ledger, as O11 has it, in every state whose table of shards has rising keys. -/
theorem exec_homNcAudit_of_sorted {s : State} {n d : Nat} {D : ImgDomain} (hs : tsorted s.homes = true) (hd : s.nodeDom n = some (d, D))
    (hf : s.isFenced (.home n) = false) (hw : s.auditWindow n = false) :
    ∃ t, exec (.homNcAudit n) s = .next t ∧ HomeOnly n s t ∧ t.home n = { s.home n with
      ncAudRun := true, ncWindow := false, ncBad := false, ncAudAt := s.clk.fclk, ncLatch := some (s.clk.fclk, !s.ncBalanced d D n) } := by
  have hbal : (s.modHome n (Home.ncAuditStarted s.clk.fclk)).ncBalanced d D n = s.ncBalanced d D n :=
    State.ncBalanced_modHome hs n rfl rfl (Home.ncAuditStarted_ne_default _ _) d D
  have hdo : s.doNcAudit n = (s.modHome n (Home.ncAuditStarted s.clk.fclk)).modHome n (fun x => { x with
      ncLatch := s.auditLatch x.ncAudRun false x.ncAudAt x.ncLatch (s.clk.fclk, !s.ncBalanced d D n) }) := by
    have hd' : (s.modHome n (Home.ncAuditStarted s.clk.fclk)).nodeDom n = some (d, D) := hd
    have hw' : (s.modHome n (Home.ncAuditStarted s.clk.fclk)).auditWindow n = false := hw
    change (s.modHome n (Home.ncAuditStarted s.clk.fclk)).ncLatchEdge n = _
    simp only [State.ncLatchEdge, hd', hw', hbal, State.modHome_clk]
    rfl
  have hexec : exec (.homNcAudit n) s = .next (s.doNcAudit n) := congrArg Host.Outcome.next (hf ▸ State.unitCmd_taken hd _ _ _ _)
  refine ⟨_, hexec.trans (congrArg Host.Outcome.next hdo), ⟨rfl, fun m hm => ?others⟩, ?home⟩
  case others => exact (State.modHome_home_ne _ _ hm).trans (State.modHome_home_ne s _ hm)
  case home => simp only [State.modHome_home_self, Home.ncAuditStarted, State.auditLatch_atStart, Bool.false_eq_true, if_false]

/-- Node 0 holds a pinned pool entry and the one transaction that pins it, but its shard is listed after node 1's. -/
def unsortedHomes : State := {
  imgc := { img := some { doms := [(0, { nlog := 2, wlog := 1 })] } }
  homes := [(1, {}), (0, {
    txs := [{ line := 0, msg := { op := .rdSh }, pin := some (0, 0, 0, 0) }]
    nc := [{ tree := 0, pos := 0, level := 1, index := 0, pins := 1 }] })] }

theorem unsortedHomes_balanced : unsortedHomes.ncBalanced 0 { nlog := 2, wlog := 1 } 0 = true := by decide

/-- The start of the audit lists the shard of node 0 a second time, so its transaction counts twice. -/
theorem unsortedHomes_latch : ((unsortedHomes.doNcAudit 0).home 0).ncLatch = some (0, true) := by decide

/-- Refutes O11: where the table of shards is out of order, HOM_NC_AUDIT latches a bad ledger for a node cache that is balanced. On a table whose keys
rise, the canonical form, this clause holds (`exec_homNcAudit_of_sorted`), and the part on slices holds in every state (`sliceAudit`). -/
theorem not_audits : ¬ Obligations.Audits := by
  unfold Obligations.Audits
  rintro ⟨-, -, -, -, -, -, hstart, -⟩
  obtain ⟨t, hexec, -, hhome⟩ := hstart unsortedHomes 0 0 { nlog := 2, wlog := 1 } rfl rfl rfl
  obtain rfl : unsortedHomes.doNcAudit 0 = t := Host.Outcome.next.inj hexec
  have hlatch := congrArg Home.ncLatch hhome
  rw [unsortedHomes_latch, unsortedHomes_balanced] at hlatch
  cases hlatch

/-! ### Fills of an MSHR (R145 to R148, R159, R163, R164) -/

theorem State.fillMsg_of_mshr {s : State} {n d i : Nat} {D : ImgDomain} {m : Msg} {e : Mshr} (hd : s.nodeDom n = some (d, D))
    (hq : (s.qOf n 43).any (fun u => decide (u.msg = m)) = true) (he : s.mshrOf n m.line = some (i, e)) :
    s.fillMsg n m = some ({ n := n, d := d, D := D, l := m.line }, i, e) := by
  simp only [State.fillMsg, hd, hq, he, if_true, Option.map_some]

/-- A fill pass of an unfenced slice that the accept stage takes and that meets no fault. -/
theorem State.fillRun_clean {s : State} {a : At} {m : Msg} (hf : s.isFenced (.slice a.n) = false) (hacc : s.accepts a.n 0 m = true) (i : Nat) (e : Mshr)
    (f : State → State) : s.fillRun a i e m {} f = Claims.passed s a m f := by
  simp only [State.fillRun, hf, hacc, State.runPass_clean hf, Claims.passed, Bool.not_true, Bool.false_eq_true, if_false]

section Fills
variable {s : State} {n i d : Nat} {D : ImgDomain} {m : Msg} {e : Mshr} (hd : s.nodeDom n = some (d, D))
  (hq : (s.qOf n 43).any (fun u => decide (u.msg = m)) = true) (he : s.mshrOf n m.line = some (i, e))
include hd hq he

section Pass
variable (hf : s.isFenced (.slice n) = false) (hacc : s.accepts n 0 m = true)
include hf hacc

theorem exec_data_whole (hnear : e.near = none) (hop : m.op = .data) (hhalf : m.half = none) :
    let a : At := { n := n, d := d, D := D, l := m.line }
    exec (.data n m {}) s = .next (Claims.passed s a m (fun s => ((s.qTake n 43 m).takeData a i m m.data).fillTry a)) := by
  intro a
  rw [← State.fillRun_clean (a := a) hf hacc i e]
  change execData n m {} s = _
  simp only [execData, hop, State.fillMsg_of_mshr hd hq he, hnear, hhalf, ne_eq, not_true_eq_false, Option.isSome_none, Bool.false_eq_true, if_false, a]

theorem exec_grant (hnear : e.near = none) (hop : m.op = .grant) :
    let a : At := { n := n, d := d, D := D, l := m.line }
    exec (.grant { n := n } m) s = .next (Claims.passed s a m (fun s => ((s.qTake n 43 m).modMshr n i (fun e => { e with
      grant := some m.grant, wt := e.wt || m.wt, bare := m.nodata, txn := m.txn, st := if e.st = .orphan then .orphan else .granted })).fillTry a)) := by
  intro a
  rw [← State.fillRun_clean (a := a) hf hacc i e]
  change execGrant { n := n } m s = _
  simp only [execGrant, hop, State.fillMsg_of_mshr hd hq he, hnear, ne_eq, not_true_eq_false, Option.isSome_none, Bool.false_eq_true, if_false, a]

theorem exec_cmp (hop : m.op = .cmp) (hreq : e.req = .wrThru) :
    let a : At := { n := n, d := d, D := D, l := m.line }
    exec (.cmp { n := n } m) s = .next (Claims.passed s a m (fun s =>
      e.waiters.foldl (fun s w => if w.op = .wr then s.answer a (msgOf m.line w) (cmpFor a (msgOf m.line w)) else s.waiterNew a w)
        (((s.qTake n 43 m).freeWb a).freeMshr a i e))) := by
  intro a
  rw [← State.fillRun_clean (a := a) hf hacc i e]
  change execCmp { n := n } m s = _
  simp only [execCmp, hop, State.fillMsg_of_mshr hd hq he, hreq, ne_eq, not_true_eq_false, if_false, a]

theorem exec_dur (hop : m.op = .dur) (hreq : e.req = .wrDur) (herr : e.durErr = false) :
    let a : At := { n := n, d := d, D := D, l := m.line }
    exec (.dur { n := n } m) s = .next (Claims.passed s a m (fun s => (s.qTake n 43 m).durPass a i e m [])) := by
  intro a
  rw [← State.fillRun_clean (a := a) hf hacc i e]
  change execDur { n := n } m s = _
  simp only [execDur, hop, State.fillMsg_of_mshr hd hq he, hreq, herr, ne_eq, not_true_eq_false, Bool.false_eq_true, or_self, if_false, a]

/-- An error that no home's queue holds is the slice's. -/
theorem exec_err_atSlice (hnear : e.near = none) (hop : m.op = .err) (herr : e.durErr = false)
    (hhome : (s.qOf n 47).any (fun u => decide (u.msg = m)) = false) :
    let a : At := { n := n, d := d, D := D, l := m.line }
    exec (.err { n := n } m) s = .next (Claims.passed s a m (fun s => (s.qTake n 43 m).fillErr a i e m.err)) := by
  intro a
  rw [← State.fillRun_clean (a := a) hf hacc i e]
  change execErr { n := n } m s = _
  simp only [execErr, hop, State.homeHas_eq_none hd hhome, State.errAtSlice, State.fillMsg_of_mshr hd hq he, hnear, herr, ne_eq, not_true_eq_false,
    Option.isSome_none, Bool.false_eq_true, or_self, if_false, a]

end Pass

/-- R147: a first half beside a writer is kept and goes to nobody. -/
theorem exec_halfFill_beside_writer (hnear : e.near = none) (hop : m.op = .data) {u : Bool} (hhalf : m.half = some u)
    (hno : (s.slice n).halves.any (fun h => decide (h.1 = m.line)) = false) (hwr : e.waiters.any (fun w => decide (w.op = .wr)) = true) :
    exec (.halfFill n m) s = .next (((s.qTake n 43 m).modSlice n (fun x => { x with halves := x.halves ++ [(m.line, u, m.data)] })).modMshr n i
      (fun e => { e with txn := m.txn, st := if e.st = .orphan then .orphan else .granted })) := by
  change execHalfFill n m s = _
  simp only [execHalfFill, hop, State.fillMsg_of_mshr hd hq he, hhalf, hnear, hno, hwr, ne_eq, not_true_eq_false, Option.isSome_none, Bool.or_self,
    Bool.true_or, Bool.false_eq_true, if_false, if_true]

end Fills

/-- The part of O24 on what reaches an MSHR. -/
theorem fillsOfAnMshr : Claims.FillsOfAnMshr := by
  intro s n i d D m e hd hf hq he hnear a
  refine ⟨fun hacc => ⟨?whole, ?grant, ?cmp, ?dur, ?err⟩, ?half⟩
  case whole => exact exec_data_whole hd hq he hf hacc hnear
  case grant => exact exec_grant hd hq he hf hacc hnear
  case cmp => exact exec_cmp hd hq he hf hacc
  case dur => exact exec_dur hd hq he hf hacc
  case err => exact exec_err_atSlice hd hq he hf hacc hnear
  case half => exact fun hop u => exec_halfFill_beside_writer hd hq he hnear hop

/-- The part of O24 on a durable write of an absent line. -/
theorem durableWriteEnds : Claims.DurableWriteEnds := by
  intro s a i e m u hw
  have habsent : ((s.stamp a.d a.l none 10).bump (cSlc a.n 8)).wayOf a = none := hw
  simp only [State.durPass, habsent, u]

/-- The part of O24 on the timeout. -/
theorem mshrTimeoutOrphans : Claims.MshrTimeoutOrphans := by
  intro s n i d D e t hd he hdl hst ht
  change execMshrTimeout n i s = _
  simp only [execMshrTimeout, hd, he, hdl, hst, ht, ne_eq, not_false_eq_true, and_self, if_true]

/-- Settles O24: each message meets the conditions of its command, and its pass meets no fault. -/
theorem mshrAnswersAndTimeouts : Obligations.MshrAnswersAndTimeouts :=
  ⟨fillsOfAnMshr, durableWriteEnds, mshrTimeoutOrphans⟩

/-! ### Write-backs and notices (R168, R206, R212) -/

theorem exec_wbCmd {op : Op} (hop : op ∈ [Op.wb, .evn]) (atHome : Bool) (n : Nat) (m : Msg) (s : State) :
    exec (Claims.wbCmd op atHome n m) s = .next (if atHome then s.wbAtHome op n m else s.wbAtSlice op n m {}) := by
  simp only [List.mem_cons, List.not_mem_nil, or_false] at hop
  obtain rfl | rfl := hop <;> rfl

/-- A pass of a near cache's message that the accept stage takes at an unfenced slice and that meets no fault. -/
theorem State.nearRun_clean {s : State} {a : At} (hf : s.isFenced (.slice a.n) = false) (m : Msg) (f : State → State) :
    s.nearRun a true m {} f = Claims.ran s a m f := by
  simp only [State.nearRun, hf, State.runPass_clean hf, Claims.ran, Bool.not_true, Bool.false_eq_true, if_false]

/-- R212: the message at the front of the home's order is sequenced. -/
theorem State.wbAtHome_front {s : State} {op : Op} {n d : Nat} {D : ImgDomain} {m : Msg} {u : FUnit} {r : List (Nat × Msg)}
    (hop : m.op = op) (hd : s.nodeDom n = some (d, D)) (hf : s.isFenced (.home n) = false)
    (hr : ((s.orderEdge n d D).home n).order = (46, m) :: r) (hu : (s.qOf n 46).find? (fun v => decide (v.msg = m)) = some u) :
    s.wbAtHome op n m = (((((s.orderEdge n d D).modHome n (fun y => { y with order := r })).qTake n 46 m).seqOne
      { n := n, d := d, D := D, l := m.line } m (s.srcOf d D u).1).homeRun n) := by
  simp only [State.wbAtHome, State.homeHas_of_any hd (any_msg_of_find? hu), hop, hf, hr, hu, ne_eq, not_true_eq_false, decide_false, Bool.or_self,
    Bool.false_eq_true, if_false, and_self, if_true]

section OfSlice
variable {s u : State} (h : u.slice = s.slice)
include h

theorem State.mshrOf_of_slice : u.mshrOf = s.mshrOf := by funext n l; simp only [State.mshrOf, h]
theorem State.nearRuns_of_slice : u.nearRuns = s.nearRuns := by funext a; simp only [State.nearRuns, State.mshrOf_of_slice h]
theorem State.askedNear_of_slice : u.askedNear = s.askedNear := by
  funext a g; simp only [State.askedNear, State.mshrOf_of_slice h, State.vbOf_of_slice h, h]

end OfSlice

section AtSlice
variable {s : State} {a : At} {g : Nat} {m : Msg}

theorem State.wbIn_evictDue (h : (a.l, g) ∈ (s.slice a.n).evictDue) : s.wbIn a g m = (s.wbSupersede a g m).settle a := if_pos h

theorem State.wbIn_unasked {w : Nat} (hdue : (a.l, g) ∉ (s.slice a.n).evictDue) (hask : s.askedNear a g = false) (hrun : s.nearRuns a = false)
    (hw : s.wayOf a = some w) :
    let q := s.bump (cSlc a.n 7)
    let x := if m.op = .wb then ((q.nearDirty a).setTile a.n (a.slot w) m.data).modTag a.n (a.slot w) (fun t => { t with subd := 3 }) else q
    s.wbIn a g m = (x.nearGone a g).wbReply a m .wbAck := by
  have hw' : (s.bump (cSlc a.n 7)).wayOf a = some w := hw
  simp only [State.wbIn, hdue, hask, hrun, State.wbApply, hw', Bool.or_self, Bool.false_eq_true, if_false]

end AtSlice

/-- The part of O27 on write-backs and notices. -/
theorem writeBacksAndNotices : Claims.WriteBacksAndNotices := by
  intro s op n d D m hop hm hd a
  refine ⟨?atHome, fun hf hacc g hq hg => ?atSlice⟩
  case atHome =>
    rintro r u hf rfl hfront hu
    have horder := List.eq_cons_of_mem_head? hfront
    rw [exec_wbCmd hop]
    exact congrArg Host.Outcome.next (State.wbAtHome_front hm hd hf horder hu)
  case atSlice =>
    have hexec : exec (Claims.wbCmd op false n m) s = .next (Claims.ran s a m (fun s => (s.qTake n 42 m).wbIn a g m)) := by
      rw [exec_wbCmd hop]
      simp only [State.wbAtSlice, hd, hm, hq, hg, hacc, and_self, if_true, Bool.false_eq_true, if_false]
      exact congrArg Host.Outcome.next (State.nearRun_clean hf m _)
    have hpass {f : State → State} (h : (s.qTake n 42 m).wbIn a g m = f s) :
        exec (Claims.wbCmd op false n m) s = .next (Claims.ran s a m f) := by
      rw [hexec]
      simp only [Claims.ran, h]
    refine ⟨fun hdue => ?superseded, fun w hdue hask hrun hw => ?acknowledged⟩
    case superseded => exact hpass (State.wbIn_evictDue hdue)
    case acknowledged =>
      have hslice : (s.qTake n 42 m).slice = s.slice := rfl
      have hwb := State.wbIn_unasked (s := s.qTake n 42 m) (m := m) hdue (State.askedNear_of_slice hslice ▸ hask)
        (State.nearRuns_of_slice hslice ▸ hrun) (State.wayOf_of_slice hslice ▸ hw)
      simp only [hm] at hwb
      exact hpass hwb

/-! ### Acknowledgements of victims (R165, R166) -/

/-- R166: the entry of a line that has been sent is freed, and what waited for the line goes on. -/
theorem State.vbDone_sent {s : State} {a : At} {j : Nat} {v : VbEnt} (hv : s.vbOf a.n a.l = some (j, v)) (hs : v.sent = true) :
    s.vbDone a = (s.vbPut a.n j none).release a := by
  simp only [State.vbDone, hv, hs, if_true]

/-- The part of O27 on victims. -/
theorem victimsAreAcknowledged : Claims.VictimsAreAcknowledged := by
  intro s n d j D m v hd hq hv hs a
  refine ⟨fun hop herr => ?ack, fun hop => ?superseded⟩
  case ack =>
    change execWbAck n m s = _
    simp only [execWbAck, hd, hop, hq, herr, reduceCtorEq, and_self, if_true, if_false]
    exact congrArg Host.Outcome.next (State.vbDone_sent hv hs)
  case superseded =>
    change execWbSuperseded n m s = _
    simp only [execWbSuperseded, hd, hop, hq, and_self, if_true]
    exact congrArg Host.Outcome.next (State.vbDone_sent hv hs)

/-- Settles O27: a write-back is sequenced at its home, or goes by what its group still owes at a slice; an acknowledged victim has been sent. -/
theorem writeBacksAndVictims : Obligations.WriteBacksAndVictims := ⟨writeBacksAndNotices, victimsAreAcknowledged⟩

/-! ### Answers of memory devices (R150, R197, R280) -/

@[simp] theorem State.stamp_home (s : State) (d : Nat) (l : LineAddr) (who : Option Endpoint) (k n : Nat) : (s.stamp d l who k).home n = s.home n := by
  simp only [State.stamp, State.setTraces]
  split <;> rfl

/-- Data within 110 ns of its read is in time. -/
theorem State.memLate_inTime {s : State} {a : At} {m : Msg} {at_ : KTime} (h : s.readAskedAt a m.txn = 0 ∨ at_ ≤ s.readAskedAt a m.txn + ns 110) :
    s.memLate a m at_ = s := if_pos h

theorem exec_memData_whole {s : State} {n d : Nat} {D : ImgDomain} {m : Msg} {u : FUnit} (hd : s.nodeDom n = some (d, D))
    (hop : m.op = .memData) (hhalf : m.half = none) (hu : (s.qOf n 48).find? (fun u => decide (u.msg = m)) = some u)
    (hin : s.readAskedAt { n := n, d := d, D := D, l := m.line } m.txn = 0
      ∨ u.ing ≤ s.readAskedAt { n := n, d := d, D := D, l := m.line } m.txn + ns 110)
    (hnode : (s.home n).fetches.any (fun f => decide (f.line = m.line) && decide (f.txn = m.txn)) = false) :
    exec (.memData n m u.ing) s = .next ((((s.qTake n 48 m).stamp d m.line none 8).readDone { n := n, d := d, D := D, l := m.line } m.txn (some m.cw) none
      .none).homeRun n) := by
  have hin' := State.memLate_inTime (s := s.qTake n 48 m) hin
  change execMemData n m u.ing s = _
  simp only [execMemData, State.homeHas_of_any hd (any_msg_of_find? hu), hu, hop, hin', State.joinRead, hhalf, State.stamp_home, State.qTake_home_of, hnode,
    ne_eq, not_true_eq_false, or_self, Bool.false_eq_true, if_false]

theorem exec_memAck {s : State} {n d : Nat} {D : ImgDomain} {m : Msg} (hd : s.nodeDom n = some (d, D)) (hop : m.op = .memAck)
    (hq : (s.qOf n 47).any (fun u => decide (u.msg = m)) = true) : exec (.memAck n m) s = .next (s.qTake n 47 m) := by
  change execMemAck n m s = _
  simp only [execMemAck, State.homeHas_of_any hd hq, hop, if_true]

theorem exec_memDur_inTime {s : State} {n d : Nat} {D : ImgDomain} {m : Msg} {u : FUnit} {t : Tx} (hd : s.nodeDom n = some (d, D))
    (hop : m.op = .memDur) (hu : (s.qOf n 47).find? (fun u => decide (u.msg = m)) = some u) (ht : s.txOf n m.line = some t)
    (hdue : t.durDue = true) (htxn : t.txn = m.txn) (hin : u.ing ≤ t.memAt + ns (s.iport t.port).durable) :
    let a : At := { n := n, d := d, D := D, l := m.line }
    exec (.memDur n m u.ing) s = .next (((((s.qTake n 47 m).modTx n m.line (fun x => { x with durDue := false, answered := true })).homeSend a t
      { homeMsg a t .dur .i with wt := false })).homeRun n) := by
  intro a
  have ht' : (s.qTake n 47 m).txOf n m.line = some t := ht
  have hin' : ¬ t.memAt + ns ((s.qTake n 47 m).iport t.port).durable < u.ing := Nat.not_lt.2 hin
  change execMemDur n m u.ing s = _
  simp only [execMemDur, State.homeHas_of_any hd (any_msg_of_find? hu), hu, hop, ht', hdue, htxn, hin', ne_eq, not_true_eq_false, or_self, if_false,
    and_self, false_and, if_true, a]

/-- The part of O29 on the answers. -/
theorem memoryAnswers : Claims.MemoryAnswers := by
  intro s n d D m u hd a
  exact ⟨fun hop hhalf hu hin hnode => exec_memData_whole hd hop hhalf hu hin hnode, fun hop hq => exec_memAck hd hop hq,
    fun t hop hu ht hdue htxn hin => exec_memDur_inTime hd hop hu ht hdue htxn hin⟩

/-! ### Writes that leave the fabric (R156, R193, R213) -/

/-- The part of O29 on writes. -/
theorem memoryWritesLeave : Claims.MemoryWritesLeave := by
  intro s n d D l t hd ht hwr hway
  refine ⟨?left, fun hkind herr hdur => ?sentThrough⟩
  case left =>
    change execMemWrEjected n l s = _
    simp only [execMemWrEjected, hd, ht, hwr, hway, Bool.not_true, Bool.or_self, Bool.false_eq_true, if_false]
  case sentThrough =>
    simp only [State.ejected, hkind, herr, hdur, ne_eq, not_true_eq_false, Bool.false_eq_true, or_self, if_false]

/-- Settles O29: each answer meets its condition and is in time; a write that has left ends its transaction. -/
theorem memoryTraffic : Obligations.MemoryTraffic := ⟨memoryAnswers, memoryWritesLeave⟩

/-! ### Run-ahead (R155, R156) -/

/-- Taking a hint off the list leaves the transactions. -/
theorem State.txOf_modHome_hints (s : State) (n k : Nat) (f : List Msg → List Msg) (l : LineAddr) :
    (s.modHome k (fun y => { y with hints := f y.hints })).txOf n l = s.txOf n l := by
  simp only [State.txOf, State.modHome_home]
  split
  · next h => rw [h]
  · rfl

section Hint
variable {s : State} {n d : Nat} {D : ImgDomain} {m : Msg} (hd : s.nodeDom n = some (d, D)) (hm : m ∈ (s.home n).hints)
include hd hm

/-- R155: a sequenced hint for a line in work goes. -/
theorem exec_pfHint_inWork (ht : (s.txOf n m.line).isSome = true) :
    exec (.pfHint n m) s = .next (s.modHome n (fun y => { y with hints := rmFirst m y.hints })) := by
  change execPfHint n m s = _
  simp only [execPfHint, hd, hm, State.txOf_modHome_hints, ht, not_true_eq_false, Bool.or_true, Bool.true_or, if_false, if_true]

section Idle
variable (hf : s.isFenced (.home n) = false) (ht : s.txOf n m.line = none) (hra : (s.home n).ra.any (fun r => decide (r.line = m.line)) = false)
include hf ht hra

/-- R156: with all entries held a hint is dropped and counted. -/
theorem exec_pfHint_full (hfull : 32 ≤ (s.home n).ra.length) :
    exec (.pfHint n m) s = .next ((s.modHome n (fun y => { y with hints := rmFirst m y.hints })).bump (cHom n 18)) := by
  change execPfHint n m s = _
  have hf' : (s.modHome n (fun y => { y with hints := rmFirst m y.hints })).isFenced (.home n) = false := hf
  simp only [execPfHint, hd, hm, hf', State.txOf_modHome_hints, ht, State.modHome_home_self, hra, hfull, not_true_eq_false, Option.isSome_none, Bool.or_self,
    Bool.false_eq_true, if_false, if_true]

/-- R155: with an entry free and the line's memory port in service a hint starts a read. -/
theorem exec_pfHint_read (hroom : (s.home n).ra.length < 32) {i p : Nat} {e : RngEnt} :
    let a : At := { n := n, d := d, D := D, l := m.line }
    let q := s.modHome n (fun y => { y with hints := rmFirst m y.hints })
    q.rngHome d m.line = some (i, e) → q.memPort a = some p → q.inSvc p = true → q.lostAt a = false →
    let r := ((q.bump (cHom n 16)).fetchPath a).newTxn n
    let v := r.1.modHome n (fun y => { y with ra := y.ra ++ [{
      line := m.line, from_ := m.requester, txn := r.2, key := r.1.keyAt i e m.line, epoch := r.1.prot.epoch, at_ := r.1.kt d }] })
    exec (.pfHint n m) s = .next ((if v.zeroAt a then v else v.toMem D n p { op := .memRd, line := m.line, txn := r.2, cls := 2 }).homeRun n) := by
  intro a q hrng hport hsvc hlost
  change execPfHint n m s = _
  have hf' : q.isFenced (.home n) = false := hf
  have htx : q.txOf n m.line = none := (State.txOf_modHome_hints ..).trans ht
  have hq : q.home n = { s.home n with hints := rmFirst m (s.home n).hints } := State.modHome_home_self s n _
  simp only [execPfHint, hd, hm, not_true_eq_false, if_false]
  simp only [q, a] at hf' htx hq hrng hport hsvc hlost ⊢
  simp only [hf', htx, hq, hra, Nat.not_le.2 hroom, hrng, hport, hsvc, hlost, Option.isSome_none, Bool.not_true, Bool.or_self, Bool.false_eq_true, if_false]

end Idle

end Hint

/-- Settles O30: each hint meets the conditions of its case; an entry that has expired is dropped. -/
theorem runAheadOfTheHome : Obligations.RunAheadOfTheHome := by
  unfold Obligations.RunAheadOfTheHome
  refine ⟨fun s n d i p D e m hd hm hf => ⟨exec_pfHint_inWork hd hm, exec_pfHint_full hd hm hf, fun ht hra hroom => exec_pfHint_read hd hm hf ht hra hroom⟩,
    fun s n d D l hd => ?expire⟩
  case expire =>
    change execRunAheadExpire n l s = _
    simp only [execRunAheadExpire, hd]

/-! ### Messages that enter the fabric at a port (R195, R358) -/

/-- A message under a credit at a port in service enters the fabric; register accesses have commands of their own. -/
theorem exec_unitArrival_port {s : State} {n k : Nat} {m : Msg} {ops : List Op} (hk : k < 4) (hsvc : s.inSvc (4 * n + k) = true)
    (hcov : s.covered (4 * n + k) m = true) (hop : m.op ∈ ops) (hcfg : ∀ o ∈ ops, o ≠ .cfgRd ∧ o ≠ .cfgWr) :
    exec (.unitArrival n (.port k m) .clean) s = .next (((s.landed (4 * n + k) m).portIn (4 * n + k) m).cellFences) := by
  obtain ⟨hrd, hwr⟩ := hcfg m.op hop
  change execUnitArrival n (.port k m) .clean s = _
  simp only [execUnitArrival, State.arrive, hk, hrd, hwr, State.atPort_landed s _ m _ hsvc hcov, or_self, reduceCtorEq, if_true, if_false]

/-- A near group's acknowledgement, write-back or notice goes to the line's slice. -/
theorem State.portIn_near {s : State} {p d : Nat} {D : ImgDomain} {m : Msg} (hd : s.portDom p = some (d, D)) (hrole : (s.iport p).role = .near)
    (hop : m.op ∈ [Op.compAck, .wb, .evn]) : s.portIn p m = s.enter p (s.sliceNode d D m.line) .slice { m with sender := portEp D.device p } := by
  simp only [List.mem_cons, List.not_mem_nil, or_false] at hop
  obtain h | h | h := hop <;> simp only [State.portIn, hd, hrole, h, vnOf, State.nearIn]

/-- A memory device's answer goes to the home. -/
theorem State.portIn_memory {s : State} {p d : Nat} {D : ImgDomain} {m : Msg} (hd : s.portDom p = some (d, D)) (hrole : (s.iport p).role = .memory)
    (hop : m.op ∈ [Op.memData, .memAck, .memDur]) : s.portIn p m = s.enter p (s.memHome d D m) .home m := by
  simp only [List.mem_cons, List.not_mem_nil, or_false] at hop
  obtain h | h | h := hop <;> simp only [State.portIn, hd, hrole, h, vnOf, State.memIn]

theorem LinkOnly.sliceNode {c : Bool} {s t : State} (h : LinkOnly c s t) : t.sliceNode = s.sliceNode := by
  obtain ⟨⟨P, C, O, rfl⟩, -⟩ := h
  rfl

theorem LinkOnly.memHome {c : Bool} {s t : State} (h : LinkOnly c s t) : t.memHome = s.memHome := by
  obtain ⟨⟨P, C, O, rfl⟩, -⟩ := h
  rfl

/-! ### A Full-mode router (R323 to R329) -/

section Full
variable {s : State} {n d : Nat} {D : ImgDomain} (hd : s.nodeDom n = some (d, D)) (hf : s.isFenced (.router n) = false) (hc : D.compact = false)
include hd hf hc

theorem exec_unitArrival_link_full (dir : Dir) (x : HdrCheck) : exec (.unitArrival n (.link dir) x) s = .next ((s.fullLink d D n dir x).cellFences) := by
  change execUnitArrival n (.link dir) x s = _
  simp only [execUnitArrival, hd, hf, hc, Bool.false_eq_true, if_false]

theorem exec_unitArrival_inject_full (x : HdrCheck) : exec (.unitArrival n .inject x) s = .next ((s.fullInject d D n).cellFences) := by
  change execUnitArrival n .inject x s = _
  simp only [execUnitArrival, hd, hf, hc, Bool.false_eq_true, if_false]

end Full

section Link
variable {s : State} {n v d : Nat} {D : ImgDomain} {dir : Dir} {u : FUnit}

section Moves
variable (he : s.earliest d ((s.linkHeads n dir).filter (fun e => decide (s.linkMove d D n dir e.1 e.2 ≠ .none))) = some (v, u))
include he

theorem State.fullLink_eject (h : s.linkMove d D n dir v u = .eject) :
    s.fullLink d D n dir .clean = ((s.dropIn n (5 * dirNum dir + v)).ejectOne n).eject d D u false := by
  simp only [State.fullLink, reduceCtorEq, or_self, if_false, he, h, decide_false]

theorem State.fullLink_go {c : Cand} (h : s.linkMove d D n dir v u = .go c) :
    s.fullLink d D n dir .clean = s.candGo d D n c u (fun s => s.dropIn n (5 * dirNum dir + v)) := by
  simp only [State.fullLink, reduceCtorEq, or_self, if_false, he, h]

theorem State.fullLink_turn (h : s.linkMove d D n dir v u = .turn) :
    s.fullLink d D n dir .clean = ((s.dropIn n (5 * dirNum dir + v)).modRouter n
      (fun r => { r with turn := tmod [] r.turn v (fun l => l ++ [u]) })).bump (cRtr n 23) := by
  simp only [State.fullLink, reduceCtorEq, or_self, if_false, he, h]

end Moves

theorem State.linkMove_eject (hhop : s.fullHop d D n u = .eject) (hal : s.allowed u = true) (hroom : s.ejectRoom n = true) :
    s.linkMove d D n dir v u = .eject := by
  simp only [State.linkMove, hhop, hal, hroom, Bool.and_self, if_true]

theorem State.linkMove_go {o : Dir} {det : Nat} {c : Cand} (hhop : s.fullHop d D n u = .go o det)
    (hring : sameRing o dir = true ∨ tget [] (s.router n).turn v = []) (hcand : s.candOf d D n (dirNum dir) (some dir) u = some c)
    (hwin : s.candWins d D n c = true) : s.linkMove d D n dir v u = .go c := by
  have hstay : (!sameRing o dir && !(tget [] (s.router n).turn v).isEmpty) = false := by
    obtain h | h := hring <;> simp [h]
  simp only [State.linkMove, hhop, hstay, hcand, hwin, Bool.false_eq_true, if_false, if_true]

theorem State.linkMove_turn {o : Dir} {det : Nat} (hhop : s.fullHop d D n u = .go o det) (hring : sameRing o dir = false)
    (hstay : tget [] (s.router n).turn v ≠ [] ∨ s.candOf d D n (dirNum dir) (some dir) u = none) : s.linkMove d D n dir v u = .turn := by
  by_cases hempty : tget [] (s.router n).turn v = []
  · have hcand := hstay.resolve_left (not_not_intro hempty)
    simp only [State.linkMove, hhop, hring, hempty, hcand, Bool.not_false, List.isEmpty_nil, Bool.not_true, Bool.and_false, Bool.false_eq_true, if_false,
      if_true]
  · simp [State.linkMove, hhop, hring, hempty]

end Link

/-- Nothing leaves turn queues that are empty. -/
theorem State.turnHeads_eq_nil {s : State} {n : Nat} (h : ∀ v, tget [] (s.router n).turn v = []) : s.turnHeads n = [] := by
  simp only [State.turnHeads, h, List.filterMap_none]

section Inject
variable {s : State} {n q d : Nat} {D : ImgDomain} {u : FUnit}

theorem State.entryMove_go {pos det : Nat} {o : Dir} {c : Cand} (hdead : s.goesDead u = false) (hhop : s.fullHop d D n u = .go o det)
    (hcand : s.candOf d D n pos none u = some c) (hwin : s.candWins d D n c = true) : s.entryMove d D n pos u = .go c := by
  simp only [State.entryMove, hdead, hhop, hcand, hwin, Bool.false_and, Bool.false_eq_true, if_false, if_true]

/-- With the turn queues empty the injection queues have the router's entry. -/
theorem State.fullInject_of_noTurn (hturn : ∀ v, tget [] (s.router n).turn v = [])
    (he : s.earliest d ((s.injHeads d D n).filter (fun e => decide (s.entryMove d D n 5 e.2 ≠ .none))) = some (q, u)) :
    s.fullInject d D n = s.injOut d D n q u := by
  simp only [State.fullInject, State.turnHeads_eq_nil hturn, List.filter_nil, State.earliest, he]

theorem State.injOut_go {c : Cand} (h : s.entryMove d D n 5 u = .go c) :
    s.injOut d D n q u = s.candGo d D n c (s.injected d n q u).2 (fun s => (s.injected d n q u).1) := by
  simp only [State.injOut, h]

end Inject

/-! ### A Compact router (R330 to R335) -/

section Compact
variable {s : State} {n d : Nat} {D : ImgDomain} (hd : s.nodeDom n = some (d, D)) (hf : s.isFenced (.router n) = false) (hc : D.compact = true)
  (hedge : (s.router n).edgeAt ≤ s.clk.fclk)
include hd hf hc hedge

theorem exec_unitArrival_inject_compact (x : HdrCheck) : exec (.unitArrival n .inject x) s = .next ((s.compactEdge d D n none .clean).cellFences) := by
  change execUnitArrival n .inject x s = _
  simp only [execUnitArrival, hd, hf, hc, hedge, Bool.false_eq_true, if_false, if_true]

theorem exec_unitArrival_link_compact (dir : Dir) (x : HdrCheck) :
    exec (.unitArrival n (.link dir) x) s = .next ((s.compactEdge d D n (some dir) x).cellFences) := by
  change execUnitArrival n (.link dir) x s = _
  simp only [execUnitArrival, hd, hf, hc, hedge, Bool.false_eq_true, if_false, if_true]

end Compact

/-- The part of O36 on units. -/
theorem unitsMove : Claims.UnitsMove := by
  refine ⟨?port, ?link, ?inject, ?compact⟩
  case port =>
    intro s n k d D m hk hd hsvc p hcov
    have hland := State.landed_frame s p m hcov
    have hd' : (s.landed p m).portDom p = some (d, D) := hland.portDom ▸ hd
    refine ⟨fun hrole hop => ?near, fun hrole hop => ?memory⟩
    case near =>
      have hin := State.portIn_near hd' (hland.iport ▸ hrole) hop
      rw [exec_unitArrival_port hk hsvc hcov hop (by decide), hin, hland.sliceNode]
    case memory =>
      have hin := State.portIn_memory hd' (hland.iport ▸ hrole) hop
      rw [exec_unitArrival_port hk hsvc hcov hop (by decide), hin, hland.memHome]
  case link =>
    intro s n v d D dir u hd hf hc he k turns
    rw [exec_unitArrival_link_full hd hf hc]
    refine ⟨fun hhop hal hroom => ?eject, fun o det c hhop hring hcand hwin => ?go, fun o det hhop hring hstay => ?turn⟩
    case eject => rw [State.fullLink_eject he (State.linkMove_eject hhop hal hroom)]
    case go => rw [State.fullLink_go he (State.linkMove_go hhop hring hcand hwin)]
    case turn => rw [State.fullLink_turn he (State.linkMove_turn hhop hring hstay)]
  case inject =>
    intro s n q d det D o u c hd hf hc hturn hdead he hhop hcand hwin
    rw [exec_unitArrival_inject_full hd hf hc, State.fullInject_of_noTurn hturn he, State.injOut_go (State.entryMove_go hdead hhop hcand hwin)]
  case compact =>
    intro s n d D dir x hd hf hc hedge
    exact ⟨exec_unitArrival_inject_compact hd hf hc hedge .clean, exec_unitArrival_link_compact hd hf hc hedge dir x⟩

/-! ### Detours (R337, R338) -/

/-- The part of O36 on detours. -/
theorem detours : Claims.Detours := by
  refine ⟨fun s d hpend => ?effect, fun s d D hd hc hne hdue => ?reorderEnd⟩
  case effect =>
    change execDetour d s = _
    simp only [execDetour, List.isEmpty_iff, hpend, if_false]
  case reorderEnd =>
    change execDetourReorderEnd d s = _
    simp only [execDetourReorderEnd, hd, hc, hne, Nat.not_lt.2 hdue, decide_false, Bool.or_self, Bool.false_eq_true, if_false]

/-- Settles O36: each unit makes the one move that its router finds for it, and each command of a detour meets its condition. -/
theorem fabricMoves : Obligations.FabricMoves := ⟨unitsMove, detours⟩

end Sys2Proof.Machine

/-! ## Proofs of the family 05_coherence: answers to snoops and COMP_ACK, sequencing and activation -/

namespace Sys2Proof.Machine

open Sys2Proof

/-! ### Answers to snoops (R199, R201, R209, R280) -/

section AnswerCmd
variable {op : Op} (hop : op ∈ [Op.rspI, .rspS, .rspFwd, .sdata]) (n : Nat) (m : Msg) (s : State)
include hop

/-- The home takes SDATA from its data queue and the other answers from its response queue. -/
theorem exec_answerCmd_atHome : exec (Claims.answerCmd op true n m) s = .next (s.answerIn op (if op = .sdata then 48 else 47) n m) := by
  simp only [List.mem_cons, List.not_mem_nil, or_false] at hop
  obtain rfl | rfl | rfl | rfl := hop <;> rfl

theorem exec_answerCmd_atSlice : exec (Claims.answerCmd op false n m) s = .next (s.nearAnswer op n m {}) := by
  simp only [List.mem_cons, List.not_mem_nil, or_false] at hop
  obtain rfl | rfl | rfl | rfl := hop <;> rfl

end AnswerCmd

section NearMiss
variable {s : State} {a : At} {m : Msg} {i : Nat} {e : Mshr} {nm : NearMiss} (he : s.mshrOf a.n a.l = some (i, e)) (hnear : e.near = some nm)
include he hnear

/-- R280: an answer whose ingress is no more than 60 ns after the egress of its near miss's snoop is in time. -/
theorem State.nearLate_inTime {t : KTime} (ht : t ≤ nm.snpAt + ns 60) : s.nearLate a m t = s := by
  have hasked : s.nearAsked a = nm.snpAt := by simp only [State.nearAsked, he, hnear]
  exact if_neg fun ⟨_, hlate, _⟩ => Nat.not_lt.2 ht (hasked ▸ hlate)

/-- The near miss takes the answer of a group that it has snooped. -/
theorem State.nearAnswerIn_nearMiss {g : Nat} (hg : g ∈ nm.pend) : s.nearAnswerIn a g m = s.nearAns a i e nm g m := by
  simp only [State.nearAnswerIn, he, hnear, hg, if_true]

end NearMiss

section Answers
variable {s : State} {n d : Nat} {D : ImgDomain} {m : Msg} (hd : s.nodeDom n = some (d, D))
include hd

theorem State.answerIn_queued {op : Op} {q : Nat} {u : FUnit} (hop : m.op = op) (hu : (s.qOf n q).find? (fun u => decide (u.msg = m)) = some u) :
    s.answerIn op q n m = ((s.qTake n q m).homeAnswer n m u.ing).homeRun n := by
  simp only [State.answerIn, State.homeHas_of_any hd (any_msg_of_find? hu), hu, hop, if_true]

/-- A group's answer in the slice's queue: what it does at COM is judged by the ingress time of its unit. -/
theorem State.nearAnswer_queued {op : Op} {u : FUnit} {g : Nat} (hop : m.op = op)
    (hu : (s.qOf n 43).find? (fun u => decide (u.msg = m)) = some u) (hf : s.isFenced (.slice n) = false) (hg : s.fromGroup D m = some g) :
    let a : At := { n := n, d := d, D := D, l := m.line }
    s.nearAnswer op n m {} = Claims.ran s a m (fun s => ((s.qTake n 43 m).nearLate a m u.ing).nearAnswerIn a g m) := by
  simp only [State.nearAnswer, hd, hu, hop, if_true, hg]
  exact State.nearRun_clean hf m _

/-! ### COMP_ACK (R193, R199, R209) -/

/-- The requester of the line's transaction has finished. -/
theorem State.ackIn_request {t : Tx} (hop : m.op = .compAck) (hq : (s.qOf n 47).any (fun u => decide (u.msg = m)) = true)
    (ht : s.txOf n m.line = some t) (htxn : t.txn = m.txn) (hkind : t.kind = .request) :
    s.ackIn n m = ((s.qTake n 47 m).modTx n m.line (fun x => { x with acked := true })).homeRun n := by
  have ht' : (s.qTake n 47 m).txOf n m.line = some t := ht
  simp only [State.ackIn, State.homeHas_of_any hd hq, hop, ht', htxn, hkind, ne_eq, not_true_eq_false, and_self, if_true, if_false]

/-- One acknowledgement fewer is awaited for the line's near miss. -/
theorem State.nearAck_ofGroup {i g : Nat} {e : Mshr} (hop : m.op = .compAck) (hq : (s.qOf n 43).any (fun u => decide (u.msg = m)) = true)
    (hf : s.isFenced (.slice n) = false) (hg : s.fromGroup D m = some g) (he : s.mshrOf n m.line = some (i, e)) :
    let a : At := { n := n, d := d, D := D, l := m.line }
    s.nearAck n m {} = Claims.ran s a m (fun s => ((s.qTake n 43 m).modMshr n i
      (fun x => { x with near := e.near.map (fun nm => { nm with acks := nm.acks - 1 }) })).settle a) := by
  simp only [State.nearAck, hd, hop, hq, and_self, if_true, hg, he]
  exact State.nearRun_clean hf m _

end Answers

/-- Settles O26: each answer stands in the queue of its unit; at a slice its pass meets no fault, and the near miss awaits it and finds it in time. -/
theorem snoopAnswersAreTaken : Obligations.SnoopAnswersAreTaken := by
  intro s op n d D m hop hd a qh
  refine ⟨fun u hm hu => ?atHome, fun u i e nm g hm hu hf hg he hnear hpend hin => ?nearMiss, fun t x hm hq ht htxn hkind => ?ackAtHome,
    fun i e g hm hq hf hg he => ?ackAtSlice⟩
  case atHome =>
    rw [exec_answerCmd_atHome hop, State.answerIn_queued hd hm hu]
  case nearMiss =>
    have he' : (s.qTake n 43 m).mshrOf a.n a.l = some (i, e) := he
    rw [exec_answerCmd_atSlice hop, State.nearAnswer_queued hd hm hu hf hg]
    simp only [Claims.ran, State.nearLate_inTime he' hnear hin, State.nearAnswerIn_nearMiss he' hnear hpend, a]
  case ackAtHome => exact congrArg Host.Outcome.next (State.ackIn_request hd hm hq ht htxn hkind)
  case ackAtSlice => exact congrArg Host.Outcome.next (State.nearAck_ofGroup hd hm hq hf hg he)

/-! ### Sequencing (R205, R206) -/

/-- The message at the front of the home's order is taken when its SRC is the one named. -/
theorem exec_homeSequence_front {s : State} {n d q : Nat} {D : ImgDomain} {m : Msg} {u : FUnit} {r : List (Nat × Msg)}
    (hd : s.nodeDom n = some (d, D)) (hf : s.isFenced (.home n) = false) (hr : ((s.orderEdge n d D).home n).order = (q, m) :: r)
    (hu : (s.qOf n q).find? (fun u => decide (u.msg = m)) = some u) :
    exec (.homeSequence n m (s.srcOf d D u).1) s = .next (((((s.orderEdge n d D).modHome n (fun y => { y with order := r })).qTake n q m).seqOne
      { n := n, d := d, D := D, l := m.line } m (s.srcOf d D u).1).homeRun n) := by
  change execHomeSequence n m (s.srcOf d D u).1 s = _
  simp only [execHomeSequence, hd, hf, hr, hu, ne_eq, not_true_eq_false, or_self, Bool.false_eq_true, if_false]

/-! ### Activation (R207, R208) -/

/-- A directory read that meets no bad entry starts the transaction while fewer than 256 are active. -/
theorem exec_activation_clean {s : State} {n d : Nat} {D : ImgDomain} {l : LineAddr} {t : Tx} (hd : s.nodeDom n = some (d, D))
    (ht : s.txOf n l = some t) (hstart : t.started = false) (hf : s.isFenced (.home n) = false) (hroom : s.activeTxs n < 256) :
    exec (.activation { n := n } l) s = .next ((s.activate { n := n, d := d, D := D, l := l } t).homeRun n) := by
  have hclean : s.dirCheck n d (D.dset l) .clean = s := rfl
  change execActivation { n := n } l s = _
  simp only [execActivation, hd, ht, hstart, hf, Nat.not_le.2 hroom, hclean, Bool.false_eq_true, or_self, if_false]

/-- Settles O28: the message stands first in the order of its home; the transaction waits at a home with room for it. -/
theorem sequencingAndActivation : Obligations.SequencingAndActivation :=
  ⟨fun _ _ _ _ _ _ _ _ hd hf hr hu => exec_homeSequence_front hd hf hr hu,
    fun _ _ _ _ _ _ hd ht hstart hf hroom => exec_activation_clean hd ht hstart hf hroom⟩

end Sys2Proof.Machine

/-! ## Proofs of the family 07_latency_promise: requests that pass the admission test, and carried requests -/

namespace Sys2Proof.Machine

open Sys2Proof

/-! ### A request as its Gate takes it (R265, R281) -/

theorem LinkOnly.clk {c : Bool} {s t : State} (h : LinkOnly c s t) : t.clk = s.clk := by
  obtain ⟨⟨P, C, O, rfl⟩, -⟩ := h
  rfl

theorem LinkOnly.kt {c : Bool} {s t : State} (h : LinkOnly c s t) : t.kt = s.kt := by
  obtain ⟨⟨P, C, O, rfl⟩, -⟩ := h
  rfl

theorem Arrived.modGate {s t : State} (h : Arrived s t) (g : Nat) (f : Gate → Gate) : Arrived s (t.modGate g f) := by
  obtain ⟨⟨P, C, O, G, rfl⟩, hports⟩ := h
  exact ⟨⟨P, C, O, _, rfl⟩, hports⟩

/-- A request that its Gate has taken has arrived, and its admission edge is fixed. -/
theorem Claims.taken_arrived {s : State} {op : Op} {p d : Nat} {D : ImgDomain} {m : Msg} (hcov : s.covered p { m with op := op } = true) :
    Arrived s (Claims.taken s op p d D m).1 :=
  (State.landed_ingressEdge_arrived hcov _ _).modGate _ _

section Taken
variable {s : State} {op : Op} {p d : Nat} {D : ImgDomain} {m : Msg} (harr : Claims.arrives s op p d D m) (ho : s.open_ = true)
include harr ho

/-- A request at a port of an agent of this device goes to the test of R265. -/
theorem State.landed_request_admitNear (hrole : (s.iport p).role = .near ∨ (s.iport p).role = .plain) :
    (s.landed p { m with op := op }).request p { m with op := op }
      = (Claims.taken s op p d D m).1.admitNear (Claims.taken s op p d D m).2 := by
  obtain ⟨hd, -, -, hcov, hdr⟩ := harr
  have hl := State.landed_frame s p { m with op := op } hcov
  obtain ⟨hst, hdet, -⟩ := hl.2 p
  obtain hr | hr := hrole <;>
    simp only [State.request, Claims.taken, hl.portDom, hl.open_, hl.iport, hl.kt, hl.clk, hst, hdet, hd, ho, hdr, hr, Bool.not_true,
      Bool.false_eq_true, if_false, if_true, decide_true, Bool.true_or, Bool.or_true]

/-- A request at a PEER port is a carried request, and keeps its requester. -/
theorem State.landed_request_admitCarried (hrole : (s.iport p).role = .peer) :
    (s.landed p { m with op := op }).request p { m with op := op }
      = (Claims.taken s op p d D m).1.admitCarried (Claims.taken s op p d D m).2 := by
  obtain ⟨hd, -, -, hcov, hdr⟩ := harr
  have hl := State.landed_frame s p { m with op := op } hcov
  obtain ⟨hst, hdet, -⟩ := hl.2 p
  simp only [State.request, Claims.taken, hl.portDom, hl.open_, hl.iport, hl.kt, hl.clk, hst, hdet, hd, ho, hdr, hrole, Bool.not_true,
    Bool.false_eq_true, if_false, decide_false, Bool.or_self, reduceCtorEq]

end Taken

/-! ### The steps of the admission test (R265, R266, R276) -/

section Steps
variable {s : State} {a : Adm} {e : RngEnt} {t : Target}

/-- A request for a line homed on this device has no peer, and needs no carried credit. -/
theorem State.targetOf_local (hhome : e.home = a.D.device) :
    (s.targetOf a e).home = some (s.homeNode a.d a.D a.m.line) ∧ (s.targetOf a e).peer = none ∧ (s.targetOf a e).pport = none := by
  simp only [State.targetOf, hhome, decide_true, if_true, and_self]

/-- Mode, role, class, permission and range let a request for a line of this device pass on to the holds. -/
theorem State.admitNear_passes {r : Nat} (ho : s.open_ = true) (hst : s.stopped a.d = false) (hrole : roleAllows (s.iport a.p).role a.m.op = true)
    (hline : s.onLinePort a = true) (hcls : a.m.cls ≠ 3) (hperm : s.permFail a false = none) (hrng : s.rngOf a.d a.m.line = some (r, e))
    (hhome : e.home = a.D.device) : s.admitNear a = s.admitLocal a e := by
  simp only [State.admitNear, ho, hst, hrole, hline, hcls, hperm, hrng, hhome, ne_eq, not_true_eq_false, false_and, Bool.not_true,
    Bool.and_self, Bool.and_false, Bool.or_self, Bool.false_eq_true, if_false]

/-- A Gate with no hold and no retry-order entry puts nothing before the steps of room. -/
theorem State.admitLocal_fresh (hholds : (s.gate a.g).holds = []) (hretry : (s.gate a.g).retryOrd = []) :
    s.admitLocal a e = s.admitRoom a (s.targetOf a e) none := by
  simp [State.admitLocal, hholds, hretry]

/-- No drain, hand-over or time step, a token, and free watch and tail entries let a request for a home of this device pass on to the counted entries. -/
theorem State.admitRoom_passes (hpeer : t.peer = none) (hdrain : s.sliceDrains a.d a.D a.m.line = false) (hhand : s.homeHands a.d a.D a.m.line = false)
    (hstep : (s.dom a.d).stepPend = none) (hwatch : s.watchFull a.g = false)
    (htok : hasToken (refill (s.isvc a.d) 0 (s.gate a.g).tokens (s.gate a.g).tokenAt a.now) (clsNum t.cls) = true) :
    s.admitRoom a t none = s.admitEntries a t none := by
  simp only [State.admitRoom, hpeer, hdrain, hhand, hstep, hwatch, htok, Option.isSome_none, Bool.and_false, Bool.false_and, Bool.or_self,
    Bool.not_true, Bool.false_eq_true, if_false]

/-- With the counted entries free and no carried credit needed, T2 asks for room under its limit and the other classes for calendar units. -/
theorem State.admitEntries_free (hpport : t.pport = none)
    (hents : s.entsLack a.D a.g t.slice (t.home.getD 0) (entsFor a.m.op t.record t.home.isSome) = []) :
    s.admitEntries a t none = if t.cls = .t2 then
        (if (s.isvc a.d).t2Limit ≤ (s.gate a.g).t2 then s.retryNew a .rate (a.now + ns (s.isvc a.d).retryFloor) none else s.takeIn a t [] false)
      else s.admitCal a t := by
  have hcredit : s.noCredit a t = false := by simp only [State.noCredit, hpport]
  simp only [State.admitEntries, hents, hcredit, Bool.false_eq_true, if_false]

/-- A footprint whose every line finds its units at shift 0 is reserved. -/
theorem State.admitCal_shift0
    (hpick : (s.pickAll a.d a.D a.g (slotOf (s.kt a.d + fclks (a.adm - s.clk.fclk))) 0 (slotOf (s.kt a.d + fclks (a.adm - s.clk.fclk)) + 4096)
      (a.foot t (s.fenceLate a t))).2 = []) :
    s.admitCal a t = s.takeIn a t (s.pickAll a.d a.D a.g (slotOf (s.kt a.d + fclks (a.adm - s.clk.fclk))) 0
      (slotOf (s.kt a.d + fclks (a.adm - s.clk.fclk)) + 4096) (a.foot t (s.fenceLate a t))).1 false := by
  simp only [State.admitCal, hpick, List.isEmpty_nil, if_true]

end Steps

section Admissible
variable {s : State} {a : Adm} {e : Nat × RngEnt} (h : Claims.admissible s a e = true)
include h

theorem Claims.admissible_role : (s.iport a.p).role = .near ∨ (s.iport a.p).role = .plain := by
  simp only [Claims.admissible, Bool.and_eq_true, Bool.or_eq_true, decide_eq_true_eq, and_assoc] at h
  exact h.1

/-- An admissible request comes through the test to the step of its class. -/
theorem State.admitNear_admissible :
    s.admitNear a = if (s.targetOf a e.2).cls = .t2 then
        (if (s.isvc a.d).t2Limit ≤ (s.gate a.g).t2 then s.retryNew a .rate (a.now + ns (s.isvc a.d).retryFloor) none
          else s.takeIn a (s.targetOf a e.2) [] false)
      else s.admitCal a (s.targetOf a e.2) := by
  simp only [Claims.admissible, Bool.and_eq_true, Bool.not_eq_true', decide_eq_true_eq, List.isEmpty_iff, Option.isNone_iff_eq_none, and_assoc] at h
  obtain ⟨-, ho, hst, hrole, hline, hcls, hperm, hrng, hhome, hholds, hretry, hdrain, hhand, hstep, htok, hwatch, hents⟩ := h
  obtain ⟨-, hpeer, hpport⟩ := State.targetOf_local (s := s) hhome
  calc s.admitNear a
    _ = s.admitLocal a e.2 := State.admitNear_passes ho hst hrole hline hcls hperm hrng hhome
    _ = s.admitRoom a (s.targetOf a e.2) none := State.admitLocal_fresh hholds hretry
    _ = s.admitEntries a (s.targetOf a e.2) none := State.admitRoom_passes hpeer hdrain hhand hstep hwatch htok
    _ = _ := State.admitEntries_free hpport hents

end Admissible

/-- Settles O17: the request reaches its Gate's test as taken, passes every step before the calendars, and its class decides the last one. -/
theorem requestsAreAdmitted : Obligations.RequestsAreAdmitted := by
  intro s op p d D m e hop harr ho v a t hadm
  have ⟨_, hp, hsvc, hcov, _⟩ := harr
  have hrole : (s.iport p).role = .near ∨ (s.iport p).role = .plain := (Claims.taken_arrived hcov).iport ▸ Claims.admissible_role hadm
  have hexec : exec (Claims.requestCmd op p m) s = .next (v.admitNear a) := by
    rw [exec_requestCmd hop, State.requestAs_landed hp hsvc hcov, State.landed_request_admitNear harr ho hrole]
  rw [hexec, State.admitNear_admissible hadm]
  refine ⟨fun ht2 hlim => ?flat, fun ht hpick => ?calendar⟩
  case flat =>
    have hroom : ¬ (v.isvc a.d).t2Limit ≤ (v.gate a.g).t2 := Nat.not_le.2 hlim
    rw [if_pos ht2, if_neg hroom]
  case calendar =>
    rw [if_neg ht]
    exact congrArg Host.Outcome.next (State.admitCal_shift0 hpick)

/-! ### Carried requests (R270, R272) -/

/-- A carried request for this device that no step refuses is taken, and goes to the line's home. -/
theorem State.admitCarried_own {s : State} {a : Adm} (ho : s.open_ = true) (hst : s.stopped a.d = false) (hop : carriedOp a.m.op = true)
    (hcls : a.m.cls ≠ 3) (hin : (s.port a.p).carriedIn < (s.iport a.p).carried) (hnodl : a.m.nodl = false) (hdev : a.m.destDev = a.D.device)
    (hperm : s.permFail a false = none) (hhand : s.homeHands a.d a.D a.m.line = false) : s.admitCarried a = s.takeCarried a none := by
  simp only [State.admitCarried, ho, hst, hop, hcls, Nat.not_le.2 hin, hnodl, hdev, hperm, hhand, decide_true, Bool.not_true,
    Bool.or_self, Bool.false_eq_true, if_false, if_true]

/-- At a PEER port CARRIED_REQUEST brings its message to the Gate. -/
theorem exec_carriedRequest_landed {s : State} {p : Nat} {m : Msg} (hp : p < 256) (hrole : (s.iport p).role = .peer) (hsvc : s.inSvc p = true)
    (hcov : s.covered p m = true) : exec (.carriedRequest p m) s = .next ((s.landed p m).request p m) := by
  change execCarriedRequest p m s = _
  rw [execCarriedRequest, if_pos ⟨hrole, hp⟩, State.atPort_landed s p m _ hsvc hcov]

/-- The Gate of a PEER port takes a carried request with the requester that it names. -/
theorem Claims.taken_msg_peer {s : State} {op : Op} {p d : Nat} {D : ImgDomain} {m : Msg} (hrole : (s.iport p).role = .peer) :
    (Claims.taken s op p d D m).2.m = { m with op := op } := by
  simp only [Claims.taken, hrole, reduceCtorEq, decide_false, Bool.or_self, Bool.false_eq_true, if_false]

/-- Settles O19: the request reaches the carried test of its Gate as taken, and each step of that test lets it pass. -/
theorem carriedRequestsAreTaken : Obligations.CarriedRequestsAreTaken := by
  intro s p d D m harr hrole ho hop hcls hnodl hdev v a hin hst hperm hhand
  have ⟨_, hp, hsvc, hcov, _⟩ := harr
  have hland : (s.landed p m).request p m = v.admitCarried a := State.landed_request_admitCarried harr ho hrole
  have hm : a.m = m := Claims.taken_msg_peer hrole
  have ho' : v.open_ = true := (Claims.taken_arrived hcov).open_.trans ho
  rw [exec_carriedRequest_landed hp hrole hsvc hcov, hland]
  rw [← hm] at hop hcls hnodl hdev hhand
  exact congrArg Host.Outcome.next (State.admitCarried_own ho' hst hop hcls hin hnodl hdev hperm hhand)

end Sys2Proof.Machine

/-! ## Proofs of the family 09_hypha_fabric: the hop of a Full-mode unit -/

/-! ### The way around the two rings (R326) -/

namespace Sys2Proof

section RingDirections
variable {D : ImgDomain} {a b : Nat}

theorem ImgDomain.xDir_same (h : D.dx a b = 0) : D.xDir a b = none := if_pos h

theorem ImgDomain.xDir_rising (hpos : 0 < D.dx a b) (hhalf : 2 * D.dx a b ≤ shapeW D.nlog) : D.xDir a b = some .px := by
  rw [ImgDomain.xDir, if_neg hpos.ne', if_pos hhalf]

theorem ImgDomain.xDir_falling (h : shapeW D.nlog < 2 * D.dx a b) : D.xDir a b = some .mx := by
  have hne : D.dx a b ≠ 0 := by omega
  rw [ImgDomain.xDir, if_neg hne, if_neg h.not_ge]

theorem ImgDomain.yDir_rising (hpos : 0 < D.dy a b) (hhalf : 2 * D.dy a b ≤ shapeH D.nlog) : D.yDir a b = some .py := by
  rw [ImgDomain.yDir, if_neg hpos.ne', if_pos hhalf]

theorem ImgDomain.yDir_falling (h : shapeH D.nlog < 2 * D.dy a b) : D.yDir a b = some .my := by
  have hne : D.dy a b ≠ 0 := by omega
  rw [ImgDomain.yDir, if_neg hne, if_neg h.not_ge]

end RingDirections

end Sys2Proof

namespace Sys2Proof.Machine

open Sys2Proof

/-! ### The next hop (R326) -/

theorem State.fullHop_eject (s : State) (d : Nat) (D : ImgDomain) (u : FUnit) : s.fullHop d D u.dst u = .eject := by
  rw [State.fullHop, if_pos rfl]

section Unfenced
variable {s : State} {n d : Nat} {D : ImgDomain} {u : FUnit} (hf : s.flt.frtr = []) (hdet : u.det = 0) (hn : n ≠ u.dst)
include hf

theorem State.isFenced_router_of_nil (m : Nat) : s.isFenced (.router m) = false := by
  simp only [State.isFenced, hf, List.not_mem_nil, decide_false]

include hdet hn

/-- With no router fenced the X direction comes first, the Y direction only where there is none, and no hop is a detour. -/
theorem State.fullHop_unfenced : s.fullHop d D n u = ((D.xDir n u.dst).or (D.yDir n u.dst)).elim .eject (.go · 0) := by
  have hbad := State.isFenced_router_of_nil hf
  cases hx : D.xDir n u.dst with
  | some x => simp [State.fullHop, hbad, hdet, hn, hx]
  | none => cases hy : D.yDir n u.dst <;> simp [State.fullHop, hbad, hdet, hn, hx, hy]

theorem State.fullHop_x {x : Dir} (hx : D.xDir n u.dst = some x) : s.fullHop d D n u = .go x 0 := by
  rw [State.fullHop_unfenced hf hdet hn, hx, Option.some_or, Option.elim_some]

theorem State.fullHop_y {y : Dir} (hx : D.dx n u.dst = 0) (hy : D.yDir n u.dst = some y) : s.fullHop d D n u = .go y 0 := by
  rw [State.fullHop_unfenced hf hdet hn, ImgDomain.xDir_same hx, Option.none_or, hy, Option.elim_some]

end Unfenced

/-- Settles O57: without fenced routers the hop is the X direction, or else the Y direction, and each of these is the rising one up to half of its ring. -/
theorem fullModeRoutes : Obligations.FullModeRoutes := by
  intro s d n D u hf hdet W H dx dy
  refine ⟨?atDest, ?xRising, ?xFalling, ?yRising, ?yFalling⟩
  case atDest =>
    rintro rfl
    exact s.fullHop_eject d D u
  case xRising => exact fun hn hpos hhalf => State.fullHop_x hf hdet hn (ImgDomain.xDir_rising hpos hhalf)
  case xFalling => exact fun hn hfar => State.fullHop_x hf hdet hn (ImgDomain.xDir_falling hfar)
  case yRising => exact fun hn hx hpos hhalf => State.fullHop_y hf hdet hn hx (ImgDomain.yDir_rising hpos hhalf)
  case yFalling => exact fun hn hx hfar => State.fullHop_y hf hdet hn hx (ImgDomain.yDir_falling hfar)

end Sys2Proof.Machine

/-! ## Proofs of the family 10_ports_joining: training, discovery, time, replay and encryption, leaving service -/

namespace Sys2Proof.Machine

open Sys2Proof

/-! ### What the link layer leaves unchanged (R347, R348, R351, R363) -/

theorem LinkOnly.routesOf {c : Bool} {s t : State} (h : LinkOnly c s t) : t.routesOf = s.routesOf := by
  obtain ⟨⟨P, C, O, rfl⟩, -⟩ := h
  rfl

theorem LinkOnly.ihomes {c : Bool} {s t : State} (h : LinkOnly c s t) : t.ihomes = s.ihomes := by
  obtain ⟨⟨P, C, O, rfl⟩, -⟩ := h
  rfl

theorem LinkOnly.portDev {c : Bool} {s t : State} (h : LinkOnly c s t) : t.portDev = s.portDev := by
  obtain ⟨⟨P, C, O, rfl⟩, -⟩ := h
  rfl

theorem LinkOnly.inSvc {c : Bool} {s t : State} (h : LinkOnly c s t) : t.inSvc = s.inSvc := by
  funext q
  obtain ⟨hstate, -⟩ := h.2 q
  simp only [State.inSvc, hstate]

/-- R376: of a port only FORCE and what is in service decide whether a drain is refused. -/
theorem LinkOnly.drainInUse {c : Bool} {s t : State} {p : Nat} (h : LinkOnly c s t) (hforce : (t.port p).force = (s.port p).force) :
    t.drainInUse p = s.drainInUse p := by
  simp only [State.drainInUse, h.portDom, h.iport, h.ihomes, h.routesOf, h.inSvc, hforce]

/-- What an update of a port keeps of every port, it keeps of the one it reads. -/
theorem State.modPort_port_read {α : Type} {g : Port → α} {f : Port → Port} {s : State} {p q : Nat} (hf : ∀ x, g (f x) = g x) :
    g ((s.modPort p f).port q) = g (s.port q) := by
  rw [State.modPort_port]
  split
  · next h => rw [hf, h]
  · rfl

/-- A reading of a port to which its lanes do not matter. -/
def LaneFree {α : Type} (g : Port → α) : Prop := ∀ x k b, g { x with txFlits := k, laneBits := b } = g x

section LaneFree
variable {α : Type} {g : Port → α} (hg : LaneFree g) (s : State) (p q : Nat)
include hg

theorem LaneFree.toLane (seq : BitVec 16) (f : BitVec 672) : g ((s.toLane p seq f).port q) = g (s.port q) := by
  unfold State.toLane
  dsimp only
  split
  · split <;> simp only [State.emit_port_of] <;> exact State.modPort_port_read fun x => hg x _ _
  · rw [State.emit_port_of]
    exact State.modPort_port_read fun x => hg x _ _

theorem LaneFree.linkFlit (nak : Bool) (seq : BitVec 16) : g ((s.linkFlit p nak seq).port q) = g (s.port q) := by
  rw [State.linkFlit, State.emit_port_of, hg.toLane, State.bump_port_of]

theorem LaneFree.resendAll (us : List UFlit) : g ((s.resendAll p us).port q) = g (s.port q) := by
  rw [State.resendAll, State.bumpN_port_of]
  induction us generalizing s with
  | nil => rfl
  | cons u us ih => rw [List.foldl_cons, ih, State.emit_port_of, hg.toLane]

end LaneFree

@[simp] theorem State.gotFlits_force (s : State) (p h d m q : Nat) : ((s.gotFlits p h d m).port q).force = (s.port q).force := by
  have hg : LaneFree Port.force := fun _ _ _ => rfl
  unfold State.gotFlits
  dsimp only
  split <;> simp only [hg.linkFlit, State.bumpN_port_of] <;> exact State.modPort_port_read (g := Port.force) fun _ => rfl

/-- R376: flits that arrive do not change whether a drain is refused. -/
@[simp] theorem State.gotFlits_drainInUse (s : State) (p h d m q : Nat) : (s.gotFlits p h d m).drainInUse q = s.drainInUse q :=
  (LinkOnly.gotFlits false s p h d m).drainInUse (s.gotFlits_force p h d m q)

@[simp] theorem State.modPort_iport (s : State) (p : Nat) (f : Port → Port) : (s.modPort p f).iport = s.iport := rfl

@[simp] theorem State.gotFlits_iport (s : State) (p h d m : Nat) : (s.gotFlits p h d m).iport = s.iport := (LinkOnly.gotFlits false s p h d m).iport
@[simp] theorem State.gotFlits_portDom (s : State) (p h d m : Nat) : (s.gotFlits p h d m).portDom = s.portDom := (LinkOnly.gotFlits false s p h d m).portDom
@[simp] theorem State.gotFlits_portDev (s : State) (p h d m : Nat) : (s.gotFlits p h d m).portDev = s.portDev := (LinkOnly.gotFlits false s p h d m).portDev
@[simp] theorem State.gotFlits_clk (s : State) (p h d m : Nat) : (s.gotFlits p h d m).clk = s.clk := (LinkOnly.gotFlits false s p h d m).clk

@[simp] theorem State.fastRetrain_lnakAt (s : State) (p q : Nat) : ((s.fastRetrain p).port q).lnakAt = (s.port q).lnakAt := by
  unfold State.fastRetrain
  split
  · exact State.modPort_port_read (g := Port.lnakAt) fun _ => rfl
  · rfl

/-- Sending again leaves the times of the LNAKs. -/
@[simp] theorem State.resendFrom_lnakAt (s : State) (p q : Nat) (seq : BitVec 16) : ((s.resendFrom p seq).port q).lnakAt = (s.port q).lnakAt := by
  have hg : LaneFree Port.lnakAt := fun _ _ _ => rfl
  have hsent : ∀ f us, (∀ x, (f x).lnakAt = x.lnakAt) → (((s.modPort p f).resendAll p us).port q).lnakAt = (s.port q).lnakAt := fun f us hf =>
    (hg.resendAll _ p q us).trans (State.modPort_port_read (g := Port.lnakAt) hf)
  unfold State.resendFrom
  dsimp only
  split
  · exact (State.fastRetrain_lnakAt _ p q).trans (hsent _ _ fun _ => rfl)
  · exact hsent _ _ fun _ => rfl

/-! ### Training (R361 to R363) -/

/-- R362: lanes that pass EQ, with LOCK, a skew of at most 64 ns and FLIT, bring the port to discovery at the width that they allow. -/
theorem State.trainPort_toFind {s : State} {p k : Nat} {x : TrainResult} (hwidth : trainWidth (s.iport p) x.eqOk = some k) (hlock : x.lockOk = true)
    (hskew : x.skew ≤ 64) (hflit : x.flitOk = true) : s.trainPort p x = (s.modPort p (fun y => { y with eqPass := x.eqOk })).toFind p k := by
  have hwidth' : trainWidth ((s.modPort p (fun y => { y with eqPass := x.eqOk })).iport p) x.eqOk = some k := hwidth
  simp only [State.trainPort, hwidth', hlock, hskew, hflit, decide_true, Bool.and_self, if_true]

/-- R363: a fast retrain that ends well in time returns a port that leaves for no other reason to service, and sends again what was not acknowledged. -/
theorem State.retrainEnd_service {s : State} {p : Nat} (hdrain : (s.port p).drainRun = false) (hasked : (s.port p).asked = false)
    (htime : s.clk.fclk ≤ (s.port p).retrainAt + 48000) :
    let u := (s.modPort p (fun x => { x with retrained := true, retrainRun := false, train := .idle, state := .service })).bump (cPort p 17)
    (u.winHit 11 (.port p)).2 = false →
    let v := (u.winHit 11 (.port p)).1
    s.retrainEnd p true = (v.modPort p (fun x => { x with
      unacked := x.unacked.map (fun f => { f with times := 1 }), lnakAt := [], goodAt := v.clk.fclk })).resendAll p (v.port p).unacked := by
  intro u hwin v
  have hmod : s.modPort p (fun x => { x with
      retrained := true, retrainRun := false, train := .idle, state := if x.drainRun ∨ x.asked then .draining else .service })
      = s.modPort p (fun x => { x with retrained := true, retrainRun := false, train := .idle, state := .service }) :=
    State.modPort_congr (by simp [hdrain, hasked])
  have hin : decide (s.clk.fclk ≤ (s.port p).retrainAt + 48000) = true := decide_eq_true htime
  simp only [State.retrainEnd, hmod, hin, u, v] at hwin ⊢
  simp only [hwin, Bool.and_self, Bool.false_eq_true, if_false, if_true]

/-- Settles O37: each command of training meets its condition and its budget. -/
theorem portTraining : Obligations.PortTraining := by
  refine ⟨fun s p _ hpoll hmay => ?detect, fun s p k x _ hst hbudget hwidth hlock hskew hflit => ?train, fun s p x _ hst hred hout => ?budget,
    fun s p _ hst hdue => ?failed, fun s p _ hst => ?retrain, fun s p _ hst => ?noRetrain, fun s p _ hst hdrain hasked htime => ?retrained⟩
  case detect =>
    change execDetect p true s = _
    simp only [execDetect, hpoll, hmay, Bool.and_self, if_true]
  case train =>
    change execTrain p x s = _
    rw [execTrain, if_pos hst, if_pos hbudget, State.trainPort_toFind hwidth hlock hskew hflit]
  case budget =>
    change execTrainingBudget p x s = _
    simp only [execTrainingBudget, hst, hout, hred, Bool.false_and, Bool.false_eq_true, and_self, if_true, if_false]
  case failed =>
    change execFailedReturn p s = _
    rw [execFailedReturn, if_pos ⟨hst, hdue⟩]
  case retrain =>
    change execRetrain p s = _
    rw [execRetrain, State.doRetrain, if_pos hst, State.fastRetrain, if_pos (.inl hst)]
  case noRetrain =>
    change execRetrain p s = _
    rw [execRetrain, State.doRetrain, if_neg hst]
  case retrained =>
    intro u hwin v
    change execFastRetrainEnd p true s = _
    rw [execFastRetrainEnd, if_pos hst, State.retrainEnd_service hdrain hasked htime hwin]

/-! ### Discovery (R364 to R368, R379) -/

/-- R366: a DISC_ID that passes is answered with DISC_CFG, one that fails is rejected with the reason that the checks give. -/
theorem exec_discId {s : State} {p : Nat} (hfind : (s.port p).state = .find) (hstage : (s.port p).stage = .none) (x : DiscId) :
    let u := (s.gotFlits p 0 0 1).modPort p (fun y => { y with
      pkind := x.kind, plink := x.linkver, linkver := 0x10#8 + BitVec.ofNat 8 (min 1 (x.linkver.toNat % 16)), puid := x.uid, pcaps := x.caps
      pagent := if (s.iport p).role = .peer then x.agent else epAgent (portEp (s.portDev p) p) })
    exec (.discId p x) s = .next (if u.idChecks p x ≠ 0 then u.reject p (u.idChecks p x)
      else ((u.modPort p (fun y => { y with stage := .id })).emit (.discCfg p (u.ownCfg p))).mgmtFlit p 2 (cfgBytes (u.ownCfg p))) := by
  intro u
  change execDiscId p x s = _
  rw [execDiscId, if_pos ⟨hfind, hstage⟩]
  simp only [State.discIdIn, State.gotFlits_iport, State.gotFlits_portDev, decide_eq_true_eq, u]

/-- R366: without keys to exchange a DISC_CFG that passes ends the checks, and one that fails is rejected with the reason that they give. -/
theorem exec_discCfg_clear {s : State} {p : Nat} (hfind : (s.port p).state = .find) (hstage : (s.port p).stage = .id)
    (henc : (s.iport p).encReq = false) (x : DiscCfg) :
    let u := (s.gotFlits p 0 0 1).modPort p (fun y => { y with
      padv := (List.range 5).map (fun v => x.cred.getD v 0), pcarried := if (s.iport p).role = .peer then x.carried else 0
      pcontract := x.contract, pdurable := x.durable, psync := x.timeSync, prootIdx := x.rootIdx, prootHops := x.rootHops })
    exec (.discCfg p x) s = .next (if u.cfgChecks p x ≠ 0 then u.reject p (u.cfgChecks p x) else u.modPort p (fun y => { y with stage := .cfg })) := by
  intro u
  change execDiscCfg p x s = _
  rw [execDiscCfg, if_pos ⟨hfind, hstage⟩]
  simp only [State.discCfgIn, State.modPort_iport, State.gotFlits_iport, henc, Bool.false_eq_true, if_false, u]

/-- R379: a share that authenticates makes the link's keys, and one that does not is rejected with KEYX. -/
theorem exec_discKeyx {s : State} {p : Nat} (hfind : (s.port p).state = .find) (hstage : (s.port p).stage = .cfg) (share : BitVec 768)
    (sig : BitVec 4096) (root : BitVec 512) :
    let u := if (s.iport p).encReq = true then s.gotFlits p 0 0 2 else (s.gotFlits p 0 0 2).ownShare p
    let k := u.keyxKeys p (u.port p).encPriv share
    exec (.discKeyx p share sig root) s = .next (if s.keyxAuth p share sig root = true then u.modPort p (fun x => { x with
        stage := .keyx, keyxOk := true, enc := x.pcaps.getLsbD 1, encKeyTx := k.1, encSaltTx := k.2.1, encKeyRx := k.2.2.1
        encSaltRx := k.2.2.2, encBlkTx := 0, encBlkRx := 0, nextTx := none, nextRx := none })
      else s.reject p 0xA) := by
  change execDiscKeyx p share sig root s = _
  rw [execDiscKeyx, if_pos ⟨hfind, hstage⟩]
  simp only [State.gotFlits_iport]

/-- R368: a port that is no PEER enters service when discovery ends in time. -/
theorem exec_discDone_notPeer {s : State} {p : Nat} {e : Nat × ImgDomain} (hfind : (s.port p).state = .find) (hstage : (s.port p).stage = .cfg)
    (hd : s.portDom p = some e) (hrole : (s.iport p).role ≠ .peer) (henc : (s.iport p).encReq = false)
    (htime : s.clk.aclk < (s.port p).flitAt + s.discLimit p) (o : Int) :
    exec (.discDone p o) s = .next (((s.gotFlits p 0 0 1).mgmt p 0x04 0).enterService p) := by
  have hfin : (s.gotFlits p 0 0 1).discFinish p o = (s.gotFlits p 0 0 1).doneDisc p := by
    rw [State.discFinish, State.gotFlits_portDom, hd]
    exact if_pos (.inl (by rwa [State.gotFlits_iport]))
  change execDiscDone p o s = _
  simp only [execDiscDone]
  rw [if_pos ⟨hfind, .inr ⟨hstage, henc⟩⟩, if_neg htime.not_ge, hfin, State.doneDisc]

/-- Settles O38: each message of discovery comes at its stage, and the end of discovery and its timeout go by the time limit. -/
theorem portDiscovery : Obligations.PortDiscovery := by
  intro s p _ hfind g
  refine ⟨fun x hstage => ?id, fun x hstage henc => ?cfg, fun share sig root hstage => exec_discKeyx hfind hstage share sig root,
    fun e o hd hrole hstage henc htime => exec_discDone_notPeer hfind hstage hd hrole henc htime o, fun r => ?rejected, fun hout => ?timeout⟩
  case id =>
    have hexec := exec_discId hfind hstage x
    exact ⟨fun hpass => hexec.trans (congrArg Host.Outcome.next (if_neg (not_not_intro hpass))),
      fun hfail => hexec.trans (congrArg Host.Outcome.next (if_pos hfail))⟩
  case cfg =>
    have hexec := exec_discCfg_clear hfind hstage henc x
    exact ⟨fun hpass => hexec.trans (congrArg Host.Outcome.next (if_neg (not_not_intro hpass))),
      fun hfail => hexec.trans (congrArg Host.Outcome.next (if_pos hfail))⟩
  case rejected =>
    change execDiscRej p r s = _
    rw [execDiscRej, if_pos hfind]
  case timeout =>
    change execDiscTimeout p s = _
    rw [execDiscTimeout, if_pos ⟨hfind, hout⟩]

/-! ### Time steps, TSYNC exchanges and loss of SYNC (R369 to R371) -/

/-- A fold whose steps all leave the start value ends in it. -/
theorem foldl_eq_self {α β : Type} {l : List β} {f : α → β → α} {a : α} (h : ∀ b ∈ l, f a b = a) : l.foldl f a = a := by
  induction l with
  | nil => rfl
  | cons b l ih => rw [List.foldl_cons, h b (.head _), ih fun c hc => h c (.tail _ hc)]

/-- R369: with the watch tables empty and no port whose DISC_DONE waits, the step moves the domain's time and nothing else. -/
theorem State.timeStepIn_noneWaits {s : State} {d : Nat} {D : ImgDomain} {off : Int} (hpend : (s.dom d).stepPend = some off)
    (hwatch : s.watchesEmpty D = true)
    (hnone : s.iports.all (fun e => !(decide ((s.port e.1).state = .find) && decide ((s.port e.1).stage = .done) && D.has (portNode e.1))) = true) :
    s.timeStepIn d D = s.modDom d (fun x => { x with ktime := (Int.ofNat x.ktime + off).toNat, stepPend := none, sync := false }) := by
  simp only [State.timeStepIn, hpend, hwatch, if_true]
  refine foldl_eq_self fun e he => ?_
  have hno := List.all_eq_true.1 hnone e he
  rw [Bool.not_eq_true'] at hno
  rw [State.modDom_port_of, hno, if_neg Bool.false_ne_true]

/-- Settles O39: each exchange belongs to a PEER port in service; the step waits for the watch tables, the loss for the 100 µs. -/
theorem timeExchange : Obligations.TimeExchange := by
  refine ⟨fun s d D off hd hpend hwatch hnone => ?step, fun s p t1 t2 t3 t4 idx hops sy hup => ⟨fun hdue => ?exchange, ?request, fun hout => ?response⟩,
    fun s d D hd hover hroot => ?lost⟩
  case step =>
    change execTimeStep d s = _
    simp only [execTimeStep, hd, State.timeStepIn_noneWaits hpend hwatch hnone]
  case exchange =>
    change execTsyncExchange p t1 s = _
    rw [execTsyncExchange, if_pos (by simpa [hup] using hdue)]
  case request =>
    change execTsyncReq p t1 t2 t3 s = _
    rw [execTsyncReq, if_pos hup]
  case response =>
    change execTsyncRsp p t1 t2 t3 t4 sy idx hops s = _
    rw [execTsyncRsp, if_pos (by simp [hup, hout])]
  case lost =>
    change execSyncLost d s = _
    simp only [execSyncLost, hd, hover, hroot, Bool.not_false, Bool.and_self, if_true]

/-! ### Replay (R351, R356, R358, R363) -/

/-- R363: an LNAK with fewer than 63 before it sends again, and starts no fast retrain by its number. -/
theorem exec_lnak_few {s : State} {p : Nat} (hsvc : s.inSvc p = true) (hfew : (s.port p).lnakAt.length < 63) (q : BitVec 16) :
    exec (.lnak p q) s = .next ((((s.modPort p (fun x => { x with
      lnakAt := (s.clk.aclk :: x.lnakAt).take 64, goodAt := s.clk.fclk })).bump (cPort p 15)).bump (cPort p 9)).resendFrom p q) := by
  have hlen : ((s.clk.aclk :: (s.port p).lnakAt).take 64).length ≠ 64 := by
    rw [List.length_take, List.length_cons]
    omega
  change execLnak p q s = _
  simp only [execLnak, hsvc, Bool.true_or, State.resendFrom_lnakAt, State.bump_port_of, State.modPort_port_self, hlen, false_and, if_true, if_false]

section LinkCheck
variable {s : State} {p : Nat} (hst : (s.port p).state = .service) (htrain : (s.port p).train = .idle) {q : BitVec 16} {f : BitVec 672}
include hst htrain

/-- R351: a flit that fails the link check asks once for the flit that is due. -/
theorem exec_linkCheckFail_fails (hchk : linkCheck (s.port p) q f 0 = false) :
    let t := if f.extractLsb' 0 16 = flitCrc f then s else s.bump (cPort p 14)
    exec (.linkCheckFail p { seq := q, flit := f }) s = .next (if (s.port p).lnakSent = true then t
      else (t.modPort p (fun y => { y with lnakSent := true })).linkFlit p true (s.port p).rxSeq) := by
  change execLinkCheckFail p { seq := q, flit := f } s = _
  simp only [execLinkCheckFail, hst, htrain, hchk, reduceCtorEq, or_self, Bool.false_eq_true, if_false, if_true, Nat.zero_le, true_and, ne_eq, ite_not]

/-- R351, R358: an IDLE flit that passes returns its credits and is counted. -/
theorem exec_linkCheckFail_idle (hchk : linkCheck (s.port p) q f 0 = true) (hft : flitFt f = 0) :
    exec (.linkCheckFail p { seq := q, flit := f }) s = .next
      ((((s.gotReturn p f).gotFlits p 0 0 0).modPort p (fun y => { y with rxSeq := y.rxSeq + 1 })).bump (cPort p 6)) := by
  change execLinkCheckFail p { seq := q, flit := f } s = _
  simp only [execLinkCheckFail, hst, htrain, hchk, hft, ftIdle, reduceCtorEq, or_self, if_false, if_true]

end LinkCheck

/-! ### Encrypted blocks and new keys (R378, R380, R381) -/

/-- Settles O40: each message comes to a port in service, and the flit, the tag and the share pass or fail their own check. -/
theorem replayAndEncryption : Obligations.ReplayAndEncryption := by
  refine ⟨fun s p q hsvc => ?lack, fun s p q _ hsvc hfew => exec_lnak_few hsvc hfew q,
    fun s p q f hst htrain => ⟨exec_linkCheckFail_fails hst htrain, exec_linkCheckFail_idle hst htrain⟩, fun s p fl b hsvc henc => ?tag,
    fun s p share sig root hsvc henc => ?newKeys⟩
  case lack =>
    change execLack p q s = _
    rw [execLack, if_pos (by simp [hsvc])]
  case tag =>
    change execTag p _ fl _ b s = _
    simp only [execTag, hsvc, henc, BitVec.ofNat_toNat, BitVec.setWidth_eq, Bool.and_self, and_self, if_true]
  case newKeys =>
    change execLinkKeyExchange p share sig root s = _
    simp only [execLinkKeyExchange, hsvc, henc, Bool.and_self, Bool.true_and]

/-! ### Leaving service (R373 to R377) -/

/-- R376: a request of the partner that nothing forbids is acknowledged, and the work of the port's role runs. -/
theorem exec_detachReq_service {s : State} {p : Nat} (hst : (s.port p).state = .service) (hfree : s.drainInUse p = false) :
    exec (.detachReq p) s = .next ((((s.gotFlits p 0 0 1).modPort p (fun x => { x with
      state := .draining, detach := .acked, detachAt := s.clk.aclk, asked := true })).mgmt p 0x31 0).detachWork p) := by
  change execDetachReq p s = _
  simp only [execDetachReq, hst, State.gotFlits_drainInUse, State.gotFlits_clk, hfree, Bool.false_eq_true, if_true, if_false]

/-- Settles O41: each command of leaving meets the state of the port and the time that it waits for. -/
theorem portsLeaveService : Obligations.PortsLeaveService := by
  refine ⟨fun s p _ hrun hst => ⟨fun hfree => ⟨?drain, exec_detachReq_service hst hfree⟩, fun huse => ?inUse⟩,
    fun s p hst => ⟨fun hdet => ?ack, fun hdet hquiet => ?done, fun hout => ?fallback, fun hdead => ?dead⟩, fun s p hst => ?isolated⟩
  case drain =>
    change execPortDrain p s = _
    simp only [execPortDrain, State.doPortDrain, hrun, hfree, hst, Bool.false_eq_true, if_false, if_true]
  case inUse =>
    change execPortDrain p s = _
    simp only [execPortDrain, State.doPortDrain, hrun, huse, Bool.false_eq_true, if_false, if_true]
  case ack =>
    change execDetachAck p s = _
    rw [execDetachAck, if_pos ⟨hst, hdet⟩]
  case done =>
    change execDetachDone p s = _
    rw [execDetachDone, if_pos ⟨hst, hdet, hquiet⟩]
  case fallback =>
    change execDrainFallback p s = _
    rw [execDrainFallback, if_pos ⟨hst, hout⟩]
  case dead =>
    change execPartnerDead p s = _
    rw [execPartnerDead, if_pos ⟨.inr (.inl hst), hdead⟩]
  case isolated =>
    change execIsolationEnd p s = _
    rw [execIsolationEnd, if_pos hst, State.isolEnd]

end Sys2Proof.Machine


/-! ## Proofs of the family 11_protection: mode commands, commits and keys, range invalidations and Crozier jobs, passes at the homes, the test port -/

namespace Sys2Proof.Machine

open Sys2Proof

/-! ### Mode changes and ports that enter service (R368, R510) -/

/-- An interrupt changes the endpoint's vectors and what has left, and nothing else. -/
theorem State.irq_frame (s : State) (fn vec : Nat) : ∃ H O, s.irq fn vec = { s with host := H, out := O } := by
  unfold State.irq
  dsimp only
  split
  · exact ⟨_, _, rfl⟩
  · split <;> exact ⟨_, _, rfl⟩

/-- Of the start sequencer a mode change writes the mode alone. -/
theorem State.setMode_start (s : State) (m : Mode) (cause : Nat) : (s.setMode m cause).start = { s.start with mode := m } := by
  unfold State.setMode
  split
  next hm => rw [← hm]
  · dsimp only
    rw [foldS_start _ (fun _ _ => State.irq_start _ _ _), State.irq_start]
    split <;> split <;> simp

/-- A fold of operations that leave a reading alone leaves it alone. -/
theorem foldl_reading {β γ : Type} {g : State → γ} {f : State → β → State} (hf : ∀ s x, g (f s x) = g s) (l : List β) (s : State) :
    g (l.foldl f s) = g s := by
  induction l generalizing s with
  | nil => rfl
  | cons x l ih => exact (ih _).trans (hf s x)

theorem LinkOnly.start {c : Bool} {s t : State} (h : LinkOnly c s t) : t.start = s.start := by
  obtain ⟨⟨P, C, O, rfl⟩, _⟩ := h
  rfl

@[simp] theorem State.toLane_start (s : State) (p : Nat) (seq : BitVec 16) (f : BitVec 672) : (s.toLane p seq f).start = s.start :=
  ((LinkOnly.refl false s).toLane p seq f).start

@[simp] theorem State.sendFlit_start (s : State) (p ft nslot : Nat) (payload : BitVec 640) : (s.sendFlit p ft nslot payload).start = s.start := by
  unfold State.sendFlit
  simp only [State.toLane_start, State.bump_start, State.modPort_start]

@[simp] theorem State.closeBlock_start (s : State) (p : Nat) : (s.closeBlock p).start = s.start := by
  unfold State.closeBlock
  dsimp only
  split
  · rfl
  · simp

@[simp] theorem State.mgmt_start (s : State) (p mtype arg : Nat) : (s.mgmt p mtype arg).start = s.start := by
  unfold State.mgmt State.mgmtFlit State.blockFlit
  dsimp only
  rw [State.closeBlock_start]
  split <;> simp

@[simp] theorem State.groupChg_start (s : State) (d g : Nat) : (s.groupChg d g).start = s.start :=
  foldl_reading (fun s p => by split <;> simp) _ s

@[simp] theorem State.setWidth_start (s : State) (d p : Nat) : (s.setWidth d p).start = s.start := by
  unfold State.setWidth
  dsimp only
  split
  · rfl
  · split
    · rw [foldl_reading (g := State.start) (fun s n => s.modGate_start n _), State.modPort_start]
    · rfl

@[simp] theorem State.enterService_start (s : State) (p : Nat) : (s.enterService p).start = s.start := by
  unfold State.enterService State.laneIrq
  dsimp only
  split
  · rfl
  · split
    · rfl
    · rw [State.irq_start]
      split <;> split <;> simp

/-- R368: the ports that enter service leave the start sequencer alone. -/
@[simp] theorem State.standbyIn_start (s : State) : s.standbyIn.start = s.start :=
  foldl_reading (fun s e => by split <;> simp) _ s

@[simp] theorem State.relock_start (s : State) : s.relock.start = s.start := by
  unfold State.relock
  split <;> rfl

/-! ### Mode commands (R504, R505, R510, R511, R514) -/

theorem State.open_iff {s : State} : s.open_ = true ↔ s.start.mode = .serving ∨ s.start.mode = .degraded := by
  simp [State.open_]

/-- Each mode command meets a mode that allows it; FORCE_PAIR then runs the start on from IMAGE. -/
theorem modeCommandsPart : Claims.ModeCommandsPart := by
  refine ⟨fun s hm => ?drain, fun s hm => ?maint, fun s hm himg => ?resume, fun s hm hkg => ?pairGood, fun s hm hf ht hkg => ?knownGood,
    fun s hm => ?forget, fun x s hm hw => ⟨_, ?force, State.runImage_endsStart _ x, rfl⟩⟩
  case drain =>
    have hne : s.start.mode ≠ .draining := by rcases hm with h | h <;> simp [h]
    change Host.Outcome.next s.doDrain = _
    rw [State.doDrain, if_neg hne, if_pos (State.open_iff.2 hm)]
  case maint =>
    change Host.Outcome.next s.doMaint = _
    rw [State.doMaint, if_pos hm]
  case resume =>
    change Host.Outcome.next s.doResume = _
    rw [State.doResume, if_pos hm, if_pos himg, State.servingMode]
  case pairGood =>
    change Host.Outcome.next s.doPairGood = _
    rw [State.doPairGood, if_pos (State.open_iff.2 hm), State.knowGood, hkg, if_neg Bool.false_ne_true]
  case knownGood =>
    change execKnownGood s = _
    rw [execKnownGood, if_pos (by simp [State.open_iff.2 hm, hf, ht]), State.knowGood, hkg, if_neg Bool.false_ne_true]
  case forget =>
    change Host.Outcome.next s.doFenceForget = _
    rw [State.doFenceForget, if_pos hm]
  case force =>
    change Host.Outcome.next (s.doForcePair x) = _
    rw [State.doForcePair, if_pos ⟨hm, hw⟩]
    rfl

/-! ### The end of Draining (R413, R510) -/

/-- A quiet node has no dirty line in a slice that is not fenced. -/
theorem State.dirtySlots_of_nodeQuiet {s : State} {n : Nat} {D : ImgDomain} (hq : s.nodeQuiet n D = true) (hf : s.isFenced (.slice n) = false) :
    s.dirtySlots n D = [] := by
  simp only [State.nodeQuiet, hf, Bool.false_and, Bool.false_or, Bool.and_eq_true, List.isEmpty_iff] at hq
  obtain ⟨⟨_, _, hdirty⟩, _⟩ := hq
  exact hdirty

/-- Without a dirty line there is nothing to write back. -/
theorem State.writeBacks_of_clean {s : State} {n d : Nat} {D : ImgDomain} (h : s.dirtySlots n D = []) : s.writeBacks n d D = s := by
  rw [State.writeBacks, h]
  rfl

/-- A module that is quiet owes no write-back. -/
theorem State.foldl_writeBacks_of_allQuiet {s : State} (hq : s.allQuiet = true) :
    s.imgDoms.foldl (fun s e => if s.stopped e.1 then s else
      e.2.nodes.foldl (fun s n => if s.isFenced (.slice n) then s else s.writeBacks n e.1 e.2) s) s = s := by
  refine foldl_eq_self fun e he => ?_
  have hdom := List.all_eq_true.1 hq e he
  split
  · rfl
  next hst =>
    rw [Bool.not_eq_true] at hst
    rw [hst, Bool.false_or, List.all_eq_true] at hdom
    refine foldl_eq_self fun n hn => ?_
    split
    · rfl
    next hf => exact State.writeBacks_of_clean (State.dirtySlots_of_nodeQuiet (hdom n hn) (Bool.not_eq_true _ ▸ hf))

/-- R413, R510: without a write-back due the flush runs at once, and Draining ends in Quiescent. -/
theorem exec_quiescent_allQuiet {s : State} (hm : s.start.mode = .draining) (hq : s.allQuiet = true) (hb : s.protBusy = false) :
    let u := (s.persistFlush true).shipWrites (fun o => o = .memWrDur)
    exec (.quiescent true) s = .next
      (((({ u with start := { u.start with drainRun := false } }).setMode .quiescent 1).relock).standbyIn.cmdst 0) := by
  intro u
  change execQuiescent true s = _
  rw [execQuiescent, if_neg (not_not.2 hm)]
  dsimp only
  rw [State.foldl_writeBacks_of_allQuiet hq, hq, hb, if_neg (by simp), if_pos rfl]

/-- The end of Draining leaves the start sequencer in Quiescent, with no drain running and CMDST OK. -/
theorem drainingEndsInQuiescent : Claims.DrainingEndsInQuiescent := by
  intro s hm hq hb
  refine ⟨_, exec_quiescent_allQuiet hm hq hb, ?_, ?_, rfl⟩ <;> simp [State.cmdst, State.setMode_start]

/-- Settles O4: the mode commands one by one, and the QUIESCENT of a module with nothing left to do. -/
theorem modeCommands : Obligations.ModeCommands := ⟨modeCommandsPart, drainingEndsInQuiescent⟩

/-! ### Work at the homes and requests in their admission step (R156, R392, R398, R427) -/

/-- `t` is `s` but for home shards and counters. -/
def HomesOnly (s t : State) : Prop := ∃ H C, t = { s with homes := H, cnt := C }

theorem HomesOnly.refl (s : State) : HomesOnly s s := ⟨_, _, rfl⟩

theorem HomesOnly.trans {s t u : State} (h : HomesOnly s t) (k : HomesOnly t u) : HomesOnly s u := by
  obtain ⟨H, C, rfl⟩ := h
  obtain ⟨K, B, rfl⟩ := k
  exact ⟨K, B, rfl⟩

theorem HomesOnly.foldl {β : Type} {f : State → β → State} (hf : ∀ s x, HomesOnly s (f s x)) (l : List β) (s : State) : HomesOnly s (l.foldl f s) := by
  induction l generalizing s with
  | nil => exact .refl s
  | cons x l ih => exact (hf s x).trans (ih _)

theorem State.raDrop_homesOnly (s : State) (n : Nat) (p : RunAhead → Bool) : HomesOnly s (s.raDrop n p) := by
  unfold State.raDrop
  dsimp only
  split
  · exact .refl s
  · exact ⟨_, _, rfl⟩

theorem State.enqHome_homesOnly (s : State) (n : Nat) (m : Msg) (src : Nat) (k : TxKind) : HomesOnly s (s.enqHome n m src k) := by
  unfold State.enqHome
  split
  · exact ⟨_, _, rfl⟩
  · exact ⟨_, _, rfl⟩

theorem State.raAll_homesOnly (s : State) : HomesOnly s s.raAll :=
  HomesOnly.foldl (fun s n => s.raDrop_homesOnly n _) _ s

theorem State.reseedHomes_homesOnly (s : State) (D : ImgDomain) (e : RngEnt) : HomesOnly s (s.reseedHomes D e) := by
  refine HomesOnly.foldl (fun s n => ?_) _ s
  split
  · exact .refl s
  · refine (s.raDrop_homesOnly n _).trans (HomesOnly.foldl (fun s y => ?_) _ _)
    split
    · dsimp only
      split
      · exact s.enqHome_homesOnly _ _ _ _
      · exact .refl s
    · exact .refl s

/-- R392: with no request between its ingress edge and its admission edge, the check of new tables meets none. -/
theorem State.recheckAll_settled {s : State} (h : s.settled) : s.recheckAll = s := by
  refine foldl_eq_self fun g _ => ?_
  have hnone : (s.gate g).watch.filter (fun w => decide (s.clk.fclk ≤ w.admAt)) = [] :=
    List.filter_eq_nil_iff.2 fun w hw => by simpa using h g w hw
  rw [hnone]
  rfl

/-! ### Ownership, commits and the end of older requests (R390 to R394) -/

/-- R392: a commit whose checks pass makes the shadows active, ends every run-ahead entry and reads off the watch tables whether older requests are left. -/
theorem exec_commit_passes {s : State} (hchk : s.commitCheck = 0) (hset : s.settled) :
    exec .commit s = .next
      ((({ s with prot := { s.prot with cstat := 0 } }).commitEdge.raAll.drainedNow.bump (cGlb 25)).irq 0 4) := by
  have hset' : ({ s with prot := { s.prot with cstat := 0 } }).commitEdge.raAll.settled := by
    obtain ⟨H, C, hra⟩ := ({ s with prot := { s.prot with cstat := 0 } }).commitEdge.raAll_homesOnly
    rw [hra]
    exact hset
  change Host.Outcome.next s.doCommit = _
  rw [State.doCommit]
  dsimp only
  rw [hchk, if_pos rfl, State.recheckAll_settled hset']

/-- What CLAIM, RELEASE, COMMIT and EPOCH_DRAINED do, each on the condition that its check reads. -/
theorem protectionCommits : Claims.ProtectionCommits := by
  refine ⟨fun s ho => ?claim, fun s ho => ?claimHeld, fun s ho => ?release, fun s hchk hset => ?commit, fun s hchk => ?refused,
    fun s hd hold => ?drained⟩
  case claim =>
    change Host.Outcome.next s.doClaim = _
    rw [State.doClaim, if_pos ho]
  case claimHeld =>
    change Host.Outcome.next s.doClaim = _
    rw [State.doClaim, if_neg (by simp [ho])]
  case release =>
    change Host.Outcome.next s.doRelease = _
    rw [State.doRelease, if_pos ho]
  case commit =>
    refine ⟨_, exec_commit_passes hchk hset, ?_⟩
    obtain ⟨H, C, hra⟩ := ({ s with prot := { s.prot with cstat := 0 } }).commitEdge.raAll_homesOnly
    rw [hra]
    obtain ⟨V, O, hirq⟩ := State.irq_frame
      ((State.drainedNow { ({ s with prot := { s.prot with cstat := 0 } }).commitEdge with homes := H, cnt := C }).bump (cGlb 25)) 0 4
    rw [hirq]
    simp [State.drainedNow, State.commitEdge]
  case refused =>
    change Host.Outcome.next s.doCommit = _
    rw [State.doCommit]
    dsimp only
    rw [if_neg hchk]
  case drained =>
    have hnew : s.oldWatch = false := by
      simpa only [State.oldWatch, List.any_eq_false, decide_eq_true_eq, not_not, Bool.not_eq_true] using hold
    change execEpochDrained s = _
    rw [execEpochDrained, hd, hnew, Bool.or_self, if_neg Bool.false_ne_true]

/-! ### Key commands (R396 to R399) -/

/-- R397: the key that KEYGEN writes. -/
theorem State.keyGen_key (s : State) (k j : Nat) : (s.keyGen k).key j =
    if j = k then { s.key k with st := .active, kd := Config.draw s.free, km := Config.draw (s.free + 1), gen := (s.key k).gen + 1, fenced := false }
    else s.key j :=
  s.modKey_key k j _

theorem State.keyGen_free (s : State) (k : Nat) : (s.keyGen k).free = s.free + 2 := by simp [State.keyGen, State.drawn]
theorem State.keyGen_slices (s : State) (k : Nat) : (s.keyGen k).slices = s.slices := by simp [State.keyGen]
theorem State.keyGen_homes (s : State) (k : Nat) : (s.keyGen k).homes = s.homes := by simp [State.keyGen]
theorem State.keyGen_mram (s : State) (k : Nat) : (s.keyGen k).mram = s.mram := by simp [State.keyGen]

/-- R396, R397: in Serving and Degraded KEYGEN takes a free entry other than entry 0. -/
theorem exec_keygen_free {s : State} {k : Nat} (ho : s.open_ = true) (hk : k % 64 ≠ 0) (hfree : (s.key k).st = .free) :
    exec (.keygen k) s = .next ((({ s with prot := { s.prot with keyId := k, keyOp := 0 } }).keyGen k).keyStop 0) :=
  congrArg Host.Outcome.next <| (if_neg (show ¬(!s.open_) = true by simp [ho])).trans <| (if_neg hk).trans <|
    if_neg (show ¬(s.key k).st ≠ .free from not_not.2 hfree)

/-- The end of a key command where it starts writes STATUS and sends its interrupt. -/
theorem State.keyStop_frame (s : State) (st : Nat) : ∃ H O, s.keyStop st = { s with prot := { s.prot with keyStat := st }, host := H, out := O } :=
  State.irq_frame _ 0 4

@[simp] theorem State.modKey_keyRun (s : State) (k : Nat) (f : KeyEnt → KeyEnt) : (s.modKey k f).prot.keyRun = s.prot.keyRun := rfl
@[simp] theorem State.modKey_keyJob (s : State) (k : Nat) (f : KeyEnt → KeyEnt) : (s.modKey k f).prot.keyJob = s.prot.keyJob := rfl

/-- KEYGEN, RETIRE and RETIRE_END with every check of theirs passed. -/
theorem keyCommands : Claims.KeyCommands := by
  refine ⟨fun s k ho hpos hlt hfree => ?keygen, fun s k ho hb hpos hlt hact hjobs => ?retire, fun s k hst hsw hwait hhome hfence hrun hjob => ?retireEnd⟩
  case keygen =>
    refine ⟨_, exec_keygen_free ho (by omega) hfree, ?_⟩
    let r : State := { s with prot := { s.prot with keyId := k, keyOp := 0 } }
    obtain ⟨H, O, hstop⟩ := (r.keyGen k).keyStop_frame 0
    have hself : (r.keyGen k).key k = _ := (r.keyGen_key k k).trans (if_pos rfl)
    have hother : ∀ j, j ≠ k → (r.keyGen k).key j = s.key j := fun j hj => (r.keyGen_key k j).trans (if_neg hj)
    rw [hstop]
    exact ⟨congrArg KeyEnt.st hself, congrArg KeyEnt.kd hself, congrArg KeyEnt.km hself, congrArg KeyEnt.gen hself, r.keyGen_free k, rfl, hother,
      r.keyGen_slices k, r.keyGen_homes k, r.keyGen_mram k⟩
  case retire =>
    have hnojob : s.prot.jobs.any (fun j => j.2.active && (decide (j.2.old.toNat = k) || decide (j.2.new.toNat = k))) = false := by
      simpa only [List.any_eq_false, Bool.and_eq_true, Bool.or_eq_true, decide_eq_true_eq, not_and, not_or] using hjobs
    exact congrArg Host.Outcome.next <| (if_neg (show ¬(!s.open_) = true by simp [ho])).trans <|
      (if_neg (show ¬s.sweepBusy = true by simp [hb])).trans <| (if_neg (show ¬k % 64 = 0 by omega)).trans <|
      (if_neg (show ¬(s.key k).st ≠ .active from not_not.2 hact)).trans <| if_neg (by simp [hnojob])
  case retireEnd =>
    have hnowait : s.slices.any (fun x => decide (x.2.sweep.waiting = some (.key k))) = false := by
      simpa only [List.any_eq_false, decide_eq_true_eq] using hwait
    change execRetireEnd k s = _
    rw [execRetireEnd]
    dsimp only
    rw [if_neg (by simp [hst, hsw, hnowait, hhome]), if_neg (show k ∉ ((s.modKey k _).bump (cGlb 28)).flt.fkey from hfence),
      if_pos (by simp [hrun, hjob])]
    rfl

/-- Settles O14: ownership and commits, and the key commands. -/
theorem commitsAndKeys : Obligations.CommitsAndKeys := ⟨protectionCommits, keyCommands⟩

/-! ### Range invalidations and Crozier jobs (R423, R424, R427, R428) -/

/-- The start of a sweep in one slice of the domain. -/
def State.sweepSlice (s : State) (j : SweepJob) (n : Nat) : State :=
  if s.isFenced (.slice n) then s else s.modSlice n (fun y => { y with sweep := { y.sweep with job := some j } })

theorem State.sweepAll_eq (s : State) (D : ImgDomain) (j : SweepJob) : s.sweepAll D j = D.nodes.foldl (fun s n => s.sweepSlice j n) s := rfl

theorem State.sweepSlice_isFenced (s : State) (j : SweepJob) (n : Nat) (u : FenceUnit) : (s.sweepSlice j n).isFenced u = s.isFenced u := by
  unfold State.sweepSlice
  split <;> rfl

theorem State.sweepSlice_prot (s : State) (j : SweepJob) (n : Nat) : (s.sweepSlice j n).prot = s.prot := by
  unfold State.sweepSlice
  split <;> rfl

theorem State.sweepAll_prot (s : State) (D : ImgDomain) (j : SweepJob) : (s.sweepAll D j).prot = s.prot :=
  foldl_reading (fun s n => s.sweepSlice_prot j n) D.nodes s

theorem State.sweepSlice_self {s : State} {n : Nat} (hf : s.isFenced (.slice n) = false) (j : SweepJob) :
    ((s.sweepSlice j n).slice n).sweep.job = some j := by
  rw [State.sweepSlice, hf, if_neg Bool.false_ne_true, State.modSlice_slice_self]

/-- A slice that sweeps for the job goes on with it while the other slices start. -/
theorem State.sweepSlice_started {s : State} {m : Nat} {j : SweepJob} (h : (s.slice m).sweep.job = some j) (n : Nat) :
    ((s.sweepSlice j n).slice m).sweep.job = some j := by
  unfold State.sweepSlice
  split
  · exact h
  · rw [State.modSlice_slice]
    split
    · rfl
    · exact h

theorem foldl_sweepSlice_started {m : Nat} {j : SweepJob} (ns : List Nat) {s : State} (h : (s.slice m).sweep.job = some j) :
    ((ns.foldl (fun s n => s.sweepSlice j n) s).slice m).sweep.job = some j := by
  induction ns generalizing s with
  | nil => exact h
  | cons n ns ih => exact ih (State.sweepSlice_started h n)

/-- Every slice of the list that is not fenced sweeps for the job. -/
theorem foldl_sweepSlice_job {ns : List Nat} {m : Nat} (hm : m ∈ ns) {s : State} (hf : s.isFenced (.slice m) = false) (j : SweepJob) :
    ((ns.foldl (fun s n => s.sweepSlice j n) s).slice m).sweep.job = some j := by
  induction ns generalizing s with
  | nil => cases hm
  | cons n ns ih =>
    rw [List.foldl_cons]
    rcases List.mem_cons.1 hm with rfl | hm
    · exact foldl_sweepSlice_started ns (State.sweepSlice_self hf j)
    · exact ih hm ((s.sweepSlice_isFenced j n _).trans hf)

theorem State.sweepAll_job {s : State} {D : ImgDomain} {n : Nat} (hn : n ∈ D.nodes) (hf : s.isFenced (.slice n) = false) (j : SweepJob) :
    ((s.sweepAll D j).slice n).sweep.job = some j := foldl_sweepSlice_job hn hf j

@[simp] theorem State.prot_idom (s : State) (P : Prot) (d : Nat) : ({ s with prot := P } : State).idom d = s.idom d := rfl

/-- R423: the checks of a Crozier command do not look at the fields that PF0 wrote with GO. -/
theorem State.crozFields_crozCheck (s : State) (j r new op : Nat) (reseed : Bool) :
    (s.crozFields j r new op).crozCheck j r new reseed = s.crozCheck j r new reseed := rfl

/-- The state in which a RESEED starts its sweeps: the job runs, and the range entry is closed (R427). -/
def State.reseedStart (s : State) (j r new : Nat) : State :=
  let u := (s.crozFields j r new 1).crozPut j r new true (tget {} s.prot.rngAct r)
  { u with prot := { u.prot with closed := insNat r u.prot.closed } }

/-- R427: a RESEED that its checks let start closes its entry, sweeps every slice of the domain and recalls at the homes. -/
theorem exec_reseed_starts {s : State} {j r new d : Nat} {D : ImgDomain} (hchk : s.crozCheck j r new true = .ok (d, D)) (hset : s.settled) :
    let e := tget {} s.prot.rngAct r
    exec (.reseed j r new) s = .next ((((s.reseedStart j r new).sweepAll D (.range d e.base e.lim true)).reseedHomes D e).crozEnd 0) := by
  intro e
  have hstart : (s.reseedStart j r new).recheckAll = s.reseedStart j r new := State.recheckAll_settled hset
  change Host.Outcome.next (s.doReseed j r new) = _
  rw [State.doReseed]
  dsimp only
  rw [State.crozFields_crozCheck, hchk]
  conv_rhs => rw [← hstart]
  rfl

/-- Settles O15: no check stops the command; a RESEED's recalls at the homes leave the closed entry and the sweeps as they are. -/
theorem invalidationAndCrozierJobs : Obligations.InvalidationAndCrozierJobs := by
  refine ⟨fun s d D ho hb hd hle => ?invalidate, fun s j r new x hchk => ?rekey, fun s j r new d D hchk hset => ?reseed⟩
  case invalidate =>
    refine congrArg Host.Outcome.next <| (if_neg (show ¬(!s.open_) = true by simp [ho])).trans <|
      (if_neg (show ¬s.sweepBusy = true by simp [hb])).trans <| (if_neg (Nat.not_lt.2 hle)).trans ?_
    simp only [State.prot_idom, hd]
  case rekey =>
    change Host.Outcome.next (s.doRekey j r new) = _
    rw [State.doRekey]
    dsimp only
    rw [State.crozFields_crozCheck, hchk]
    rfl
  case reseed =>
    refine ⟨_, exec_reseed_starts hchk hset, ?_⟩
    obtain ⟨H, C, hhomes⟩ := State.reseedHomes_homesOnly
      ((s.reseedStart j r new).sweepAll D (.range d (tget {} s.prot.rngAct r).base (tget {} s.prot.rngAct r).lim true)) D (tget {} s.prot.rngAct r)
    rw [hhomes]
    refine ⟨?_, rfl, fun n hn hf => State.sweepAll_job (s := s.reseedStart j r new) hn hf _⟩
    change r ∈ (State.sweepAll _ D _).prot.closed
    rw [State.sweepAll_prot]
    exact mem_insNat_self r _

/-! ### Crozier passes, the cleaner, the end of a rollover (R411, R418, R419) -/

/-- Settles O31: the pass, the entry and the rollover each meet every check of their command. -/
theorem homePasses : Obligations.HomePasses := by
  refine ⟨fun s job d D T l => ?pass, fun s n k d D e h hn hk hcrown hdirty hpins hdue htree => ⟨fun htop => ?top, fun p hinner hp hroom => ?inner⟩,
    fun s n k d D e X hn hk hroll hall hdue => ?rollover⟩
  case pass =>
    intro J e n hten hdom hD hact hsw hlo hhi hlim hdone hpass htx
    change execCrozierPass job l s = _
    have hof : (s.iten e.ten.toNat).bind (fun t => (s.idom t.domain).map (fun D => (t.domain, D))) = some (d, D) := by
      rw [hten, Option.bind_some, hdom, hD, Option.map_some]
    rw [execCrozierPass]
    dsimp only
    rw [hof]
    dsimp only
    refine congrArg Host.Outcome.next (if_neg ?_)
    simp only [Bool.or_eq_true, Bool.not_eq_true', decide_eq_true_eq, not_or, Bool.not_eq_false, Bool.not_eq_true, Nat.not_lt, Nat.not_le]
    exact ⟨⟨⟨⟨⟨⟨⟨hact, hsw⟩, hlo⟩, hhi⟩, hlim⟩, hdone⟩, hpass⟩, htx⟩
  case top =>
    change execNodeClean n k s = _
    simp [execNodeClean, hn, hk, hcrown, hdirty, hpins, hdue, htree, htop]
  case inner =>
    change execNodeClean n k s = _
    simp [execNodeClean, hn, hk, hcrown, hdirty, hpins, hdue, htree, hinner, hp, hroom]
  case rollover =>
    change execRolloverEnd n k s = _
    simp [execRolloverEnd, hn, hk, hroll, hall, hdue]

/-! ### The test port outside Dormant (R429, R535) -/

/-- The test instructions are honoured in Maintenance only. -/
theorem State.tapTest_mode {s : State} (h : s.tapTest = true) : s.start.mode = .maintenance := by
  simp only [State.tapTest, Bool.and_eq_true, decide_eq_true_eq] at h
  exact h.1

theorem State.tapTest_awake {s : State} (h : s.tapTest = true) : s.start.mode ≠ .dormant := by simp [State.tapTest_mode h]

theorem bitsLsb_zero (w : Nat) : bitsLsb (0 : BitVec w) = List.replicate w false := by
  simp [bitsLsb]

/-- Loading an instruction changes the test port alone. -/
@[simp] theorem State.tapLoad_slice (s : State) (i : TapInstr) (n : Nat) : (s.tapLoad i).slice n = s.slice n := rfl
@[simp] theorem State.tapLoad_tagAt (s : State) (i : TapInstr) (n k : Nat) : (s.tapLoad i).tagAt n k = s.tagAt n k := rfl

/-- R429: what a line under an encryption key reads as, 1,024 data bits and 16 poison marks, is zeros. -/
theorem State.arrayOp_readLine (s : State) (n k : Nat) : s.arrayOp (.readLine n k) = s.emit (.tdo (
    if (s.tagAt n k).keyid = 0 then bitsLsb (tget {} (s.slice n).tile k).bits ++ bitsLsb (tget {} (s.slice n).tile k).marks
    else List.replicate 1040 false)) := by
  by_cases hk : (s.tagAt n k).keyid = 0
  · simp only [State.arrayOp, show (tget {} (s.slice n).tags k).keyid = 0 from hk, hk, if_true]
  · simp only [State.arrayOp, show (tget {} (s.slice n).tags k).keyid ≠ 0 from hk, hk, if_false, bitsLsb_zero, List.replicate_append_replicate, Nat.reduceAdd]

/-- R429: a write to a line under an encryption key is dropped. -/
theorem State.arrayOp_writeLine (s : State) (n k : Nat) (v : LineData) : s.arrayOp (.writeLine n k v) =
    if (s.tagAt n k).keyid = 0 ∧ n < 64 then s.modSlice n (fun y => { y with tile := tset {} y.tile k v }) else s := rfl

theorem exec_arrayInstruction {s : State} (h : s.tapTest = true) (x : ArrayOp) :
    exec (.arrayInstruction x) s = .next ((s.tapLoad .array).arrayOp x) := by
  change execArrayInstruction x s = _
  rw [execArrayInstruction, if_neg (State.tapTest_awake h), if_pos h]

/-- SAMPLE/PRELOAD and EXTEST: the cells are captured, and loaded with what is shifted in. -/
def State.scan (s : State) (i : TapInstr) (cells : List Bool) : State :=
  (({ s.tapLoad i with tap := { (s.tapLoad i).tap with cells := cells } }).drawn).emit (.tdo (s.captured cells.length))

theorem exec_samplePreload {s : State} (hm : s.start.mode ≠ .dormant) (cells : List Bool) :
    exec (.samplePreload cells) s = .next (s.scan .sample cells) := by
  change execSamplePreload cells s = _
  rw [execSamplePreload, if_neg hm]
  rfl

theorem exec_extest_honoured {s : State} (h : s.tapTest = true) (cells : List Bool) : exec (.extest cells) s = .next (s.scan .extest cells) := by
  change execExtest cells s = _
  rw [execExtest, if_neg (State.tapTest_awake h), if_pos h]
  rfl

/-- Settles O43: outside Dormant each instruction is carried out, EXTEST and the array instructions only where they are honoured. -/
theorem testPort : Obligations.TestPort := by
  refine ⟨fun s hm => ⟨?idcode, fun b hi hz => ?bypass, fun cs => ⟨_, exec_samplePreload hm cs, rfl, rfl⟩, fun cs ht => ?extestOff, fun x ht => ?arrayOff⟩,
    fun s ht => ⟨fun cs => ⟨_, exec_extest_honoured ht cs, rfl, rfl⟩, fun n k h0 => ?read, fun n k hk => ?readKey, fun n k v hn h0 => ?write,
      fun n k v hk => ?writeKey⟩⟩
  case idcode =>
    change execIdcode s = _
    rw [execIdcode, if_neg hm]
  case bypass =>
    change execBypass b s = _
    rw [execBypass, if_neg hm, State.bypassShift]
    simp only [hi, hz, and_self, if_true]
  case extestOff =>
    change execExtest cs s = _
    rw [execExtest, if_neg hm, ht, if_neg Bool.false_ne_true]
  case arrayOff =>
    change execArrayInstruction x s = _
    rw [execArrayInstruction, if_neg hm, ht, if_neg Bool.false_ne_true]
  case read => rw [exec_arrayInstruction ht, State.arrayOp_readLine, State.tapLoad_tagAt, if_pos h0, State.tapLoad_slice]
  case readKey => rw [exec_arrayInstruction ht, State.arrayOp_readLine, State.tapLoad_tagAt, if_neg hk]
  case write => rw [exec_arrayInstruction ht, State.arrayOp_writeLine, State.tapLoad_tagAt, if_pos ⟨h0, hn⟩]
  case writeKey => rw [exec_arrayInstruction ht, State.arrayOp_writeLine, State.tapLoad_tagAt, if_neg fun h => hk h.1]

end Sys2Proof.Machine

/-! ## Proofs of the family 12_faults: error records, the code of protected words, commands of the faults block and of the Capsule, drain and hand-over -/

namespace Sys2Proof.Machine

open Sys2Proof

/-! ### What no step breaks -/

/-- Every command completes and keeps what `Keeps` names: one arm per command, each the law of its meaning. -/
theorem exec_keeps {s₀ s : State} (c : Instr) (hs : Keeps true s₀ s) : ∃ t, exec c s = .next t ∧ Keeps true s₀ t :=
  match c with
  | .start x => execStart_keeps x hs
  | .supplyRetry x => execSupplyRetry_keeps x hs
  | .resetN flushUs durable => execResetN_keeps flushUs durable hs
  | .pfwN byPlatform flushUs durable => execPfwN_keeps byPlatform flushUs durable hs
  | .inputInvalid mv bank => execInputInvalid_keeps mv bank hs
  | .vinDip mv => execVinDip_keeps mv hs
  | .dipTimer => execDipTimer_keeps hs
  | .eWarn bank => execEWarn_keeps bank hs
  | .ride mv bank => execRide_keeps mv bank hs
  | .overvolt mv => execOvervolt_keeps mv hs
  | .thermal x c => execThermal_keeps x c hs
  | .warn x c => execWarn_keeps x c hs
  | .pfwRelease mv heldUs => execPfwRelease_keeps mv heldUs hs
  | .perstN low => execPerstN_keeps low hs
  | .flr => execFlr_keeps hs
  | .flrVf k => execFlrVf_keeps k hs
  | .refLost noEdge ppm => execRefLost_keeps noEdge ppm hs
  | .refReturn => execRefReturn_keeps hs
  | .drain => execDrain_keeps hs
  | .quiescent durable => execQuiescent_keeps durable hs
  | .maint => execMaint_keeps hs
  | .resume => execResume_keeps hs
  | .forcePair x => execForcePair_keeps x hs
  | .pairGood => execPairGood_keeps hs
  | .fenceForget => execFenceForget_keeps hs
  | .knownGood => execKnownGood_keeps hs
  | .imgWrite slotB bytes dmaOk => execImgWrite_keeps slotB bytes dmaOk hs
  | .imgVerify slotB => execImgVerify_keeps slotB hs
  | .imgTrial slotB => execImgTrial_keeps slotB hs
  | .imgApply slotB x y => execImgApply_keeps slotB x y hs
  | .imgConfirm => execImgConfirm_keeps hs
  | .imgErase slotB => execImgErase_keeps slotB hs
  | .imgRoute bytes dmaOk => execImgRoute_keeps bytes dmaOk hs
  | .getInfo dmaOk => execGetInfo_keeps dmaOk hs
  | .fwWrite slotB bytes dmaOk => execFwWrite_keeps slotB bytes dmaOk hs
  | .fwVerify slotB => execFwVerify_keeps slotB hs
  | .mcWrite slotB bytes dmaOk => execMcWrite_keeps slotB bytes dmaOk hs
  | .mcVerify slotB => execMcVerify_keeps slotB hs
  | .ownerFill bytes dmaOk => execOwnerFill_keeps bytes dmaOk hs
  | .ownerEmpty bytes dmaOk => execOwnerEmpty_keeps bytes dmaOk hs
  | .peatRead dmaOk => execPeatRead_keeps dmaOk hs
  | .measurements blocks => execMeasurements_keeps blocks hs
  | .cert slot => execCert_keeps slot hs
  | .chal nonce => execChal_keeps nonce hs
  | .keyEx share => execKeyEx_keeps share hs
  | .hbeat session => execHbeat_keeps session hs
  | .ideKm session key => execIdeKm_keeps session key hs
  | .ideCheckFail => execIdeCheckFail_keeps hs
  | .msixPendingSend fn vec => execMsixPendingSend_keeps fn vec hs
  | .registerWrite who off size val => execRegisterWrite_keeps who off size val hs
  | .aliasWrite who off size val => execAliasWrite_keeps who off size val hs
  | .counterWrite who off size val inc => execCounterWrite_keeps who off size val inc hs
  | .slowWrite who off size val => execSlowWrite_keeps who off size val hs
  | .slowWriteDone k => execSlowWriteDone_keeps k hs
  | .shadowWrite who off size val => execShadowWrite_keeps who off size val hs
  | .sphMaxWrite who t val => execSphMaxWrite_keeps who t val hs
  | .cfgRd port m => execCfgRd_keeps port m hs
  | .cfgWr port m => execCfgWr_keeps port m hs
  | .qrel n => execQrel_keeps n hs
  | .homQrel n => execHomQrel_keeps n hs
  | .lstest n squashed => execLstest_keeps n squashed hs
  | .predClr n => execPredClr_keeps n hs
  | .predClrDone n => execPredClrDone_keeps n hs
  | .slcAudit n => execSlcAudit_keeps n hs
  | .slcAuditEnd n => execSlcAuditEnd_keeps n hs
  | .flush n q => execFlush_keeps n q hs
  | .flushDone n q => execFlushDone_keeps n q hs
  | .holdClr g => execHoldClr_keeps g hs
  | .gateAudit g => execGateAudit_keeps g hs
  | .gateAuditEnd g => execGateAuditEnd_keeps g hs
  | .rtrAudit n => execRtrAudit_keeps n hs
  | .rtrAuditEnd n => execRtrAuditEnd_keeps n hs
  | .homNcAudit n => execHomNcAudit_keeps n hs
  | .homNcAuditEnd n => execHomNcAuditEnd_keeps n hs
  | .lock ten => execLock_keeps ten hs
  | .unlock ten => execUnlock_keeps ten hs
  | .lockPass p line ten => execLockPass_keeps p line ten hs
  | .unlockPass p line ten => execUnlockPass_keeps p line ten hs
  | .claim => execClaim_keeps hs
  | .release => execRelease_keeps hs
  | .commit => execCommit_keeps hs
  | .epochDrained => execEpochDrained_keeps hs
  | .keygen k => execKeygen_keeps k hs
  | .retire k => execRetire_keeps k hs
  | .retireEnd k => execRetireEnd_keeps k hs
  | .rangeInvalidation d => execRangeInvalidation_keeps d hs
  | .rekey job rng newkey => execRekey_keeps job rng newkey hs
  | .reseed job rng newkey => execReseed_keeps job rng newkey hs
  | .crozierPass job line => execCrozierPass_keeps job line hs
  | .pop => execPop_keeps hs
  | .unfence frond index => execUnfence_keeps frond index hs
  | .arm => execArm_keeps hs
  | .disarm => execDisarm_keeps hs
  | .snap => execSnap_keeps hs
  | .zero incs => execZero_keeps incs hs
  | .capsuleLatch => execCapsuleLatch_keeps hs
  | .dumpEnd x => execDumpEnd_keeps x hs
  | .pageZero who t incs => execPageZero_keeps who t incs hs
  | .rdSh port m => execRdSh_keeps port m hs
  | .rdOwn port m => execRdOwn_keeps port m hs
  | .ownUpg port m => execOwnUpg_keeps port m hs
  | .ownNodata port m => execOwnNodata_keeps port m hs
  | .rdNa port m => execRdNa_keeps port m hs
  | .wr port m => execWr_keeps port m hs
  | .carriedRequest port m => execCarriedRequest_keeps port m hs
  | .holdExpire g h => execHoldExpire_keeps g h hs
  | .retryOrderClose g slot j => execRetryOrderClose_keeps g slot j hs
  | .balancer d => execBalancer_keeps d hs
  | .slotAdvance d => execSlotAdvance_keeps d hs
  | .watchTimeout g j => execWatchTimeout_keeps g j hs
  | .tailExpire g j => execTailExpire_keeps g j hs
  | .completionEgress port m => execCompletionEgress_keeps port m hs
  | .barrier port m => execBarrier_keeps port m hs
  | .barDone g j => execBarDone_keeps g j hs
  | .lookupPass n m x => execLookupPass_keeps n m x hs
  | .pfHint n m => execPfHint_keeps n m hs
  | .runAheadExpire n line => execRunAheadExpire_keeps n line hs
  | .tileData n slot upper flips used m => execTileData_keeps n slot upper flips used m hs
  | .halfFill n m => execHalfFill_keeps n m hs
  | .snpSh n m x => execSnpSh_keeps n m x hs
  | .snpOwn n m x => execSnpOwn_keeps n m x hs
  | .snpInv n m x => execSnpInv_keeps n m x hs
  | .snpCur n m x => execSnpCur_keeps n m x hs
  | .rspI atHome n m x => execRspI_keeps atHome n m x hs
  | .rspS atHome n m x => execRspS_keeps atHome n m x hs
  | .rspFwd atHome n m x => execRspFwd_keeps atHome n m x hs
  | .sdata atHome n m x => execSdata_keeps atHome n m x hs
  | .compAck atHome p m => execCompAck_keeps atHome p m hs
  | .data n m x => execData_keeps n m x hs
  | .grant p m => execGrant_keeps p m hs
  | .cmp p m => execCmp_keeps p m hs
  | .dur p m => execDur_keeps p m hs
  | .err p m => execErr_keeps p m hs
  | .wbAck n m => execWbAck_keeps n m hs
  | .wbSuperseded n m => execWbSuperseded_keeps n m hs
  | .wb atHome p m => execWb_keeps atHome p m hs
  | .evn atHome p m => execEvn_keeps atHome p m hs
  | .rolloverEnd n key => execRolloverEnd_keeps n key hs
  | .homeSequence n m src => execHomeSequence_keeps n m src hs
  | .activation p line => execActivation_keeps p line hs
  | .memData n m ing => execMemData_keeps n m ing hs
  | .memAck n m => execMemAck_keeps n m hs
  | .memDur n m ing => execMemDur_keeps n m ing hs
  | .memWrEjected n line => execMemWrEjected_keeps n line hs
  | .mshrTimeout n j => execMshrTimeout_keeps n j hs
  | .nodeClean n key => execNodeClean_keeps n key hs
  | .epoch n => execEpoch_keeps n hs
  | .sphagnumMove n => execSphagnumMove_keeps n hs
  | .sweepMarker n => execSweepMarker_keeps n hs
  | .sweepPass p => execSweepPass_keeps p hs
  | .sweepEnd n => execSweepEnd_keeps n hs
  | .patrolScrub n flips x => execPatrolScrub_keeps n flips x hs
  | .dirScrub n x => execDirScrub_keeps n x hs
  | .ncScrub n correctable uncorrectable => execNcScrub_keeps n correctable uncorrectable hs
  | .stipeScrub disagree badKeys => execStipeScrub_keeps disagree badKeys hs
  | .spareRemap n => execSpareRemap_keeps n hs
  | .sliceDrainStep n => execSliceDrainStep_keeps n hs
  | .drainEnd n => execDrainEnd_keeps n hs
  | .handoverEnd n => execHandoverEnd_keeps n hs
  | .detour d => execDetour_keeps d hs
  | .detourReorderEnd d => execDetourReorderEnd_keeps d hs
  | .unitArrival n a x => execUnitArrival_keeps n a x hs
  | .detect p awake => execDetect_keeps p awake hs
  | .train p x => execTrain_keeps p x hs
  | .discId p x => execDiscId_keeps p x hs
  | .discCfg p x => execDiscCfg_keeps p x hs
  | .discKeyx p share sig chainRoot => execDiscKeyx_keeps p share sig chainRoot hs
  | .discDone p offset => execDiscDone_keeps p offset hs
  | .discRej p reason => execDiscRej_keeps p reason hs
  | .discTimeout p => execDiscTimeout_keeps p hs
  | .failedReturn p => execFailedReturn_keeps p hs
  | .timeStep d => execTimeStep_keeps d hs
  | .tsyncExchange p t1 => execTsyncExchange_keeps p t1 hs
  | .tsyncReq p t1 t2 t3 => execTsyncReq_keeps p t1 t2 t3 hs
  | .tsyncRsp p t1 t2 t3 t4 sync rootIdx rootHops => execTsyncRsp_keeps p t1 t2 t3 t4 sync rootIdx rootHops hs
  | .syncLost d => execSyncLost_keeps d hs
  | .lack p seq => execLack_keeps p seq hs
  | .lnak p seq => execLnak_keeps p seq hs
  | .tag p block flits tagBits newKey => execTag_keeps p block flits tagBits newKey hs
  | .linkKeyExchange p share sig chainRoot => execLinkKeyExchange_keeps p share sig chainRoot hs
  | .retrain p => execRetrain_keeps p hs
  | .fastRetrainEnd p ok => execFastRetrainEnd_keeps p ok hs
  | .portDrain p => execPortDrain_keeps p hs
  | .detachReq p => execDetachReq_keeps p hs
  | .detachAck p => execDetachAck_keeps p hs
  | .detachDone p => execDetachDone_keeps p hs
  | .drainFallback p => execDrainFallback_keeps p hs
  | .partnerDead p => execPartnerDead_keeps p hs
  | .isolationEnd p => execIsolationEnd_keeps p hs
  | .sensorRefresh x => execSensorRefresh_keeps x hs
  | .page v pecOk => execPage_keeps v pecOk hs
  | .clearFaults pecOk => execClearFaults_keeps pecOk hs
  | .capability pecOk => execCapability_keeps pecOk hs
  | .voutMode pecOk => execVoutMode_keeps pecOk hs
  | .statusByte pecOk => execStatusByte_keeps pecOk hs
  | .statusWord pecOk => execStatusWord_keeps pecOk hs
  | .statusVout pecOk => execStatusVout_keeps pecOk hs
  | .statusIout pecOk => execStatusIout_keeps pecOk hs
  | .statusInput pecOk => execStatusInput_keeps pecOk hs
  | .statusTemperature pecOk => execStatusTemperature_keeps pecOk hs
  | .statusCml pecOk => execStatusCml_keeps pecOk hs
  | .readVin pecOk => execReadVin_keeps pecOk hs
  | .readIin pecOk => execReadIin_keeps pecOk hs
  | .readVout pecOk => execReadVout_keeps pecOk hs
  | .readIout pecOk => execReadIout_keeps pecOk hs
  | .readTemperature1 pecOk => execReadTemperature1_keeps pecOk hs
  | .readTemperature2 pecOk => execReadTemperature2_keeps pecOk hs
  | .readTemperature3 pecOk => execReadTemperature3_keeps pecOk hs
  | .readPout pecOk => execReadPout_keeps pecOk hs
  | .readPin pecOk => execReadPin_keeps pecOk hs
  | .pmbusRevision pecOk => execPmbusRevision_keeps pecOk hs
  | .mfrId pecOk => execMfrId_keeps pecOk hs
  | .mfrModel pecOk => execMfrModel_keeps pecOk hs
  | .mfrRevision pecOk => execMfrRevision_keeps pecOk hs
  | .alertResponse => execAlertResponse_keeps hs
  | .idcode => execIdcode_keeps hs
  | .bypass tdi => execBypass_keeps tdi hs
  | .samplePreload cells => execSamplePreload_keeps cells hs
  | .extest cells => execExtest_keeps cells hs
  | .arrayInstruction x => execArrayInstruction_keeps x hs
  | .linkCheckFail p f => execLinkCheckFail_keeps p f hs
  | .trainingBudget p x => execTrainingBudget_keeps p x hs
  | .registerRead who bar off size => execRegisterRead_keeps who bar off size hs
  | .configurationRequest x => execConfigurationRequest_keeps x hs
  | .vectorUnmask fn vec => execVectorUnmask_keeps fn vec hs
  | .alwaysOnDomainStart smbAddr => execAlwaysOnDomainStart_keeps smbAddr hs
  | .retryResend d => execRetryResend_keeps d hs
  | .pmbusInvalidCommand code write => execPmbusInvalidCommand_keeps code write hs

/-- A step keeps what `Keeps` names of the state it starts from, but for the queue of commands. -/
theorem step_keeps {s t : State} (h : step s = .next t) : ∃ q, Keeps true { s with pending := q } t := by
  unfold step at h
  split at h
  next =>
    cases h
    exact ⟨s.pending, State.tick_keeps (Keeps.refl true s)⟩
  next c rest hp =>
    obtain ⟨u, hu, hk⟩ := exec_keeps c (Keeps.refl true { s with pending := rest })
    cases h.symm.trans hu
    exact ⟨rest, hk⟩

theorem Keeps.fifo_length {b : Bool} {s t : State} (h : Keeps b s t) (hs : s.flt.fifo.length ≤ 256) : t.flt.fifo.length ≤ 256 := by
  obtain ⟨-, -, hfifo, -⟩ := h
  exact hfifo hs

/-- Settles O48: the bound is one of the facts that every command and every edge keeps. -/
theorem errorFifoHoldsAtMost256 : Obligations.ErrorFifoHoldsAtMost256 := by
  intro s t hlen hstep
  obtain ⟨q, hk⟩ := step_keeps hstep
  exact hk.fifo_length hlen

/-! ### The code is linear (R431, R434) -/

/-- The exclusive-or of two syndromes. -/
def synXor (x y : Nat × Nat × Bool) : Nat × Nat × Bool := (x.1 ^^^ y.1, x.2.1 ^^^ y.2.1, x.2.2 ^^ y.2.2)

theorem synXor_zero (x : Nat × Nat × Bool) : synXor (0, 0, false) x = x := by
  simp [synXor]

theorem atPos_xor (a b : BitVec 80) (p : Nat) : atPos (a ^^^ b) p = (atPos a p ^^ atPos b p) := by
  unfold atPos
  split
  · exact BitVec.getLsbD_xor
  · split <;> exact BitVec.getLsbD_xor

/-- What a position adds to a syndrome when its bit is set. -/
def posSyn (t : List Nat) (b : Bool) (p : Nat) (x : Nat × Nat × Bool) : Nat × Nat × Bool :=
  if b then synXor x (t.getD p 0, t.getD (3 * p % 127) 0, true) else x

theorem posSyn_xor (t : List Nat) (a b : Bool) (p : Nat) (x y : Nat × Nat × Bool) :
    posSyn t (a ^^ b) p (synXor x y) = synXor (posSyn t a p x) (posSyn t b p y) := by
  cases a <;> cases b <;> simp [posSyn, synXor, Nat.xor_assoc, Nat.xor_comm, Nat.xor_left_comm]

theorem syndrome_eq (t : List Nat) (cw : BitVec 80) :
    syndrome t cw = (List.range 80).foldl (fun x p => posSyn t (atPos cw p) p x) (0, 0, false) := by
  unfold syndrome
  congr 1
  funext x p
  unfold posSyn synXor
  simp

theorem syndrome_xor (t : List Nat) (a b : BitVec 80) : syndrome t (a ^^^ b) = synXor (syndrome t a) (syndrome t b) := by
  have hfold (l : List Nat) (x y : Nat × Nat × Bool) :
      l.foldl (fun x p => posSyn t (atPos (a ^^^ b) p) p x) (synXor x y)
        = synXor (l.foldl (fun x p => posSyn t (atPos a p) p x) x) (l.foldl (fun x p => posSyn t (atPos b p) p x) y) := by
    induction l generalizing x y with
    | nil => rfl
    | cons p l ih => rw [List.foldl_cons, atPos_xor, posSyn_xor, ih, List.foldl_cons, List.foldl_cons]
  rw [syndrome_eq, syndrome_eq, syndrome_eq, ← hfold, synXor_zero]

/-- `g` where the bit is set. -/
def maskIf (b : Bool) (g : Nat) : Nat := if b then g else 0

theorem maskIf_xor (a b : Bool) (g : Nat) : maskIf (a ^^ b) g = maskIf a g ^^^ maskIf b g := by
  cases a <;> cases b <;> simp [maskIf]

/-- One step of the division by g(x): the next bit of the dividend enters. -/
def divStep (r : Nat) (b : Bool) : Nat := (2 * r % 32768) ^^^ maskIf (b ^^ r.testBit 14) 0x4599

theorem double_mod_xor (x y : Nat) : 2 * (x ^^^ y) % 32768 = (2 * x % 32768) ^^^ (2 * y % 32768) := by
  have hshift (n : Nat) : 2 * n = n <<< 1 := by rw [Nat.shiftLeft_eq, Nat.mul_comm]
  rw [hshift, hshift, hshift, Nat.shiftLeft_xor_distrib]
  exact Nat.xor_mod_two_pow (n := 15)

theorem divStep_xor (x y : Nat) (a b : Bool) : divStep (x ^^^ y) (a ^^ b) = divStep x a ^^^ divStep y b := by
  have hbit : ((a ^^ b) ^^ (x ^^^ y).testBit 14) = ((a ^^ x.testBit 14) ^^ (b ^^ y.testBit 14)) := by
    rw [Nat.testBit_xor, Bool.xor_assoc, Bool.xor_left_comm b, ← Bool.xor_assoc]
  unfold divStep
  rw [hbit, maskIf_xor, double_mod_xor]
  ac_rfl

theorem checkBits_eq (loc : Bool) (d : BitVec 64) :
    checkBits loc d = (List.range 65).foldl (fun r i => divStep r (if i = 0 then loc else d.getLsbD (64 - i))) 0 := by
  unfold checkBits
  congr 1
  funext r i
  unfold divStep maskIf
  rw [apply_ite (2 * r % 32768 ^^^ ·), Nat.xor_zero]

theorem checkBits_xor (a b : Bool) (d e : BitVec 64) : checkBits (a ^^ b) (d ^^^ e) = checkBits a d ^^^ checkBits b e := by
  have hfold (l : List Nat) (x y : Nat) :
      l.foldl (fun r i => divStep r (if i = 0 then a ^^ b else (d ^^^ e).getLsbD (64 - i))) (x ^^^ y)
        = l.foldl (fun r i => divStep r (if i = 0 then a else d.getLsbD (64 - i))) x
          ^^^ l.foldl (fun r i => divStep r (if i = 0 then b else e.getLsbD (64 - i))) y := by
    induction l generalizing x y with
    | nil => rfl
    | cons i l ih =>
      have hbit : (if i = 0 then a ^^ b else (d ^^^ e).getLsbD (64 - i))
          = ((if i = 0 then a else d.getLsbD (64 - i)) ^^ (if i = 0 then b else e.getLsbD (64 - i))) := by
        split
        · rfl
        · exact BitVec.getLsbD_xor
      rw [List.foldl_cons, hbit, divStep_xor, ih, List.foldl_cons, List.foldl_cons]
  rw [checkBits_eq, checkBits_eq, checkBits_eq, ← hfold, Nat.xor_self]

theorem encodeCw_xor (a b : Bool) (d e : BitVec 64) : encodeCw (a ^^ b) (d ^^^ e) = encodeCw a d ^^^ encodeCw b e := by
  unfold encodeCw
  rw [checkBits_xor, BitVec.xor_append, BitVec.xor_append, BitVec.ofNat_xor, BitVec.ofBool_xor_ofBool]

/-! ### Every codeword has syndrome zero (R431) -/

/-- What holds of zero and of each word of one bit, and of the exclusive-or of two words of which it holds, holds of every word. -/
theorem xor_twoPow_induction {n : Nat} {P : BitVec n → Prop} (hzero : P 0) (hxor : ∀ a b, P a → P b → P (a ^^^ b))
    (hbit : ∀ k < n, P (BitVec.twoPow n k)) (w : BitVec n) : P w := by
  have hlow (k : Nat) (hk : k ≤ n) : P ((w.setWidth k).setWidth n) := by
    induction k with
    | zero =>
      have he : (w.setWidth 0).setWidth n = 0 := by ext j; simp
      exact he ▸ hzero
    | succ k ih =>
      have he : (w.setWidth (k + 1)).setWidth n = (w.setWidth k).setWidth n ^^^ (if w.getLsbD k then BitVec.twoPow n k else 0) := by
        ext j hj
        rcases eq_or_ne j k with rfl | hjk
        · cases hb : w.getLsbD j <;> simpa [hj] using hb
        · cases w.getLsbD k <;> simp [hj, hjk, show j < k + 1 ↔ j < k by omega]
      rw [he]
      refine hxor _ _ (ih (by omega)) ?_
      split
      · exact hbit k hk
      · exact hzero
  have hall := hlow n (Nat.le_refl n)
  rwa [BitVec.setWidth_eq, BitVec.setWidth_eq] at hall

theorem syndrome_encodeCw_zero : ∀ loc, syndrome gfTab (encodeCw loc 0) = (0, 0, false) := by decide +kernel

theorem syndrome_encodeCw_twoPow : ∀ k < 64, syndrome gfTab (encodeCw false (BitVec.twoPow 64 k)) = (0, 0, false) := by decide +kernel

/-- Encoder and syndrome are linear, so the syndrome of every codeword follows from those of the words of one bit. -/
theorem syndrome_encodeCw (loc : Bool) (d : BitVec 64) : syndrome gfTab (encodeCw loc d) = (0, 0, false) := by
  have hdata : syndrome gfTab (encodeCw false d) = (0, 0, false) := by
    refine xor_twoPow_induction (P := fun d => syndrome gfTab (encodeCw false d) = (0, 0, false)) (syndrome_encodeCw_zero false) (fun a b ha hb => ?_)
      syndrome_encodeCw_twoPow d
    calc syndrome gfTab (encodeCw false (a ^^^ b))
        = syndrome gfTab (encodeCw false a ^^^ encodeCw false b) := by rw [← encodeCw_xor, Bool.xor_false]
      _ = (0, 0, false) := by rw [syndrome_xor, ha, hb, synXor_zero]
  calc syndrome gfTab (encodeCw loc d)
      = syndrome gfTab (encodeCw loc 0 ^^^ encodeCw false d) := by rw [← encodeCw_xor, Bool.xor_false, show (0 : BitVec 64) ^^^ d = d from BitVec.zero_xor]
    _ = (0, 0, false) := by rw [syndrome_xor, syndrome_encodeCw_zero, hdata, synXor_zero]

@[simp] theorem encodeCw_loc (loc : Bool) (d : BitVec 64) : (encodeCw loc d).getLsbD 79 = loc :=
  BitVec.getLsbD_append.trans (BitVec.getLsbD_append.trans (BitVec.getLsbD_ofBool loc 0))

@[simp] theorem encodeCw_data (loc : Bool) (d : BitVec 64) : (encodeCw loc d).extractLsb' 0 64 = d :=
  BitVec.extractLsb'_append_eq_right

/-! ### What the decoder makes of a syndrome (R434, R435) -/

/-- The syndrome of an error at position `p` alone, and that of the mark: errors at positions 0, 1 and 2. -/
def singleSyn (p : Nat) : Nat × Nat × Bool := (gfTab.getD p 0, gfTab.getD (3 * p % 127) 0, true)
def markSyn : Nat × Nat × Bool := (gfTab.getD 0 0 ^^^ gfTab.getD 1 0 ^^^ gfTab.getD 2 0,
  gfTab.getD 0 0 ^^^ gfTab.getD 3 0 ^^^ gfTab.getD 6 0, true)

theorem decodeRaw_of_syndrome_zero {cw : BitVec 80} (h : syndrome gfTab cw = (0, 0, false)) : decodeRaw cw = (.clean, cw) := by
  unfold decodeRaw
  simp [h]

theorem decodeRaw_of_syndrome_mark {cw : BitVec 80} (h : syndrome gfTab cw = markSyn) : decodeRaw cw = (.mark, cw) := by
  unfold decodeRaw
  dsimp only
  rw [h]
  exact if_pos ⟨rfl, rfl, rfl⟩

theorem singleSyn_ne_markSyn : ∀ p < 80, singleSyn p ≠ markSyn := by decide +kernel

theorem gfLog_getD : ∀ p < 80, gfLog gfTab (gfTab.getD p 0) = some p := by decide +kernel

theorem decodeRaw_of_syndrome_single {cw : BitVec 80} {p : Nat} (hp : p < 80) (h : syndrome gfTab cw = singleSyn p) :
    decodeRaw cw = (.corrected p none, flipPos cw p) := by
  have hne := singleSyn_ne_markSyn p hp
  rw [singleSyn, markSyn, ne_eq, Prod.mk.injEq, Prod.mk.injEq] at hne
  unfold decodeRaw
  dsimp only
  rw [h, singleSyn]
  dsimp only
  rw [if_neg hne, if_neg fun hclean => Bool.noConfusion hclean.2.2, if_pos rfl]
  simp only [gfLog_getD p hp, hp, and_self, if_true]

/-! ### Inverted positions and marks (R434, R435) -/

theorem flipPos_eq_xor (cw : BitVec 80) (p : Nat) : flipPos cw p = cw ^^^ flipPos 0 p := by
  unfold flipPos
  exact congrArg (cw ^^^ ·) BitVec.zero_xor.symm

theorem flipPos_flipPos (cw : BitVec 80) (p : Nat) : flipPos (flipPos cw p) p = cw := by
  unfold flipPos
  rw [BitVec.xor_assoc, BitVec.xor_self, BitVec.xor_zero]

theorem syndrome_flipPos_zero : ∀ p < 80, syndrome gfTab (flipPos 0 p) = singleSyn p := by decide +kernel

theorem syndrome_mark : syndrome gfTab (7#80 <<< 64) = markSyn := by decide +kernel

/-- A change of a codeword shows in the syndrome alone. -/
theorem syndrome_encodeCw_xor (loc : Bool) (d : BitVec 64) (e : BitVec 80) : syndrome gfTab (encodeCw loc d ^^^ e) = syndrome gfTab e := by
  rw [syndrome_xor, syndrome_encodeCw, synXor_zero]

theorem decodeRaw_encodeCw (loc : Bool) (d : BitVec 64) : decodeRaw (encodeCw loc d) = (.clean, encodeCw loc d) :=
  decodeRaw_of_syndrome_zero (syndrome_encodeCw loc d)

theorem decodeRaw_flipPos_encodeCw (loc : Bool) (d : BitVec 64) {p : Nat} (hp : p < 80) :
    decodeRaw (flipPos (encodeCw loc d) p) = (.corrected p none, encodeCw loc d) := by
  have hsyn : syndrome gfTab (flipPos (encodeCw loc d) p) = singleSyn p := by
    rw [flipPos_eq_xor, syndrome_encodeCw_xor, syndrome_flipPos_zero p hp]
  rw [decodeRaw_of_syndrome_single hp hsyn, flipPos_flipPos]

theorem decodeRaw_markCw (loc : Bool) (d : BitVec 64) : decodeRaw (markCw loc d) = (.mark, markCw loc d) :=
  decodeRaw_of_syndrome_mark ((syndrome_encodeCw_xor loc d _).trans syndrome_mark)

/-- Settles O58: the code is linear, so a word that is off a codeword by one position or by a mark has the syndrome of that change, which tells it. -/
theorem codewordsAreCorrected : Obligations.CodewordsAreCorrected := by
  refine fun loc d => ⟨?clean, fun p hp => ?single, ?mark, ?moved⟩
  case clean => simp only [decodeCw, decodeRaw_encodeCw, encodeCw_loc, encodeCw_data, if_true]
  case single => simp only [decodeCw, decodeRaw_flipPos_encodeCw loc d hp, encodeCw_loc, encodeCw_data, if_true]
  case mark => simp only [decodeCw, decodeRaw_markCw]
  case moved => simp only [decodeCw, decodeRaw_encodeCw, encodeCw_loc, encodeCw_data, Bool.eq_not_self, if_false]

/-! ### Commands of the faults block (R445, R462) -/

theorem State.doUnfence_frond {s : State} {i : Nat} (ho : s.open_ = true) (hi : i ∈ s.flt.frond) :
    s.doUnfence true i =
      (({ s with flt := { s.flt with clrKind := 1, clrIdx := i, frond := s.flt.frond.filter (fun x => decide (x ≠ i)) } } : State).unfenced).clrEnd 0 := by
  have ho' : ({ s with flt := { s.flt with clrKind := 1, clrIdx := i } } : State).open_ = true := ho
  simp only [State.doUnfence, if_true, ho', Bool.not_true, Bool.false_eq_true, if_false, hi]

/-- A port that is not OFF keeps its state. -/
theorem State.doUnfence_port {s : State} {i : Nat} (ho : s.open_ = true) (hi : i ∈ s.flt.fport) (hp : (s.port i).state ≠ .off) :
    s.doUnfence false i =
      (({ s with flt := { s.flt with clrKind := 0, clrIdx := i, fport := s.flt.fport.filter (fun x => decide (x ≠ i)) } } : State).unfenced).clrEnd 0 := by
  have ho' : ({ s with flt := { s.flt with clrKind := 0, clrIdx := i } } : State).open_ = true := ho
  have hp' : ∀ f : Flt, (({ s with flt := f } : State).port i).state ≠ .off := fun _ => hp
  simp only [State.doUnfence, Bool.false_eq_true, if_false, ho', Bool.not_true, hi, if_true, hp', decide_false, Bool.false_and]

theorem faultCommands : Claims.FaultCommands := by
  refine ⟨fun s r rs h => ?pop, fun s i ho hi => congrArg Host.Outcome.next (State.doUnfence_frond ho hi),
    fun s i ho hi hp => congrArg Host.Outcome.next (State.doUnfence_port ho hi hp)⟩
  case pop =>
    change Host.Outcome.next s.doPop = _
    rw [State.doPop, h, List.drop_one, List.tail_cons]

/-! ### Commands of the Capsule (R575, R579 to R585, R591) -/

theorem State.snapNext_of_noSnap {s : State} (h : s.cap.snapWait = false) : s.snapNext = s := by
  rw [State.snapNext, h]
  rfl

theorem State.snapNext_of_dumping {s : State} (h : s.cap.dumping = true) : s.snapNext = s := by
  rw [State.snapNext, h, Bool.not_true, Bool.and_false]
  rfl

/-- ARM with slots of its own, an aligned base and host memory as its destination answers OK. -/
theorem State.doArm_ok {s : State} (hslots : s.cap.slots ≠ 0) (hbase : s.cap.base.toNat % 4096 = 0) (hdest : capDest s.cap = false)
    (hsnap : s.cap.snapWait = false) (hper : s.cap.period = 0) :
    s.doArm = { s with cap := { s.cap with status := 0, armed := true, disarming := false, seq := 0, head := 0, skipped := 0, lastEdge := 0 } } := by
  simp only [State.doArm, if_neg hslots, hbase, ne_eq, not_true, if_false, hdest, Bool.false_eq_true, false_and, if_true, State.modCap, hper]
  exact State.snapNext_of_noSnap hsnap

theorem State.doSnap_of_dumping {s : State} (hd : s.cap.dumping = true) (hw : s.cap.snapWait = false) :
    s.doSnap = { s with cap := { s.cap with snapBusy := true, snapWait := true } } := by
  rw [State.doSnap, if_neg (by rw [hw]; exact Bool.false_ne_true)]
  exact State.snapNext_of_dumping hd

/-- A periodic edge of an armed reader takes a latch, or counts as skipped while a dump runs. -/
theorem exec_capsuleLatch_edge {s : State} (ha : s.cap.armed = true) (hd : s.cap.disarming = false) (hp : s.cap.period ≠ 0)
    (he : s.cap.lastEdge < s.capTime / (1000 * s.cap.period.toNat)) :
    exec .capsuleLatch s = .next (
      let u : State := { s with cap := { s.cap with lastEdge := s.capTime / (1000 * s.cap.period.toNat) } }
      if s.cap.dumping then ((u.modCap (fun c => { c with skipped := c.skipped + 1 })).bump (cGlb 101)).irq 0 17 else u.latch) := by
  refine congrArg Host.Outcome.next ((if_neg ?_).trans (if_neg (Nat.not_le.2 he)))
  simp [ha, hd, show s.cap.period ≠ 0#20 from hp]

theorem exec_dumpEnd_toHost {s : State} {h : CapHdr} (hd : s.cap.dumping = true) (hh : s.cap.hdr = some h) (hdest : capDest s.cap = false)
    (hdma : s.dmaOk = true) :
    exec (.dumpEnd .done) s = .next (((s.emit (.dma (s.cap.base + BitVec.ofNat 64 (capSlotAt s.cap) + 64) (capBody s.cap))).emit
      (.dma (s.cap.base + BitVec.ofNat 64 (capSlotAt s.cap)) (capHeader s.cap h))).headerOut) := by
  change execDumpEnd .done s = _
  simp only [execDumpEnd, hd, hh, hdest, hdma, Bool.not_true, Bool.false_eq_true, if_false]

/-- A write of the controller writer that its Gate had put off is sent again. -/
theorem exec_retryResend_due {s : State} {d : Nat} {t : KTime} (hr : s.cap.retryAt = some t) (hd : s.cap.dumping = true) (hdest : capDest s.cap = true)
    (hk : capCdom s.cap = d) (ht : t ≤ s.kt d) :
    exec (.retryResend d) s = .next (({ s with cap := { s.cap with retryAt := none } } : State).writerSend) := by
  change execRetryResend d s = _
  simp only [execRetryResend, hr]
  exact congrArg Host.Outcome.next (if_pos (by simp [hd, hdest, hk, ht]))

theorem capsuleCommands : Claims.CapsuleCommands := by
  refine ⟨fun s hs hb hd hw hp => congrArg Host.Outcome.next (State.doArm_ok hs hb hd hw hp), fun s hd => ?disarmLater, fun s hd => ?disarm,
    fun s hd hw => congrArg Host.Outcome.next (State.doSnap_of_dumping hd hw), fun s k => ⟨_, rfl, ?zero, rfl⟩, fun s ha hd hp he hr => ?skipped,
    fun s ha hd hp he hr => ?latch, fun s h hd hh hdest hbme hd3 => exec_dumpEnd_toHost hd hh hdest ?dma,
    fun s d t hr hd hdest hk ht => exec_retryResend_due hr hd hdest hk ht, fun s p k hp => ?page⟩
  case disarmLater => exact congrArg (fun c => Host.Outcome.next { s with cap := c }) (if_pos hd)
  case disarm => exact congrArg (fun c => Host.Outcome.next { s with cap := c }) (if_neg (ne_true_of_eq_false hd))
  case zero => exact tget_filter_key 0 alwaysOnCnt s.cnt k
  case skipped => exact (exec_capsuleLatch_edge ha hd hp he).trans (congrArg Host.Outcome.next (if_pos hr))
  case latch => exact (exec_capsuleLatch_edge ha hd hp he).trans (congrArg Host.Outcome.next (if_neg (ne_true_of_eq_false hr)))
  case dma => rw [State.dmaOk, hbme, hd3]; rfl
  case page =>
    have hz : exec (.pageZero .pf0 p []) s = .next (s.pageZero p []) := congrArg Host.Outcome.next (if_pos hp)
    refine ⟨_, hz, (tget_filter_key 0 (fun k => !(decide (cPage p 0 ≤ k) && decide (k < cPage p 32))) s.cnt k).trans ?_, rfl⟩
    by_cases hk : cPage p 0 ≤ k ∧ k < cPage p 32 <;> simp [hk]

/-- Settles O16: each command meets its condition and takes its one branch. -/
theorem faultAndCapsuleCommands : Obligations.FaultAndCapsuleCommands := ⟨faultCommands, capsuleCommands⟩

/-! ### How a record enters (R458 to R460) -/

@[simp] theorem State.peat_flt (s : State) (typ : Byte) (body : BitVec 96) : (s.peat typ body).flt = s.flt := by
  obtain ⟨m, hm⟩ := s.peat_frame typ body
  rw [hm]

@[simp] theorem State.irq_flt (s : State) (fn vec : Nat) : (s.irq fn vec).flt = s.flt := by
  obtain ⟨H, O, h⟩ := s.irq_frame fn vec
  rw [h]

@[simp] theorem State.irq_mram (s : State) (fn vec : Nat) : (s.irq fn vec).mram = s.mram := by
  obtain ⟨H, O, h⟩ := s.irq_frame fn vec
  rw [h]

/-- While the Medulla runs an entry takes the next number, after those of the live entries that it copies forward. -/
theorem State.peat_peatSeq_lt {s : State} (h : s.start.firmDone = true) (typ : Byte) (body : BitVec 96) :
    s.mram.peatSeq < (s.peat typ body).mram.peatSeq := by
  unfold State.peat
  rw [h]
  exact Nat.lt_succ_of_le (peatRoom_seq true _ 2048 s.mram)

/-- A record as it enters: numbered, and stamped with the times of its source. -/
def State.stamped (s : State) (r : ErrRec) : ErrRec :=
  { r with seq := s.flt.seq + 1, dtime := s.devNs, ktime := if r.source = .global then 0 else BitVec.ofNat 64 (s.ktNs r.domain), peat := decide (1 ≤ r.sev) }

/-- The faults block with the number of the next record taken. -/
def State.numbered (s : State) : Flt := { s.flt with seq := s.flt.seq + 1 }

theorem State.enterRec_flt (s : State) (r : ErrRec) : (s.enterRec r).flt = (fifoPut s.numbered (s.stamped r)).1 := by
  simp only [State.enterRec, apply_ite State.flt, State.irq_flt, State.peat_flt, State.bump_flt, ite_self]
  rfl

theorem State.enterRec_mram_of_corrected {s : State} {r : ErrRec} (h : r.sev = 0) : (s.enterRec r).mram = s.mram := by
  have hinfo : ¬ 1 ≤ r.sev := by omega
  simp only [State.enterRec, if_neg hinfo, apply_ite State.mram, State.irq_mram, State.bump_mram, ite_self]

theorem State.enterRec_peatSeq_lt {s : State} {r : ErrRec} (h : 1 ≤ r.sev) (hf : s.start.firmDone = true) :
    s.mram.peatSeq < (s.enterRec r).mram.peatSeq := by
  have hput (k : State) (hm : k.mram = s.mram) (hs : k.start = s.start) (typ : Byte) (body : BitVec 96) :
      s.mram.peatSeq < (k.peat typ body).mram.peatSeq := by
    rw [← hm]
    exact State.peat_peatSeq_lt (hs ▸ hf) typ body
  simp only [State.enterRec, if_pos h, apply_ite State.mram, State.irq_mram, ite_self]
  refine hput _ ?_ ?_ _ _
  · simp only [apply_ite State.mram, State.bump_mram, ite_self]
  · simp only [apply_ite State.start, State.bump_start, ite_self]

/-! ### The FIFO (R460) -/

theorem fifoPut_of_room {f : Flt} (h : f.fifo.length < 256) (r : ErrRec) : fifoPut f r = ({ f with fifo := f.fifo ++ [r] }, true) := if_pos h

theorem fifoPut_of_full {f : Flt} {r : ErrRec} (hlen : f.fifo.length = 256) (h : r.sev < 2 ∨ ∀ y ∈ f.fifo, y.sev ≠ 0) :
    fifoPut f r = ({ f with lost := min (f.lost + 1) 65535, lostRec := true }, false) := by
  have hkept : ¬ (2 ≤ r.sev ∧ f.fifo.any (fun x => x.sev = 0) = true) := by
    rintro ⟨hsev, hany⟩
    obtain ⟨y, hy, hy0⟩ := List.any_eq_true.1 hany
    rcases h with h | h
    · omega
    · exact h y hy (of_decide_eq_true hy0)
  rw [fifoPut, if_neg (by omega), if_neg hkept]

theorem rmFirstP_append_cons {α : Type} {p : α → Bool} {a : List α} (ha : ∀ y ∈ a, p y = false) {c : α} (hc : p c = true) (b : List α) :
    rmFirstP p (a ++ c :: b) = a ++ b := by
  induction a with
  | nil => exact if_pos hc
  | cons y a ih =>
    obtain ⟨hy, ha⟩ := List.forall_mem_cons.1 ha
    rw [List.cons_append, rmFirstP, if_neg (by rw [hy]; exact Bool.false_ne_true), ih ha, List.cons_append]

theorem fifoPut_of_oldest {f : Flt} {r c : ErrRec} {a b : List ErrRec} (hlen : f.fifo.length = 256) (hsev : 2 ≤ r.sev) (hf : f.fifo = a ++ c :: b)
    (hc : c.sev = 0) (ha : ∀ y ∈ a, y.sev ≠ 0) : fifoPut f r = ({ f with fifo := a ++ b ++ [r] }, true) := by
  have hany : f.fifo.any (fun x => x.sev = 0) = true := by
    rw [hf]
    simp [hc]
  rw [fifoPut, if_neg (by omega), if_pos ⟨hsev, hany⟩, hf, rmFirstP_append_cons (fun y hy => decide_eq_false (ha y hy)) (decide_eq_true hc)]

/-- Settles O56: the numbered record goes into the FIFO by the case of `fifoPut` that its room and severities choose. -/
theorem errorRecords : Obligations.ErrorRecords := by
  refine fun s r => ⟨fun hroom => ?room, fun hlen a c b hsev hf hc ha => ?oldest, fun hlen h => ?full, State.enterRec_peatSeq_lt,
    State.enterRec_mram_of_corrected⟩
  case room =>
    rw [State.enterRec_flt, fifoPut_of_room (f := s.numbered) hroom]
    exact ⟨s.stamped r, rfl, rfl, rfl, rfl, rfl⟩
  case oldest =>
    rw [State.enterRec_flt, fifoPut_of_oldest (f := s.numbered) (r := s.stamped r) hlen hsev hf hc ha]
    exact ⟨s.stamped r, rfl, rfl, rfl, rfl, rfl⟩
  case full =>
    rw [State.enterRec_flt, fifoPut_of_full (f := s.numbered) (r := s.stamped r) hlen h]
    exact ⟨rfl, rfl⟩

/-! ### The drain of a fenced slice, and the end of a hand-over (R447 to R450, R600) -/

/-- A drain step that is due takes the next line as victim, unless the line has an MSHR. -/
theorem exec_sliceDrainStep {s : State} {n d k : Nat} {D : ImgDomain} (hd : s.nodeDom n = some (d, D)) (hrun : (s.slice n).drain.running = true)
    (hat : (s.slice n).drain.startAt ≤ s.clk.fclk) (hf : s.isFenced (.router n) = false) (hpoison : (s.slice n).drain.poison = false)
    (hnext : s.drainNext n D = some k) (hm : s.mshrOf n (D.lineOf (s.tagAt n k).origin.toNat (k / D.ways) (s.tagAt n k).tag) = none) :
    exec (.sliceDrainStep n) s = .next (
      let u := (s.modSlice n (fun y => { y with drain := { y.drain with next := k + 1, startAt := s.clk.fclk + 16 } })).bump (cSlc n 32)
      let v := u.modTag n k (fun t => { t with lock := false })
      v.takeVictim n d D k (v.drainKey n) 64) := by
  have hm' : ((s.modSlice n (fun y => { y with drain := { y.drain with next := k + 1, startAt := s.clk.fclk + 16 } })).bump (cSlc n 32)).mshrOf n
      (D.lineOf (s.tagAt n k).origin.toNat (k / D.ways) (s.tagAt n k).tag) = none := by
    rw [State.mshrOf, State.bump_slice_of, State.modSlice_slice_self]
    exact hm
  change execSliceDrainStep n s = _
  simp only [execSliceDrainStep, hd, hrun, hnext, hf, hpoison, hm', Nat.not_lt.2 hat, Bool.not_true, decide_false, Bool.or_self, Bool.false_eq_true, if_false,
    Bool.false_and]

/-- Settles O35: each command finds its engine running and meets its condition. -/
theorem drainAndHandover : Obligations.DrainAndHandover := by
  refine ⟨fun s n d k D hd hrun hat hf hpoison hnext hm => exec_sliceDrainStep hd hrun hat hf hpoison hnext hm,
    fun s n d D hd hrun hnext houts hmshr => ?drainEnd, fun s n d D hd hover habs hleft => ?handoverEnd⟩
  case drainEnd =>
    change execDrainEnd n s = _
    simp only [execDrainEnd, hd, hrun, hnext, houts, hmshr, Bool.not_true, Option.isSome_none, List.isEmpty_nil, Bool.or_self, Bool.false_eq_true, if_false]
  case handoverEnd =>
    change execHandoverEnd n s = _
    simp only [execHandoverEnd, hd, hover, habs, hleft, Bool.not_true, List.isEmpty_nil, Bool.or_self, Bool.false_eq_true, if_false]

end Sys2Proof.Machine

/-! ## Proofs of the families 13_thallus_image to 17_counters: images, the mailbox, attestation, power and PMBus, counters, and what every step keeps -/

namespace Sys2Proof.Machine

open Sys2Proof

/-! ### What every step keeps -/

/-- Settles O44: on an empty queue `step` is one clock edge. -/
theorem stepRunsTheFrontCommand : Obligations.StepRunsTheFrontCommand := by
  refine ⟨fun c s => rfl, fun s h => ?_⟩
  rw [step, h]

/-- Settles O45: the queue, what has left and the count of free values are among the facts that every command keeps. -/
theorem everyCommandCompletes : Obligations.EveryCommandCompletes := by
  intro c s
  obtain ⟨t, ht, hpending, -, -, -, -, hout, hfree, -⟩ := exec_keeps c (Keeps.refl true s)
  exact ⟨t, ht, hpending, hout, hfree⟩

theorem Keeps.peatSeq_le {b : Bool} {s t : State} (h : Keeps b s t) : s.mram.peatSeq ≤ t.mram.peatSeq := by
  obtain ⟨-, -, -, -, hpeat, -⟩ := h
  exact hpeat

/-- Settles O50: the numbering is one of the facts that every command and every edge keeps. -/
theorem peatNumbersNeverFall : Obligations.PeatNumbersNeverFall := by
  intro s t hstep
  obtain ⟨q, hk⟩ := step_keeps hstep
  exact hk.peatSeq_le

theorem Keeps.canonical {b : Bool} {s t : State} (h : Keeps b s t) (hs : s.canonical = true) : t.canonical = true := by
  obtain ⟨-, -, -, -, -, -, -, kslices, khomes, kgates, krouters, kpools, kports, kdoms, ksphMax, kcnt, ktpages, kslow, kacc⟩ := h
  simp only [State.canonical, Bool.and_eq_true] at hs ⊢
  obtain ⟨⟨⟨⟨⟨⟨⟨⟨⟨⟨⟨hdoms, hsphMax⟩, hslices⟩, hhomes⟩, hgates⟩, hrouters⟩, hpools⟩, hports⟩, hcnt⟩, htpages⟩, hslow⟩, hacc⟩ := hs
  exact ⟨⟨⟨⟨⟨⟨⟨⟨⟨⟨⟨kdoms hdoms, ksphMax hsphMax⟩, kslices hslices⟩, khomes hhomes⟩, kgates hgates⟩, krouters hrouters⟩, kpools hpools⟩, kports hports⟩,
    kcnt hcnt⟩, ktpages htpages⟩, kslow hslow⟩, kacc hacc⟩

/-- Settles O49: each table's canonical form is one of the facts that every command and every edge keeps. -/
theorem tablesStayCanonical : Obligations.TablesStayCanonical := by
  intro s t hs hstep
  obtain ⟨q, hk⟩ := step_keeps hstep
  exact hk.canonical hs

/-! ### A CONFIRM that runs already (R478, R486) -/

/-- A CONFIRM that the state shows as running ends without a look at the trial: here slot A is on trial and no slot is in force, and the floor still takes SEQ 1. -/
def confirmRunning : State :=
  { State.reset with start := { mode := .serving }, mram := { trial := .a }, imgc := { op := 4, run := true, img := some { seq := 1 } } }

theorem exec_imgConfirm_confirmRunning : ∃ t, exec .imgConfirm confirmRunning = .next t ∧ t.mram.floor = 1 :=
  ⟨confirmRunning.imgConfirm, rfl, rfl⟩

/-- Refutes O52: in `confirmRunning` the floor goes from 0 to 1 although slot A, which is on trial, is not the slot in force. -/
theorem not_floorChangesOnlyAtConfirm : ¬ Obligations.FloorChangesOnlyAtConfirm := by
  intro h
  obtain ⟨t, hexec, hfloor⟩ := exec_imgConfirm_confirmRunning
  have hold : confirmRunning.mram.floor = 0 := rfl
  obtain ⟨-, htrial, -⟩ := h .imgConfirm confirmRunning t hexec (by omega)
  exact absurd htrial (by decide)

/-! ### The vectors of CHECK (R497) -/

/-- Settles O59: the vectors with one error at most are cases of the laws of the code; the others are decoded, the mark through `markCw`. -/
theorem checkVectors : Obligations.CheckVectors := by
  obtain ⟨hclean0, -⟩ := codewordsAreCorrected false 0
  obtain ⟨hclean1, -⟩ := codewordsAreCorrected true 0xFFFFFFFFFFFFFFFF
  obtain ⟨-, hsingle, -⟩ := codewordsAreCorrected false 0xA5A55A5AC33C0FF0
  obtain ⟨-, -, hmark, -⟩ := codewordsAreCorrected false 0
  obtain ⟨-, -, -, hmoved⟩ := codewordsAreCorrected true 0x0123456789ABCDEF
  have hdouble : decodeCw false (flipPos (flipPos (encodeCw false 0xA5A55A5AC33C0FF0) 0) 78) = (.corrected 0 (some 78), 0xA5A55A5AC33C0FF0) := by decide +kernel
  have hue : (decodeCw false (flipPos (flipPos (flipPos (encodeCw false 0xA5A55A5AC33C0FF0) 3) 40) 77)).1 = .ue := by decide +kernel
  have hflips : flipPos (flipPos (flipPos (encodeCw false 0) 0) 1) 2 = markCw false 0 := by decide +kernel
  refine ⟨hclean0, hclean1, hsingle 15 (by decide), hsingle 79 (by decide), hdouble, hue, hflips ▸ hmark, congrArg Prod.fst hmoved⟩

/-! ### Counters (R571) -/

theorem satAdd_eq (v n : Nat) : satAdd v n = min (v + n) (2 ^ 48 - 1) := rfl

/-- Settles O53: `bumpN` writes one key of the table. -/
theorem countersAddAndStop : Obligations.CountersAddAndStop := by
  refine fun s k n _ => ⟨?_, fun j hj => ?_, rfl, fun hfull => ?_⟩
  · rw [State.bumpN_read, if_pos rfl, satAdd_eq]
  · rw [State.bumpN_read, if_neg hj]
  · rw [State.bumpN_read, if_pos rfl, satAdd_eq, hfull]
    omega

/-! ### ZERO (R575) -/

/-- What ZERO adds for one increment: nothing to a counter of the always-on domain. -/
def State.zeroAdd (s : State) (i : Nat × Nat) : State := if alwaysOnCnt i.1 then s else s.bumpN i.1 (i.2 % 4096)

theorem State.zeroAdd_read (s : State) (i : Nat × Nat) (k : Nat) :
    tget 0 (s.zeroAdd i).cnt k = if k = i.1 ∧ alwaysOnCnt k = false then satAdd (tget 0 s.cnt k) (i.2 % 4096) else tget 0 s.cnt k := by
  unfold State.zeroAdd
  split
  next hon => rw [if_neg (by rintro ⟨rfl, h⟩; simp [hon] at h)]
  next hoff =>
    rw [State.bumpN_read]
    by_cases hk : k = i.1
    · subst hk; simp [hoff]
    · simp [hk]

theorem zeroAdd_foldl_frame (incs : List (Nat × Nat)) (s : State) : incs.foldl State.zeroAdd s = { s with cnt := (incs.foldl State.zeroAdd s).cnt } := by
  induction incs generalizing s with
  | nil => rfl
  | cons i incs ih =>
    rw [List.foldl_cons, ih]
    unfold State.zeroAdd
    split <;> rfl

theorem zeroAdd_foldl_alwaysOn {k : Nat} (hk : alwaysOnCnt k = true) (incs : List (Nat × Nat)) (s : State) :
    tget 0 (incs.foldl State.zeroAdd s).cnt k = tget 0 s.cnt k := by
  induction incs generalizing s with
  | nil => rfl
  | cons i incs ih => rw [List.foldl_cons, ih, State.zeroAdd_read, if_neg (by simp [hk])]

theorem zeroAdd_foldl_of_notMem {k : Nat} {incs : List (Nat × Nat)} (hk : k ∉ incs.map (·.1)) (s : State) :
    tget 0 (incs.foldl State.zeroAdd s).cnt k = tget 0 s.cnt k := by
  induction incs generalizing s with
  | nil => rfl
  | cons i incs ih =>
    simp only [List.map_cons, List.mem_cons, not_or] at hk
    obtain ⟨hi, hk⟩ := hk
    rw [List.foldl_cons, ih hk, State.zeroAdd_read, if_neg (fun h => hi h.1)]

theorem zeroAdd_foldl_of_mem {k n : Nat} {incs : List (Nat × Nat)} (hoff : alwaysOnCnt k = false) (hnodup : (incs.map (·.1)).Nodup)
    (hmem : (k, n) ∈ incs) (hn : n < 4096) (s : State) (hs : tget 0 s.cnt k = 0) : tget 0 (incs.foldl State.zeroAdd s).cnt k = n := by
  induction incs generalizing s with
  | nil => cases hmem
  | cons i incs ih =>
    obtain ⟨hnot, hnodup⟩ := List.nodup_cons.1 hnodup
    rw [List.foldl_cons]
    rcases List.mem_cons.1 hmem with rfl | hmem
    · rw [zeroAdd_foldl_of_notMem hnot, State.zeroAdd_read, if_pos ⟨rfl, hoff⟩, hs, satAdd_eq]
      omega
    · have hkey : k ∈ incs.map (·.1) := List.mem_map_of_mem hmem
      have hne : k ≠ i.1 := by
        rintro rfl
        exact hnot hkey
      exact ih hnodup hmem _ (by rw [State.zeroAdd_read, if_neg (fun h => hne h.1), hs])

/-- Settles O54: what is left after the clear is the always-on domain, and each increment is counted once from zero. -/
theorem zeroClearsCounters : Obligations.ZeroClearsCounters := by
  intro s incs hnodup hlt
  have hcleared (k : Nat) : tget 0 ({ s with cnt := s.cnt.filter (fun e => alwaysOnCnt e.1) } : State).cnt k = if alwaysOnCnt k then tget 0 s.cnt k else 0 :=
    tget_filter_key 0 alwaysOnCnt s.cnt k
  refine ⟨incs.foldl State.zeroAdd { s with cnt := s.cnt.filter (fun e => alwaysOnCnt e.1) }, rfl, zeroAdd_foldl_frame _ _, fun k hon => ?on,
    fun k n hoff hmem => ?counted, fun k hoff hk => ?zero⟩
  case on => rw [zeroAdd_foldl_alwaysOn hon, hcleared, if_pos hon]
  case counted => exact zeroAdd_foldl_of_mem hoff hnodup hmem (hlt _ hmem) _ (by rw [hcleared, hoff]; rfl)
  case zero => rw [zeroAdd_foldl_of_notMem hk, hcleared, hoff]; rfl

/-! ### The power supervisor (R516, R520, R521, R537) -/

/-- The first cause of a power fail is the one that stands. -/
theorem State.drivePfw_first {s : State} (h : s.pwr.offCause = .none) (c : LastOff) :
    s.drivePfw c = { s with pwr := { s.pwr with pfwOut := true, offCause := c } } := by
  rw [State.drivePfw, if_pos h]

theorem padTo_of_length {n : Nat} {l : List Int} (h : l.length = n) : padTo n l = l := by
  simp [padTo, h]

/-- Settles O2: each event meets its condition, and the supervisor drives PFW_N for the first cause. -/
theorem supervisorEvents : Obligations.SupervisorEvents := by
  refine ⟨fun mv s hvalid hmv => ?dip, fun s hvalid hdip hdue hoff => ?timer, fun bank s hvalid hdip hbank hoff => ?warnEnergy,
    fun mv bank s hdip hmv hout => ?ride, fun mv s hmv hoff => ?overvolt, fun c s hc => ?warn, fun k c s hk hc hoff hdie => ?trip⟩
  case dip =>
    change execVinDip mv s = _
    rw [execVinDip, if_pos ⟨hvalid, hmv⟩]
    rfl
  case timer =>
    change execDipTimer s = _
    rw [execDipTimer, if_pos ⟨hvalid, hdip, hdue⟩, State.drivePfw_first hoff]
  case warnEnergy =>
    change execEWarn bank s = _
    rw [execEWarn, if_pos ⟨hvalid, hdip, hbank⟩, State.drivePfw_first]
    exact hoff
  case ride =>
    change execRide mv bank s = _
    rw [execRide, if_pos ⟨hdip, hmv, hout⟩]
  case overvolt =>
    change execOvervolt mv s = _
    rw [execOvervolt, if_pos hmv, State.drivePfw_first hoff]
    rfl
  case warn =>
    have hwarn : (sensorOk .inlet && atWarn .inlet c) = true := by simp [sensorOk, atWarn, hc]
    have hbit : warnBit .inlet c = 6 := if_neg (by omega)
    change execWarn .inlet c s = _
    rw [execWarn, if_pos hwarn, hbit]
    rfl
  case trip =>
    have htrip : (sensorOk (.die k) && atTrip (.die k) c) = true := by simp [sensorOk, atTrip, hk, hc]
    change execThermal (.die k) c s = _
    rw [execThermal, if_pos htrip, State.setSensor, padTo_of_length hdie, State.drivePfw_first]
    · rfl
    · exact hoff

/-! ### PMBus transfers (R532 to R534, R537) -/

theorem pmbusReads : Claims.PmbusReads := by
  refine fun s => ⟨rfl, rfl, rfl, rfl, rfl, rfl, rfl, rfl, rfl, rfl, rfl, rfl, rfl, rfl, rfl, rfl, rfl, rfl, rfl, rfl, rfl, rfl⟩

/-- A read with a wrong PEC is not carried out. -/
theorem exec_pmbusRead_badPec (s : State) : ∀ c ∈ Claims.pmbusRead, exec (c false) s = .next (s.pmbCml 6) := by
  simp only [Claims.pmbusRead, List.forall_mem_cons]
  refine ⟨rfl, rfl, rfl, rfl, rfl, rfl, rfl, rfl, rfl, rfl, rfl, rfl, rfl, rfl, rfl, rfl, rfl, rfl, rfl, rfl, rfl, rfl, rfl, ?_⟩
  simp

theorem State.bump_ite_frame (s : State) (b : Prop) [Decidable b] (k : Nat) :
    ∃ T, (if b then s.bump k else s) = { s with cnt := T } := by
  split
  · exact ⟨_, rfl⟩
  · exact ⟨_, rfl⟩

theorem pmbusTransfers : Claims.PmbusTransfers := by
  refine fun s => ⟨exec_pmbusRead_badPec s, fun v => rfl, fun v hv => ?page, fun v hv => ?badPage, rfl, fun c w hc => ?invalid, fun hlow => ?nack,
    fun halert hnone => ?response, fun x => ?refresh⟩
  case page =>
    change Host.Outcome.next (if v.toNat ≤ 4 then _ else _) = _
    rw [if_pos hv]
  case badPage =>
    change Host.Outcome.next (if v.toNat ≤ 4 then _ else _) = _
    rw [if_neg (by omega)]
  case invalid =>
    change execPmbusInvalidCommand c w s = _
    rw [execPmbusInvalidCommand, if_pos hc]
  case nack =>
    change execAlertResponse s = _
    rw [execAlertResponse, hlow]
    rfl
  case response =>
    have hnone' : (s.emit (.pmbus [(s.pmb.addr.setWidth 8) <<< 1])).anyCond = false := hnone
    refine ⟨{ s.emit (.pmbus [(s.pmb.addr.setWidth 8) <<< 1]) with pmb := { s.pmb with alert := false } }, ?_, rfl, rfl⟩
    change execAlertResponse s = _
    rw [execAlertResponse, if_pos halert]
    dsimp only
    rw [hnone', if_neg Bool.false_ne_true]
    rfl
  case refresh =>
    change ∃ t, execSensorRefresh x s = .next t ∧ _
    rw [execSensorRefresh]
    dsimp only
    obtain ⟨T, hT⟩ := State.bump_ite_frame _ (4800 ≤ x.iin) (cGlb 95)
    rw [hT]
    refine ⟨_, rfl, rfl, rfl, rfl, rfl, rfl, rfl, rfl, rfl, rfl, rfl, rfl, fun halert => ?_⟩
    exact (congrArg (· || _) halert).trans (Bool.true_or _)

/-- Settles O42: a right PEC lets the transfer through and a wrong one does not; each other transfer meets the condition of its case. -/
theorem pmbusCommands : Obligations.PmbusCommands := ⟨pmbusReads, pmbusTransfers⟩

/-! ### SPDM, the IDE stream, configuration requests and vectors (R540, R561 to R565) -/

theorem State.spdmUp_of_firm {s : State} (hreset : s.host.inReset = false) (hfirm : s.start.firmDone = true) : s.spdmUp = true := by
  simp [State.spdmUp, hreset, hfirm]

theorem spdmAnswers {s : State} (h : s.spdmUp = true) :
    (∀ bl, execMeasurements bl s = .next (s.spdmAnswer 0x60 (bl.filterMap s.measure) true))
    ∧ (∀ slot, execCert slot s = .next (s.spdmAnswer 0x02 (if slot = 0 then Config.certChain.map wide else []) false))
    ∧ (∀ nonce, execChal nonce s = .next (s.spdmAnswer 0x03 (wide nonce :: Config.certChain.map wide) true)) :=
  ⟨fun bl => by rw [execMeasurements, if_pos h], fun slot => by rw [execCert, if_pos h], fun nonce => by rw [execChal, if_pos h]⟩

theorem State.sendPba_of_notPending {s : State} {fn vec : Nat} (h : vec ∉ (s.msix fn).pba) : s.sendPba fn vec = s := if_neg h

theorem execConfigurationRequest_ready {s : State} (hreset : s.host.inReset = false) (hfirm : s.start.firmDone = true) (x : CfgReq) :
    execConfigurationRequest x s = .next (match x with
      | .read fn => (if fn ≤ 16 then s.emit (.cfgRead fn (configId fn)) else s).emit (.cfgDone .ok)
      | _ => (s.cfgReq x).emit (.cfgDone .ok)) := by
  unfold execConfigurationRequest
  rw [hreset, hfirm]
  cases x <;> rfl

/-- Settles O7: each answer, request and vector meets the condition of its command. -/
theorem attestationAndIde : Obligations.AttestationAndIde := by
  refine ⟨fun s hreset hfirm => ?spdm, fun s hide => ?fail, fun fn vec s hheld hdue => ?held, fun fn vec s hreset hvec hpba => ?unmask,
    fun s hreset hfirm => ?config⟩
  case spdm =>
    have hup := State.spdmUp_of_firm hreset hfirm
    obtain ⟨hmeas, hcert, hchal⟩ := spdmAnswers hup
    refine ⟨hmeas, hcert 0, hchal, fun share => ?_, fun k hk => ⟨?_, fun key => ?_⟩⟩
    · change ∃ t, execKeyEx share s = .next t ∧ _
      rw [execKeyEx, if_pos hup]
      exact ⟨_, rfl, rfl, rfl, rfl, List.length_append⟩
    · change execHbeat k s = _
      rw [execHbeat, if_pos ⟨hup, hk⟩]
      rfl
    · change execIdeKm k key s = _
      rw [execIdeKm, if_pos ⟨hup, hk⟩]
  case fail =>
    change execIdeCheckFail s = _
    rw [execIdeCheckFail, if_pos hide]
  case held =>
    change execMsixPendingSend fn vec s = _
    rw [execMsixPendingSend]
    exact congrArg _ (if_pos ⟨hheld, hdue⟩)
  case unmask =>
    change execVectorUnmask fn vec s = _
    rw [execVectorUnmask, if_pos ⟨hvec, hreset⟩, State.sendPba_of_notPending]
    rw [State.modMsix_msix_self]
    exact hpba
  case config =>
    have hready := execConfigurationRequest_ready hreset hfirm
    refine ⟨hready (.setPower true), hready (.read 0), fun k hk hk16 => (hready (.read k)).trans ?_⟩
    dsimp only
    rw [if_pos hk16, configId, if_neg (by omega)]

/-! ### The mailbox (R502, R566 to R570) -/

theorem State.dmaOk_of_bme {s : State} (hbme : s.host.bme = true) (hd3 : s.host.d3hot = false) : s.dmaOk = true := by
  simp [State.dmaOk, hbme, hd3]

theorem State.mbxCmd_running {s : State} {op : Nat} {b : Bool} (hready : s.mbxReady = true) (hrun : s.mbx.run = true) (hop : s.mbx.op = op)
    (hb : s.mbx.slotB = b) (hne : op ≠ 6) (f : State → State) : s.mbxCmd op b f = f s := by
  simp [State.mbxCmd, hready, hrun, hop, hb, hne]

/-- An OWNER command draws a new NONCE when it ends. -/
theorem State.mbxCmd_running_owner {s : State} (hready : s.mbxReady = true) (hrun : s.mbx.run = true) (hop : s.mbx.op = 6) (f : State → State) :
    s.mbxCmd 6 s.mbx.slotB f = (f s).newNonce := by
  simp [State.mbxCmd, hready, hrun, hop]

theorem State.mbxFetch_of_dmaOk {s : State} (h : s.dmaOk = true) (bytes : List Byte) : s.mbxFetch bytes true = some (bytes.take s.mbx.reqLen.toNat) := by
  simp [State.mbxFetch, h]

theorem State.mbxRespond_of_dmaOk {s : State} (h : s.dmaOk = true) (bytes : List Byte) :
    s.mbxRespond bytes true = (s.emit (.dma s.mbx.rsp bytes)).mbxEnd .ok bytes.length := by
  simp [State.mbxRespond, h]

theorem State.fileWrite_of_free {s : State} {fw : Bool} {k : SlotName} (h : s.dmaOk = true) (hk : (if fw then s.start.fwUse else s.start.mcUse) ≠ k)
    (bytes : List Byte) : s.fileWrite fw k bytes true =
      let bs := bytes.take s.mbx.reqLen.toNat
      if fileFormat fw s.mbx.reqLen.toNat bs = false then (s.setFile fw k none).mbxEnd .format 0
      else if fileSigned bs = false then (s.setFile fw k none).mbxEnd .signature 0
      else if fileRev (readFile bs) = false then (s.setFile fw k none).mbxEnd .hwrev 0
      else (s.setFile fw k (some (readFile bs))).mbxEnd .ok 0 := by
  rw [State.fileWrite, if_neg hk, State.mbxFetch_of_dmaOk h]
  simp only [Bool.not_eq_true']

theorem State.fileVerify_of_file {s : State} {fw : Bool} {k : SlotName} {f : CodeFile} (h : s.codeFile fw k = some f) :
    s.fileVerify fw k = if fileRev f then s.mbxEnd .ok 0 else (s.setFile fw k none).mbxEnd .hwrev 0 := by
  rw [State.fileVerify, h]

theorem State.owner_of_dmaOk {s : State} (h : s.dmaOk = true) (fill : Bool) (bytes : List Byte) :
    (s.owner fill bytes true).newNonce =
      let bs := bytes.take s.mbx.reqLen.toNat
      if s.ownerResult fill bs = .ok then
        ((s.setOwner (rdB bs 0) (if fill then some (BitVec.ofNat 512 (rdN bs 20 64)) else none)).mbxEnd .ok 0).newNonce
      else (s.mbxEnd (s.ownerResult fill bs) 0).newNonce := by
  rw [State.owner, State.mbxFetch_of_dmaOk h]
  dsimp only
  split
  next hok => rw [hok]
  next => rfl

/-- Settles O6: the command that runs ends as its operation says, and its DMA may run. -/
theorem mailboxCommands : Obligations.MailboxCommands := by
  intro s hmode hfirm hrun hbme hd3
  have hready : s.mbxReady = true := by simp [State.mbxReady, hmode, hfirm]
  have hdma := State.dmaOk_of_bme hbme hd3
  refine ⟨fun hop => ?info, fun hop => ?ring, fun b bytes hop hb huse => ?fwWrite, fun b bytes hop hb huse => ?mcWrite, fun b f hop hb hfile => ?fwVerify,
    fun b f hop hb hfile => ?mcVerify, fun bytes hop bs hbs => ⟨?fill, ?empty⟩⟩
  case info =>
    change execGetInfo true s = _
    rw [execGetInfo, State.mbxCmd_running hready hrun hop rfl (by decide), State.mbxRespond_of_dmaOk hdma]
  case ring =>
    change execPeatRead true s = _
    rw [execPeatRead, State.mbxCmd_running hready hrun hop rfl (by decide), State.mbxRespond_of_dmaOk hdma]
  case fwWrite =>
    change execFwWrite b bytes true s = _
    rw [execFwWrite, State.mbxCmd_running hready hrun hop hb (by decide), State.fileWrite_of_free (fw := true) hdma huse]
  case mcWrite =>
    change execMcWrite b bytes true s = _
    rw [execMcWrite, State.mbxCmd_running hready hrun hop hb (by decide), State.fileWrite_of_free (fw := false) hdma huse]
  case fwVerify =>
    change execFwVerify b s = _
    rw [execFwVerify, State.mbxCmd_running hready hrun hop hb (by decide), State.fileVerify_of_file hfile]
  case mcVerify =>
    change execMcVerify b s = _
    rw [execMcVerify, State.mbxCmd_running hready hrun hop hb (by decide), State.fileVerify_of_file hfile]
  case fill =>
    change execOwnerFill bytes true s = _
    rw [execOwnerFill, State.mbxCmd_running_owner hready hrun hop, State.owner_of_dmaOk hdma, hbs]
    rfl
  case empty =>
    change execOwnerEmpty bytes true s = _
    rw [execOwnerEmpty, State.mbxCmd_running_owner hready hrun hop, State.owner_of_dmaOk hdma, hbs]
    rfl

/-! ### The image commands (R480, R484 to R488, R491) -/

theorem State.imgReach_of_mode {s : State} (hmode : s.start.mode ≠ .dormant) (hrec : s.start.recovery = false) : s.imgReach = true := by
  simp [State.imgReach, hmode, hrec]

theorem State.imgCmd_running {s : State} {op : Nat} {b : Bool} (hreach : s.imgReach = true) (hrun : s.imgc.run = true) (hop : s.imgc.op = op)
    (hb : s.imgc.slotB = b ∨ op = 6) (f : State → State) : s.imgCmd op b f = f s := by
  simp [State.imgCmd, hreach, hrun, hop, hb]

/-- The state in which a command that GO starts runs: OP and SLOT are held, and the command is counted. -/
def State.imgHeld (s : State) (op : Nat) (b : Bool) : State := ({ s with imgc := { s.imgc with op := op, slotB := b } }).bump (cGlb (32 + op))

theorem State.imgCmd_starts {s : State} {op : Nat} {b : Bool} (hreach : s.imgReach = true) (hrun : s.imgc.run = false)
    (hpre : (s.imgHeld op b).imgPre op (slotOfB b) = none) (f : State → State) : s.imgCmd op b f = f (s.imgHeld op b) := by
  have hstart : s.imgStart op b f = f (s.imgHeld op b) := by
    unfold State.imgStart
    dsimp only
    rw [← State.imgHeld, hpre]
  rw [State.imgCmd, hreach, hrun]
  exact hstart

theorem State.imgReach_of_serving {s : State} (hmode : s.start.mode = .serving) (hrec : s.start.recovery = false) : s.imgReach = true :=
  State.imgReach_of_mode (by simp [hmode]) hrec

theorem State.trialRun_of_trial {s : State} (hin : s.imgc.inForce ≠ .none) (htrial : s.mram.trial = s.imgc.inForce) : s.trialRun = true := by
  simp [State.trialRun, hin, htrial]

/-! The preconditions of the commands that end in the write of GO (R480, R487), in Serving. -/

theorem State.imgPre_trial {s : State} {b : Bool} (hmode : s.start.mode = .serving) (hslot : s.slotState (slotOfB b) = .valid) :
    (s.imgHeld 2 b).imgPre 2 (slotOfB b) = none := by
  have hmode' : (s.imgHeld 2 b).start.mode = .serving := hmode
  have hslot' : (s.imgHeld 2 b).slotState (slotOfB b) = .valid := hslot
  simp [State.imgPre, State.imgMode, hmode', hslot']

theorem State.imgPre_confirm {s : State} {b : Bool} (hmode : s.start.mode = .serving) (htrial : s.trialRun = true) :
    (s.imgHeld 4 b).imgPre 4 (slotOfB b) = none := by
  have hmode' : (s.imgHeld 4 b).start.mode = .serving := hmode
  have htrial' : (s.imgHeld 4 b).trialRun = true := htrial
  simp [State.imgPre, State.imgMode, hmode', htrial']

theorem State.imgPre_erase {s : State} {b : Bool} (hmode : s.start.mode = .serving) (hheld : s.slotHeld (slotOfB b) = false) :
    (s.imgHeld 5 b).imgPre 5 (slotOfB b) = none := by
  have hmode' : (s.imgHeld 5 b).start.mode = .serving := hmode
  have hheld' : (s.imgHeld 5 b).slotHeld (slotOfB b) = false := hheld
  simp [State.imgPre, State.imgMode, hmode', hheld']

theorem State.imgFetch_of_dmaOk {s : State} (h : s.dmaOk = true) (bytes : List Byte) : s.imgFetch bytes true = some (bytes.take s.imgc.len.toNat) := by
  simp [State.imgFetch, h]

theorem slotOfB_ne_none (b : Bool) : slotOfB b ≠ .none := by
  cases b <;> decide

@[simp] theorem State.setSlot_imgc (s : State) (k : SlotName) (st : SlotState) (bs : List Byte) : (s.setSlot k st bs).imgc = s.imgc := by
  cases k <;> rfl

@[simp] theorem State.setSlot_host (s : State) (k : SlotName) (st : SlotState) (bs : List Byte) : (s.setSlot k st bs).host = s.host := by
  cases k <;> rfl

theorem State.setSlot_dmaOk (s : State) (k : SlotName) (st : SlotState) (bs : List Byte) : (s.setSlot k st bs).dmaOk = s.dmaOk := by
  rw [State.dmaOk, State.setSlot_host, State.dmaOk]

/-- WRITE of a slot that is not on trial, when the file has been fetched. -/
theorem State.imgWrite_fetched {s : State} {k : SlotName} (hk : k ≠ s.mram.trial) (h : s.dmaOk = true) (bytes : List Byte) :
    s.imgWrite k bytes true =
      let bs := bytes.take s.imgc.len.toNat
      let w := s.setSlot k .writing []
      match checkImage (w.imgEnv (some s.imgc.len.toNat) false) bs with
      | .ok i => ((w.setSlot k .valid bs).imgLog 0 k .ok i.seq).imgEnd .ok 0 0
      | .error e => ((w.setSlot k .empty []).imgLog 0 k e.st (readHeader bs).seq).imgBad e := by
  have hfetch := State.imgFetch_of_dmaOk ((State.setSlot_dmaOk s k .writing []).trans h) bytes
  rw [State.imgWrite, if_neg hk]
  dsimp only
  rw [hfetch, State.setSlot_imgc] <;> rfl

theorem State.imgRoute_fetched {s : State} (h : s.dmaOk = true) (bytes : List Byte) :
    s.imgRoute bytes true = match checkImage (s.imgEnv (some s.imgc.len.toNat) true) (bytes.take s.imgc.len.toNat) with
      | .error e => s.imgBad e
      | .ok i => ({ s with imgc := { s.imgc with
          routeOvr := some (i.routes ++ (s.imgc.routeOvr.getD []).filter (fun (e : Nat × List RouteEnt) => (alook e.1 i.routes).isNone)), routeDigest := i.digest } }).imgEnd .ok 0 0 := by
  rw [State.imgRoute, State.imgFetch_of_dmaOk h] <;> rfl

/-- Settles O5: a command that runs ends by what the check of its file finds; TRIAL, CONFIRM and ERASE meet their preconditions and end in the write of GO. -/
theorem imageCommands : Obligations.ImageCommands := by
  refine ⟨fun b bytes s hmode hrec hrun hop hb htrial hbme hd3 => ?write, fun b s hmode hrec hrun hop hb => ?verify,
    fun b s hmode hrec hrun hslot => ?trial, fun s hmode hrec hrun hin htrial => ?confirm, fun b s hmode hrec hrun hheld => ?erase,
    fun bytes s hmode hrec hrun hop hbme hd3 => ?route, fun b x y s hmode hrec hrun hop hb => ?apply⟩
  case write =>
    have hk : slotOfB b ≠ s.mram.trial := htrial ▸ slotOfB_ne_none b
    change execImgWrite b bytes true s = _
    rw [execImgWrite, State.imgCmd_running (State.imgReach_of_mode hmode hrec) hrun hop (.inl hb), State.imgWrite_fetched hk (State.dmaOk_of_bme hbme hd3)]
    rfl
  case verify =>
    change execImgVerify b s = _
    rw [execImgVerify, State.imgCmd_running (State.imgReach_of_mode hmode hrec) hrun hop (.inl hb)]
    rfl
  case trial =>
    change execImgTrial b s = _
    rw [execImgTrial, State.imgCmd_starts (State.imgReach_of_serving hmode hrec) hrun (State.imgPre_trial hmode hslot)]
    rfl
  case confirm =>
    change execImgConfirm s = _
    rw [execImgConfirm, State.imgCmd_starts (State.imgReach_of_serving hmode hrec) hrun (State.imgPre_confirm hmode (State.trialRun_of_trial hin htrial))]
    rfl
  case erase =>
    change execImgErase b s = _
    rw [execImgErase, State.imgCmd_starts (State.imgReach_of_serving hmode hrec) hrun (State.imgPre_erase hmode hheld)]
    rfl
  case route =>
    change execImgRoute bytes true s = _
    rw [execImgRoute, State.imgCmd_running (State.imgReach_of_mode hmode hrec) hrun hop (.inr rfl), State.imgRoute_fetched (State.dmaOk_of_bme hbme hd3)]
    rfl
  case apply =>
    change execImgApply b x y s = _
    rw [execImgApply, State.imgCmd_running (State.imgReach_of_mode (by simp [hmode]) hrec) hrun hop (.inl hb), hmode]
    rfl

end Sys2Proof.Machine

namespace Sys2Proof.Machine

open Sys2Proof

/-! ## Every counter stays within 48 bits (R571)

`Keeps` bounds the entries of the counters' table; the statement bounds what the table reads, which is less when a table has a hidden second entry. So this pass
says instead what a step may do to the table (`CntEdits`). There is one lemma `f_edits` for each operation `f`; its script takes the operation apart along its
updates and branches and closes each end with the lemma of the operation that stands there. -/

/-- What a command may do to the counters, one after the other: count (R571), load a value of 48 bits (R573), take one back, clear those that a condition on
the number does not keep (R572, R575). -/
inductive CntEdits (c₀ : Tab Nat) : Tab Nat → Prop
  | same : CntEdits c₀ c₀
  | count {t : Tab Nat} (k n : Nat) : CntEdits c₀ t → CntEdits c₀ (tset 0 t k (satAdd (tget 0 t k) n))
  | load {t : Tab Nat} (k v : Nat) : CntEdits c₀ t → CntEdits c₀ (tset 0 t k (v % 2 ^ 48))
  | uncount {t : Tab Nat} (k : Nat) : CntEdits c₀ t → CntEdits c₀ (tset 0 t k (tget 0 t k - 1))
  | clear {t : Tab Nat} (p : Nat → Bool) : CntEdits c₀ t → CntEdits c₀ (t.filter (fun e => p e.1))

variable {c₀ : Tab Nat} {s : State}

theorem CntEdits.clear_all {t : Tab Nat} (h : CntEdits c₀ t) : CntEdits c₀ [] := by
  have hnone := h.clear (fun _ => false)
  rwa [List.filter_false] at hnone

/-- The counters of `s` are edits of `c₀`. -/
def EditedFrom (c₀ : Tab Nat) (s : State) : Prop := CntEdits c₀ s.cnt

/-- An update of any other field. -/
theorem EditedFrom.of {pwr : Pwr} {pmb : Pmb} {tap : Tap} {clk : Clk} {start : Start} {mram : Mram} {flash : Flash} {imgc : ImgCtl} {mbx : Mbx}
    {lock : LockCmd} {doms : Tab Domain} {sphMax : Tab Nat} {slices : Tab Slice} {homes : Tab Home} {gates : Tab Gate} {routers : Tab Router}
    {pools : Tab Pool} {ports : Tab Port} {prot : Prot} {flt : Flt} {cap : Cap} {spore : Spore} {tpages : Tab TPage} {host : HostIf} {slow : Tab Slow}
    {acc : Tab AccErr} {accAddr : BitVec 26} {out : List Out} {free : Nat} {pending : List Instr} (h : EditedFrom c₀ s) :
    EditedFrom c₀ (State.mk pwr pmb tap clk start mram flash imgc mbx lock doms sphMax slices homes gates routers pools ports prot flt s.cnt cap spore tpages
      host slow acc accAddr out free pending) := h

theorem EditedFrom.foldl {β : Type} {l : List β} {f : State → β → State} (hf : ∀ s x, EditedFrom c₀ s → EditedFrom c₀ (f s x))
    (h : EditedFrom c₀ s) : EditedFrom c₀ (l.foldl f s) := by
  induction l generalizing s with
  | nil => exact h
  | cons x l ih => exact ih (hf _ _ h)

theorem EditedFrom.foldl1 {β γ : Type} {l : List β} {f : State × γ → β → State × γ} {p : State × γ}
    (hf : ∀ p x, EditedFrom c₀ p.1 → EditedFrom c₀ (f p x).1) (h : EditedFrom c₀ p.1) : EditedFrom c₀ (l.foldl f p).1 := by
  induction l generalizing p with
  | nil => exact h
  | cons x l ih => exact ih (hf _ _ h)

theorem EditedFrom.foldS {β : Type} {l : List β} {f : β → State → State} (hf : ∀ x s, EditedFrom c₀ s → EditedFrom c₀ (f x s))
    (h : EditedFrom c₀ s) : EditedFrom c₀ (Sys2Proof.Machine.foldS l f s) :=
  EditedFrom.foldl (fun s x => hf x s) h

theorem EditedFrom.pair {β : Type} {p : State × β} {a : State} {b : β} (e : p = (a, b)) (h : EditedFrom c₀ p.1) : EditedFrom c₀ a := by
  subst e
  exact h

theorem EditedFrom.ite {p : Prop} [Decidable p] {a b : State} (ha : EditedFrom c₀ a) (hb : EditedFrom c₀ b) : EditedFrom c₀ (if p then a else b) := by
  split
  · exact ha
  · exact hb

/-- A command answers a next state whose counters are edits of `c₀`. -/
def AnswersEdits (c₀ : Tab Nat) (o : Ans) : Prop := ∃ t, o = .next t ∧ EditedFrom c₀ t

/-! ### Counters through Machine.Ops -/

theorem State.bumpN_edits (k i : Nat) (h : EditedFrom c₀ s) : EditedFrom c₀ (s.bumpN k i) := CntEdits.count k i h

theorem State.modMsix_edits (fn : Nat) (f : Msix → Msix) (h : EditedFrom c₀ s) : EditedFrom c₀ (s.modMsix fn f) := h

theorem State.emit_edits (o : Out) (h : EditedFrom c₀ s) : EditedFrom c₀ (s.emit o) := h

theorem State.irq_edits (fn vec : Nat) (h : EditedFrom c₀ s) : EditedFrom c₀ (s.irq fn vec) := by
  unfold State.irq
  with_reducible repeat' first | assumption | apply State.modMsix_edits | apply State.emit_edits | apply EditedFrom.ite

theorem State.modPage_edits (n : Nat) (f : TPage → TPage) (h : EditedFrom c₀ s) : EditedFrom c₀ (s.modPage n f) := h

theorem State.pageN_edits (t i inc : Nat) (h : EditedFrom c₀ s) : EditedFrom c₀ (s.pageN t i inc) := by
  unfold State.pageN
  with_reducible repeat' first | assumption | apply State.bumpN_edits | apply State.irq_edits | apply State.modPage_edits | apply EditedFrom.ite

theorem State.page_edits (t i : Nat) (h : EditedFrom c₀ s) : EditedFrom c₀ (s.page t i) := State.pageN_edits _ _ _ h

theorem State.drawn_edits (h : EditedFrom c₀ s) : EditedFrom c₀ s.drawn := h

theorem State.bump_edits (key : Nat) (h : EditedFrom c₀ s) : EditedFrom c₀ (s.bump key) := State.bumpN_edits _ _ h

theorem State.peat_edits (y : Byte) (b : BitVec 96) (h : EditedFrom c₀ s) : EditedFrom c₀ (s.peat y b) := by
  unfold State.peat
  repeat' first | (with_reducible first | assumption | apply EditedFrom.ite) | with_reducible apply EditedFrom.of

theorem State.enterRec_edits (r : ErrRec) (h : EditedFrom c₀ s) : EditedFrom c₀ (s.enterRec r) := by
  unfold State.enterRec
  repeat' first
    | with_reducible first
        | assumption | apply State.irq_edits | apply State.peat_edits | apply State.bump_edits | apply EditedFrom.ite
    | with_reducible apply EditedFrom.of

theorem State.modDom_edits (n : Nat) (f : Domain → Domain) (h : EditedFrom c₀ s) : EditedFrom c₀ (s.modDom n f) := h

theorem State.faultPin_edits (h : EditedFrom c₀ s) : EditedFrom c₀ s.faultPin := h

theorem State.setMode_edits (m : Mode) (cause : Nat) (h : EditedFrom c₀ s) : EditedFrom c₀ (s.setMode m cause) := by
  unfold State.setMode
  repeat' first
    | intro _
    | with_reducible first
        | assumption | apply State.bump_edits | apply State.peat_edits | apply State.irq_edits | refine EditedFrom.foldS ?_ ?_ | apply EditedFrom.ite
    | with_reducible apply EditedFrom.of

theorem State.modGate_edits (n : Nat) (f : Gate → Gate) (h : EditedFrom c₀ s) : EditedFrom c₀ (s.modGate n f) := h

theorem State.modRouter_edits (n : Nat) (f : Router → Router) (h : EditedFrom c₀ s) : EditedFrom c₀ (s.modRouter n f) := h

theorem State.modPort_edits (n : Nat) (f : Port → Port) (h : EditedFrom c₀ s) : EditedFrom c₀ (s.modPort n f) := h

theorem State.modKey_edits (k : Nat) (f : KeyEnt → KeyEnt) (h : EditedFrom c₀ s) : EditedFrom c₀ (s.modKey k f) := h

theorem State.raise_edits (r : ErrRec) (h : EditedFrom c₀ s) : EditedFrom c₀ (s.raise r) := by
  unfold State.raise
  repeat' first | (with_reducible first | assumption | apply State.enterRec_edits | apply EditedFrom.ite) | split | with_reducible apply EditedFrom.of

theorem State.rep_edits (src : RecSource) (inst : Nat) (c : RecCode) (dom : optParam Nat 0) (line : optParam LineAddr 0) (agent : optParam Agent 0)
    (h : EditedFrom c₀ s) : EditedFrom c₀ (s.rep src inst c dom line agent) := State.raise_edits _ h

theorem State.modPool_edits (n : Nat) (f : Pool → Pool) (h : EditedFrom c₀ s) : EditedFrom c₀ (s.modPool n f) := h

theorem State.modSlice_edits (n : Nat) (f : Slice → Slice) (h : EditedFrom c₀ s) : EditedFrom c₀ (s.modSlice n f) := h

theorem State.modJob_edits (j : Nat) (f : CrozJob → CrozJob) (h : EditedFrom c₀ s) : EditedFrom c₀ (s.modJob j f) := h

theorem State.modHome_edits (n : Nat) (f : Home → Home) (h : EditedFrom c₀ s) : EditedFrom c₀ (s.modHome n f) := h

/-! ### Counters through Machine.Link -/

theorem State.toLane_edits (p : Nat) (seq : BitVec 16) (f : BitVec 672) (h : EditedFrom c₀ s) : EditedFrom c₀ (s.toLane p seq f) := by
  unfold State.toLane
  with_reducible repeat' first | assumption | apply State.modPort_edits | apply State.emit_edits | apply EditedFrom.ite

theorem State.sendFlit_edits (p ft nslot : Nat) (payload : BitVec 640) (h : EditedFrom c₀ s) : EditedFrom c₀ (s.sendFlit p ft nslot payload) := by
  unfold State.sendFlit
  with_reducible repeat' first | assumption | apply State.modPort_edits | apply State.toLane_edits | apply State.bump_edits

theorem State.closeBlock_edits (p : Nat) (h : EditedFrom c₀ s) : EditedFrom c₀ (s.closeBlock p) := by
  unfold State.closeBlock
  with_reducible repeat' first | assumption | apply State.emit_edits | apply State.sendFlit_edits | apply State.modPort_edits | apply EditedFrom.ite

theorem State.blockFlit_edits (p ft nslot : Nat) (payload : BitVec 640) (h : EditedFrom c₀ s) : EditedFrom c₀ (s.blockFlit p ft nslot payload) := by
  unfold State.blockFlit
  with_reducible repeat' first | assumption | apply State.sendFlit_edits | apply State.closeBlock_edits | apply EditedFrom.ite

theorem State.mgmtFlit_edits (p mtype : Nat) (bytes : List Nat) (h : EditedFrom c₀ s) : EditedFrom c₀ (s.mgmtFlit p mtype bytes) := by
  unfold State.mgmtFlit
  with_reducible repeat' first | assumption | apply State.closeBlock_edits | apply State.blockFlit_edits

theorem State.fastRetrain_edits (p : Nat) (h : EditedFrom c₀ s) : EditedFrom c₀ (s.fastRetrain p) := by
  unfold State.fastRetrain
  with_reducible repeat' first | assumption | apply State.modPort_edits | apply EditedFrom.ite

theorem State.linkFlit_edits (p : Nat) (nak : Bool) (seq : BitVec 16) (h : EditedFrom c₀ s) : EditedFrom c₀ (s.linkFlit p nak seq) := by
  unfold State.linkFlit
  with_reducible repeat' first | assumption | apply State.toLane_edits | apply State.bump_edits | apply State.emit_edits

theorem State.gotFlits_edits (p hdr data mgmt : Nat) (h : EditedFrom c₀ s) : EditedFrom c₀ (s.gotFlits p hdr data mgmt) := by
  unfold State.gotFlits
  with_reducible repeat' first | assumption | apply State.modPort_edits | apply State.bumpN_edits | apply State.linkFlit_edits | apply EditedFrom.ite

theorem State.returnCredits_edits (p k : Nat) (h : EditedFrom c₀ s) : EditedFrom c₀ (s.returnCredits p k) := by
  induction k generalizing s with
  | zero => exact h
  | succ k ih =>
    unfold State.returnCredits
    dsimp only
    split
    · exact h
    · exact ih (State.sendFlit_edits _ _ _ _ h)

theorem State.handOver_edits (p : Nat) (m : Msg) (h : EditedFrom c₀ s) : EditedFrom c₀ (s.handOver p m) := by
  unfold State.handOver
  repeat' first
    | intro _
    | with_reducible first
        | assumption | apply State.emit_edits | apply State.modPort_edits | apply State.blockFlit_edits | apply State.closeBlock_edits
        | refine EditedFrom.foldl ?_ ?_

theorem State.resendAll_edits (p : Nat) (us : List UFlit) (h : EditedFrom c₀ s) : EditedFrom c₀ (s.resendAll p us) := by
  unfold State.resendAll
  repeat' first
    | intro _
    | with_reducible first
        | assumption | apply State.bumpN_edits | apply State.emit_edits | apply State.toLane_edits | refine EditedFrom.foldl ?_ ?_

theorem execLinkCheckFail_edits (p : Nat) (f : RxFlit) (h : EditedFrom c₀ s) : AnswersEdits c₀ (execLinkCheckFail p f s) := by
  refine ⟨_, rfl, ?_⟩
  unfold State.gotReturn
  with_reducible
    repeat' first
      | assumption | apply State.bump_edits | apply State.modPort_edits | apply State.gotFlits_edits | apply State.linkFlit_edits | apply EditedFrom.ite

theorem State.mgmt_edits (p mtype arg : Nat) (h : EditedFrom c₀ s) : EditedFrom c₀ (s.mgmt p mtype arg) := by
  unfold State.mgmt
  with_reducible repeat' first | assumption | apply State.mgmtFlit_edits | apply State.emit_edits

/-! ### Counters through Machine.Send -/

theorem State.qPush_edits (n q : Nat) (u : FUnit) (h : EditedFrom c₀ s) : EditedFrom c₀ (s.qPush n q u) := by
  unfold State.qPush
  with_reducible repeat' first | assumption | apply State.bumpN_edits | apply State.modPool_edits | apply EditedFrom.ite

theorem State.egress_edits (p : Nat) (m : Msg) (h : EditedFrom c₀ s) : EditedFrom c₀ (s.egress p m) := State.qPush_edits _ _ _ h

theorem State.gateAnswer_edits (p : Nat) (m : Msg) (h : EditedFrom c₀ s) : EditedFrom c₀ (s.gateAnswer p m) := by
  unfold State.gateAnswer
  with_reducible repeat' first | assumption | apply State.egress_edits | apply State.modGate_edits | apply EditedFrom.ite

theorem State.inject_edits (n dst : Nat) (k : Sink) (m : Msg) (h : EditedFrom c₀ s) : EditedFrom c₀ (s.inject n dst k m) := State.qPush_edits _ _ _ h

theorem State.injectGate_edits (n slot : Nat) (c : Cls) (dst : Nat) (k : Sink) (m : Msg) (at_ : Nat) (h : EditedFrom c₀ s) :
    EditedFrom c₀ (s.injectGate n slot c dst k m at_) := State.qPush_edits _ _ _ h

theorem State.qTake_edits (n q : Nat) (m : Msg) (h : EditedFrom c₀ s) : EditedFrom c₀ (s.qTake n q m) := State.modPool_edits _ _ h

theorem State.completeErr_edits (g : Nat) (w : Watch) (e : ErrCode) (h : EditedFrom c₀ s) : EditedFrom c₀ (s.completeErr g w e) := by
  unfold State.completeErr
  with_reducible repeat' first | assumption | apply State.modGate_edits | apply State.gateAnswer_edits

theorem State.noRoute_edits (d n : Nat) (fromHome : Bool) (m : Msg) (h : EditedFrom c₀ s) : EditedFrom c₀ (s.noRoute d n fromHome m) := by
  unfold State.noRoute
  repeat' first
    | with_reducible first
        | assumption | apply State.bump_edits | apply State.qPush_edits | apply State.rep_edits | apply EditedFrom.ite
    | split

theorem State.sendEp_edits (d : Nat) (D : ImgDomain) (n : Nat) (fromHome : Bool) (ep : Endpoint) (m : Msg) (h : EditedFrom c₀ s) :
    EditedFrom c₀ (s.sendEp d D n fromHome ep m) := by
  unfold State.sendEp
  repeat' first
    | with_reducible first
        | assumption | apply State.rep_edits | apply State.bump_edits | apply State.inject_edits | apply State.noRoute_edits | apply EditedFrom.ite
    | split

theorem State.sendHome_edits (d : Nat) (D : ImgDomain) (n : Nat) (homeDev : BitVec 9) (m : Msg) (h : EditedFrom c₀ s) :
    EditedFrom c₀ (s.sendHome d D n homeDev m) := by
  unfold State.sendHome
  repeat' first | (with_reducible first | assumption | apply State.inject_edits | apply State.noRoute_edits | apply EditedFrom.ite) | split

theorem State.sendNear_edits (d : Nat) (D : ImgDomain) (n g : Nat) (m : Msg) (h : EditedFrom c₀ s) : EditedFrom c₀ (s.sendNear d D n g m) := by
  unfold State.sendNear
  repeat' first | (with_reducible first | assumption | apply State.inject_edits | apply State.qPush_edits | apply EditedFrom.ite) | split

/-! ### Counters through Machine.Flags -/

theorem State.modAcc_edits (n : Nat) (f : AccErr → AccErr) (h : EditedFrom c₀ s) : EditedFrom c₀ (s.modAcc n f) := h

theorem State.logAcc_edits (base : Nat) (who : Requester) (c : AccCause) (wr : Bool) (off full : Nat) (h : EditedFrom c₀ s) :
    EditedFrom c₀ (s.logAcc base who c wr off full) := by
  unfold State.logAcc
  repeat' first | (with_reducible first | assumption | apply State.modAcc_edits | apply EditedFrom.ite) | with_reducible apply EditedFrom.of

theorem State.winHit_edits (k : Nat) (r : WinRes) (row : optParam Nat 0) (h : EditedFrom c₀ s) : EditedFrom c₀ (s.winHit k r row).1 := by
  unfold State.winHit State.setWin
  repeat' first
    | with_reducible first
        | assumption | apply State.bump_edits | apply EditedFrom.ite
    | split | dsimp only | with_reducible apply EditedFrom.of

theorem State.modSlow_edits (n : Nat) (f : Slow → Slow) (h : EditedFrom c₀ s) : EditedFrom c₀ (s.modSlow n f) := h

/-! ### Counters through Machine.Dir -/

theorem State.setLineQ_edits (n : Nat) (l : LineAddr) (q : List (Msg × Nat)) (h : EditedFrom c₀ s) : EditedFrom c₀ (s.setLineQ n l q) :=
  State.modHome_edits _ _ h

theorem State.newTxn_edits (n : Nat) (h : EditedFrom c₀ s) : EditedFrom c₀ (s.newTxn n).1 := State.modHome_edits _ _ h

theorem State.enqHome_edits (n : Nat) (m : Msg) (src : Nat) (k : TxKind) (h : EditedFrom c₀ s) : EditedFrom c₀ (s.enqHome n m src k) := by
  unfold State.enqHome
  with_reducible repeat' first | assumption | apply State.setLineQ_edits | apply State.newTxn_edits | apply State.modHome_edits | apply EditedFrom.ite

theorem State.dirPut_edits (n : Nat) (D : ImgDomain) (l : LineAddr) (w : Nat) (e : Option DirEnt) (h : EditedFrom c₀ s) :
    EditedFrom c₀ (s.dirPut n D l w e) := State.modHome_edits _ _ h

theorem State.dirDrop_edits (n : Nat) (D : ImgDomain) (l : LineAddr) (v : Nat) (h : EditedFrom c₀ s) : EditedFrom c₀ (s.dirDrop n D l v) := by
  unfold State.dirDrop
  repeat' first | (with_reducible first | assumption | apply State.dirPut_edits | apply EditedFrom.ite) | split

theorem State.modTx_edits (n : Nat) (l : LineAddr) (f : Tx → Tx) (h : EditedFrom c₀ s) : EditedFrom c₀ (s.modTx n l f) := State.modHome_edits _ _ h

/-! ### Counters through Machine.Fence -/

theorem State.splice_edits (n q : Nat) (h : EditedFrom c₀ s) : EditedFrom c₀ (s.splice n q) := by
  unfold State.splice
  with_reducible repeat' first | assumption | apply State.bumpN_edits | apply State.modPool_edits

theorem State.fenceMark_edits (u : FenceUnit) (code : RecCode) (win : Option Nat) (h : EditedFrom c₀ s) : EditedFrom c₀ (s.fenceMark u code win) := by
  unfold State.fenceMark
  repeat' first
    | intro _
    | with_reducible first
        | assumption | apply State.raise_edits | apply State.bump_edits | apply State.peat_edits | apply State.setMode_edits | apply State.faultPin_edits
        | apply State.irq_edits | refine EditedFrom.foldl ?_ ?_ | apply EditedFrom.ite
    | split | with_reducible apply EditedFrom.of

theorem State.keyRetire_edits (k : Nat) (h : EditedFrom c₀ s) : EditedFrom c₀ (s.keyRetire k) := by
  unfold State.keyRetire
  repeat' first
    | intro _
    | with_reducible first
        | assumption | apply State.modSlice_edits | apply State.modHome_edits | apply State.bumpN_edits | apply State.enqHome_edits
        | refine EditedFrom.foldl ?_ ?_ | apply EditedFrom.ite
    | split

theorem State.farAnswer_edits (d : Nat) (D : ImgDomain) (n : Nat) (m : Msg) (h : EditedFrom c₀ s) : EditedFrom c₀ (s.farAnswer d D n m) :=
  State.sendEp_edits _ _ _ _ _ _ h

theorem State.report_edits (u : FUnit) (e : ErrCode) (h : EditedFrom c₀ s) : EditedFrom c₀ (s.report u e) := by
  unfold State.report State.failWatch
  repeat' first
    | with_reducible first
        | assumption | apply State.qPush_edits | apply State.farAnswer_edits | apply State.completeErr_edits | apply State.modHome_edits
        | apply EditedFrom.ite
    | split | dsimp only

theorem State.flushQ_edits (n q : Nat) (e : ErrCode) (h : EditedFrom c₀ s) : EditedFrom c₀ (s.flushQ n q e) := by
  unfold State.flushQ
  repeat' first | intro _ | (with_reducible first | assumption | apply State.report_edits | apply State.splice_edits | refine EditedFrom.foldl ?_ ?_)

theorem State.modBarriers_edits (f : Barrier → Barrier) (h : EditedFrom c₀ s) : EditedFrom c₀ (s.modBarriers f) := by
  unfold State.modBarriers
  repeat' first | intro _ | (with_reducible first | assumption | apply State.modGate_edits | refine EditedFrom.foldl ?_ ?_)

theorem State.groupChg_edits (d g : Nat) (h : EditedFrom c₀ s) : EditedFrom c₀ (s.groupChg d g) := by
  unfold State.groupChg
  repeat' first | intro _ | (with_reducible first | assumption | apply State.mgmt_edits | refine EditedFrom.foldl ?_ ?_ | apply EditedFrom.ite)

theorem State.poisonSlot_edits (n d slot g : Nat) (l : LineAddr) (h : EditedFrom c₀ s) : EditedFrom c₀ (s.poisonSlot n d slot g l) := by
  unfold State.poisonSlot
  with_reducible repeat' first | assumption | apply State.rep_edits | apply State.modSlice_edits

theorem State.lostAnswer_edits (d : Nat) (D : ImgDomain) (n : Nat) (m : Msg) (g : Nat) (toOwner : Bool) (h : EditedFrom c₀ s) :
    EditedFrom c₀ (s.lostAnswer d D n m g toOwner) := by
  unfold State.lostAnswer
  with_reducible repeat' first | assumption | apply State.qPush_edits | apply State.sendEp_edits | apply EditedFrom.ite

theorem State.laneIrq_edits (p : Nat) (h : EditedFrom c₀ s) : EditedFrom c₀ (s.laneIrq p) := State.irq_edits _ _ h

theorem State.isolate_edits (p : Nat) (h : EditedFrom c₀ s) : EditedFrom c₀ (s.isolate p) := by
  unfold State.isolate State.markTails State.isolRole State.groupLoss State.groupReports
  repeat' first
    | intro _
    | with_reducible first
        | assumption | apply State.modGate_edits | apply State.modPort_edits | apply State.flushQ_edits | apply State.modBarriers_edits
        | apply State.groupChg_edits | apply State.poisonSlot_edits | apply State.modSlice_edits | apply State.qPush_edits | apply State.lostAnswer_edits
        | apply State.completeErr_edits | apply State.modDom_edits | apply State.laneIrq_edits | refine EditedFrom.foldl ?_ ?_ | apply EditedFrom.ite
    | split

theorem State.stopDomain_edits (d : Nat) (D : ImgDomain) (h : EditedFrom c₀ s) : EditedFrom c₀ (s.stopDomain d D) := by
  unfold State.stopDomain
  repeat' first
    | intro _
    | with_reducible first
        | assumption | apply State.raise_edits | apply State.setMode_edits | apply State.faultPin_edits | apply State.isolate_edits
        | apply State.fenceMark_edits | refine EditedFrom.foldl ?_ ?_ | apply EditedFrom.ite
    | split | with_reducible apply EditedFrom.of

theorem State.withdraw_edits (r : List Res) (e : List ERes) (h : EditedFrom c₀ s) : EditedFrom c₀ (s.withdraw r e) := by
  unfold State.withdraw
  repeat' first | intro _ | (with_reducible first | assumption | apply State.modGate_edits | refine EditedFrom.foldl ?_ ?_)

theorem State.fenceWatches_edits (isHome : Bool) (n : Nat) (h : EditedFrom c₀ s) : EditedFrom c₀ (s.fenceWatches isHome n) := by
  unfold State.fenceWatches
  repeat' first | intro _ | (with_reducible first | assumption | apply State.completeErr_edits | refine EditedFrom.foldl ?_ ?_ | apply EditedFrom.ite)

theorem State.writeSpread_edits (d : Nat) (D : ImgDomain) (h : EditedFrom c₀ s) : EditedFrom c₀ (s.writeSpread d D) := State.modDom_edits _ _ h

theorem State.fenceSlice_edits (n : Nat) (code : RecCode) (win : Option Nat) (chn : Bool) (h : EditedFrom c₀ s) :
    EditedFrom c₀ (s.fenceSlice n code win chn) := by
  unfold State.fenceSlice State.locksLost
  repeat' first
    | with_reducible first
        | assumption | apply State.fenceMark_edits | apply State.withdraw_edits | apply State.fenceWatches_edits | apply State.bumpN_edits
        | apply State.modSlice_edits | apply State.splice_edits | apply State.writeSpread_edits | apply EditedFrom.ite
    | split | dsimp only

theorem State.fenceHome_edits (n : Nat) (code : RecCode) (win : Option Nat) (h : EditedFrom c₀ s) : EditedFrom c₀ (s.fenceHome n code win) := by
  unfold State.fenceHome State.handoverStart State.handoverRecall
  repeat' first
    | intro _
    | with_reducible first
        | assumption | apply State.fenceMark_edits | apply State.withdraw_edits | apply State.fenceWatches_edits | apply State.bump_edits
        | apply State.sendEp_edits | apply State.bumpN_edits | apply State.splice_edits | apply State.modHome_edits | apply State.modTx_edits
        | apply State.enqHome_edits | apply State.writeSpread_edits | refine EditedFrom.foldl ?_ ?_ | apply EditedFrom.ite
    | split | dsimp only

theorem State.flushRouter_edits (n : Nat) (h : EditedFrom c₀ s) : EditedFrom c₀ (s.flushRouter n) := by
  unfold State.flushRouter
  repeat' first
    | intro _
    | with_reducible first
        | assumption | apply State.bumpN_edits | apply State.modRouter_edits | apply State.report_edits | apply State.flushQ_edits
        | refine EditedFrom.foldl ?_ ?_

theorem State.fence_edits (u : FenceUnit) (code : RecCode) (win : Option Nat) (h : EditedFrom c₀ s) : EditedFrom c₀ (s.fence u code win) := by
  unfold State.fence
  repeat' first
    | intro _
    | with_reducible first
        | assumption | apply State.fenceMark_edits | apply State.modKey_edits | apply State.keyRetire_edits | apply State.stopDomain_edits
        | apply State.fenceSlice_edits | apply State.fenceHome_edits | apply State.isolate_edits | apply State.modDom_edits | apply State.flushRouter_edits
        | refine EditedFrom.foldl ?_ ?_ | apply EditedFrom.ite
    | split | with_reducible apply EditedFrom.of

theorem State.cellFences_edits (h : EditedFrom c₀ s) : EditedFrom c₀ s.cellFences := by
  unfold State.cellFences State.cellFence
  repeat' first
    | intro _
    | with_reducible first
        | assumption | apply State.rep_edits | apply State.bump_edits | apply State.modPool_edits | apply State.winHit_edits | apply State.fence_edits
        | refine EditedFrom.foldl ?_ ?_ | apply EditedFrom.ite

theorem State.freeTail_edits (g : Nat) (t : Tail) (lost : Bool) (h : EditedFrom c₀ s) : EditedFrom c₀ (s.freeTail g t lost) := by
  unfold State.freeTail
  with_reducible repeat' first | assumption | apply State.modGate_edits | apply State.bump_edits | apply State.modBarriers_edits | apply EditedFrom.ite

theorem State.absorb_edits (n : Nat) (u : FUnit) (e : ErrCode) (h : EditedFrom c₀ s) : EditedFrom c₀ (s.absorb n u e) := by
  unfold State.absorb
  with_reducible repeat' first | assumption | apply State.report_edits | apply State.bump_edits

theorem State.unfenced_edits (h : EditedFrom c₀ s) : EditedFrom c₀ s.unfenced := by
  unfold State.unfenced
  with_reducible repeat' first | assumption | apply State.faultPin_edits | apply State.setMode_edits | apply EditedFrom.ite

theorem State.partnerDied_edits (p : Nat) (h : EditedFrom c₀ s) : EditedFrom c₀ (s.partnerDied p) := by
  unfold State.partnerDied
  with_reducible repeat' first | assumption | apply State.modPort_edits | apply State.rep_edits | apply State.isolate_edits

/-! ### Counters through Machine.Ports -/

theorem State.doRetrain_edits (p : Nat) (h : EditedFrom c₀ s) : EditedFrom c₀ (s.doRetrain p) := by
  unfold State.doRetrain
  with_reducible repeat' first | assumption | apply State.fastRetrain_edits | apply EditedFrom.ite

theorem State.enterService_edits (p : Nat) (h : EditedFrom c₀ s) : EditedFrom c₀ (s.enterService p) := by
  unfold State.enterService State.setWidth
  repeat' first
    | intro _
    | with_reducible first
        | assumption | apply State.modPort_edits | apply State.modGate_edits | apply State.groupChg_edits | apply State.modDom_edits
        | apply State.laneIrq_edits | refine EditedFrom.foldl ?_ ?_ | apply EditedFrom.ite
    | split | dsimp only

theorem State.doneDisc_edits (p : Nat) (h : EditedFrom c₀ s) : EditedFrom c₀ (s.doneDisc p) := by
  unfold State.doneDisc
  with_reducible repeat' first | assumption | apply State.enterService_edits | apply State.mgmt_edits

theorem State.detachWork_edits (p : Nat) (h : EditedFrom c₀ s) : EditedFrom c₀ (s.detachWork p) := by
  unfold State.detachWork State.detachSweep State.forceRecall
  repeat' first
    | intro _
    | with_reducible first
        | assumption | apply State.mgmt_edits | apply State.sendNear_edits | apply State.modSlice_edits | apply State.enqHome_edits
        | refine EditedFrom.foldl ?_ ?_ | apply EditedFrom.ite
    | split

theorem execDetachReq_edits (p : Nat) (h : EditedFrom c₀ s) : AnswersEdits c₀ (execDetachReq p s) := by
  refine ⟨_, rfl, ?_⟩
  with_reducible
    repeat' first
      | assumption | apply State.gotFlits_edits | apply State.modPort_edits | apply State.detachWork_edits | apply State.mgmt_edits | apply EditedFrom.ite

theorem execLack_edits (p : Nat) (seq : BitVec 16) (h : EditedFrom c₀ s) : AnswersEdits c₀ (execLack p seq s) := by
  refine ⟨_, rfl, ?_⟩
  with_reducible repeat' first | assumption | apply State.bump_edits | apply State.modPort_edits | apply EditedFrom.ite

theorem State.reject_edits (p r : Nat) (h : EditedFrom c₀ s) : EditedFrom c₀ (s.reject p r) := by
  unfold State.reject
  with_reducible
    repeat' first
      | assumption | apply State.modPort_edits | apply State.mgmt_edits | apply State.bump_edits | apply State.raise_edits | apply State.laneIrq_edits
      | apply EditedFrom.ite

theorem State.sendShare_edits (p : Nat) (share : BitVec 768) (h : EditedFrom c₀ s) : EditedFrom c₀ (s.sendShare p share) := by
  unfold State.sendShare
  with_reducible repeat' first | assumption | apply State.mgmtFlit_edits | apply State.emit_edits

theorem State.ownShare_edits (p : Nat) (h : EditedFrom c₀ s) : EditedFrom c₀ (s.ownShare p) := by
  unfold State.ownShare
  with_reducible repeat' first | assumption | apply State.drawn_edits | apply State.sendShare_edits | apply State.modPort_edits

theorem State.discCfgIn_edits (p : Nat) (x : DiscCfg) (h : EditedFrom c₀ s) : EditedFrom c₀ (s.discCfgIn p x) := by
  unfold State.discCfgIn
  with_reducible repeat' first | assumption | apply State.modPort_edits | apply State.reject_edits | apply State.ownShare_edits | apply EditedFrom.ite

theorem execDiscCfg_edits (p : Nat) (x : DiscCfg) (h : EditedFrom c₀ s) : AnswersEdits c₀ (execDiscCfg p x s) := by
  refine ⟨_, rfl, ?_⟩
  with_reducible repeat' first | assumption | apply State.discCfgIn_edits | apply State.gotFlits_edits | apply EditedFrom.ite

theorem State.toDetect_edits (p : Nat) (h : EditedFrom c₀ s) : EditedFrom c₀ (s.toDetect p) := State.modPort_edits _ _ h

theorem State.toFind_edits (p k : Nat) (h : EditedFrom c₀ s) : EditedFrom c₀ (s.toFind p k) := by
  unfold State.toFind
  with_reducible repeat' first | assumption | apply State.modPort_edits | apply State.mgmtFlit_edits | apply State.emit_edits

theorem State.trainPort_edits (p : Nat) (x : TrainResult) (h : EditedFrom c₀ s) : EditedFrom c₀ (s.trainPort p x) := by
  unfold State.trainPort
  repeat' first
    | with_reducible first
        | assumption | apply State.modPort_edits | apply State.toDetect_edits | apply State.toFind_edits | apply EditedFrom.ite
    | split | dsimp only

theorem execDiscTimeout_edits (p : Nat) (h : EditedFrom c₀ s) : AnswersEdits c₀ (execDiscTimeout p s) := by
  refine ⟨_, rfl, ?_⟩
  with_reducible repeat' first | assumption | apply State.reject_edits | apply EditedFrom.ite

theorem execTsyncExchange_edits (p : Nat) (t1 : Stamp) (h : EditedFrom c₀ s) : AnswersEdits c₀ (execTsyncExchange p t1 s) := by
  refine ⟨_, rfl, ?_⟩
  with_reducible repeat' first | assumption | apply State.mgmtFlit_edits | apply State.emit_edits | apply State.modPort_edits | apply EditedFrom.ite

theorem State.voidWatch_edits (g : Nat) (w : Watch) (c : VoidCause) (agent : Agent) (h : EditedFrom c₀ s) : EditedFrom c₀ (s.voidWatch g w c agent) := by
  unfold State.voidWatch
  with_reducible repeat' first | assumption | apply State.bump_edits | apply State.modGate_edits | apply EditedFrom.ite

theorem State.voidAll_edits (p : Watch → Bool) (c : VoidCause) (agent : Agent) (h : EditedFrom c₀ s) : EditedFrom c₀ (s.voidAll p c agent) := by
  unfold State.voidAll
  repeat' first | intro _ | (with_reducible first | assumption | apply State.voidWatch_edits | refine EditedFrom.foldl ?_ ?_)

theorem State.syncLoss_edits (d : Nat) (h : EditedFrom c₀ s) : EditedFrom c₀ (s.syncLoss d) := by
  unfold State.syncLoss
  with_reducible repeat' first | assumption | apply State.voidAll_edits | apply State.modDom_edits | apply EditedFrom.ite

theorem execTrain_edits (p : Nat) (x : TrainResult) (h : EditedFrom c₀ s) : AnswersEdits c₀ (execTrain p x s) := by
  refine ⟨_, rfl, ?_⟩
  with_reducible repeat' first | assumption | apply State.trainPort_edits | apply State.toDetect_edits | apply EditedFrom.ite

theorem execPartnerDead_edits (p : Nat) (h : EditedFrom c₀ s) : AnswersEdits c₀ (execPartnerDead p s) := by
  refine ⟨_, rfl, ?_⟩
  with_reducible repeat' first | assumption | apply State.partnerDied_edits | apply EditedFrom.ite

theorem execDiscRej_edits (p r : Nat) (h : EditedFrom c₀ s) : AnswersEdits c₀ (execDiscRej p r s) := by
  refine ⟨_, rfl, ?_⟩
  with_reducible repeat' first | assumption | apply State.laneIrq_edits | apply State.modPort_edits | apply State.gotFlits_edits | apply EditedFrom.ite

theorem execTag_edits (p block : Nat) (flits : List (BitVec 672)) (tagBits : BitVec 128) (newKey : Bool) (h : EditedFrom c₀ s) :
    AnswersEdits c₀ (execTag p block flits tagBits newKey s) := by
  refine ⟨_, rfl, ?_⟩
  unfold State.tagGood State.tagBad
  with_reducible
    repeat' first
      | assumption | apply State.bump_edits | apply State.modPort_edits | apply State.linkFlit_edits | apply State.partnerDied_edits | apply EditedFrom.ite

theorem execLnak_edits (p : Nat) (seq : BitVec 16) (h : EditedFrom c₀ s) : AnswersEdits c₀ (execLnak p seq s) := by
  refine ⟨_, rfl, ?_⟩
  unfold State.resendFrom
  with_reducible
    repeat' first
      | assumption | apply State.bump_edits | apply State.modPort_edits | apply State.resendAll_edits | apply State.fastRetrain_edits | apply EditedFrom.ite

theorem execDetect_edits (p : Nat) (awake : Bool) (h : EditedFrom c₀ s) : AnswersEdits c₀ (execDetect p awake s) := by
  refine ⟨_, rfl, ?_⟩
  with_reducible repeat' first | assumption | apply State.modPort_edits | apply EditedFrom.ite

theorem State.doPortDrain_edits (p : Nat) (h : EditedFrom c₀ s) : EditedFrom c₀ (s.doPortDrain p) := by
  unfold State.doPortDrain
  with_reducible repeat' first | assumption | apply State.modPort_edits | apply State.mgmt_edits | apply EditedFrom.ite

theorem execFastRetrainEnd_edits (p : Nat) (ok : Bool) (h : EditedFrom c₀ s) : AnswersEdits c₀ (execFastRetrainEnd p ok s) := by
  refine ⟨_, rfl, ?_⟩
  unfold State.retrainEnd
  with_reducible
    repeat' first
      | assumption | apply State.modPort_edits | apply State.bump_edits | apply State.winHit_edits | apply State.fence_edits | apply State.resendAll_edits
      | apply State.partnerDied_edits | apply EditedFrom.ite

theorem execTsyncReq_edits (p : Nat) (t1 t2 t3 : Stamp) (h : EditedFrom c₀ s) : AnswersEdits c₀ (execTsyncReq p t1 t2 t3 s) := by
  refine ⟨_, rfl, ?_⟩
  with_reducible repeat' first | assumption | apply State.mgmtFlit_edits | apply State.emit_edits | apply State.gotFlits_edits | apply EditedFrom.ite

theorem execDetachAck_edits (p : Nat) (h : EditedFrom c₀ s) : AnswersEdits c₀ (execDetachAck p s) := by
  refine ⟨_, rfl, ?_⟩
  with_reducible repeat' first | assumption | apply State.detachWork_edits | apply State.modPort_edits | apply State.gotFlits_edits | apply EditedFrom.ite

theorem State.discIdIn_edits (p : Nat) (x : DiscId) (h : EditedFrom c₀ s) : EditedFrom c₀ (s.discIdIn p x) := by
  unfold State.discIdIn
  with_reducible
    repeat' first
      | assumption | apply State.modPort_edits | apply State.reject_edits | apply State.mgmtFlit_edits | apply State.emit_edits | apply EditedFrom.ite

theorem execTimeStep_edits (d : Nat) (h : EditedFrom c₀ s) : AnswersEdits c₀ (execTimeStep d s) := by
  refine ⟨_, rfl, ?_⟩
  unfold State.timeStepIn
  repeat' first
    | intro _
    | with_reducible first
        | assumption | apply State.modDom_edits | apply State.doneDisc_edits | refine EditedFrom.foldl ?_ ?_ | apply EditedFrom.ite
    | split

theorem execDiscId_edits (p : Nat) (x : DiscId) (h : EditedFrom c₀ s) : AnswersEdits c₀ (execDiscId p x s) := by
  refine ⟨_, rfl, ?_⟩
  with_reducible repeat' first | assumption | apply State.discIdIn_edits | apply State.gotFlits_edits | apply EditedFrom.ite

theorem State.breach_edits (p d : Nat) (c : VoidCause) (l : LineAddr) (h : EditedFrom c₀ s) : EditedFrom c₀ (s.breach p d c l) := by
  unfold State.breach
  with_reducible repeat' first | assumption | apply State.rep_edits | apply State.bump_edits

theorem execFailedReturn_edits (p : Nat) (h : EditedFrom c₀ s) : AnswersEdits c₀ (execFailedReturn p s) := by
  refine ⟨_, rfl, ?_⟩
  with_reducible repeat' first | assumption | apply State.toDetect_edits | apply EditedFrom.ite

theorem execLinkKeyExchange_edits (p : Nat) (share : BitVec 768) (sig : BitVec 4096) (root : BitVec 512) (h : EditedFrom c₀ s) :
    AnswersEdits c₀ (execLinkKeyExchange p share sig root s) := by
  refine ⟨_, rfl, ?_⟩
  with_reducible
    repeat' first
      | assumption | apply State.drawn_edits | apply State.sendShare_edits | apply State.modPort_edits | apply State.gotFlits_edits | apply EditedFrom.ite

theorem execTrainingBudget_edits (p : Nat) (x : TrainResult) (h : EditedFrom c₀ s) : AnswersEdits c₀ (execTrainingBudget p x s) := by
  refine ⟨_, rfl, ?_⟩
  with_reducible repeat' first | assumption | apply State.trainPort_edits | apply State.toDetect_edits | apply State.modPort_edits | apply EditedFrom.ite

theorem execTsyncRsp_edits (p : Nat) (t1 t2 t3 t4 : Stamp) (sync : Bool) (idx hops : Nat) (h : EditedFrom c₀ s) :
    AnswersEdits c₀ (execTsyncRsp p t1 t2 t3 t4 sync idx hops s) := by
  refine ⟨_, rfl, ?_⟩
  unfold State.tsyncIn State.steerDom
  repeat' first
    | with_reducible first
        | assumption | apply State.modPort_edits | apply State.bump_edits | apply State.modDom_edits | apply State.syncLoss_edits
        | apply State.gotFlits_edits | apply EditedFrom.ite
    | split

theorem execDrainFallback_edits (p : Nat) (h : EditedFrom c₀ s) : AnswersEdits c₀ (execDrainFallback p s) := by
  refine ⟨_, rfl, ?_⟩
  with_reducible repeat' first | assumption | apply State.isolate_edits | apply State.modPort_edits | apply EditedFrom.ite

theorem execIsolationEnd_edits (p : Nat) (h : EditedFrom c₀ s) : AnswersEdits c₀ (execIsolationEnd p s) := by
  refine ⟨_, rfl, ?_⟩
  unfold State.isolEnd State.isolTails
  repeat' first
    | intro _
    | with_reducible first
        | assumption | apply State.freeTail_edits | apply State.modPool_edits | apply State.modPort_edits | apply State.toDetect_edits
        | refine EditedFrom.foldl ?_ ?_ | apply EditedFrom.ite

theorem State.standbyIn_edits (h : EditedFrom c₀ s) : EditedFrom c₀ s.standbyIn := by
  unfold State.standbyIn
  repeat' first | intro _ | (with_reducible first | assumption | apply State.enterService_edits | refine EditedFrom.foldl ?_ ?_ | apply EditedFrom.ite)

theorem State.discFinish_edits (p : Nat) (offset : Int) (h : EditedFrom c₀ s) : EditedFrom c₀ (s.discFinish p offset) := by
  unfold State.discFinish
  repeat' first
    | with_reducible first
        | assumption | apply State.doneDisc_edits | apply State.modDom_edits | apply State.reject_edits | apply State.modPort_edits | apply EditedFrom.ite
    | split

theorem State.leaveService_edits (p : Nat) (h : EditedFrom c₀ s) : EditedFrom c₀ (s.leaveService p) := by
  unfold State.leaveService
  repeat' first
    | with_reducible first
        | assumption | apply State.modPort_edits | apply State.mgmt_edits | apply State.modDom_edits | apply State.laneIrq_edits | apply EditedFrom.ite
    | split

theorem execDetachDone_edits (p : Nat) (h : EditedFrom c₀ s) : AnswersEdits c₀ (execDetachDone p s) := by
  refine ⟨_, rfl, ?_⟩
  with_reducible repeat' first | assumption | apply State.leaveService_edits | apply EditedFrom.ite

theorem execSyncLost_edits (d : Nat) (h : EditedFrom c₀ s) : AnswersEdits c₀ (execSyncLost d s) := by
  refine ⟨_, rfl, ?_⟩
  repeat' first | (with_reducible first | assumption | apply State.syncLoss_edits | apply EditedFrom.ite) | split

theorem execDiscDone_edits (p : Nat) (offset : Int) (h : EditedFrom c₀ s) : AnswersEdits c₀ (execDiscDone p offset s) := by
  refine ⟨_, rfl, ?_⟩
  with_reducible repeat' first | assumption | apply State.reject_edits | apply State.gotFlits_edits | apply State.discFinish_edits | apply EditedFrom.ite

theorem execDiscKeyx_edits (p : Nat) (share : BitVec 768) (sig : BitVec 4096) (root : BitVec 512) (h : EditedFrom c₀ s) :
    AnswersEdits c₀ (execDiscKeyx p share sig root s) := by
  refine ⟨_, rfl, ?_⟩
  with_reducible
    repeat' first
      | assumption | apply State.gotFlits_edits | apply State.ownShare_edits | apply State.modPort_edits | apply State.reject_edits | apply EditedFrom.ite

/-! ### Counters through Machine.Calendar -/

theorem State.injToken_edits (d n k c : Nat) (h : EditedFrom c₀ s) : EditedFrom c₀ (s.injToken d n k c).1 := by
  unfold State.injToken
  repeat' first | (with_reducible first | assumption | apply State.modHome_edits | apply State.modSlice_edits | apply EditedFrom.ite) | split | dsimp only

/-! ### Counters through Machine.Spore -/

theorem State.setTraces_edits (d : Nat) (es : List SporeEnt) (h : EditedFrom c₀ s) : EditedFrom c₀ (s.setTraces d es) := h

theorem State.sample_edits (d g : Nat) (e : SporeEnt) (h : EditedFrom c₀ s) : EditedFrom c₀ (s.sample d g e) := by
  unfold State.sample
  with_reducible repeat' first | assumption | apply State.modGate_edits | apply State.bump_edits | apply State.setTraces_edits | apply EditedFrom.ite

theorem State.stamp_edits (d : Nat) (l : LineAddr) (who : Option Endpoint) (k : Nat) (h : EditedFrom c₀ s) : EditedFrom c₀ (s.stamp d l who k) := by
  unfold State.stamp
  with_reducible repeat' first | assumption | apply State.setTraces_edits | apply EditedFrom.ite

theorem State.tracePath_edits (d : Nat) (l : LineAddr) (bit : Nat) (h : EditedFrom c₀ s) : EditedFrom c₀ (s.tracePath d l bit) := by
  unfold State.tracePath
  with_reducible repeat' first | assumption | apply State.setTraces_edits | apply EditedFrom.ite

theorem State.traceEnd_edits (d : Nat) (l : LineAddr) (req : Endpoint) (err : ErrCode) (h : EditedFrom c₀ s) : EditedFrom c₀ (s.traceEnd d l req err) := by
  unfold State.traceEnd
  repeat' first
    | with_reducible first
        | assumption | apply State.setTraces_edits | apply State.irq_edits | apply State.bump_edits | apply State.emit_edits | apply EditedFrom.ite
    | split | with_reducible apply EditedFrom.of

/-! ### Counters through Machine.Gate -/

theorem State.admEdge_edits (g e : Nat) (h : EditedFrom c₀ s) : EditedFrom c₀ (s.admEdge g e).1 := State.modGate_edits _ _ h

theorem State.refuse_edits (a : Adm) (e : ErrCode) (k : Nat) (h : EditedFrom c₀ s) : EditedFrom c₀ (s.refuse a e k) := by
  unfold State.refuse
  with_reducible repeat' first | assumption | apply State.bump_edits | apply State.gateAnswer_edits

theorem State.sendRetry_edits (a : Adm) (r : Reason) (at_ : KTime) (h1 : Option Nat) (h : EditedFrom c₀ s) : EditedFrom c₀ (s.sendRetry a r at_ h1) := by
  unfold State.sendRetry
  with_reducible repeat' first | assumption | apply State.bump_edits | apply State.gateAnswer_edits | apply State.page_edits | apply EditedFrom.ite

theorem State.retryNew_edits (a : Adm) (r : Reason) (at_ : KTime) (h1 : Option Nat) (h : EditedFrom c₀ s) : EditedFrom c₀ (s.retryNew a r at_ h1) := by
  unfold State.retryNew
  with_reducible repeat' first | assumption | apply State.modGate_edits | apply State.sendRetry_edits | apply EditedFrom.ite

theorem State.takeIn_edits (a : Adm) (t : Target) (us : List CalUnit) (onHold : Bool) (h : EditedFrom c₀ s) : EditedFrom c₀ (s.takeIn a t us onHold) := by
  unfold State.takeIn
  repeat' first
    | with_reducible first
        | assumption | apply State.modGate_edits | apply State.modPort_edits | apply State.page_edits | apply State.bump_edits | apply State.sample_edits
        | apply State.injectGate_edits | apply EditedFrom.ite
    | split

theorem State.admitRoom_edits (a : Adm) (t : Target) (hm : Option Hold) (h : EditedFrom c₀ s) : EditedFrom c₀ (s.admitRoom a t hm) := by
  unfold State.admitRoom State.admitEntries State.admitCal
  repeat' first
    | with_reducible first
        | assumption | apply State.retryNew_edits | apply State.modGate_edits | apply State.takeIn_edits | apply State.bump_edits | apply EditedFrom.ite
    | split | dsimp only

theorem State.admitNear_edits (a : Adm) (h : EditedFrom c₀ s) : EditedFrom c₀ (s.admitNear a) := by
  unfold State.admitNear State.admitLocal
  repeat' first
    | with_reducible first
        | assumption | apply State.refuse_edits | apply State.bump_edits | apply State.gateAnswer_edits | apply State.retryNew_edits
        | apply State.admitRoom_edits | apply State.sendRetry_edits | apply EditedFrom.ite
    | split | dsimp only

theorem State.atPort_edits (p : Nat) (m : Msg) {f : State → State} (hf : ∀ s, EditedFrom c₀ s → EditedFrom c₀ (f s)) (h : EditedFrom c₀ s) :
    EditedFrom c₀ (s.atPort p m f) := by
  unfold State.atPort State.takeCredit State.leaveIngress
  repeat' first
    | with_reducible first
        | assumption | apply hf | apply State.gotFlits_edits | apply State.modPort_edits | apply State.fastRetrain_edits | apply State.rep_edits
        | apply State.bump_edits | apply EditedFrom.ite
    | split | dsimp only

theorem State.ingressEdge_edits (g k : Nat) (h : EditedFrom c₀ s) : EditedFrom c₀ (s.ingressEdge g k).1 := by
  unfold State.ingressEdge
  repeat' first | (with_reducible first | assumption | apply State.modGate_edits | apply EditedFrom.ite) | split | dsimp only

theorem State.request_edits (p : Nat) (m : Msg) (h : EditedFrom c₀ s) : EditedFrom c₀ (s.request p m) := by
  unfold State.request State.admitCarried State.takeCarried
  repeat' first
    | with_reducible first
        | assumption | apply State.ingressEdge_edits | apply State.admEdge_edits | apply State.refuse_edits | apply State.bump_edits
        | apply State.gateAnswer_edits | apply State.admitNear_edits | apply State.rep_edits | apply State.modGate_edits | apply State.modPort_edits
        | apply State.voidWatch_edits | apply State.page_edits | apply State.sample_edits | apply State.injectGate_edits | apply EditedFrom.ite
    | split

theorem State.requestAs_edits (op : Op) (p : Nat) (m : Msg) (h : EditedFrom c₀ s) : EditedFrom c₀ (s.requestAs op p m) := by
  unfold State.requestAs State.writerReq
  repeat' first
    | intro _
    | with_reducible first
        | assumption | apply State.admEdge_edits | apply State.admitNear_edits | apply State.atPort_edits | apply State.request_edits | apply EditedFrom.ite
    | split

theorem execCarriedRequest_edits (port : Nat) (m : Msg) (h : EditedFrom c₀ s) : AnswersEdits c₀ (execCarriedRequest port m s) := by
  refine ⟨_, rfl, ?_⟩
  repeat' first | intro _ | (with_reducible first | assumption | apply State.atPort_edits | apply State.request_edits | apply EditedFrom.ite)

/-! ### Counters through Machine.Tree -/

theorem State.toMem_edits (D : ImgDomain) (n p : Nat) (m : Msg) (h : EditedFrom c₀ s) : EditedFrom c₀ (s.toMem D n p m) := by
  unfold State.toMem
  repeat' first | (with_reducible first | assumption | apply State.bump_edits | apply State.inject_edits | apply EditedFrom.ite) | split

theorem State.ncPut_edits (d : Nat) (D : ImgDomain) (n : Nat) (e : NcEnt) (h : EditedFrom c₀ s) : EditedFrom c₀ (s.ncPut d D n e) := State.modHome_edits _ _ h

theorem State.writeNode_edits (d : Nat) (D : ImgDomain) (h1 : ImgHome) (n : Nat) (e : NcEnt) (durable : Bool) (h : EditedFrom c₀ s) :
    EditedFrom c₀ (s.writeNode d D h1 n e durable) := by
  unfold State.writeNode State.bumpNode
  repeat' first
    | with_reducible first
        | assumption | apply State.ncPut_edits | apply State.bump_edits | apply State.toMem_edits | apply EditedFrom.ite
    | split | with_reducible apply EditedFrom.of

theorem State.saveStipe_edits (h1 : ImgHome) (h : EditedFrom c₀ s) : EditedFrom c₀ (s.saveStipe h1) := h

theorem State.loseNode_edits (d n : Nat) (x : LostEnt) (h : EditedFrom c₀ s) : EditedFrom c₀ (s.loseNode d n x) := by
  unfold State.loseNode State.noteLost
  repeat' first
    | with_reducible first
        | assumption | apply State.modHome_edits | apply State.bump_edits | apply State.winHit_edits | apply State.raise_edits | apply State.fence_edits
        | apply EditedFrom.ite
    | dsimp only | with_reducible apply EditedFrom.of

theorem State.flushRead_edits (d : Nat) (D : ImgDomain) (h1 : ImgHome) (n pos k i : Nat) (h : EditedFrom c₀ s) :
    EditedFrom c₀ (s.flushRead d D h1 n pos k i) := by
  unfold State.flushRead
  with_reducible repeat' first | assumption | apply State.bump_edits | apply State.drawn_edits | apply State.ncPut_edits | apply EditedFrom.ite

theorem State.flushPath_edits (d : Nat) (D : ImgDomain) (h1 : ImgHome) (n : Nat) (e : NcEnt) (h : EditedFrom c₀ s) :
    EditedFrom c₀ (s.flushPath d D h1 n e) := by
  unfold State.flushPath
  repeat' first | intro _ | (with_reducible first | assumption | apply State.flushRead_edits | refine EditedFrom.foldl ?_ ?_)

theorem State.flushNodes_edits (d : Nat) (D : ImgDomain) (h1 : ImgHome) (n : Nat) (h : EditedFrom c₀ s) : EditedFrom c₀ (s.flushNodes d D h1 n) := by
  unfold State.flushNodes
  repeat' first | intro _ | (with_reducible first | assumption | apply State.writeNode_edits | apply State.flushPath_edits | refine EditedFrom.foldl ?_ ?_)

theorem State.persistFlush_edits (durable : Bool) (h : EditedFrom c₀ s) : EditedFrom c₀ (s.persistFlush durable) := by
  unfold State.persistFlush
  repeat' first
    | intro _
    | with_reducible first
        | assumption | apply State.flushNodes_edits | apply State.saveStipe_edits | refine EditedFrom.foldl ?_ ?_
    | split

theorem State.bumpLine_edits (d : Nat) (D : ImgDomain) (h1 : ImgHome) (n : Nat) (l : LineAddr) (h : EditedFrom c₀ s) :
    EditedFrom c₀ (s.bumpLine d D h1 n l) := by
  unfold State.bumpLine
  repeat' first | (with_reducible first | assumption | apply State.ncPut_edits | apply State.bump_edits | apply EditedFrom.ite) | split | dsimp only

/-! ### Counters through Machine.Load -/

theorem State.keyGen_edits (k : Nat) (h : EditedFrom c₀ s) : EditedFrom c₀ (s.keyGen k) := by
  unfold State.keyGen
  with_reducible repeat' first | assumption | apply State.bump_edits | apply State.drawn_edits | apply State.modKey_edits

theorem State.clearNodes_edits (h : EditedFrom c₀ s) : EditedFrom c₀ s.clearNodes := h

theorem State.shipWrites_edits (only : Op → Bool) (h : EditedFrom c₀ s) : EditedFrom c₀ (s.shipWrites only) := by
  unfold State.shipWrites
  repeat' first
    | intro _
    | with_reducible first
        | assumption | apply State.emit_edits | apply State.modPool_edits | refine EditedFrom.foldl ?_ ?_ | apply EditedFrom.ite
    | split

theorem State.lostPower_edits (h : EditedFrom c₀ s) : EditedFrom c₀ s.lostPower := CntEdits.clear alwaysOnCnt h

theorem State.toDormant_edits (ev cause flushUs : Nat) (durable : Bool) (off : LastOff) (h : EditedFrom c₀ s) :
    EditedFrom c₀ (s.toDormant ev cause flushUs durable off) := by
  unfold State.toDormant
  repeat' first
    | with_reducible first
        | assumption | apply State.setMode_edits | apply State.shipWrites_edits | apply State.persistFlush_edits | apply State.bump_edits
        | apply State.lostPower_edits | apply State.peat_edits | apply EditedFrom.ite
    | with_reducible apply EditedFrom.of

theorem State.setSlot_edits (x : SlotName) (st : SlotState) (bs : List Byte) (h : EditedFrom c₀ s) : EditedFrom c₀ (s.setSlot x st bs) := by
  unfold State.setSlot
  repeat' first | (with_reducible first | assumption | apply EditedFrom.ite) | split | with_reducible apply EditedFrom.of

theorem State.commitEdge_edits (h : EditedFrom c₀ s) : EditedFrom c₀ s.commitEdge := h

theorem State.loadStructure_edits (i : Thallus) (slot : SlotName) (h : EditedFrom c₀ s) : EditedFrom c₀ (s.loadStructure i slot) := by
  unfold State.loadStructure
  repeat' first
    | intro _
    | with_reducible first
        | assumption | apply State.modSlice_edits | refine EditedFrom.foldl ?_ ?_
    | with_reducible apply EditedFrom.of

theorem State.loadImage_edits (i : Thallus) (slot : SlotName) (h : EditedFrom c₀ s) : EditedFrom c₀ (s.loadImage i slot) := by
  unfold State.loadImage State.loadFences State.loadProtect State.keyGenAll State.setupTrees State.setupTree
  repeat' first
    | intro _
    | with_reducible first
        | assumption | apply State.stopDomain_edits | apply State.writeSpread_edits | apply State.modDom_edits | apply State.keyGen_edits
        | apply State.modKey_edits | apply State.drawn_edits | apply State.commitEdge_edits | apply State.loadStructure_edits | apply State.clearNodes_edits
        | refine EditedFrom.foldl ?_ ?_ | apply EditedFrom.ite
    | split | with_reducible apply EditedFrom.of

/-! ### Counters through Machine.Capsule -/

theorem State.writerSend_edits (h : EditedFrom c₀ s) : EditedFrom c₀ s.writerSend := by
  unfold State.writerSend
  repeat' first | (with_reducible first | assumption | apply State.request_edits | apply EditedFrom.ite) | split

theorem State.modCap_edits (f : Cap → Cap) (h : EditedFrom c₀ s) : EditedFrom c₀ (s.modCap f) := h

theorem execRetryResend_edits (d : Nat) (h : EditedFrom c₀ s) : AnswersEdits c₀ (execRetryResend d s) := by
  refine ⟨_, rfl, ?_⟩
  repeat' first | (with_reducible first | assumption | apply State.writerSend_edits | apply State.modCap_edits | apply EditedFrom.ite) | split

theorem State.pageZero_edits (t : Nat) (incs : List (Nat × Nat)) (h : EditedFrom c₀ s) : EditedFrom c₀ (s.pageZero t incs) := by
  refine EditedFrom.foldl (fun u i hu => ?_) (CntEdits.clear (fun k => !(decide (cPage t 0 ≤ k) && decide (k < cPage t 32))) h)
  split
  · exact State.pageN_edits _ _ _ hu
  · exact hu

theorem State.latch_edits (h : EditedFrom c₀ s) : EditedFrom c₀ s.latch := by
  unfold State.latch
  with_reducible repeat' first | assumption | apply State.bump_edits | apply State.modCap_edits | apply State.writerSend_edits | apply EditedFrom.ite

theorem State.snapNext_edits (h : EditedFrom c₀ s) : EditedFrom c₀ s.snapNext := by
  unfold State.snapNext
  with_reducible repeat' first | assumption | apply State.latch_edits | apply EditedFrom.ite

theorem State.doSnap_edits (h : EditedFrom c₀ s) : EditedFrom c₀ s.doSnap := by
  unfold State.doSnap
  with_reducible repeat' first | assumption | apply State.snapNext_edits | apply State.modCap_edits | apply EditedFrom.ite

theorem State.writerGot_edits (m : Msg) (h : EditedFrom c₀ s) : EditedFrom c₀ (s.writerGot m) := by
  unfold State.writerGot
  repeat' first | (with_reducible first | assumption | apply State.modCap_edits | apply State.writerSend_edits | apply EditedFrom.ite) | split

theorem execCapsuleLatch_edits (h : EditedFrom c₀ s) : AnswersEdits c₀ (execCapsuleLatch s) := by
  refine ⟨_, rfl, ?_⟩
  with_reducible
    repeat' first
      | assumption | apply State.modCap_edits | apply State.irq_edits | apply State.bump_edits | apply State.latch_edits | apply EditedFrom.ite

theorem State.doZero_edits (incs : List (Nat × Nat)) (h : EditedFrom c₀ s) : EditedFrom c₀ (s.doZero incs) := by
  refine EditedFrom.foldl (fun u i hu => ?_) (CntEdits.clear alwaysOnCnt h)
  split
  · exact hu
  · exact State.bumpN_edits _ _ hu

theorem State.dumpOver_edits (h : EditedFrom c₀ s) : EditedFrom c₀ s.dumpOver := by
  unfold State.dumpOver
  with_reducible repeat' first | assumption | apply State.snapNext_edits | apply State.modCap_edits

theorem State.doArm_edits (h : EditedFrom c₀ s) : EditedFrom c₀ s.doArm := by
  unfold State.doArm
  with_reducible repeat' first | assumption | apply State.modCap_edits | apply State.snapNext_edits | apply EditedFrom.ite

theorem State.doDisarm_edits (h : EditedFrom c₀ s) : EditedFrom c₀ s.doDisarm := State.modCap_edits _ h

theorem State.dumpDmaErr_edits (h : EditedFrom c₀ s) : EditedFrom c₀ s.dumpDmaErr := by
  unfold State.dumpDmaErr
  with_reducible
    repeat' first
      | assumption | apply State.dumpOver_edits | apply State.irq_edits | apply State.bump_edits | apply State.modCap_edits | apply EditedFrom.ite

theorem execDumpEnd_edits (x : DumpResult) (h : EditedFrom c₀ s) : AnswersEdits c₀ (execDumpEnd x s) := by
  refine ⟨_, rfl, ?_⟩
  unfold State.headerOut
  repeat' first
    | with_reducible first
        | assumption | apply State.modCap_edits | apply State.irq_edits | apply State.dumpOver_edits | apply State.dumpDmaErr_edits | apply State.emit_edits
        | apply State.bump_edits | apply EditedFrom.ite
    | split

theorem State.capDenied_edits (who : Requester) (wr : Bool) (off : Nat) (h : EditedFrom c₀ s) : EditedFrom c₀ (s.capDenied who wr off) :=
  State.logAcc_edits _ _ _ _ _ _ h

theorem execPageZero_edits (who : Requester) (t : Nat) (incs : List (Nat × Nat)) (h : EditedFrom c₀ s) : AnswersEdits c₀ (execPageZero who t incs s) := by
  refine ⟨_, rfl, ?_⟩
  repeat' first | (with_reducible first | assumption | apply State.pageZero_edits | apply State.capDenied_edits | apply EditedFrom.ite) | split

/-! ### Counters through Machine.Egress -/

theorem State.doHoldClr_edits (g : Nat) (h : EditedFrom c₀ s) : EditedFrom c₀ (s.doHoldClr g) := State.modGate_edits _ _ h

theorem State.barrierIn_edits (port : Nat) (m : Msg) (h : EditedFrom c₀ s) : EditedFrom c₀ (s.barrierIn port m) := by
  unfold State.barrierIn
  repeat' first
    | with_reducible first
        | assumption | apply State.ingressEdge_edits | apply State.bump_edits | apply State.gateAnswer_edits | apply State.modGate_edits
        | apply EditedFrom.ite
    | split

theorem State.modWatch_edits (g : Nat) (w : Watch) (f : Watch → Watch) (h : EditedFrom c₀ s) : EditedFrom c₀ (s.modWatch g w f) := State.modGate_edits _ _ h

theorem State.leave_edits (p : Nat) (m : Msg) (h : EditedFrom c₀ s) : EditedFrom c₀ (s.leave p m) := by
  unfold State.leave State.snpHanded State.memHanded
  repeat' first
    | with_reducible first
        | assumption | apply State.handOver_edits | apply State.modSlice_edits | apply State.modTx_edits | apply State.modHome_edits
        | apply State.stamp_edits | apply EditedFrom.ite
    | split | dsimp only

theorem State.drainOut_edits (p k : Nat) (h : EditedFrom c₀ s) : EditedFrom c₀ (s.drainOut p k) := by
  induction k generalizing s with
  | zero => exact h
  | succ k ih =>
    unfold State.drainOut
    split
    · split
      · exact h
      · exact h
      · exact ih (State.leave_edits _ _ (State.qTake_edits _ _ _ h))
    · exact h

theorem State.portOut_edits (p : Nat) (h : EditedFrom c₀ s) : EditedFrom c₀ (s.portOut p) := State.drainOut_edits _ _ h

theorem State.timedOut_edits (g : Nat) (w : Watch) (h : EditedFrom c₀ s) : EditedFrom c₀ (s.timedOut g w) := by
  unfold State.timedOut State.explained State.timeOut State.missed
  with_reducible
    repeat' first
      | assumption | apply State.voidWatch_edits | apply State.modWatch_edits | apply State.bump_edits | apply State.modGate_edits
      | apply State.tracePath_edits | apply State.winHit_edits | apply State.raise_edits | apply EditedFrom.ite

theorem State.uncount_edits (key : Nat) (h : EditedFrom c₀ s) : EditedFrom c₀ (s.uncount key) := CntEdits.uncount key h

theorem State.cfgLeaves_edits (port : Nat) (m : Msg) (h : EditedFrom c₀ s) : EditedFrom c₀ (s.cfgLeaves port m) := by
  unfold State.cfgLeaves
  repeat' first
    | with_reducible first
        | assumption | apply State.modBarriers_edits | apply State.handOver_edits | apply State.modGate_edits | apply EditedFrom.ite
    | split

theorem State.gateCmd_edits (g : Nat) (who : Requester) {f : State → State} (hf : ∀ s, EditedFrom c₀ s → EditedFrom c₀ (f s)) (h : EditedFrom c₀ s) :
    EditedFrom c₀ (s.gateCmd g who f) := by
  unfold State.gateCmd
  with_reducible repeat' first | assumption | apply hf | apply State.logAcc_edits | apply EditedFrom.ite

theorem execHoldClr_edits (g : Nat) (h : EditedFrom c₀ s) : AnswersEdits c₀ (execHoldClr g s) := by
  refine ⟨_, rfl, ?_⟩
  repeat' first | intro _ | (with_reducible first | assumption | apply State.gateCmd_edits | apply State.doHoldClr_edits)

theorem execBarDone_edits (g i : Nat) (h : EditedFrom c₀ s) : AnswersEdits c₀ (execBarDone g i s) := by
  refine ⟨_, rfl, ?_⟩
  repeat' first
    | with_reducible first
        | assumption | apply State.modGate_edits | apply State.bump_edits | apply State.page_edits | apply State.egress_edits | apply EditedFrom.ite
    | split

theorem State.pageDone_edits (w : Watch) (m : Msg) (h : EditedFrom c₀ s) : EditedFrom c₀ (s.pageDone w m) := by
  unfold State.pageDone
  with_reducible repeat' first | assumption | apply State.page_edits | apply State.pageN_edits | apply EditedFrom.ite

theorem State.doneWatch_edits (g : Nat) (w : Watch) (m : Msg) (h : EditedFrom c₀ s) : EditedFrom c₀ (s.doneWatch g w m) := by
  unfold State.doneWatch
  with_reducible
    repeat' first
      | assumption | apply State.pageDone_edits | apply State.modGate_edits | apply State.modPort_edits | apply State.traceEnd_edits
      | apply State.stamp_edits | apply State.modBarriers_edits | apply State.bump_edits | apply EditedFrom.ite

theorem State.revoke_edits (g : Nat) (w : Watch) (c : ErrCode) (k : Nat) (h : EditedFrom c₀ s) : EditedFrom c₀ (s.revoke g w c k) := by
  unfold State.revoke
  repeat' first
    | with_reducible first
        | assumption | apply State.modGate_edits | apply State.qTake_edits | apply State.modPort_edits | apply State.uncount_edits
        | apply State.setTraces_edits | apply State.bump_edits | apply State.gateAnswer_edits | apply EditedFrom.ite
    | split | dsimp only

theorem State.recheckAll_edits (h : EditedFrom c₀ s) : EditedFrom c₀ s.recheckAll := by
  unfold State.recheckAll State.recheck
  repeat' first
    | intro _
    | with_reducible first
        | assumption | apply State.bump_edits | apply State.revoke_edits | apply State.modWatch_edits | refine EditedFrom.foldl ?_ ?_ | apply EditedFrom.ite
    | split | dsimp only

theorem State.workEnd_edits (n : Nat) (l : LineAddr) (h : EditedFrom c₀ s) : EditedFrom c₀ (s.workEnd n l) := by
  unfold State.workEnd
  repeat' first | intro _ | (with_reducible first | assumption | apply State.freeTail_edits | refine EditedFrom.foldl ?_ ?_ | apply EditedFrom.ite)

theorem execSlotAdvance_edits (d : Nat) (h : EditedFrom c₀ s) : AnswersEdits c₀ (execSlotAdvance d s) := by
  refine ⟨_, rfl, ?_⟩
  repeat' first
    | intro _
    | with_reducible first
        | assumption | apply State.modDom_edits | apply State.modGate_edits | refine EditedFrom.foldl ?_ ?_ | apply EditedFrom.ite
    | split

theorem execRetryOrderClose_edits (g slot i : Nat) (h : EditedFrom c₀ s) : AnswersEdits c₀ (execRetryOrderClose g slot i s) := by
  refine ⟨_, rfl, ?_⟩
  repeat' first | (with_reducible first | assumption | apply State.modGate_edits | apply EditedFrom.ite) | split

theorem execBarrier_edits (port : Nat) (m : Msg) (h : EditedFrom c₀ s) : AnswersEdits c₀ (execBarrier port m s) := by
  refine ⟨_, rfl, ?_⟩
  repeat' first | intro _ | (with_reducible first | assumption | apply State.atPort_edits | apply State.barrierIn_edits)

theorem State.completed_edits (p : Nat) (m : Msg) (h : EditedFrom c₀ s) : EditedFrom c₀ (s.completed p m) := by
  unfold State.completed
  repeat' first | (with_reducible first | assumption | apply State.modWatch_edits | apply State.doneWatch_edits | apply EditedFrom.ite) | split

theorem State.writerTakes_edits (port : Nat) (m : Msg) (h : EditedFrom c₀ s) : EditedFrom c₀ (s.writerTakes port m) := by
  unfold State.writerTakes
  repeat' first
    | with_reducible first
        | assumption | apply State.modGate_edits | apply State.completed_edits | apply State.writerGot_edits | apply State.emit_edits | apply EditedFrom.ite
    | split | dsimp only

theorem execBalancer_edits (d : Nat) (h : EditedFrom c₀ s) : AnswersEdits c₀ (execBalancer d s) := by
  refine ⟨_, rfl, ?_⟩
  unfold State.balance State.moveUnit
  repeat' first
    | intro _
    | with_reducible first
        | assumption | apply State.modGate_edits | apply State.modDom_edits | refine EditedFrom.foldl ?_ ?_ | apply EditedFrom.ite
    | split

theorem execTailExpire_edits (g i : Nat) (h : EditedFrom c₀ s) : AnswersEdits c₀ (execTailExpire g i s) := by
  refine ⟨_, rfl, ?_⟩
  repeat' first
    | with_reducible first
        | assumption | apply State.freeTail_edits | apply State.bump_edits | apply State.modGate_edits | apply EditedFrom.ite
    | split

theorem execHoldExpire_edits (g h1 : Nat) (h : EditedFrom c₀ s) : AnswersEdits c₀ (execHoldExpire g h1 s) := by
  refine ⟨_, rfl, ?_⟩
  repeat' first | (with_reducible first | assumption | apply State.bump_edits | apply State.modGate_edits | apply EditedFrom.ite) | split

theorem execWatchTimeout_edits (g i : Nat) (h : EditedFrom c₀ s) : AnswersEdits c₀ (execWatchTimeout g i s) := by
  refine ⟨_, rfl, ?_⟩
  repeat' first | (with_reducible first | assumption | apply State.gateAnswer_edits | apply State.timedOut_edits | apply EditedFrom.ite) | split

theorem execCompletionEgress_edits (port : Nat) (m : Msg) (h : EditedFrom c₀ s) : AnswersEdits c₀ (execCompletionEgress port m s) := by
  refine ⟨_, rfl, ?_⟩
  repeat' first
    | with_reducible first
        | assumption | apply State.writerTakes_edits | apply State.leave_edits | apply State.qTake_edits | apply State.completed_edits
        | apply State.portOut_edits | apply State.cfgLeaves_edits | apply EditedFrom.ite
    | split

/-! ### Counters through Machine.Tile -/

theorem State.startSpare_edits (n : Nat) (col : Bool) (bank idx win : Nat) (h : EditedFrom c₀ s) : EditedFrom c₀ (s.startSpare n col bank idx win) := by
  unfold State.startSpare
  repeat' first | (with_reducible first | assumption | apply State.modSlice_edits | apply State.fence_edits | apply EditedFrom.ite) | split

theorem State.cwRec_edits (n d slot j : Nat) (l : LineAddr) (c : RecCode) (syn : BitVec 16) (trip : Option Nat) (h : EditedFrom c₀ s) :
    EditedFrom c₀ (s.cwRec n d slot j l c syn trip) := State.raise_edits _ h

theorem State.chan_edits (n : Nat) (c : TileCmd) (h : EditedFrom c₀ s) : EditedFrom c₀ (s.chan n c) := State.bump_edits _ h

theorem State.tileRead_edits (n slot : Nat) (m : Msg) (h : EditedFrom c₀ s) : EditedFrom c₀ (s.tileRead n slot m) := by
  unfold State.tileRead
  with_reducible repeat' first | assumption | apply State.modSlice_edits | apply State.chan_edits

theorem State.writeTile_edits (n slot : Nat) (mask : BitVec 128) (v : LineData) (h : EditedFrom c₀ s) : EditedFrom c₀ (s.writeTile n slot mask v) := by
  unfold State.writeTile
  with_reducible repeat' first | assumption | apply State.modSlice_edits | apply State.chan_edits

theorem State.ungrant_edits (n slot : Nat) (g : Option Nat) (h : EditedFrom c₀ s) : EditedFrom c₀ (s.ungrant n slot g) := by
  unfold State.ungrant
  repeat' first | (with_reducible first | assumption | apply State.modSlice_edits | apply EditedFrom.ite) | split

theorem State.sendTile_edits (d : Nat) (D : ImgDomain) (n slot : Nat) (m : Msg) (x : LineData) (early : Option Bool) (h : EditedFrom c₀ s) :
    EditedFrom c₀ (s.sendTile d D n slot m x early) := by
  unfold State.sendTile
  repeat' first | (with_reducible first | assumption | apply State.sendEp_edits | apply State.ungrant_edits | apply EditedFrom.ite) | split

theorem State.cwEvent_edits (n d : Nat) (D : ImgDomain) (slot j : Nat) (l : LineAddr) (o : CwOut) (syn : BitVec 16) (h : EditedFrom c₀ s) :
    EditedFrom c₀ (s.cwEvent n d D slot j l o syn) := by
  unfold State.cwEvent State.cwCorrected State.markCodeword
  repeat' first
    | intro _
    | with_reducible first
        | assumption | apply State.modSlice_edits | apply State.bump_edits | apply State.winHit_edits | apply State.cwRec_edits
        | apply State.startSpare_edits | refine EditedFrom.foldl ?_ ?_ | refine EditedFrom.foldl1 ?_ ?_ | apply EditedFrom.ite
    | split

theorem execTileData_edits (n slot : Nat) (upper : Bool) (flips : List (BitVec 80)) (used : Bool) (m : Msg) (h : EditedFrom c₀ s) :
    AnswersEdits c₀ (execTileData n slot upper flips used m s) := by
  refine ⟨_, rfl, ?_⟩
  repeat' first
    | intro _
    | with_reducible first
        | assumption | apply State.cwEvent_edits | apply State.modSlice_edits | apply State.bump_edits | apply State.sendTile_edits
        | refine EditedFrom.foldl ?_ ?_ | apply EditedFrom.ite
    | split

theorem State.setTile_edits (n slot : Nat) (v : LineData) (h : EditedFrom c₀ s) : EditedFrom c₀ (s.setTile n slot v) := State.writeTile_edits _ _ _ _ h

theorem State.checkLine_edits (n d : Nat) (D : ImgDomain) (k : Nat) (flips : List (BitVec 80)) (h : EditedFrom c₀ s) :
    EditedFrom c₀ (s.checkLine n d D k flips) := by
  unfold State.checkLine
  repeat' first | intro _ | (with_reducible first | assumption | apply State.cwEvent_edits | refine EditedFrom.foldl ?_ ?_ | apply EditedFrom.ite) | split

/-! ### Counters through Machine.Slice -/

theorem State.setRrv_edits (n slot : Nat) (v : BitVec 2) (h : EditedFrom c₀ s) : EditedFrom c₀ (s.setRrv n slot v) := State.modSlice_edits _ _ h

theorem State.pickWay_edits (a : At) (cs : List Nat) (h : EditedFrom c₀ s) : EditedFrom c₀ (s.pickWay a cs).1 := by
  unfold State.pickWay
  repeat' first
    | intro _
    | with_reducible first
        | assumption | apply State.setRrv_edits | refine EditedFrom.foldl ?_ ?_ | apply EditedFrom.ite
    | split | dsimp only

theorem State.vbPut_edits (n i : Nat) (v : Option VbEnt) (h : EditedFrom c₀ s) : EditedFrom c₀ (s.vbPut n i v) := State.modSlice_edits _ _ h

theorem State.modTag_edits (n slot : Nat) (f : TagWord → TagWord) (h : EditedFrom c₀ s) : EditedFrom c₀ (s.modTag n slot f) := State.modSlice_edits _ _ h

theorem State.setPres_edits (n slot : Nat) (v : BitVec 32) (h : EditedFrom c₀ s) : EditedFrom c₀ (s.setPres n slot v) := State.modSlice_edits _ _ h

theorem State.invalWay_edits (n : Nat) (D : ImgDomain) (slot : Nat) (h : EditedFrom c₀ s) : EditedFrom c₀ (s.invalWay n D slot) := by
  unfold State.invalWay State.predDrop
  with_reducible
    repeat' first
      | assumption | apply State.modTag_edits | apply State.modSlice_edits | apply State.setRrv_edits | apply State.setPres_edits | apply State.bump_edits
      | apply EditedFrom.ite

theorem State.snoopNear_edits (a : At) (g : Nat) (op : Op) (nodata : Bool) (req : Endpoint) (dl : Option KTime) (cls : BitVec 2) (h : EditedFrom c₀ s) :
    EditedFrom c₀ (s.snoopNear a g op nodata req dl cls) := State.sendNear_edits _ _ _ _ _ h

theorem State.sendWb_edits (a : At) (dirty : Bool) (x : LineData) (h : EditedFrom c₀ s) : EditedFrom c₀ (s.sendWb a dirty x) :=
  State.sendHome_edits _ _ _ _ _ h

theorem State.vbSettle_edits (a : At) (h : EditedFrom c₀ s) : EditedFrom c₀ (s.vbSettle a) := by
  unfold State.vbSettle
  repeat' first
    | intro _
    | with_reducible first
        | assumption | apply State.vbPut_edits | apply State.modSlice_edits | apply State.qPush_edits | apply State.sendWb_edits
        | refine EditedFrom.foldl ?_ ?_ | apply EditedFrom.ite
    | split

theorem State.takeVictim_edits (n d : Nat) (D : ImgDomain) (slot i gate : Nat) (flips : optParam (List (BitVec 80)) []) (h : EditedFrom c₀ s) :
    EditedFrom c₀ (s.takeVictim n d D slot i gate flips) := by
  unfold State.takeVictim
  repeat' first
    | intro _
    | with_reducible first
        | assumption | apply State.checkLine_edits | apply State.modSlice_edits | apply State.vbPut_edits | apply State.invalWay_edits
        | apply State.chan_edits | apply State.snoopNear_edits | apply State.vbSettle_edits | refine EditedFrom.foldl ?_ ?_ | apply EditedFrom.ite

theorem State.makeRoom_edits (a : At) (t gate : Nat) (flips : List (BitVec 80)) (h : EditedFrom c₀ s) : EditedFrom c₀ (s.makeRoom a t gate flips).1 := by
  unfold State.makeRoom
  repeat' first
    | with_reducible first
        | assumption | apply State.pickWay_edits | apply State.bump_edits | apply State.takeVictim_edits | apply EditedFrom.ite
    | split | with_reducible refine EditedFrom.pair (by assumption) ?_

theorem State.sliceMust_edits (n : Nat) (c : RecCode) (h : EditedFrom c₀ s) : EditedFrom c₀ (s.sliceMust n c) := by
  unfold State.sliceMust
  with_reducible repeat' first | assumption | apply State.winHit_edits | apply State.fence_edits

theorem State.tagCorrected_edits (n d : Nat) (D : ImgDomain) (set w : Nat) (pres : Bool) (syn : BitVec 16) (h : EditedFrom c₀ s) :
    EditedFrom c₀ (s.tagCorrected n d D set w pres syn) := by
  unfold State.tagCorrected
  with_reducible repeat' first | assumption | apply State.bump_edits | apply State.modSlice_edits | apply State.winHit_edits | apply State.raise_edits

theorem State.newMshr_edits {t : State} {b : Nat} {a : At} {m : Msg} {req : Op} {wb : Bool} {near : Option NearMiss}
    (e : s.newMshr a m req wb near = some (t, b)) (h : EditedFrom c₀ s) : EditedFrom c₀ t := by
  unfold State.newMshr at e
  split at e
  · cases e
  · cases e
    exact h

theorem State.wbMerge_edits {t : State} {a : At} {m : Msg} (e : s.wbMerge a m = some t) (h : EditedFrom c₀ s) : EditedFrom c₀ t := by
  unfold State.wbMerge at e
  dsimp only at e
  split at e
  · cases e
    exact h
  · obtain ⟨i, _, rfl⟩ := Option.map_eq_some_iff.1 e
    exact h

theorem State.openMiss_edits {t : State} {b : Nat} {a : At} {m : Msg} {op : Op} {wb : Bool} {near : Option NearMiss}
    (e : s.openMiss a m op wb near = some (t, b)) (h : EditedFrom c₀ s) : EditedFrom c₀ t := by
  unfold State.openMiss at e
  split at e
  · cases e
  next u i hu =>
    split at e
    · simp only [Option.map_eq_some_iff, Prod.mk.injEq] at e
      obtain ⟨v, hv, rfl, _⟩ := e
      exact State.wbMerge_edits hv (State.newMshr_edits hu h)
    · cases e
      exact State.newMshr_edits hu h

theorem State.sliceTrip_edits (n : Nat) (c : RecCode) (h : EditedFrom c₀ s) : EditedFrom c₀ (s.sliceTrip n c) := by
  unfold State.sliceTrip
  with_reducible repeat' first | assumption | apply State.winHit_edits | apply State.fence_edits | apply State.rep_edits | apply EditedFrom.ite

theorem State.answer_edits (a : At) (m r : Msg) (h : EditedFrom c₀ s) : EditedFrom c₀ (s.answer a m r) := State.sendEp_edits _ _ _ _ _ _ h

theorem State.ledger_edits (a : At) (m : Msg) (h : EditedFrom c₀ s) : EditedFrom c₀ (s.ledger a m).1 := by
  unfold State.ledger
  with_reducible repeat' first | assumption | apply State.sliceTrip_edits | apply State.answer_edits

theorem State.nearWith_edits (a : At) (m : Msg) (op : Op) (wb : Bool) (owner : Option Nat) (sn : List (Nat × Op × Bool)) {f : State → State}
    (hf : ∀ s, EditedFrom c₀ s → EditedFrom c₀ (f s)) (h : EditedFrom c₀ s) : EditedFrom c₀ (s.nearWith a m op wb owner sn f).1 := by
  unfold State.nearWith
  repeat' first
    | intro _
    | with_reducible first
        | assumption | apply hf | apply State.ledger_edits | apply State.snoopNear_edits | refine EditedFrom.foldl ?_ ?_
        | refine State.openMiss_edits (by assumption) ?_
    | split

theorem State.give_edits (a : At) (slot : Nat) (m : Msg) (g : CohState) (wt : Bool) (fd : Option (LineData × Option Bool)) (h : EditedFrom c₀ s) :
    EditedFrom c₀ (s.give a slot m g wt fd) := by
  unfold State.give
  repeat' first | (with_reducible first | assumption | apply State.sendTile_edits | apply State.tileRead_edits | apply EditedFrom.ite) | split

theorem State.modMshr_edits (n i : Nat) (f : Mshr → Mshr) (h : EditedFrom c₀ s) : EditedFrom c₀ (s.modMshr n i f) := State.modSlice_edits _ _ h

theorem State.missSend_edits (a : At) (i : Nat) (m : Msg) (op : Op) (sn : List (Nat × Op × Bool)) (h : EditedFrom c₀ s) :
    EditedFrom c₀ (s.missSend a i m op sn) := by
  unfold State.missSend
  repeat' first
    | intro _
    | with_reducible first
        | assumption | apply State.modMshr_edits | apply State.snoopNear_edits | apply State.bump_edits | apply State.sendHome_edits
        | refine EditedFrom.foldl ?_ ?_ | apply EditedFrom.ite

theorem State.missWith_edits (a : At) (m : Msg) (op : Op) (wb : Bool) (sn : List (Nat × Op × Bool)) (h : EditedFrom c₀ s) :
    EditedFrom c₀ (s.missWith a m op wb sn).1 := by
  unfold State.missWith
  repeat' first
    | with_reducible first
        | assumption | apply State.ledger_edits | apply State.missSend_edits | refine State.openMiss_edits (by assumption) ?_
    | split

theorem State.lookErr_edits (a : At) (m : Msg) (e : ErrCode) (h : EditedFrom c₀ s) : EditedFrom c₀ (s.lookErr a m e).1 := State.answer_edits _ _ _ h

theorem State.takeOwn_edits (a : At) (k : Nat) (g : Option Nat) (h : EditedFrom c₀ s) : EditedFrom c₀ (s.takeOwn a k g) := by
  unfold State.takeOwn
  with_reducible repeat' first | assumption | apply State.setPres_edits | apply State.modTag_edits

theorem State.upgWith_edits (a : At) (k : Nat) (m : Msg) (wb : Bool) (sn : List (Nat × Op × Bool)) (keep : BitVec 32) (h : EditedFrom c₀ s) :
    EditedFrom c₀ (s.upgWith a k m wb sn keep).1 := by
  unfold State.upgWith
  repeat' first
    | with_reducible first
        | assumption | apply State.missWith_edits | apply State.modTag_edits | apply State.setPres_edits | apply EditedFrom.ite
    | split | dsimp only

theorem State.hitWrite_edits (a : At) (w : Nat) (m : Msg) (rcd : Bool) (flips : List (BitVec 80)) (h : EditedFrom c₀ s) :
    EditedFrom c₀ (s.hitWrite a w m rcd flips).1 := by
  unfold State.hitWrite State.writeHit
  repeat' first
    | intro _
    | with_reducible first
        | assumption | apply State.missWith_edits | apply State.checkLine_edits | apply State.lookErr_edits | apply State.writeTile_edits
        | apply State.modTag_edits | apply State.answer_edits | apply State.nearWith_edits | apply State.takeOwn_edits | apply State.upgWith_edits
        | apply EditedFrom.ite
    | split | dsimp only

theorem State.readsDone_edits (s0 : State) (a : At) (m : Msg) (reads : List Nat) (commit hit : Option Nat) (used : Bool) (h : EditedFrom c₀ s) :
    EditedFrom c₀ (s.readsDone s0 a m reads commit hit used) := by
  unfold State.readsDone State.tileDrop
  repeat' first
    | intro _
    | with_reducible first
        | assumption | apply State.chan_edits | apply State.bump_edits | apply State.modSlice_edits | refine EditedFrom.foldl ?_ ?_ | apply EditedFrom.ite
    | split

theorem State.hitOwn_edits (a : At) (w : Nat) (m : Msg) (op : Op) (fd : Option (LineData × Option Bool)) (merged : Bool) (h : EditedFrom c₀ s) :
    EditedFrom c₀ (s.hitOwn a w m op fd merged).1 := by
  unfold State.hitOwn
  repeat' first
    | intro _
    | with_reducible first
        | assumption | apply State.answer_edits | apply State.takeOwn_edits | apply State.give_edits | apply State.nearWith_edits
        | apply State.upgWith_edits | apply EditedFrom.ite
    | split | dsimp only

theorem State.lookPresent_edits (a : At) (w : Nat) (m : Msg) (op : Op) (rcd : Bool) (fd : Option (LineData × Option Bool)) (merged : Bool)
    (flips : List (BitVec 80)) (h : EditedFrom c₀ s) : EditedFrom c₀ (s.lookPresent a w m op rcd fd merged flips).1 := by
  unfold State.lookPresent State.hitShared State.hitNa State.hitNodata
  repeat' first
    | intro _
    | with_reducible first
        | assumption | apply State.lookErr_edits | apply State.nearWith_edits | apply State.setPres_edits | apply State.modTag_edits
        | apply State.give_edits | apply State.hitOwn_edits | apply State.answer_edits | apply State.takeOwn_edits | apply State.upgWith_edits
        | apply State.hitWrite_edits | apply EditedFrom.ite
    | split | dsimp only

theorem State.passEnd_edits (n : Nat) (ok : PassEnd) (h : EditedFrom c₀ s) : EditedFrom c₀ (s.passEnd n ok).1 := h

theorem State.mismatch_edits (n d : Nat) (last : Bool) (h : EditedFrom c₀ s) : EditedFrom c₀ (s.mismatch n d last) := by
  unfold State.mismatch
  with_reducible
    repeat' first
      | assumption | apply State.modSlice_edits | apply State.bump_edits | apply State.winHit_edits | apply State.raise_edits | apply State.fence_edits
      | apply EditedFrom.ite

theorem State.returnUnits_edits (d : Nat) (ep : Endpoint) (l : LineAddr) (h : EditedFrom c₀ s) : EditedFrom c₀ (s.returnUnits d ep l) := by
  unfold State.returnUnits
  repeat' first | (with_reducible first | assumption | apply State.modGate_edits | apply State.modWatch_edits | apply EditedFrom.ite) | split

theorem State.eccStage_edits (n d : Nat) (D : ImgDomain) (set : Nat) (x : PassTry) (h : EditedFrom c₀ s) : EditedFrom c₀ (s.eccStage n d D set x).1 := by
  unfold State.eccStage State.eccTag State.tagLost State.eccPres State.presLost
  repeat' first
    | intro _
    | with_reducible first
        | assumption | apply State.modTag_edits | apply State.tagCorrected_edits | apply State.bump_edits | apply State.modSlice_edits
        | apply State.raise_edits | apply State.sliceMust_edits | apply State.setPres_edits | refine EditedFrom.foldl1 ?_ ?_ | apply EditedFrom.ite
    | split | dsimp only

theorem State.lastTrip_edits (n : Nat) (reads : List Nat) (x : PassFault) (h : EditedFrom c₀ s) : EditedFrom c₀ (s.lastTrip n reads x).st := by
  unfold State.lastTrip
  repeat' first | (with_reducible first | assumption | apply State.passEnd_edits | apply State.sliceTrip_edits | apply EditedFrom.ite) | split

theorem State.replayTrip_edits (n d : Nat) (D : ImgDomain) (set : Nat) (hit : State → Option Nat) (due : Nat → Bool) (k : Nat) (reads : List Nat)
    (x : PassFault) (h : EditedFrom c₀ s) : EditedFrom c₀ (s.replayTrip n d D set hit due k reads x).st := by
  unfold State.replayTrip
  repeat' first
    | with_reducible first
        | assumption | apply State.eccStage_edits | apply State.passEnd_edits | apply State.mismatch_edits | apply State.lastTrip_edits
        | apply EditedFrom.ite
    | split | dsimp only

theorem State.runPass_edits (n d : Nat) (D : ImgDomain) (set : Nat) (hit : State → Option Nat) (pr : Option Nat) (due : Nat → Bool) (x : PassFault)
    (h : EditedFrom c₀ s) : EditedFrom c₀ (s.runPass n d D set hit pr due x).st := by
  unfold State.runPass
  repeat' first
    | intro _
    | with_reducible first
        | assumption | apply State.setRrv_edits | apply State.bump_edits | apply State.eccStage_edits | apply State.replayTrip_edits
        | apply State.lastTrip_edits | apply State.mismatch_edits | refine EditedFrom.foldl ?_ ?_ | apply EditedFrom.ite
    | split | dsimp only

theorem State.returnEnts_edits (d : Nat) (ep : Endpoint) (l : LineAddr) (keep : EntRes) (credit : Bool) (h : EditedFrom c₀ s) :
    EditedFrom c₀ (s.returnEnts d ep l keep credit) := by
  unfold State.returnEnts
  repeat' first | (with_reducible first | assumption | apply State.modWatch_edits | apply State.modPort_edits | apply EditedFrom.ite) | split

theorem State.lookJoin_edits (a : At) (i : Nat) (e : Mshr) (m : Msg) (op : Op) (rcd : Bool) (h : EditedFrom c₀ s) :
    EditedFrom c₀ (s.lookJoin a i e m op rcd).1 := by
  unfold State.lookJoin
  repeat' first
    | with_reducible first
        | assumption | apply State.modMshr_edits | apply State.ledger_edits | refine State.wbMerge_edits (by assumption) ?_
    | split | dsimp only

theorem State.lookAbsent_edits (a : At) (m : Msg) (op : Op) (rcd : Bool) (h : EditedFrom c₀ s) : EditedFrom c₀ (s.lookAbsent a m op rcd).1 := by
  unfold State.lookAbsent
  repeat' first | (with_reducible first | assumption | apply State.lookErr_edits | apply State.missWith_edits | apply EditedFrom.ite) | split

theorem State.lookOn_edits (a : At) (m : Msg) (fd : Option (LineData × Option Bool)) (wt merged : Bool) (flips : optParam (List (BitVec 80)) [])
    (h : EditedFrom c₀ s) : EditedFrom c₀ (s.lookOn a m fd wt merged flips).1 := by
  unfold State.lookOn
  repeat' first
    | with_reducible first
        | assumption | apply State.lookJoin_edits | apply State.lookPresent_edits | apply State.lookAbsent_edits | apply EditedFrom.ite
    | split

theorem State.look_edits (a : At) (m : Msg) (fd : Option (LineData × Option Bool)) (wt merged : Bool) (flips : optParam (List (BitVec 80)) [])
    (h : EditedFrom c₀ s) : EditedFrom c₀ (s.look a m fd wt merged flips).1 := by
  unfold State.look
  repeat' first
    | with_reducible first
        | assumption | apply State.bump_edits | apply State.answer_edits | apply State.lookOn_edits | apply EditedFrom.ite
    | split

theorem State.sampleSet_edits (a : At) (t : Nat) (h : EditedFrom c₀ s) : EditedFrom c₀ (s.sampleSet a t) := by
  unfold State.sampleSet
  repeat' first | (with_reducible first | assumption | apply State.modSlice_edits | apply EditedFrom.ite) | split | dsimp only

theorem State.predSet_edits (a : At) (w : Nat) (h : EditedFrom c₀ s) : EditedFrom c₀ (s.predSet a w) := State.modSlice_edits _ _ h

theorem State.touch_edits (a : At) (m : Msg) (w : Option Nat) (h : EditedFrom c₀ s) : EditedFrom c₀ (s.touch a m w) := by
  unfold State.touch
  repeat' first | (with_reducible first | assumption | apply State.predSet_edits | apply State.setRrv_edits | apply EditedFrom.ite) | split

theorem State.hint_edits (a : At) (l : LineAddr) (h : EditedFrom c₀ s) : EditedFrom c₀ (s.hint a l) := by
  unfold State.hint
  repeat' first
    | with_reducible first
        | assumption | apply State.injToken_edits | apply State.sendHome_edits | apply State.bump_edits
    | split | with_reducible refine EditedFrom.pair (by assumption) ?_ | dsimp only

theorem State.trainMiss_edits (a : At) (t : Nat) (h : EditedFrom c₀ s) : EditedFrom c₀ (s.trainMiss a t) := by
  unfold State.trainMiss
  repeat' first
    | intro _
    | with_reducible first
        | assumption | apply State.modSlice_edits | apply State.hint_edits | refine EditedFrom.foldl ?_ ?_ | apply EditedFrom.ite
    | split | dsimp only

theorem State.holdLook_edits (n : Nat) (m : Msg) (h : EditedFrom c₀ s) : EditedFrom c₀ (s.holdLook n m) := by
  unfold State.holdLook
  with_reducible repeat' first | assumption | apply State.qPush_edits | apply State.bump_edits

theorem State.lookDone_edits (a : At) (m : Msg) (w : Option Nat) (e : LookEnd) (h : EditedFrom c₀ s) : EditedFrom c₀ (s.lookDone a m w e) := by
  unfold State.lookDone
  repeat' first
    | with_reducible first
        | assumption | apply State.sampleSet_edits | apply State.tracePath_edits | apply State.returnEnts_edits | apply State.returnUnits_edits
        | apply State.touch_edits | apply State.page_edits | apply State.bump_edits | apply State.trainMiss_edits | apply State.holdLook_edits
        | apply EditedFrom.ite
    | split

theorem State.lookupIn_edits (a : At) (m : Msg) (x : PassFault) (h : EditedFrom c₀ s) : EditedFrom c₀ (s.lookupIn a m x) := by
  unfold State.lookupIn
  repeat' first
    | with_reducible first
        | assumption | apply State.stamp_edits | apply State.runPass_edits | apply State.readsDone_edits | apply State.workEnd_edits
        | apply State.returnEnts_edits | apply State.answer_edits | apply State.bump_edits | apply State.look_edits | apply State.lookDone_edits
        | apply EditedFrom.ite
    | split | dsimp only

theorem execLookupPass_edits (n : Nat) (m : Msg) (x : PassFault) (h : EditedFrom c₀ s) : AnswersEdits c₀ (execLookupPass n m x s) := by
  refine ⟨_, rfl, ?_⟩
  repeat' first
    | with_reducible first
        | assumption | apply State.lookupIn_edits | apply State.modSlice_edits | apply State.qTake_edits | apply EditedFrom.ite
    | split

theorem State.passFaults_edits (n d : Nat) (D : ImgDomain) (set : Nat) (x : PassFault) (h : EditedFrom c₀ s) :
    EditedFrom c₀ (s.passFaults n d D set x).1  := State.runPass_edits _ _ _ _ _ _ _ _ h

/-! ### Counters through Machine.Fill -/

theorem State.install_edits (a : At) (w : Nat) (e : Mshr) (st : CohState) (subd : BitVec 2) (x : LineData) (h : EditedFrom c₀ s) :
    EditedFrom c₀ (s.install a w e st subd x) := by
  unfold State.install
  with_reducible
    repeat' first
      | assumption | apply State.modTag_edits | apply State.setTile_edits | apply State.predSet_edits | apply State.setRrv_edits | apply State.setPres_edits

theorem State.writerDone_edits (a : At) (bad : List Waiter) (w : Waiter) (h : EditedFrom c₀ s) : EditedFrom c₀ (s.writerDone a bad w) :=
  State.answer_edits _ _ _ h

theorem State.freeWb_edits (a : At) (h : EditedFrom c₀ s) : EditedFrom c₀ (s.freeWb a) := by
  unfold State.freeWb
  repeat' first | (with_reducible first | assumption | apply State.modSlice_edits | apply EditedFrom.ite) | split

theorem State.waitersErr_edits (a : At) (ws : List Waiter) (c : ErrCode) (h : EditedFrom c₀ s) : EditedFrom c₀ (s.waitersErr a ws c) := by
  unfold State.waitersErr
  repeat' first | intro _ | (with_reducible first | assumption | apply State.answer_edits | refine EditedFrom.foldl ?_ ?_)

theorem State.waiterLook_edits (a : At) (x : LineData) (second : Option Bool) (wt merged : Bool) (w : Waiter) (h : EditedFrom c₀ s) :
    EditedFrom c₀ (s.waiterLook a x second wt merged w) := by
  unfold State.waiterLook
  with_reducible repeat' first | assumption | apply State.lookOn_edits | apply State.holdLook_edits | apply EditedFrom.ite

theorem State.fillIn_edits (a : At) (e : Mshr) (p : FillPlan) (w : Nat) (h : EditedFrom c₀ s) : EditedFrom c₀ (s.fillIn a e p w) := by
  unfold State.fillIn
  repeat' first
    | intro _
    | with_reducible first
        | assumption | apply State.predSet_edits | apply State.setRrv_edits | apply State.modTag_edits | apply State.install_edits
        | apply State.setTile_edits | apply State.freeWb_edits | apply State.writerDone_edits | apply State.waitersErr_edits | apply State.waiterLook_edits
        | refine EditedFrom.foldl ?_ ?_ | apply EditedFrom.ite

theorem State.fillNone_edits (n : Nat) (m : Msg) (h : EditedFrom c₀ s) : EditedFrom c₀ (s.fillNone n m) := by
  unfold State.fillNone
  with_reducible repeat' first | assumption | apply State.qTake_edits | apply EditedFrom.ite

theorem State.fillRun_edits (a : At) (i : Nat) (e : Mshr) (m : Msg) (x : PassFault) {f : State → State} (hf : ∀ s, EditedFrom c₀ s → EditedFrom c₀ (f s))
    (h : EditedFrom c₀ s) : EditedFrom c₀ (s.fillRun a i e m x f) := by
  unfold State.fillRun State.fillFault
  repeat' first
    | with_reducible first
        | assumption | apply hf | apply State.runPass_edits | apply State.readsDone_edits | apply State.freeWb_edits | apply State.waitersErr_edits
        | apply State.bump_edits | apply State.modMshr_edits | apply EditedFrom.ite
    | split | dsimp only

theorem State.compAckHome_edits (a : At) (txn : BitVec 12) (dl : KTime) (h : EditedFrom c₀ s) : EditedFrom c₀ (s.compAckHome a txn dl) :=
  State.sendHome_edits _ _ _ _ _ h

theorem State.freeMshr_edits (a : At) (i : Nat) (e : Mshr) (h : EditedFrom c₀ s) : EditedFrom c₀ (s.freeMshr a i e) := by
  unfold State.freeMshr
  repeat' first
    | intro _
    | with_reducible first
        | assumption | apply State.modSlice_edits | apply State.qTake_edits | apply State.qPush_edits | apply State.modPort_edits
        | apply State.workEnd_edits | refine EditedFrom.foldl ?_ ?_ | apply EditedFrom.ite
    | split

theorem execDur_edits (p : PassAt) (m : Msg) (h : EditedFrom c₀ s) : AnswersEdits c₀ (execDur p m s) := by
  refine ⟨_, rfl, ?_⟩
  unfold State.durPass
  repeat' first
    | intro _
    | with_reducible first
        | assumption | apply State.fillNone_edits | apply State.qTake_edits | apply State.fillRun_edits | apply State.bump_edits | apply State.stamp_edits
        | apply State.checkLine_edits | apply State.modTag_edits | apply State.writeTile_edits | apply State.answer_edits | apply State.compAckHome_edits
        | apply State.freeMshr_edits | apply State.freeWb_edits | refine EditedFrom.foldl ?_ ?_ | apply EditedFrom.ite
    | split

theorem State.waiterPlain_edits (a : At) (e : Mshr) (x : LineData) (second : Option Bool) (w : Waiter) (h : EditedFrom c₀ s) :
    EditedFrom c₀ (s.waiterPlain a e x second w) := by
  unfold State.waiterPlain
  with_reducible repeat' first | assumption | apply State.waiterLook_edits | apply State.answer_edits | apply State.sendTile_edits | apply EditedFrom.ite

theorem State.giveBack_edits (a : At) (e : Mshr) (merged hasData : Bool) (x : LineData) (h : EditedFrom c₀ s) :
    EditedFrom c₀ (s.giveBack a e merged hasData x) := by
  unfold State.giveBack State.sendHeld
  repeat' first
    | with_reducible first
        | assumption | apply State.sendWb_edits | apply State.vbPut_edits | apply State.sliceTrip_edits | apply EditedFrom.ite
    | split

theorem State.victimNow_edits (a : At) (h : EditedFrom c₀ s) : EditedFrom c₀ (s.victimNow a) := by
  unfold State.victimNow
  repeat' first | (with_reducible first | assumption | apply State.takeVictim_edits | apply State.sliceTrip_edits | apply EditedFrom.ite) | split

theorem State.fillOut_edits (a : At) (e : Mshr) (p : FillPlan) (h : EditedFrom c₀ s) : EditedFrom c₀ (s.fillOut a e p) := by
  unfold State.fillOut
  repeat' first
    | intro _
    | with_reducible first
        | assumption | apply State.bump_edits | apply State.freeWb_edits | apply State.writerDone_edits | apply State.waitersErr_edits
        | apply State.waiterPlain_edits | apply State.giveBack_edits | apply State.victimNow_edits | refine EditedFrom.foldl ?_ ?_ | apply EditedFrom.ite

theorem State.errTry_edits (a : At) (h : EditedFrom c₀ s) : EditedFrom c₀ (s.errTry a) := by
  unfold State.errTry
  repeat' first | (with_reducible first | assumption | apply State.freeMshr_edits | apply EditedFrom.ite) | split

theorem State.fillWay_edits (a : At) (e : Mshr) (p : FillPlan) (flips : List (BitVec 80)) (h : EditedFrom c₀ s) :
    EditedFrom c₀ (s.fillWay a e p flips).1  := by
  unfold State.fillWay
  repeat' first | (with_reducible first | assumption | apply State.makeRoom_edits | apply EditedFrom.ite) | split

theorem State.nearGive_edits (a : At) (w : Nat) (e : Mshr) (nm : NearMiss) (q : Waiter) (h : EditedFrom c₀ s) : EditedFrom c₀ (s.nearGive a w e nm q) := by
  unfold State.nearGive
  repeat' first
    | with_reducible first
        | assumption | apply State.ungrant_edits | apply State.answer_edits | apply State.tileRead_edits | apply EditedFrom.ite
    | split

theorem State.waiterAgain_edits (a : At) (w : Waiter) (h : EditedFrom c₀ s) : EditedFrom c₀ (s.waiterAgain a w) := by
  unfold State.waiterAgain
  with_reducible repeat' first | assumption | apply State.lookOn_edits | apply State.holdLook_edits | apply EditedFrom.ite

theorem State.nearPass_edits (a : At) (i : Nat) (e : Mshr) (nm : NearMiss) (flips : List (BitVec 80)) (h : EditedFrom c₀ s) :
    EditedFrom c₀ (s.nearPass a i e nm flips) := by
  unfold State.nearPass
  repeat' first
    | intro _
    | with_reducible first
        | assumption | apply State.bump_edits | apply State.stamp_edits | apply State.checkLine_edits | apply State.freeMshr_edits
        | apply State.waitersErr_edits | apply State.freeWb_edits | apply State.modTag_edits | apply State.setTile_edits | apply State.writerDone_edits
        | apply State.nearGive_edits | apply State.holdLook_edits | apply State.waiterAgain_edits | apply State.victimNow_edits
        | refine EditedFrom.foldl ?_ ?_ | apply EditedFrom.ite
    | split | dsimp only

theorem State.fillErr_edits (a : At) (i : Nat) (e : Mshr) (c : ErrCode) (h : EditedFrom c₀ s) : EditedFrom c₀ (s.fillErr a i e c) := by
  unfold State.fillErr
  repeat' first
    | intro _
    | with_reducible first
        | assumption | apply State.waitersErr_edits | apply State.freeWb_edits | apply State.invalWay_edits | apply State.snoopNear_edits
        | apply State.errTry_edits | apply State.modMshr_edits | refine EditedFrom.foldl ?_ ?_ | apply EditedFrom.ite
    | split

theorem State.fillLedger_edits (a : At) (e : Mshr) (p : FillPlan) (h : EditedFrom c₀ s) : EditedFrom c₀ (s.fillLedger a e p) := by
  unfold State.fillLedger
  with_reducible
    repeat' first
      | assumption | apply State.waitersErr_edits | apply State.freeWb_edits | apply State.giveBack_edits | apply State.sliceTrip_edits

theorem State.wtWrite_edits (a : At) (e : Mshr) (b : WbEnt) (h : EditedFrom c₀ s) : EditedFrom c₀ (s.wtWrite a e b) := by
  unfold State.wtWrite
  repeat' first
    | with_reducible first
        | assumption | apply State.freeWb_edits | apply State.waitersErr_edits | apply State.modMshr_edits | apply State.sendHome_edits
        | apply State.bump_edits | refine State.newMshr_edits (by assumption) ?_
    | split | dsimp only

theorem State.fillPass_edits (a : At) (i : Nat) (e : Mshr) (flips : List (BitVec 80)) (h : EditedFrom c₀ s) : EditedFrom c₀ (s.fillPass a i e flips) := by
  unfold State.fillPass
  repeat' first
    | with_reducible first
        | assumption | apply State.checkLine_edits | apply State.bump_edits | apply State.stamp_edits | apply State.drawn_edits | apply State.freeMshr_edits
        | apply State.fillWay_edits | apply State.fillIn_edits | apply State.fillOut_edits | apply State.fillLedger_edits | apply State.wtWrite_edits
        | apply State.compAckHome_edits | apply EditedFrom.ite
    | split

theorem State.fillTry_edits (a : At) (flips : optParam (List (BitVec 80)) []) (h : EditedFrom c₀ s) : EditedFrom c₀ (s.fillTry a flips) := by
  unfold State.fillTry
  repeat' first | (with_reducible first | assumption | apply State.fillPass_edits | apply EditedFrom.ite) | split

theorem execData_edits (n : Nat) (m : Msg) (x : PassFault) (h : EditedFrom c₀ s) : AnswersEdits c₀ (execData n m x s) := by
  refine ⟨_, rfl, ?_⟩
  unfold State.takeData
  repeat' first
    | intro _
    | with_reducible first
        | assumption | apply State.fillNone_edits | apply State.qTake_edits | apply State.fillRun_edits | apply State.compAckHome_edits
        | apply State.fillErr_edits | apply State.fillTry_edits | apply State.modMshr_edits | apply EditedFrom.ite
    | split

theorem execCmp_edits (p : PassAt) (m : Msg) (h : EditedFrom c₀ s) : AnswersEdits c₀ (execCmp p m s) := by
  refine ⟨_, rfl, ?_⟩
  unfold State.waiterNew
  repeat' first
    | intro _
    | with_reducible first
        | assumption | apply State.fillNone_edits | apply State.qTake_edits | apply State.fillRun_edits | apply State.freeMshr_edits
        | apply State.freeWb_edits | apply State.answer_edits | apply State.look_edits | apply State.holdLook_edits | refine EditedFrom.foldl ?_ ?_
        | apply EditedFrom.ite
    | split

theorem execGrant_edits (p : PassAt) (m : Msg) (h : EditedFrom c₀ s) : AnswersEdits c₀ (execGrant p m s) := by
  refine ⟨_, rfl, ?_⟩
  repeat' first
    | intro _
    | with_reducible first
        | assumption | apply State.fillNone_edits | apply State.qTake_edits | apply State.fillRun_edits | apply State.fillTry_edits
        | apply State.modMshr_edits | apply EditedFrom.ite
    | split

theorem execMshrTimeout_edits (n i : Nat) (h : EditedFrom c₀ s) : AnswersEdits c₀ (execMshrTimeout n i s) := by
  refine ⟨_, rfl, ?_⟩
  repeat' first
    | with_reducible first
        | assumption | apply State.modMshr_edits | apply State.bump_edits | apply State.waitersErr_edits | apply EditedFrom.ite
    | split

theorem State.nearTry_edits (a : At) (flips : optParam (List (BitVec 80)) []) (h : EditedFrom c₀ s) : EditedFrom c₀ (s.nearTry a flips) := by
  unfold State.nearTry
  repeat' first
    | with_reducible first
        | assumption | apply State.answer_edits | apply State.nearPass_edits | apply State.modMshr_edits | apply EditedFrom.ite
    | split

theorem execHalfFill_edits (n : Nat) (m : Msg) (h : EditedFrom c₀ s) : AnswersEdits c₀ (execHalfFill n m s) := by
  refine ⟨_, rfl, ?_⟩
  repeat' first
    | intro _
    | with_reducible first
        | assumption | apply State.qTake_edits | apply State.modSlice_edits | apply State.modMshr_edits | apply State.answer_edits | apply State.bump_edits
        | refine EditedFrom.foldl ?_ ?_ | apply EditedFrom.ite
    | split

/-! ### Counters through Machine.Near -/

theorem State.nearRun_edits (a : At) (go : Bool) (m : Msg) (x : PassFault) {f : State → State} (hf : ∀ s, EditedFrom c₀ s → EditedFrom c₀ (f s))
    (h : EditedFrom c₀ s) : EditedFrom c₀ (s.nearRun a go m x f) := by
  unfold State.nearRun
  repeat' first
    | with_reducible first
        | assumption | apply hf | apply State.runPass_edits | apply State.readsDone_edits | apply EditedFrom.ite
    | split | dsimp only

theorem State.release_edits (a : At) (h : EditedFrom c₀ s) : EditedFrom c₀ (s.release a) := by
  unfold State.release
  repeat' first
    | intro _
    | with_reducible first
        | assumption | apply State.modSlice_edits | apply State.qTake_edits | apply State.qPush_edits | refine EditedFrom.foldl ?_ ?_

theorem State.settle_edits (a : At) (flips : optParam (List (BitVec 80)) []) (h : EditedFrom c₀ s) : EditedFrom c₀ (s.settle a flips) := by
  unfold State.settle
  with_reducible
    repeat' first
      | assumption | apply State.vbSettle_edits | apply State.errTry_edits | apply State.fillTry_edits | apply State.nearTry_edits
      | apply State.release_edits | apply EditedFrom.ite

theorem State.nearAck_edits (n : Nat) (m : Msg) (x : PassFault) (h : EditedFrom c₀ s) : EditedFrom c₀ (s.nearAck n m x) := by
  unfold State.nearAck
  repeat' first
    | intro _
    | with_reducible first
        | assumption | apply State.nearRun_edits | apply State.settle_edits | apply State.modMshr_edits | apply State.qTake_edits | apply EditedFrom.ite
    | split | dsimp only

theorem State.fwdSnoop_edits (a : At) (m : Msg) (g : Nat) (op : Op) (nodata toOwner : Bool) (h : EditedFrom c₀ s) :
    EditedFrom c₀ (s.fwdSnoop a m g op nodata toOwner) := by
  unfold State.fwdSnoop
  repeat' first
    | with_reducible first
        | assumption | apply State.sendNear_edits | apply State.modSlice_edits | apply State.lostAnswer_edits | apply EditedFrom.ite
    | split

theorem State.vbDone_edits (a : At) (h : EditedFrom c₀ s) : EditedFrom c₀ (s.vbDone a) := by
  unfold State.vbDone
  repeat' first | (with_reducible first | assumption | apply State.release_edits | apply State.vbPut_edits | apply EditedFrom.ite) | split

theorem execWbAck_edits (n : Nat) (m : Msg) (h : EditedFrom c₀ s) : AnswersEdits c₀ (execWbAck n m s) := by
  refine ⟨_, rfl, ?_⟩
  repeat' first
    | with_reducible first
        | assumption | apply State.qTake_edits | apply State.rep_edits | apply State.vbDone_edits | apply EditedFrom.ite
    | split

theorem State.ownerLost_edits (a : At) (g : Nat) (h : EditedFrom c₀ s) : EditedFrom c₀ (s.ownerLost a g) := by
  unfold State.ownerLost
  repeat' first | (with_reducible first | assumption | apply State.poisonSlot_edits | apply EditedFrom.ite) | split

theorem State.nearDirty_edits (a : At) (h : EditedFrom c₀ s) : EditedFrom c₀ (s.nearDirty a) := by
  unfold State.nearDirty
  repeat' first | (with_reducible first | assumption | apply State.modTag_edits | apply EditedFrom.ite) | split

theorem State.nearData_edits (a : At) (x : LineData) (h : EditedFrom c₀ s) : EditedFrom c₀ (s.nearData a x) := by
  unfold State.nearData
  repeat' first
    | with_reducible first
        | assumption | apply State.bump_edits | apply State.modTag_edits | apply State.setTile_edits | apply State.nearDirty_edits | apply EditedFrom.ite
    | split | dsimp only

theorem State.nearGone_edits (a : At) (g : Nat) (h : EditedFrom c₀ s) : EditedFrom c₀ (s.nearGone a g) := by
  unfold State.nearGone
  repeat' first | (with_reducible first | assumption | apply State.modTag_edits | apply State.setPres_edits | apply EditedFrom.ite) | split

theorem State.wbReply_edits (a : At) (m : Msg) (op : Op) (h : EditedFrom c₀ s) : EditedFrom c₀ (s.wbReply a m op) := State.sendEp_edits _ _ _ _ _ _ h

theorem State.wbSupersede_edits (a : At) (g : Nat) (m : Msg) (h : EditedFrom c₀ s) : EditedFrom c₀ (s.wbSupersede a g m) := by
  unfold State.wbSupersede
  with_reducible repeat' first | assumption | apply State.modSlice_edits | apply State.wbReply_edits | apply State.nearGone_edits

theorem State.wbApply_edits (a : At) (g : Nat) (m : Msg) (h : EditedFrom c₀ s) : EditedFrom c₀ (s.wbApply a g m) := by
  unfold State.wbApply
  repeat' first
    | with_reducible first
        | assumption | apply State.bump_edits | apply State.modTag_edits | apply State.setTile_edits | apply State.nearDirty_edits
        | apply State.wbReply_edits | apply State.nearGone_edits | apply State.sendWb_edits | apply EditedFrom.ite
    | split | dsimp only

theorem State.evictIn_edits (a : At) (g : Nat) (m : Msg) (takes : Bool) (h : EditedFrom c₀ s) : EditedFrom c₀ (s.evictIn a g m takes) := by
  unfold State.evictIn
  repeat' first
    | with_reducible first
        | assumption | apply State.modSlice_edits | apply State.wbSupersede_edits | apply State.wbApply_edits | apply EditedFrom.ite
    | split

theorem State.nearAns_edits (a : At) (i : Nat) (e : Mshr) (nm : NearMiss) (g : Nat) (m : Msg) (h : EditedFrom c₀ s) :
    EditedFrom c₀ (s.nearAns a i e nm g m) := by
  unfold State.nearAns State.nearNotOwner
  repeat' first
    | with_reducible first
        | assumption | apply State.modMshr_edits | apply State.ownerLost_edits | apply State.nearData_edits | apply State.nearGone_edits
        | apply State.modTag_edits | apply State.nearDirty_edits | apply State.settle_edits | apply State.evictIn_edits | apply EditedFrom.ite
    | split

theorem State.snpReply_edits (a : At) (m : Msg) (op : Op) (ns : CohState) (cnt : Nat) (ev : Bool) (h : EditedFrom c₀ s) :
    EditedFrom c₀ (s.snpReply a m op ns cnt ev) := State.sendEp_edits _ _ _ _ _ _ h

theorem State.snoop_edits (op : Op) (n : Nat) (m : Msg) (x : PassFault) (h : EditedFrom c₀ s) : EditedFrom c₀ (s.snoop op n m x) := by
  unfold State.snoop State.snoopIn State.snoopDo State.snpVictim State.snpPresent State.snpTile State.snpTake
  repeat' first
    | intro _
    | with_reducible first
        | assumption | apply State.modSlice_edits | apply State.qTake_edits | apply State.snpReply_edits | apply State.sendEp_edits
        | apply State.modTag_edits | apply State.fwdSnoop_edits | apply State.sendTile_edits | apply State.tileRead_edits | apply State.invalWay_edits
        | apply State.bump_edits | apply State.runPass_edits | apply State.readsDone_edits | refine EditedFrom.foldl ?_ ?_ | apply EditedFrom.ite
    | split | dsimp only

theorem execSnpCur_edits (n : Nat) (m : Msg) (x : PassFault) (h : EditedFrom c₀ s) : AnswersEdits c₀ (execSnpCur n m x s) :=
  ⟨_, rfl, State.snoop_edits _ _ _ _ h⟩

theorem execSnpSh_edits (n : Nat) (m : Msg) (x : PassFault) (h : EditedFrom c₀ s) : AnswersEdits c₀ (execSnpSh n m x s) :=
  ⟨_, rfl, State.snoop_edits _ _ _ _ h⟩

theorem execSnpInv_edits (n : Nat) (m : Msg) (x : PassFault) (h : EditedFrom c₀ s) : AnswersEdits c₀ (execSnpInv n m x s) :=
  ⟨_, rfl, State.snoop_edits _ _ _ _ h⟩

theorem State.drainAns_edits (a : At) (g : Nat) (m : Msg) (h : EditedFrom c₀ s) : EditedFrom c₀ (s.drainAns a g m) := by
  unfold State.drainAns
  with_reducible
    repeat' first
      | assumption | apply State.modSlice_edits | apply State.ownerLost_edits | apply State.nearData_edits | apply State.settle_edits
      | apply State.nearGone_edits | apply State.evictIn_edits | apply EditedFrom.ite

theorem State.invAns_edits (a : At) (i : Nat) (e : Mshr) (g : Nat) (m : Msg) (h : EditedFrom c₀ s) : EditedFrom c₀ (s.invAns a i e g m) := by
  unfold State.invAns
  with_reducible
    repeat' first
      | assumption | apply State.modMshr_edits | apply State.ownerLost_edits | apply State.nearData_edits | apply State.settle_edits
      | apply State.evictIn_edits | apply EditedFrom.ite

theorem State.vbAns_edits (a : At) (i : Nat) (v : VbEnt) (g : Nat) (m : Msg) (h : EditedFrom c₀ s) : EditedFrom c₀ (s.vbAns a i v g m) := by
  unfold State.vbAns
  with_reducible
    repeat' first
      | assumption | apply State.bump_edits | apply State.rep_edits | apply State.vbPut_edits | apply State.settle_edits | apply State.evictIn_edits
      | apply EditedFrom.ite

theorem State.nearAnswerIn_edits (a : At) (g : Nat) (m : Msg) (h : EditedFrom c₀ s) : EditedFrom c₀ (s.nearAnswerIn a g m) := by
  unfold State.nearAnswerIn
  repeat' first
    | with_reducible first
        | assumption | apply State.nearAns_edits | apply State.drainAns_edits | apply State.invAns_edits | apply State.vbAns_edits | apply EditedFrom.ite
    | split | dsimp only

theorem State.nearAnswer_edits (op : Op) (n : Nat) (m : Msg) (x : PassFault) (h : EditedFrom c₀ s) : EditedFrom c₀ (s.nearAnswer op n m x) := by
  unfold State.nearAnswer State.nearLate
  repeat' first
    | intro _
    | with_reducible first
        | assumption | apply State.qTake_edits | apply State.nearRun_edits | apply State.nearAnswerIn_edits | apply State.voidAll_edits
        | apply State.breach_edits | apply EditedFrom.ite
    | split

theorem execSnpOwn_edits (n : Nat) (m : Msg) (x : PassFault) (h : EditedFrom c₀ s) : AnswersEdits c₀ (execSnpOwn n m x s) :=
  ⟨_, rfl, State.snoop_edits _ _ _ _ h⟩

theorem execWbSuperseded_edits (n : Nat) (m : Msg) (h : EditedFrom c₀ s) : AnswersEdits c₀ (execWbSuperseded n m s) := by
  refine ⟨_, rfl, ?_⟩
  repeat' first
    | with_reducible first
        | assumption | apply State.vbDone_edits | apply State.bump_edits | apply State.qTake_edits | apply EditedFrom.ite
    | split

theorem State.wbAtSlice_edits (op : Op) (n : Nat) (m : Msg) (x : PassFault) (h : EditedFrom c₀ s) : EditedFrom c₀ (s.wbAtSlice op n m x) := by
  unfold State.wbAtSlice State.wbIn
  repeat' first
    | intro _
    | with_reducible first
        | assumption | apply State.nearRun_edits | apply State.settle_edits | apply State.wbSupersede_edits | apply State.modSlice_edits
        | apply State.wbApply_edits | apply State.qTake_edits | apply EditedFrom.ite
    | split

/-! ### Counters through Machine.Home -/

theorem State.wbDiscard_edits (a : At) (count loud : Bool) (h : EditedFrom c₀ s) : EditedFrom c₀ (s.wbDiscard a count loud) := by
  unfold State.wbDiscard
  with_reducible repeat' first | assumption | apply State.bump_edits | apply State.rep_edits | apply EditedFrom.ite

theorem State.raDrop_edits (n : Nat) (p : RunAhead → Bool) (h : EditedFrom c₀ s) : EditedFrom c₀ (s.raDrop n p) := by
  unfold State.raDrop
  with_reducible repeat' first | assumption | apply State.modHome_edits | apply State.bumpN_edits | apply EditedFrom.ite

theorem State.cancelRead_edits (a : At) (t : Tx) (h : EditedFrom c₀ s) : EditedFrom c₀ (s.cancelRead a t) := by
  unfold State.cancelRead State.takeBack
  repeat' first
    | intro _
    | with_reducible first
        | assumption | apply State.tracePath_edits | apply State.modTx_edits | apply State.bump_edits | apply State.modPool_edits
        | apply State.modRouter_edits | refine EditedFrom.foldl ?_ ?_ | apply EditedFrom.ite

theorem State.writeLine_edits (a : At) (key : BitVec 6) (port : Nat) (txn : BitVec 12) (x : LineData) (durable : Bool) (dl : optParam KTime 0)
    (h : EditedFrom c₀ s) : EditedFrom c₀ (s.writeLine a key port txn x durable dl) := by
  unfold State.writeLine
  repeat' first
    | with_reducible first
        | assumption | apply State.bumpLine_edits | apply State.rep_edits | apply State.toMem_edits | apply EditedFrom.ite
    | split

theorem State.homeSend_edits (a : At) (t : Tx) (m : Msg) (h : EditedFrom c₀ s) : EditedFrom c₀ (s.homeSend a t m) := State.sendEp_edits _ _ _ _ _ _ h

theorem State.homeFail_edits (a : At) (c : ErrCode) (h : EditedFrom c₀ s) : EditedFrom c₀ (s.homeFail a c) := by
  unfold State.homeFail
  repeat' first
    | with_reducible first
        | assumption | apply State.cancelRead_edits | apply State.writeLine_edits | apply State.modTx_edits | apply State.homeSend_edits
        | apply EditedFrom.ite
    | split

theorem State.failGot_edits (a : At) (c : ErrCode) (mac : Bool) (h : EditedFrom c₀ s) : EditedFrom c₀ (s.failGot a c mac) := by
  unfold State.failGot State.macAt State.macFail
  repeat' first
    | with_reducible first
        | assumption | apply State.homeFail_edits | apply State.bump_edits | apply State.winHit_edits | apply State.raise_edits | apply State.fence_edits
        | apply State.rep_edits | apply EditedFrom.ite
    | split

theorem State.putBack_edits (a : At) (t : Tx) (x : LineData) {done : State → State} (hdone : ∀ s, EditedFrom c₀ s → EditedFrom c₀ (done s))
    (h : EditedFrom c₀ s) : EditedFrom c₀ (s.putBack a t x done) := by
  unfold State.putBack
  repeat' first
    | with_reducible first
        | assumption | apply hdone | apply State.wbDiscard_edits | apply State.modTx_edits | apply State.writeLine_edits | apply EditedFrom.ite
    | split

theorem State.homeSnoop_edits (a : At) (t : Tx) (dev : Nat) (op : Op) (nodata : Bool) (h : EditedFrom c₀ s) :
    EditedFrom c₀ (s.homeSnoop a t dev op nodata) := State.sendEp_edits _ _ _ _ _ _ h

theorem State.recallOn_edits (a : At) (e : DirEnt) (hs : List Nat) (h : EditedFrom c₀ s) : EditedFrom c₀ (s.recallOn a e hs) := by
  unfold State.recallOn
  repeat' first
    | intro _
    | with_reducible first
        | assumption | apply State.modTx_edits | apply State.bump_edits | apply State.bumpN_edits | apply State.homeSnoop_edits
        | refine EditedFrom.foldl ?_ ?_ | apply EditedFrom.ite
    | split | dsimp only

theorem State.pinMove_edits (p : Nat × Nat × Nat × Nat) (up : Bool) (h : EditedFrom c₀ s) : EditedFrom c₀ (s.pinMove p up) := State.modHome_edits _ _ h

theorem State.nodesFor_edits (a : At) (h : EditedFrom c₀ s) : EditedFrom c₀ (s.nodesFor a) := by
  unfold State.nodesFor
  repeat' first | (with_reducible first | assumption | apply State.modTx_edits | apply State.pinMove_edits | apply EditedFrom.ite) | split | dsimp only

theorem State.fetchNode_edits (D : ImgDomain) (h1 : ImgHome) (nn pos k i : Nat) (roll : Bool) (h : EditedFrom c₀ s) :
    EditedFrom c₀ (s.fetchNode D h1 nn pos k i roll) := by
  unfold State.fetchNode
  with_reducible
    repeat' first
      | assumption | apply State.modHome_edits | apply State.newTxn_edits | apply State.toMem_edits | apply State.bump_edits | apply EditedFrom.ite

theorem State.fetchPath_edits (a : At) (h : EditedFrom c₀ s) : EditedFrom c₀ (s.fetchPath a) := by
  unfold State.fetchPath
  repeat' first | intro _ | (with_reducible first | assumption | apply State.fetchNode_edits | refine EditedFrom.foldl ?_ ?_ | apply EditedFrom.ite) | split

theorem State.lostHolder_edits (a : At) (t : Tx) (dev : Nat) (near owner : Bool) (h : EditedFrom c₀ s) : EditedFrom c₀ (s.lostHolder a t dev near owner) := by
  unfold State.lostHolder
  with_reducible repeat' first | assumption | apply State.dirDrop_edits | apply State.modTx_edits | apply EditedFrom.ite

theorem State.victimRecall_edits (a : At) (w : Nat) (e : DirEnt) (h : EditedFrom c₀ s) : EditedFrom c₀ (s.victimRecall a w e) := by
  unfold State.victimRecall
  with_reducible repeat' first | assumption | apply State.dirPut_edits | apply State.modTx_edits | apply State.enqHome_edits | apply State.recallOn_edits

theorem State.dirAfter_edits {u : State} {a : At} {t : Tx} {g : CohState} (e : s.dirAfter a t g = some u) (h : EditedFrom c₀ s) : EditedFrom c₀ u := by
  unfold State.dirAfter at e
  dsimp only at e
  split at e
  · exact Option.some.inj e ▸ State.dirPut_edits _ _ _ _ _ h
  · exact Option.some.inj e ▸ h
  · split at e
    · exact Option.some.inj e ▸ State.dirPut_edits _ _ _ _ _ h
    · exact Option.some.inj e ▸ State.dirPut_edits _ _ _ _ _ (State.victimRecall_edits _ _ _ h)
    · exact absurd e nofun

theorem State.homeAnswered_edits (a : At) (h : EditedFrom c₀ s) : EditedFrom c₀ (s.homeAnswered a) := State.modTx_edits _ _ _ h

theorem State.granted_edits (a : At) (t : Tx) (g : CohState) {f : State → State} (hf : ∀ s, EditedFrom c₀ s → EditedFrom c₀ (f s)) (h : EditedFrom c₀ s) :
    EditedFrom c₀ (s.granted a t g f) := by
  unfold State.granted
  repeat' first
    | with_reducible first
        | assumption | apply hf | apply State.homeAnswered_edits | refine State.dirAfter_edits (by assumption) ?_ | apply EditedFrom.ite
    | split

theorem State.ansLate_edits (a : At) (t : Tx) (m : Msg) (at_ : KTime) (h : EditedFrom c₀ s) : EditedFrom c₀ (s.ansLate a t m at_) := by
  unfold State.ansLate
  repeat' first | (with_reducible first | assumption | apply State.voidAll_edits | apply State.breach_edits | apply EditedFrom.ite) | split

theorem State.wbAnswer_edits (a : At) (m : Msg) (op : Op) (h : EditedFrom c₀ s) : EditedFrom c₀ (s.wbAnswer a m op) := State.sendEp_edits _ _ _ _ _ _ h

theorem State.superseded_edits (a : At) (m : Msg) (h : EditedFrom c₀ s) : EditedFrom c₀ (s.superseded a m) := by
  unfold State.superseded
  with_reducible repeat' first | assumption | apply State.wbAnswer_edits | apply State.dirDrop_edits | apply State.bump_edits

theorem State.evictAns_edits (a : At) (t : Tx) (dev : Nat) (h : EditedFrom c₀ s) : EditedFrom c₀ (s.evictAns a t dev) := by
  unfold State.evictAns
  repeat' first
    | with_reducible first
        | assumption | apply State.modTx_edits | apply State.superseded_edits | apply State.setLineQ_edits | apply EditedFrom.ite
    | split

theorem State.ansDone_edits (a : At) (h : EditedFrom c₀ s) : EditedFrom c₀ (s.ansDone a) := by
  unfold State.ansDone
  repeat' first | (with_reducible first | assumption | apply State.cancelRead_edits | apply State.stamp_edits | apply EditedFrom.ite) | split

theorem State.homeAns_edits (a : At) (t : Tx) (m : Msg) (at_ : KTime) (h : EditedFrom c₀ s) : EditedFrom c₀ (s.homeAns a t m at_) := by
  unfold State.homeAns
  with_reducible
    repeat' first
      | assumption | apply State.ansLate_edits | apply State.modTx_edits | apply State.lostHolder_edits | apply State.evictAns_edits
      | apply State.ansDone_edits | apply EditedFrom.ite

theorem State.homeAnswer_edits (n : Nat) (m : Msg) (at_ : KTime) (h : EditedFrom c₀ s) : EditedFrom c₀ (s.homeAnswer n m at_) := by
  unfold State.homeAnswer
  repeat' first | (with_reducible first | assumption | apply State.homeAns_edits | apply EditedFrom.ite) | split

theorem State.servePut_edits (a : At) (t : Tx) (x : LineData) (h : EditedFrom c₀ s) : EditedFrom c₀ (s.servePut a t x) := by
  unfold State.servePut
  repeat' first
    | with_reducible first
        | assumption | apply State.modTx_edits | apply State.writeLine_edits | refine State.dirAfter_edits (by assumption) ?_ | apply EditedFrom.ite
    | split

theorem State.dirCheck_edits (n d set : Nat) (x : DirFault) (h : EditedFrom c₀ s) : EditedFrom c₀ (s.dirCheck n d set x) := by
  unfold State.dirCheck State.dirWayLost
  repeat' first
    | with_reducible first
        | assumption | apply State.raise_edits | apply State.bump_edits | apply State.modHome_edits | apply State.winHit_edits | apply State.fence_edits
        | apply EditedFrom.ite
    | split

theorem State.wbEnd_edits (a : At) (m : Msg) (h : EditedFrom c₀ s) : EditedFrom c₀ (s.wbEnd a m) := by
  unfold State.wbEnd
  with_reducible repeat' first | assumption | apply State.homeAnswered_edits | apply State.wbAnswer_edits | apply State.dirDrop_edits

theorem State.startWb_edits (a : At) (m : Msg) (held : List Msg) (h : EditedFrom c₀ s) : EditedFrom c₀ (s.startWb a m held) := by
  unfold State.startWb
  repeat' first
    | with_reducible first
        | assumption | apply State.newTxn_edits | apply State.modHome_edits | apply State.bump_edits | apply State.wbEnd_edits | apply State.wbDiscard_edits
        | apply State.nodesFor_edits | apply State.fetchPath_edits | apply State.modTx_edits | apply EditedFrom.ite
    | split

theorem State.serveRead_edits (a : At) (t : Tx) (h : EditedFrom c₀ s) : EditedFrom c₀ (s.serveRead a t) := by
  unfold State.serveRead State.serveData State.sendFill
  repeat' first
    | intro _
    | with_reducible first
        | assumption | apply State.granted_edits | apply State.homeSend_edits | apply State.failGot_edits | apply State.modTx_edits
        | apply State.homeFail_edits | apply EditedFrom.ite
    | split

/-! ### Counters through Machine.Work -/

theorem State.nodeIn_edits (d : Nat) (D : ImgDomain) (n : Nat) (f : Fetch) (h : EditedFrom c₀ s) : EditedFrom c₀ (s.nodeIn d D n f) := by
  unfold State.nodeIn
  repeat' first
    | with_reducible first
        | assumption | apply State.modHome_edits | apply State.loseNode_edits | apply State.ncPut_edits | apply State.writeNode_edits | apply EditedFrom.ite
    | split

theorem State.nodesIn_edits (d : Nat) (D : ImgDomain) (n : Nat) (h : EditedFrom c₀ s) : EditedFrom c₀ (s.nodesIn d D n) := by
  unfold State.nodesIn
  repeat' first | intro _ | (with_reducible first | assumption | apply State.nodeIn_edits | refine EditedFrom.foldl ?_ ?_)

theorem State.nodeKnown_edits (a : At) (t : Tx) (h : EditedFrom c₀ s) : EditedFrom c₀ (s.nodeKnown a t) := by
  unfold State.nodeKnown
  with_reducible repeat' first | assumption | apply State.nodesFor_edits | apply State.modTx_edits | apply State.cancelRead_edits | apply EditedFrom.ite

theorem State.nextOn_edits (a : At) (held : List Msg) (h : EditedFrom c₀ s) : EditedFrom c₀ (s.nextOn a held) := by
  unfold State.nextOn
  repeat' first
    | with_reducible first
        | assumption | apply State.startWb_edits | apply State.setLineQ_edits | apply State.newTxn_edits | apply State.modHome_edits | apply EditedFrom.ite
    | split

theorem State.homeEnd_edits (a : At) (t : Tx) (h : EditedFrom c₀ s) : EditedFrom c₀ (s.homeEnd a t) := by
  unfold State.homeEnd State.ncOffer State.carriedEnd State.freeWatch
  repeat' first
    | intro _
    | with_reducible first
        | assumption | apply State.modHome_edits | apply State.ncPut_edits | apply State.pinMove_edits | apply State.freeTail_edits
        | apply State.modPort_edits | apply State.modGate_edits | apply State.modTx_edits | apply State.nextOn_edits | refine EditedFrom.foldl ?_ ?_
        | apply EditedFrom.ite
    | split

theorem State.recallDone_edits (a : At) (t : Tx) (h : EditedFrom c₀ s) : EditedFrom c₀ (s.recallDone a t) := by
  unfold State.recallDone
  repeat' first
    | intro _
    | with_reducible first
        | assumption | apply State.dirPut_edits | apply State.dirDrop_edits | apply State.modTx_edits | apply State.fetchPath_edits
        | apply State.putBack_edits | apply State.homeAnswered_edits | apply EditedFrom.ite
    | split | dsimp only

theorem State.homeStep_edits (a : At) (h : EditedFrom c₀ s) : EditedFrom c₀ (s.homeStep a) := by
  unfold State.homeStep State.pairAbsorbed State.serveWrite
  repeat' first
    | intro _
    | with_reducible first
        | assumption | apply State.nodeKnown_edits | apply State.superseded_edits | apply State.modTx_edits | apply State.modHome_edits
        | apply State.homeEnd_edits | apply State.homeFail_edits | apply State.servePut_edits | apply State.failGot_edits | apply State.serveRead_edits
        | apply State.putBack_edits | apply State.wbEnd_edits | apply State.recallDone_edits | refine EditedFrom.foldl ?_ ?_ | apply EditedFrom.ite
    | split | dsimp only

theorem State.passDrop_edits (n : Nat) (p : Pass) (h : EditedFrom c₀ s) : EditedFrom c₀ (s.passDrop n p) := State.modHome_edits _ _ h

theorem State.jobAdvance_edits (j : Nat) (h : EditedFrom c₀ s) : EditedFrom c₀ (s.jobAdvance j) := by
  unfold State.jobAdvance State.jobEnd State.recoverNodes
  repeat' first
    | intro _
    | with_reducible first
        | assumption | apply State.ncPut_edits | apply State.modJob_edits | apply State.irq_edits | refine EditedFrom.foldl ?_ ?_ | apply EditedFrom.ite
    | split | with_reducible apply EditedFrom.of

theorem State.lineDone_edits (j : Nat) (l : LineAddr) (dur : Bool) (h : EditedFrom c₀ s) : EditedFrom c₀ (s.lineDone j l dur) := by
  unfold State.lineDone
  with_reducible repeat' first | assumption | apply State.bump_edits | apply State.jobAdvance_edits | apply State.modJob_edits

theorem State.lineSkip_edits (a : At) (j : Nat) (h : EditedFrom c₀ s) : EditedFrom c₀ (s.lineSkip a j) := by
  unfold State.lineSkip
  with_reducible repeat' first | assumption | apply State.lineDone_edits | apply State.rep_edits | apply State.bump_edits

theorem State.passStep_edits (a : At) (p : Pass) (h : EditedFrom c₀ s) : EditedFrom c₀ (s.passStep a p) := by
  unfold State.passStep State.passFail State.zeroLine State.passRead
  repeat' first
    | with_reducible first
        | assumption | apply State.passDrop_edits | apply State.lineDone_edits | apply State.lineSkip_edits | apply State.bumpLine_edits
        | apply State.fetchPath_edits | apply State.ncPut_edits | apply State.newTxn_edits | apply State.toMem_edits | apply State.modHome_edits
        | apply State.bump_edits | apply State.nextOn_edits | apply State.nodesFor_edits | apply State.writeLine_edits | apply EditedFrom.ite
    | split | dsimp only

theorem State.homeRound_edits (n d : Nat) (D : ImgDomain) (h : EditedFrom c₀ s) : EditedFrom c₀ (s.homeRound n d D) := by
  unfold State.homeRound State.crownIn State.crownLoad State.raStep State.rollStart State.rollSweep
  repeat' first
    | intro _
    | with_reducible first
        | assumption | apply State.fetchNode_edits | apply State.nodesIn_edits | apply State.homeStep_edits | apply State.passStep_edits
        | apply State.modHome_edits | apply State.raDrop_edits | apply State.bump_edits | apply State.writeNode_edits | refine EditedFrom.foldl ?_ ?_
        | apply EditedFrom.ite
    | split

theorem State.homeRun_edits (n : Nat) (h : EditedFrom c₀ s) : EditedFrom c₀ (s.homeRun n) := by
  unfold State.homeRun
  repeat' first | intro _ | (with_reducible first | assumption | apply State.homeRound_edits | refine EditedFrom.foldl ?_ ?_ | apply EditedFrom.ite) | split

theorem State.homesRun_edits (D : ImgDomain) (h : EditedFrom c₀ s) : EditedFrom c₀ (s.homesRun D) := by
  unfold State.homesRun
  with_reducible repeat' first | assumption | apply State.homeRun_edits | refine EditedFrom.foldl ?_ ?_

/-! ### Counters through Machine.Answer -/

theorem State.answerIn_edits (op : Op) (q n : Nat) (m : Msg) (h : EditedFrom c₀ s) : EditedFrom c₀ (s.answerIn op q n m) := by
  unfold State.answerIn
  repeat' first
    | with_reducible first
        | assumption | apply State.homeRun_edits | apply State.homeAnswer_edits | apply State.qTake_edits | apply EditedFrom.ite
    | split

theorem execRspFwd_edits (atHome : Bool) (n : Nat) (m : Msg) (x : PassFault) (h : EditedFrom c₀ s) : AnswersEdits c₀ (execRspFwd atHome n m x s) := by
  refine ⟨_, rfl, ?_⟩
  with_reducible repeat' first | assumption | apply State.answerIn_edits | apply State.nearAnswer_edits | apply EditedFrom.ite

theorem State.readDone_edits (a : At) (txn : BitVec 12) (cw : Option (List (BitVec 80))) (two : Option Bool) (e : ErrCode) (h : EditedFrom c₀ s) :
    EditedFrom c₀ (s.readDone a txn cw two e) := by
  unfold State.readDone
  repeat' first
    | intro _
    | with_reducible first
        | assumption | apply State.bump_edits | apply State.modTx_edits | apply State.modHome_edits | refine EditedFrom.foldl ?_ ?_ | apply EditedFrom.ite
    | split | dsimp only

theorem execRspS_edits (atHome : Bool) (n : Nat) (m : Msg) (x : PassFault) (h : EditedFrom c₀ s) : AnswersEdits c₀ (execRspS atHome n m x s) := by
  refine ⟨_, rfl, ?_⟩
  with_reducible repeat' first | assumption | apply State.answerIn_edits | apply State.nearAnswer_edits | apply EditedFrom.ite

theorem execRspI_edits (atHome : Bool) (n : Nat) (m : Msg) (x : PassFault) (h : EditedFrom c₀ s) : AnswersEdits c₀ (execRspI atHome n m x s) := by
  refine ⟨_, rfl, ?_⟩
  with_reducible repeat' first | assumption | apply State.answerIn_edits | apply State.nearAnswer_edits | apply EditedFrom.ite

theorem execSdata_edits (atHome : Bool) (n : Nat) (m : Msg) (x : PassFault) (h : EditedFrom c₀ s) : AnswersEdits c₀ (execSdata atHome n m x s) := by
  refine ⟨_, rfl, ?_⟩
  with_reducible repeat' first | assumption | apply State.answerIn_edits | apply State.nearAnswer_edits | apply EditedFrom.ite

theorem execRolloverEnd_edits (n key : Nat) (h : EditedFrom c₀ s) : AnswersEdits c₀ (execRolloverEnd n key s) := by
  refine ⟨_, rfl, ?_⟩
  repeat' first
    | with_reducible first
        | assumption | apply State.modHome_edits | apply State.homesRun_edits | apply State.bump_edits | apply EditedFrom.ite
    | split

theorem execPfHint_edits (n : Nat) (m : Msg) (h : EditedFrom c₀ s) : AnswersEdits c₀ (execPfHint n m s) := by
  refine ⟨_, rfl, ?_⟩
  repeat' first
    | with_reducible first
        | assumption | apply State.modHome_edits | apply State.bump_edits | apply State.fetchPath_edits | apply State.newTxn_edits | apply State.toMem_edits
        | apply State.homeRun_edits | apply EditedFrom.ite
    | split

theorem execMemWrEjected_edits (n : Nat) (line : LineAddr) (h : EditedFrom c₀ s) : AnswersEdits c₀ (execMemWrEjected n line s) := by
  refine ⟨_, rfl, ?_⟩
  unfold State.ejected
  repeat' first
    | with_reducible first
        | assumption | apply State.homeRun_edits | apply State.modTx_edits | apply State.homeAnswered_edits | apply State.homeSend_edits
        | apply State.wbEnd_edits | apply State.lineDone_edits | apply EditedFrom.ite
    | split

theorem execMemAck_edits (n : Nat) (m : Msg) (h : EditedFrom c₀ s) : AnswersEdits c₀ (execMemAck n m s) := by
  refine ⟨_, rfl, ?_⟩
  repeat' first | (with_reducible first | assumption | apply State.qTake_edits | apply EditedFrom.ite) | split

theorem State.orderEdge_edits (n d : Nat) (D : ImgDomain) (h : EditedFrom c₀ s) : EditedFrom c₀ (s.orderEdge n d D) := by
  unfold State.orderEdge
  repeat' first | (with_reducible first | assumption | apply State.modHome_edits | apply State.bump_edits | apply EditedFrom.ite) | split | dsimp only

theorem State.seqOne_edits (a : At) (m : Msg) (src : Nat) (h : EditedFrom c₀ s) : EditedFrom c₀ (s.seqOne a m src) := by
  unfold State.seqOne State.seqWb State.homeTakes
  repeat' first
    | intro _
    | with_reducible first
        | assumption | apply State.modHome_edits | apply State.bump_edits | apply State.raDrop_edits | apply State.startWb_edits
        | apply State.superseded_edits | apply State.modTx_edits | apply State.setLineQ_edits | apply State.enqHome_edits | apply State.modGate_edits
        | apply State.stamp_edits | refine EditedFrom.foldl ?_ ?_ | apply EditedFrom.ite
    | split

theorem State.wbAtHome_edits (op : Op) (n : Nat) (m : Msg) (h : EditedFrom c₀ s) : EditedFrom c₀ (s.wbAtHome op n m) := by
  unfold State.wbAtHome
  repeat' first
    | with_reducible first
        | assumption | apply State.orderEdge_edits | apply State.homeRun_edits | apply State.seqOne_edits | apply State.qTake_edits
        | apply State.modHome_edits | apply EditedFrom.ite
    | split | dsimp only

theorem execWb_edits (atHome : Bool) (p : PassAt) (m : Msg) (h : EditedFrom c₀ s) : AnswersEdits c₀ (execWb atHome p m s) := by
  refine ⟨_, rfl, ?_⟩
  with_reducible repeat' first | assumption | apply State.wbAtHome_edits | apply State.wbAtSlice_edits | apply EditedFrom.ite

theorem execMemData_edits (n : Nat) (m : Msg) (ing : KTime) (h : EditedFrom c₀ s) : AnswersEdits c₀ (execMemData n m ing s) := by
  refine ⟨_, rfl, ?_⟩
  unfold State.memLate State.joinRead
  repeat' first
    | with_reducible first
        | assumption | apply State.stamp_edits | apply State.breach_edits | apply State.modTx_edits | apply State.voidAll_edits | apply State.qTake_edits
        | apply State.modHome_edits | apply State.readDone_edits | apply State.homesRun_edits | apply State.homeRun_edits | apply EditedFrom.ite
    | split | with_reducible refine EditedFrom.pair (by assumption) ?_ | dsimp only

theorem execHomeSequence_edits (n : Nat) (m : Msg) (src : Nat) (h : EditedFrom c₀ s) : AnswersEdits c₀ (execHomeSequence n m src s) := by
  refine ⟨_, rfl, ?_⟩
  repeat' first
    | with_reducible first
        | assumption | apply State.orderEdge_edits | apply State.modHome_edits | apply State.qTake_edits | apply State.homeRun_edits
        | apply State.seqOne_edits | apply EditedFrom.ite
    | split | dsimp only

theorem execCrozierPass_edits (job : Nat) (line : LineAddr) (h : EditedFrom c₀ s) : AnswersEdits c₀ (execCrozierPass job line s) := by
  refine ⟨_, rfl, ?_⟩
  repeat' first
    | with_reducible first
        | assumption | apply State.raDrop_edits | apply State.bump_edits | apply State.homeRun_edits | apply State.modHome_edits | apply EditedFrom.ite
    | split | dsimp only

theorem State.ackIn_edits (n : Nat) (m : Msg) (h : EditedFrom c₀ s) : EditedFrom c₀ (s.ackIn n m) := by
  unfold State.ackIn
  repeat' first
    | with_reducible first
        | assumption | apply State.qTake_edits | apply State.homeRun_edits | apply State.modTx_edits | apply EditedFrom.ite
    | split | dsimp only

theorem execRunAheadExpire_edits (n : Nat) (line : LineAddr) (h : EditedFrom c₀ s) : AnswersEdits c₀ (execRunAheadExpire n line s) := by
  refine ⟨_, rfl, ?_⟩
  repeat' first | (with_reducible first | assumption | apply State.raDrop_edits | apply EditedFrom.ite) | split

theorem execErr_edits (p : PassAt) (m : Msg) (h : EditedFrom c₀ s) : AnswersEdits c₀ (execErr p m s) := by
  refine ⟨_, rfl, ?_⟩
  unfold State.writeFailed State.errAtSlice
  repeat' first
    | intro _
    | with_reducible first
        | assumption | apply State.qTake_edits | apply State.homeRun_edits | apply State.modTx_edits | apply State.homeFail_edits | apply State.wbEnd_edits
        | apply State.wbDiscard_edits | apply State.lineSkip_edits | apply State.homeAnswered_edits | apply State.homesRun_edits
        | apply State.readDone_edits | apply State.fillNone_edits | apply State.fillRun_edits | apply State.fillErr_edits | apply EditedFrom.ite
    | split | dsimp only

theorem execNodeClean_edits (n key : Nat) (h : EditedFrom c₀ s) : AnswersEdits c₀ (execNodeClean n key s) := by
  refine ⟨_, rfl, ?_⟩
  repeat' first
    | intro _
    | with_reducible first
        | assumption | apply State.writeNode_edits | apply State.homeRun_edits | apply State.fetchNode_edits | refine EditedFrom.foldl ?_ ?_
        | apply EditedFrom.ite
    | split

theorem execActivation_edits (p : DirAt) (line : LineAddr) (h : EditedFrom c₀ s) : AnswersEdits c₀ (execActivation p line s) := by
  refine ⟨_, rfl, ?_⟩
  unfold State.activate State.actRecall State.actRead State.actSnoop
  repeat' first
    | intro _
    | with_reducible first
        | assumption | apply State.dirCheck_edits | apply State.homeRun_edits | apply State.recallOn_edits | apply State.modTx_edits
        | apply State.stamp_edits | apply State.bump_edits | apply State.homeFail_edits | apply State.raDrop_edits | apply State.nodesFor_edits
        | apply State.fetchPath_edits | apply State.modHome_edits | apply State.toMem_edits | apply State.bumpN_edits | apply State.homeSnoop_edits
        | refine EditedFrom.foldl ?_ ?_ | apply EditedFrom.ite
    | split | dsimp only

theorem execEvn_edits (atHome : Bool) (p : PassAt) (m : Msg) (h : EditedFrom c₀ s) : AnswersEdits c₀ (execEvn atHome p m s) := by
  refine ⟨_, rfl, ?_⟩
  with_reducible repeat' first | assumption | apply State.wbAtHome_edits | apply State.wbAtSlice_edits | apply EditedFrom.ite

theorem execCompAck_edits (atHome : Bool) (p : PassAt) (m : Msg) (h : EditedFrom c₀ s) : AnswersEdits c₀ (execCompAck atHome p m s) := by
  refine ⟨_, rfl, ?_⟩
  with_reducible repeat' first | assumption | apply State.ackIn_edits | apply State.nearAck_edits | apply EditedFrom.ite

theorem execMemDur_edits (n : Nat) (m : Msg) (ing : KTime) (h : EditedFrom c₀ s) : AnswersEdits c₀ (execMemDur n m ing s) := by
  refine ⟨_, rfl, ?_⟩
  repeat' first
    | with_reducible first
        | assumption | apply State.qTake_edits | apply State.voidAll_edits | apply State.breach_edits | apply State.modTx_edits | apply State.homeRun_edits
        | apply State.homeSend_edits | apply State.jobAdvance_edits | apply State.modJob_edits | apply EditedFrom.ite
    | split | dsimp only

/-! ### Counters through Machine.Upkeep -/

theorem execSphagnumMove_edits (n : Nat) (h : EditedFrom c₀ s) : AnswersEdits c₀ (execSphagnumMove n s) := by
  refine ⟨_, rfl, ?_⟩
  repeat' first
    | with_reducible first
        | assumption | apply State.page_edits | apply State.bump_edits | apply State.modSlice_edits | apply EditedFrom.ite
    | split

theorem execSliceDrainStep_edits (n : Nat) (h : EditedFrom c₀ s) : AnswersEdits c₀ (execSliceDrainStep n s) := by
  refine ⟨_, rfl, ?_⟩
  repeat' first
    | with_reducible first
        | assumption | apply State.modSlice_edits | apply State.bump_edits | apply State.modTag_edits | apply State.setTile_edits
        | apply State.takeVictim_edits | apply EditedFrom.ite
    | split | dsimp only

theorem execDirScrub_edits (n : Nat) (x : DirFault) (h : EditedFrom c₀ s) : AnswersEdits c₀ (execDirScrub n x s) := by
  refine ⟨_, rfl, ?_⟩
  repeat' first | (with_reducible first | assumption | apply State.modHome_edits | apply State.dirCheck_edits | apply EditedFrom.ite) | split

theorem execSpareRemap_edits (n : Nat) (h : EditedFrom c₀ s) : AnswersEdits c₀ (execSpareRemap n s) := by
  refine ⟨_, rfl, ?_⟩
  repeat' first
    | with_reducible first
        | assumption | apply State.modSlice_edits | apply State.bump_edits | apply State.peat_edits | apply State.raise_edits | apply EditedFrom.ite
    | split

theorem execDrainEnd_edits (n : Nat) (h : EditedFrom c₀ s) : AnswersEdits c₀ (execDrainEnd n s) := by
  refine ⟨_, rfl, ?_⟩
  repeat' first
    | with_reducible first
        | assumption | apply State.modSlice_edits | apply State.irq_edits | apply State.modDom_edits | apply EditedFrom.ite
    | split

theorem execSweepEnd_edits (n : Nat) (h : EditedFrom c₀ s) : AnswersEdits c₀ (execSweepEnd n s) := by
  refine ⟨_, rfl, ?_⟩
  unfold State.sweepsOver
  repeat' first
    | with_reducible first
        | assumption | apply State.modSlice_edits | apply State.irq_edits | apply State.bump_edits | apply EditedFrom.ite
    | split | with_reducible apply EditedFrom.of

theorem State.maintSet_edits (n d : Nat) (D : ImgDomain) (set : Nat) (h : EditedFrom c₀ s) : EditedFrom c₀ (s.maintSet n d D set) := by
  unfold State.maintSet
  repeat' first
    | intro _
    | with_reducible first
        | assumption | apply State.modSlice_edits | apply State.takeVictim_edits | refine EditedFrom.foldl ?_ ?_ | apply EditedFrom.ite
    | split

theorem execSweepPass_edits (p : PassAt) (h : EditedFrom c₀ s) : AnswersEdits c₀ (execSweepPass p s) := by
  refine ⟨_, rfl, ?_⟩
  unfold State.sweepSet State.sweepMark
  repeat' first
    | intro _
    | with_reducible first
        | assumption | apply State.passFaults_edits | apply State.modSlice_edits | apply State.bump_edits | apply State.takeVictim_edits
        | apply State.maintSet_edits | refine EditedFrom.foldl ?_ ?_ | apply EditedFrom.ite
    | split

theorem execSweepMarker_edits (n : Nat) (h : EditedFrom c₀ s) : AnswersEdits c₀ (execSweepMarker n s) := by
  refine ⟨_, rfl, ?_⟩
  repeat' first | (with_reducible first | assumption | apply State.modSlice_edits | apply EditedFrom.ite) | split

theorem execPatrolScrub_edits (n : Nat) (flips : List (BitVec 80)) (x : PassFault) (h : EditedFrom c₀ s) : AnswersEdits c₀ (execPatrolScrub n flips x s) := by
  refine ⟨_, rfl, ?_⟩
  unfold State.scrubSlot
  repeat' first
    | with_reducible first
        | assumption | apply State.checkLine_edits | apply State.chan_edits | apply State.modSlice_edits | apply State.passFaults_edits
        | apply State.maintSet_edits | apply EditedFrom.ite
    | split

theorem execHandoverEnd_edits (n : Nat) (h : EditedFrom c₀ s) : AnswersEdits c₀ (execHandoverEnd n s) := by
  refine ⟨_, rfl, ?_⟩
  unfold State.resendWb
  repeat' first
    | intro _
    | with_reducible first
        | assumption | apply State.modHome_edits | apply State.modDom_edits | apply State.irq_edits | apply State.sendWb_edits
        | refine EditedFrom.foldl ?_ ?_ | apply EditedFrom.ite
    | split

theorem execEpoch_edits (n : Nat) (h : EditedFrom c₀ s) : AnswersEdits c₀ (execEpoch n s) := by
  refine ⟨_, rfl, ?_⟩
  repeat' first
    | intro _
    | with_reducible first
        | assumption | apply State.modSlice_edits | apply State.modPage_edits | refine EditedFrom.foldl ?_ ?_ | apply EditedFrom.ite
    | split

theorem execNcScrub_edits (n : Nat) (correctable uncorrectable : Bool) (h : EditedFrom c₀ s) :
    AnswersEdits c₀ (execNcScrub n correctable uncorrectable s) := by
  refine ⟨_, rfl, ?_⟩
  repeat' first
    | with_reducible first
        | assumption | apply State.modHome_edits | apply State.homeRun_edits | apply State.loseNode_edits | apply State.bump_edits | apply EditedFrom.ite
    | split | dsimp only

theorem execStipeScrub_edits (disagree : List (Nat × Nat)) (badKeys : List Nat) (h : EditedFrom c₀ s) :
    AnswersEdits c₀ (execStipeScrub disagree badKeys s) := by
  refine ⟨_, rfl, ?_⟩
  unfold State.stipeGone
  repeat' first
    | intro _
    | with_reducible first
        | assumption | apply State.winHit_edits | apply State.raise_edits | apply State.fence_edits | refine EditedFrom.foldl ?_ ?_ | apply EditedFrom.ite
    | split | dsimp only | with_reducible apply EditedFrom.of

/-! ### Counters through Machine.Fabric -/

theorem State.enter_edits (p dst : Nat) (k : Sink) (m : Msg) (h : EditedFrom c₀ s) : EditedFrom c₀ (s.enter p dst k m) := State.qPush_edits _ _ _ h

theorem State.dropIngress_edits (p d : Nat) (m : Msg) (h : EditedFrom c₀ s) : EditedFrom c₀ (s.dropIngress p d m) := by
  unfold State.dropIngress
  with_reducible repeat' first | assumption | apply State.rep_edits | apply State.bump_edits

theorem State.enterEp_edits (p d : Nat) (D : ImgDomain) (ep : Endpoint) (m : Msg) (h : EditedFrom c₀ s) : EditedFrom c₀ (s.enterEp p d D ep m) := by
  unfold State.enterEp
  repeat' first
    | with_reducible first
        | assumption | apply State.enter_edits | apply State.bump_edits | apply State.dropIngress_edits | apply EditedFrom.ite
    | split

theorem State.nearIn_edits (p d : Nat) (D : ImgDomain) (m : Msg) (h : EditedFrom c₀ s) : EditedFrom c₀ (s.nearIn p d D m) := by
  unfold State.nearIn State.fwdAnswered
  repeat' first
    | with_reducible first
        | assumption | apply State.enterEp_edits | apply State.evictIn_edits | apply State.modSlice_edits | apply State.dropIngress_edits
        | apply State.enter_edits | apply EditedFrom.ite
    | split | dsimp only

theorem State.memIn_edits (p d : Nat) (D : ImgDomain) (m : Msg) (h : EditedFrom c₀ s) : EditedFrom c₀ (s.memIn p d D m) := by
  unfold State.memIn
  repeat' first | (with_reducible first | assumption | apply State.enter_edits | apply State.dropIngress_edits | apply EditedFrom.ite) | split

theorem State.peerIn_edits (p d : Nat) (D : ImgDomain) (m : Msg) (h : EditedFrom c₀ s) : EditedFrom c₀ (s.peerIn p d D m) := by
  unfold State.peerIn State.onwardDone
  repeat' first
    | intro _
    | with_reducible first
        | assumption | apply State.dropIngress_edits | apply State.modPort_edits | apply State.modWatch_edits | apply State.freeTail_edits
        | apply State.enter_edits | apply State.bump_edits | apply State.farAnswer_edits | apply State.stamp_edits | apply State.enterEp_edits
        | refine EditedFrom.foldl ?_ ?_ | apply EditedFrom.ite
    | split | dsimp only

theorem State.portIn_edits (p : Nat) (m : Msg) (h : EditedFrom c₀ s) : EditedFrom c₀ (s.portIn p m) := by
  unfold State.portIn
  repeat' first
    | with_reducible first
        | assumption | apply State.barrierIn_edits | apply State.request_edits | apply State.nearIn_edits | apply State.memIn_edits
        | apply State.peerIn_edits | apply State.dropIngress_edits | apply EditedFrom.ite
    | split

theorem State.arrive_edits (p : Nat) (m : Msg) (x : HdrCheck) (h : EditedFrom c₀ s) : EditedFrom c₀ (s.arrive p m x) := by
  unfold State.arrive
  repeat' first
    | intro _
    | with_reducible first
        | assumption | apply State.atPort_edits | apply State.dropIngress_edits | apply State.portIn_edits | apply EditedFrom.ite

theorem State.boundHit_edits (d n : Nat) (l : LineAddr) (h : EditedFrom c₀ s) : EditedFrom c₀ (s.boundHit d n l) := by
  unfold State.boundHit
  with_reducible
    repeat' first
      | assumption | apply State.bump_edits | apply State.modRouter_edits | apply State.winHit_edits | apply State.raise_edits | apply State.fence_edits
      | apply EditedFrom.ite

theorem State.headerBad_edits (d n src : Nat) (dir : Dir) (u : FUnit) (h : EditedFrom c₀ s) : EditedFrom c₀ (s.headerBad d n src dir u) := by
  unfold State.headerBad
  with_reducible
    repeat' first
      | assumption | apply State.bump_edits | apply State.modRouter_edits | apply State.absorb_edits | apply State.winHit_edits | apply State.raise_edits
      | apply State.fence_edits | apply EditedFrom.ite

theorem State.dropIn_edits (n k : Nat) (h : EditedFrom c₀ s) : EditedFrom c₀ (s.dropIn n k) := State.modRouter_edits _ _ h

theorem State.toSink_edits (d : Nat) (u : FUnit) (h : EditedFrom c₀ s) : EditedFrom c₀ (s.toSink d u) := by
  unfold State.toSink State.toWriter State.toEgress
  repeat' first
    | with_reducible first
        | assumption | apply State.absorb_edits | apply State.qPush_edits | apply State.modGate_edits | apply State.bump_edits | apply State.modWatch_edits
        | apply State.portOut_edits | apply State.timedOut_edits | apply EditedFrom.ite
    | split

theorem State.ejectTo_edits (d : Nat) (u : FUnit) (bad : Bool) (h : EditedFrom c₀ s) : EditedFrom c₀ (s.ejectTo d u bad) := by
  unfold State.ejectTo State.payloadBad
  repeat' first
    | with_reducible first
        | assumption | apply State.rep_edits | apply State.bump_edits | apply State.modRouter_edits | apply State.toSink_edits | apply State.report_edits
        | apply EditedFrom.ite
    | split | dsimp only

theorem State.heldOut_edits (d : Nat) (D : ImgDomain) (n k : Nat) (h : EditedFrom c₀ s) : EditedFrom c₀ (s.heldOut d D n k) := by
  induction k generalizing s with
  | zero => exact h
  | succ k ih =>
    unfold State.heldOut
    split
    · exact ih (State.ejectTo_edits _ _ _ (State.qTake_edits _ _ _ h))
    · exact h

theorem State.eject_edits (d : Nat) (D : ImgDomain) (u : FUnit) (bad : Bool) (h : EditedFrom c₀ s) : EditedFrom c₀ (s.eject d D u bad) := by
  unfold State.eject
  with_reducible
    repeat' first
      | assumption | apply State.modRouter_edits | apply State.bump_edits | apply State.qPush_edits | apply State.ejectTo_edits | apply State.heldOut_edits
      | apply EditedFrom.ite

theorem State.sinkAt_edits (n : Nat) (u : FUnit) (h : EditedFrom c₀ s) : EditedFrom c₀ (s.sinkAt n u) := by
  unfold State.sinkAt
  with_reducible repeat' first | assumption | apply State.qPush_edits | apply State.absorb_edits | apply EditedFrom.ite

theorem State.cross_edits (D : ImgDomain) (n : Nat) (dir : Dir) (u : FUnit) (det : Nat) (h : EditedFrom c₀ s) : EditedFrom c₀ (s.cross D n dir u det) := by
  unfold State.cross
  with_reducible repeat' first | assumption | apply State.bump_edits | apply State.modRouter_edits | apply EditedFrom.ite

theorem State.passOn_edits (d : Nat) (D : ImgDomain) (n : Nat) (us : List (Dir × FUnit)) (free : List Dir) (h : EditedFrom c₀ s) :
    EditedFrom c₀ (s.passOn d D n us free).1 := by
  induction us generalizing s free with
  | nil => exact h
  | cons x t ih =>
    obtain ⟨i, u⟩ := x
    unfold State.passOn
    split
    · exact ih _ h
    · have hcross := State.cross_edits D n ‹Dir› u 0 (State.dropIn_edits n (5 * dirNum i) h)
      refine ih _ ?_
      split
      · exact hcross
      · exact State.bump_edits _ hcross

theorem State.injected_edits (d n q : Nat) (u : FUnit) (h : EditedFrom c₀ s) : EditedFrom c₀ (s.injected d n q u).1 := by
  unfold State.injected State.tokenSpent
  repeat' first
    | with_reducible first
        | assumption | apply State.qTake_edits | apply State.modRouter_edits | apply State.bump_edits | apply State.injToken_edits | apply State.stamp_edits
        | apply State.modHome_edits | apply EditedFrom.ite
    | split

theorem State.injectBy_edits (d n q : Nat) (u : FUnit) {f : FUnit → State → State} (hf : ∀ x s, EditedFrom c₀ s → EditedFrom c₀ (f x s))
    (h : EditedFrom c₀ s) : EditedFrom c₀ (s.injectBy d n q u f) := by
  unfold State.injectBy
  with_reducible repeat' first | assumption | apply hf | apply State.injected_edits | apply State.modRouter_edits

theorem State.compactEdge_edits (d : Nat) (D : ImgDomain) (n : Nat) (at_ : Option Dir) (x : HdrCheck) (h : EditedFrom c₀ s) :
    EditedFrom c₀ (s.compactEdge d D n at_ x) := by
  unfold State.compactEdge State.compactIn State.compactInject
  repeat' first
    | intro _
    | with_reducible first
        | assumption | apply State.modRouter_edits | apply State.bump_edits | apply State.boundHit_edits | apply State.headerBad_edits
        | apply State.dropIn_edits | apply State.rep_edits | apply State.eject_edits | apply State.sinkAt_edits | apply State.passOn_edits
        | apply State.qTake_edits | apply State.injectBy_edits | apply State.cross_edits | refine EditedFrom.foldl ?_ ?_ | apply EditedFrom.ite
    | split | dsimp only

theorem State.ejectOne_edits (n : Nat) (h : EditedFrom c₀ s) : EditedFrom c₀ (s.ejectOne n) := State.modRouter_edits _ _ h

theorem State.candGo_edits (d : Nat) (D : ImgDomain) (n : Nat) (c : Cand) (u : FUnit) {f : State → State} (hf : ∀ s, EditedFrom c₀ s → EditedFrom c₀ (f s))
    (h : EditedFrom c₀ s) : EditedFrom c₀ (s.candGo d D n c u f) := by
  unfold State.candGo
  with_reducible repeat' first | assumption | apply hf | apply State.cross_edits | apply State.modRouter_edits | apply EditedFrom.ite

theorem State.fullInject_edits (d : Nat) (D : ImgDomain) (n : Nat) (h : EditedFrom c₀ s) : EditedFrom c₀ (s.fullInject d D n) := by
  unfold State.fullInject State.turnOut State.dropTurn State.injOut
  repeat' first
    | intro _
    | with_reducible first
        | assumption | apply State.eject_edits | apply State.ejectOne_edits | apply State.modRouter_edits | apply State.sinkAt_edits
        | apply State.candGo_edits | apply State.injected_edits | apply State.qTake_edits | apply EditedFrom.ite
    | split | dsimp only

theorem State.fullLink_edits (d : Nat) (D : ImgDomain) (n : Nat) (dir : Dir) (x : HdrCheck) (h : EditedFrom c₀ s) :
    EditedFrom c₀ (s.fullLink d D n dir x) := by
  unfold State.fullLink
  repeat' first
    | intro _
    | with_reducible first
        | assumption | apply State.bump_edits | apply State.modRouter_edits | apply State.headerBad_edits | apply State.dropIn_edits | apply State.rep_edits
        | apply State.eject_edits | apply State.ejectOne_edits | apply State.sinkAt_edits | apply State.candGo_edits | apply EditedFrom.ite
    | split | dsimp only

theorem execUnitArrival_edits (n : Nat) (a : Arrival) (x : HdrCheck) (h : EditedFrom c₀ s) : AnswersEdits c₀ (execUnitArrival n a x s) := by
  refine ⟨_, rfl, ?_⟩
  repeat' first
    | with_reducible first
        | assumption | apply State.cellFences_edits | apply State.arrive_edits | apply State.compactEdge_edits | apply State.fullInject_edits
        | apply State.fullLink_edits | apply EditedFrom.ite
    | split

theorem execDetourReorderEnd_edits (d : Nat) (h : EditedFrom c₀ s) : AnswersEdits c₀ (execDetourReorderEnd d s) := by
  refine ⟨_, rfl, ?_⟩
  repeat' first
    | intro _
    | with_reducible first
        | assumption | apply State.modDom_edits | apply State.ejectTo_edits | apply State.qTake_edits | refine EditedFrom.foldl ?_ ?_ | apply EditedFrom.ite
    | split

theorem execDetour_edits (d : Nat) (h : EditedFrom c₀ s) : AnswersEdits c₀ (execDetour d s) := by
  refine ⟨_, rfl, ?_⟩
  with_reducible repeat' first | assumption | apply State.modDom_edits | apply EditedFrom.ite

/-! ### Counters through Machine.Command -/

theorem State.putRes_edits (a : At) (t w : Nat) (h : EditedFrom c₀ s) : EditedFrom c₀ (s.putRes a t w) := by
  unfold State.putRes
  with_reducible repeat' first | assumption | apply State.setRrv_edits | apply State.modTag_edits

theorem State.reserveOver_edits {u : State} {a : At} {t w : Nat} {b : Bool} {fs : List (BitVec 80)} (e : s.reserveOver a t w b fs = some u)
    (h : EditedFrom c₀ s) : EditedFrom c₀ u := by
  unfold State.reserveOver at e
  split at e
  · exact absurd e nofun
  · split at e
    · exact absurd e nofun
    · have hcount := State.bump_edits (cSlc a.n 10) h
      exact Option.some.inj e ▸ State.putRes_edits _ _ _ (State.takeVictim_edits _ _ _ _ _ _ _ (EditedFrom.ite (State.bump_edits _ hcount) hcount))

theorem State.unitCmd_edits (n : Nat) (fenced : Bool) (base off : Nat) (who : Requester) {f : State → State}
    (hf : ∀ s, EditedFrom c₀ s → EditedFrom c₀ (f s)) (h : EditedFrom c₀ s) : EditedFrom c₀ (s.unitCmd n fenced base off who f) := by
  unfold State.unitCmd
  with_reducible repeat' first | assumption | apply hf | apply State.logAcc_edits | apply EditedFrom.ite

theorem State.doHomQrel_edits (n : Nat) (h : EditedFrom c₀ s) : EditedFrom c₀ (s.doHomQrel n) := by
  unfold State.doHomQrel
  repeat' first | (with_reducible first | assumption | apply State.modHome_edits | apply EditedFrom.ite) | split

theorem execHomQrel_edits (n : Nat) (h : EditedFrom c₀ s) : AnswersEdits c₀ (execHomQrel n s) := by
  refine ⟨_, rfl, ?_⟩
  repeat' first | intro _ | (with_reducible first | assumption | apply State.unitCmd_edits | apply State.doHomQrel_edits)

theorem State.slcLatch_edits (n : Nat) (h : EditedFrom c₀ s) : EditedFrom c₀ (s.slcLatch n) := State.modSlice_edits _ _ h

theorem State.doSlcAudit_edits (n : Nat) (h : EditedFrom c₀ s) : EditedFrom c₀ (s.doSlcAudit n) := by
  unfold State.doSlcAudit
  with_reducible repeat' first | assumption | apply State.slcLatch_edits | apply State.modSlice_edits

theorem execRtrAuditEnd_edits (n : Nat) (h : EditedFrom c₀ s) : AnswersEdits c₀ (execRtrAuditEnd n s) := by
  refine ⟨_, rfl, ?_⟩
  repeat' first
    | with_reducible first
        | assumption | apply State.modRouter_edits | apply State.winHit_edits | apply State.raise_edits | apply State.fence_edits | apply State.irq_edits
        | apply EditedFrom.ite
    | split

theorem State.reserve_edits {u : State} {a : At} {t : Nat} {fs : List (BitVec 80)} (e : s.reserve a t fs = some u) (h : EditedFrom c₀ s) :
    EditedFrom c₀ u := by
  have hpick := State.pickWay_edits a (s.cands a t true) h
  unfold State.reserve at e
  dsimp only at e
  split at e
  · exact Option.some.inj e ▸ h
  · exact Option.some.inj e ▸ State.putRes_edits _ _ _ hpick
  · exact State.reserveOver_edits e hpick

theorem State.doFlush_edits (n q : Nat) (who : Requester) (h : EditedFrom c₀ s) : EditedFrom c₀ (s.doFlush n q who) := by
  unfold State.doFlush
  with_reducible repeat' first | assumption | apply State.modPool_edits | apply State.flushQ_edits | apply State.logAcc_edits | apply EditedFrom.ite

theorem State.gateLatch_edits (g : Nat) (h : EditedFrom c₀ s) : EditedFrom c₀ (s.gateLatch g) := by
  unfold State.gateLatch
  repeat' first | (with_reducible first | assumption | apply State.modGate_edits | apply EditedFrom.ite) | split

theorem State.doGateAudit_edits (g : Nat) (who : Requester) (h : EditedFrom c₀ s) : EditedFrom c₀ (s.doGateAudit g who) := by
  unfold State.doGateAudit
  with_reducible repeat' first | assumption | apply State.logAcc_edits | apply State.gateLatch_edits | apply State.modGate_edits | apply EditedFrom.ite

theorem execGateAuditEnd_edits (g : Nat) (h : EditedFrom c₀ s) : AnswersEdits c₀ (execGateAuditEnd g s) := by
  refine ⟨_, rfl, ?_⟩
  repeat' first
    | with_reducible first
        | assumption | apply State.modGate_edits | apply State.rep_edits | apply State.irq_edits | apply EditedFrom.ite
    | split

theorem State.lockOver_edits (h : EditedFrom c₀ s) : EditedFrom c₀ s.lockOver := by
  unfold State.lockOver
  repeat' first | (with_reducible first | assumption | apply State.irq_edits | apply EditedFrom.ite) | with_reducible apply EditedFrom.of

theorem State.startLock_edits (ten : Nat) (unlock : Bool) (h : EditedFrom c₀ s) : EditedFrom c₀ (s.startLock ten unlock) := by
  unfold State.startLock
  repeat' first
    | with_reducible first
        | assumption | apply State.irq_edits | apply State.lockOver_edits | apply EditedFrom.ite
    | with_reducible apply EditedFrom.of

theorem State.rtrLatch_edits (n : Nat) (h : EditedFrom c₀ s) : EditedFrom c₀ (s.rtrLatch n) := by
  unfold State.rtrLatch
  repeat' first | (with_reducible first | assumption | apply State.modRouter_edits | apply EditedFrom.ite) | split

theorem State.doRtrAudit_edits (n : Nat) (h : EditedFrom c₀ s) : EditedFrom c₀ (s.doRtrAudit n) := by
  unfold State.doRtrAudit
  with_reducible repeat' first | assumption | apply State.rtrLatch_edits | apply State.modRouter_edits

theorem State.askLstest_edits (n : Nat) (h : EditedFrom c₀ s) : EditedFrom c₀ (s.askLstest n) := State.modSlice_edits _ _ h

theorem State.reserve_map_edits {u : State} {b c : Bool} {a : At} {t : Nat} {fs : List (BitVec 80)}
    (e : (s.reserve a t fs).map (fun v => (v, c)) = some (u, b)) (h : EditedFrom c₀ s) : EditedFrom c₀ u := by
  obtain ⟨v, hv, huv⟩ := Option.map_eq_some_iff.1 e
  cases huv
  exact State.reserve_edits hv h

theorem EditedFrom.of_some_eq {u v : State} {b c : Bool} (e : some (v, c) = some (u, b)) (h : EditedFrom c₀ v) : EditedFrom c₀ u := by
  cases e
  exact h

theorem State.lockPass_edits {u : State} {b : Bool} {a : At} {t : Nat} {fs : List (BitVec 80)} (e : s.lockPass a t fs = some (u, b)) (h : EditedFrom c₀ s) :
    EditedFrom c₀ u := by
  unfold State.lockPass at e
  dsimp only at e
  repeat' split at e
  all_goals first
    | with_reducible exact EditedFrom.of_some_eq e h
    | with_reducible exact EditedFrom.of_some_eq e (State.setRrv_edits _ _ _ (State.modTag_edits _ _ _ h))
    | exact State.reserve_map_edits e h
    | exact State.reserve_map_edits e (State.takeVictim_edits _ _ _ _ _ _ _ (State.bump_edits _ h))
    | exact nomatch e

theorem State.ncLatchEdge_edits (n : Nat) (h : EditedFrom c₀ s) : EditedFrom c₀ (s.ncLatchEdge n) := by
  unfold State.ncLatchEdge
  repeat' first | (with_reducible first | assumption | apply State.modHome_edits | apply EditedFrom.ite) | split

theorem State.doNcAudit_edits (n : Nat) (h : EditedFrom c₀ s) : EditedFrom c₀ (s.doNcAudit n) := by
  unfold State.doNcAudit
  with_reducible repeat' first | assumption | apply State.ncLatchEdge_edits | apply State.modHome_edits

theorem execHomNcAudit_edits (n : Nat) (h : EditedFrom c₀ s) : AnswersEdits c₀ (execHomNcAudit n s) := by
  refine ⟨_, rfl, ?_⟩
  repeat' first | intro _ | (with_reducible first | assumption | apply State.unitCmd_edits | apply State.doNcAudit_edits)

theorem execFlush_edits (n q : Nat) (h : EditedFrom c₀ s) : AnswersEdits c₀ (execFlush n q s) := by
  refine ⟨_, rfl, ?_⟩
  repeat' first
    | intro _
    | with_reducible first
        | assumption | apply State.unitCmd_edits | apply State.logAcc_edits | apply State.doFlush_edits | apply EditedFrom.ite

theorem execPredClrDone_edits (n : Nat) (h : EditedFrom c₀ s) : AnswersEdits c₀ (execPredClrDone n s) := by
  refine ⟨_, rfl, ?_⟩
  with_reducible repeat' first | assumption | apply State.modSlice_edits | apply EditedFrom.ite

theorem execSlcAuditEnd_edits (n : Nat) (h : EditedFrom c₀ s) : AnswersEdits c₀ (execSlcAuditEnd n s) := by
  refine ⟨_, rfl, ?_⟩
  repeat' first
    | with_reducible first
        | assumption | apply State.modSlice_edits | apply State.rep_edits | apply State.irq_edits | apply EditedFrom.ite
    | split

theorem State.doQrel_edits (n : Nat) (h : EditedFrom c₀ s) : EditedFrom c₀ (s.doQrel n) := by
  unfold State.doQrel
  repeat' first | (with_reducible first | assumption | apply State.modSlice_edits | apply EditedFrom.ite) | split

theorem execQrel_edits (n : Nat) (h : EditedFrom c₀ s) : AnswersEdits c₀ (execQrel n s) := by
  refine ⟨_, rfl, ?_⟩
  repeat' first | intro _ | (with_reducible first | assumption | apply State.unitCmd_edits | apply State.doQrel_edits)

theorem execRtrAudit_edits (n : Nat) (h : EditedFrom c₀ s) : AnswersEdits c₀ (execRtrAudit n s) := by
  refine ⟨_, rfl, ?_⟩
  repeat' first | intro _ | (with_reducible first | assumption | apply State.unitCmd_edits | apply State.doRtrAudit_edits)

theorem execHomNcAuditEnd_edits (n : Nat) (h : EditedFrom c₀ s) : AnswersEdits c₀ (execHomNcAuditEnd n s) := by
  refine ⟨_, rfl, ?_⟩
  repeat' first
    | with_reducible first
        | assumption | apply State.modHome_edits | apply State.winHit_edits | apply State.raise_edits | apply State.fence_edits | apply State.irq_edits
        | apply EditedFrom.ite
    | split

theorem execFlushDone_edits (n q : Nat) (h : EditedFrom c₀ s) : AnswersEdits c₀ (execFlushDone n q s) := by
  refine ⟨_, rfl, ?_⟩
  with_reducible repeat' first | assumption | apply State.modPool_edits | apply EditedFrom.ite

theorem State.passDone_edits (n : Nat) (failed : Bool) (h : EditedFrom c₀ s) : EditedFrom c₀ (s.passDone n failed) := by
  unfold State.passDone
  repeat' first
    | with_reducible first
        | assumption | apply State.bump_edits | apply State.lockOver_edits | apply EditedFrom.ite
    | with_reducible apply EditedFrom.of

theorem execUnlockPass_edits (p : PassAt) (line : LineAddr) (ten : Nat) (h : EditedFrom c₀ s) : AnswersEdits c₀ (execUnlockPass p line ten s) := by
  refine ⟨_, rfl, ?_⟩
  unfold State.unlockPass
  repeat' first
    | with_reducible first
        | assumption | apply State.passFaults_edits | apply State.passDone_edits | apply State.setRrv_edits | apply State.modTag_edits
        | apply EditedFrom.ite
    | split

theorem execSlcAudit_edits (n : Nat) (h : EditedFrom c₀ s) : AnswersEdits c₀ (execSlcAudit n s) := by
  refine ⟨_, rfl, ?_⟩
  repeat' first | intro _ | (with_reducible first | assumption | apply State.unitCmd_edits | apply State.doSlcAudit_edits)

theorem execLockPass_edits (p : PassAt) (line : LineAddr) (ten : Nat) (h : EditedFrom c₀ s) : AnswersEdits c₀ (execLockPass p line ten s) := by
  refine ⟨_, rfl, ?_⟩
  repeat' first
    | with_reducible first
        | assumption | apply State.passFaults_edits | apply State.passDone_edits | refine State.lockPass_edits (by assumption) ?_
    | split | with_reducible apply EditedFrom.of

theorem State.doPredClr_edits (n : Nat) (h : EditedFrom c₀ s) : EditedFrom c₀ (s.doPredClr n) := State.modSlice_edits _ _ h

theorem execPredClr_edits (n : Nat) (h : EditedFrom c₀ s) : AnswersEdits c₀ (execPredClr n s) := by
  refine ⟨_, rfl, ?_⟩
  repeat' first | intro _ | (with_reducible first | assumption | apply State.unitCmd_edits | apply State.doPredClr_edits)

theorem execLstest_edits (n : Nat) (squashed : Bool) (h : EditedFrom c₀ s) : AnswersEdits c₀ (execLstest n squashed s) := by
  refine ⟨_, rfl, ?_⟩
  unfold State.doLstest
  repeat' first
    | intro _
    | with_reducible first
        | assumption | apply State.unitCmd_edits | apply State.modSlice_edits | apply State.sliceMust_edits | apply EditedFrom.ite

theorem execGateAudit_edits (g : Nat) (h : EditedFrom c₀ s) : AnswersEdits c₀ (execGateAudit g s) := by
  refine ⟨_, rfl, ?_⟩
  repeat' first | intro _ | (with_reducible first | assumption | apply State.gateCmd_edits | apply State.doGateAudit_edits)

/-! ### Counters through Machine.Start -/

theorem State.slotFailed_edits (k : SlotName) (trial : Bool) (h : EditedFrom c₀ s) : EditedFrom c₀ (s.slotFailed k trial) := by
  unfold State.slotFailed
  repeat' first | (with_reducible first | assumption | apply State.setSlot_edits | apply EditedFrom.ite) | with_reducible apply EditedFrom.of

theorem State.logFences_edits (h : EditedFrom c₀ s) : EditedFrom c₀ s.logFences := by
  unfold State.logFences
  repeat' first | intro _ | (with_reducible first | assumption | apply State.peat_edits | refine EditedFrom.foldl ?_ ?_ | apply EditedFrom.ite)

theorem State.takeNext_edits (fw : Bool) (h : EditedFrom c₀ s) : EditedFrom c₀ (s.takeNext fw) := by
  unfold State.takeNext
  repeat' first | (with_reducible first | assumption | apply EditedFrom.ite) | with_reducible apply EditedFrom.of

theorem State.cmdst_edits (k : Nat) (h : EditedFrom c₀ s) : EditedFrom c₀ (s.cmdst k) := h

theorem State.doDrain_edits (h : EditedFrom c₀ s) : EditedFrom c₀ s.doDrain := by
  unfold State.doDrain State.revokeAll
  repeat' first
    | intro _
    | with_reducible first
        | assumption | apply State.revoke_edits | apply State.cmdst_edits | apply State.setMode_edits | refine EditedFrom.foldl ?_ ?_ | apply EditedFrom.ite
    | with_reducible apply EditedFrom.of

theorem State.relock_edits (h : EditedFrom c₀ s) : EditedFrom c₀ s.relock := by
  unfold State.relock
  repeat' first | (with_reducible first | assumption | apply EditedFrom.ite) | with_reducible apply EditedFrom.of

theorem State.doResume_edits (h : EditedFrom c₀ s) : EditedFrom c₀ s.doResume := by
  unfold State.doResume
  with_reducible repeat' first | assumption | apply State.cmdst_edits | apply State.setMode_edits | apply EditedFrom.ite

theorem State.markTried_edits (trial : Bool) (h : EditedFrom c₀ s) : EditedFrom c₀ (s.markTried trial) := by
  unfold State.markTried
  repeat' first | (with_reducible first | assumption | apply EditedFrom.ite) | with_reducible apply EditedFrom.of

theorem State.pairEntry_edits (v : Nat) (h : EditedFrom c₀ s) : EditedFrom c₀ (s.pairEntry v) := by
  unfold State.pairEntry
  with_reducible repeat' first | assumption | apply State.bump_edits | apply State.peat_edits

theorem State.knowGood_edits (h : EditedFrom c₀ s) : EditedFrom c₀ s.knowGood := by
  unfold State.knowGood
  repeat' first | (with_reducible first | assumption | apply State.pairEntry_edits | apply EditedFrom.ite) | with_reducible apply EditedFrom.of

theorem execKnownGood_edits (h : EditedFrom c₀ s) : AnswersEdits c₀ (execKnownGood s) := by
  refine ⟨_, rfl, ?_⟩
  with_reducible repeat' first | assumption | apply State.knowGood_edits | apply EditedFrom.ite

theorem State.stepRec_edits (x : StartIn) (code : Nat) (o : StepOutcome) (reason slot detail : Nat) (h : EditedFrom c₀ s) :
    EditedFrom c₀ (s.stepRec x code o reason slot detail) := by
  unfold State.stepRec
  repeat' first
    | with_reducible first
        | assumption | apply State.bump_edits | apply State.peat_edits | apply EditedFrom.ite
    | with_reducible apply EditedFrom.of

theorem State.doPairGood_edits (h : EditedFrom c₀ s) : EditedFrom c₀ s.doPairGood := by
  unfold State.doPairGood
  with_reducible repeat' first | assumption | apply State.cmdst_edits | apply State.knowGood_edits | apply EditedFrom.ite

theorem applyRepair_edits (runtime : Bool) (r : Nat × Bool × Nat × Nat × Nat) (h : EditedFrom c₀ s) : EditedFrom c₀ (applyRepair runtime r s) :=
  State.modSlice_edits _ _ h

theorem State.runRepair_edits (x : StartIn) (h : EditedFrom c₀ s) : EditedFrom c₀ (s.runRepair x) := by
  unfold State.runRepair
  repeat' first
    | intro _
    | with_reducible first
        | assumption | apply State.fence_edits | apply applyRepair_edits | apply State.stepRec_edits | refine EditedFrom.foldl ?_ ?_ | apply EditedFrom.ite
    | with_reducible apply EditedFrom.of

theorem State.runClear_edits (x : StartIn) (h : EditedFrom c₀ s) : EditedFrom c₀ (s.runClear x) := by
  unfold State.runClear
  repeat' first
    | intro _
    | with_reducible first
        | assumption | apply State.modSlice_edits | apply State.fence_edits | apply State.stepRec_edits | refine EditedFrom.foldl ?_ ?_
        | apply EditedFrom.ite
    | split

theorem State.noteStop_edits (why : StopWhy) (h : EditedFrom c₀ s) : EditedFrom c₀ (s.noteStop why) := by
  unfold State.noteStop
  repeat' first | (with_reducible first | assumption | apply EditedFrom.ite) | with_reducible apply EditedFrom.of

theorem State.runCheck_edits (x : StartIn) (h : EditedFrom c₀ s) : EditedFrom c₀ (s.runCheck x) := by
  unfold State.runCheck
  repeat' first
    | intro _
    | with_reducible first
        | assumption | apply State.fence_edits | apply State.noteStop_edits | apply State.stepRec_edits | refine EditedFrom.foldl ?_ ?_
        | apply EditedFrom.ite

theorem State.runFuse_edits (x : StartIn) (h : EditedFrom c₀ s) : EditedFrom c₀ (s.runFuse x) := by
  unfold State.runFuse
  repeat' first
    | intro _
    | with_reducible first
        | assumption | apply applyRepair_edits | apply State.stepRec_edits | apply State.noteStop_edits | refine EditedFrom.foldl ?_ ?_
        | apply EditedFrom.ite

theorem State.newNonce_edits (h : EditedFrom c₀ s) : EditedFrom c₀ s.newNonce := State.drawn_edits h

theorem State.runFirm_edits (x : StartIn) (h : EditedFrom c₀ s) : EditedFrom c₀ (s.runFirm x).1 := by
  unfold State.runFirm
  repeat' first
    | with_reducible first
        | assumption | apply State.stepRec_edits | apply State.takeNext_edits | apply State.logFences_edits | apply State.newNonce_edits
        | apply EditedFrom.ite
    | split | with_reducible apply EditedFrom.of

theorem State.stopBare_edits (x : StartIn) (why : StopWhy) (at_ frm : Nat) (h : EditedFrom c₀ s) : EditedFrom c₀ (s.stopBare x why at_ frm) := by
  unfold State.stopBare
  repeat' first
    | intro _
    | with_reducible first
        | assumption | apply State.stepRec_edits | apply State.setMode_edits | refine EditedFrom.foldl ?_ ?_ | apply EditedFrom.ite
    | with_reducible apply EditedFrom.of

theorem State.runMicro_edits (x : StartIn) (h : EditedFrom c₀ s) : EditedFrom c₀ (s.runMicro x) := by
  unfold State.runMicro
  repeat' first
    | with_reducible first
        | assumption | apply State.stepRec_edits | apply State.noteStop_edits | apply State.takeNext_edits | apply State.pairEntry_edits
        | apply EditedFrom.ite
    | split | with_reducible apply EditedFrom.of

theorem State.tryImages_edits (ks : List SlotName) (st : ImgStatus) (h : EditedFrom c₀ s) : EditedFrom c₀ (s.tryImages ks st).1 := by
  induction ks generalizing s st with
  | nil => exact h
  | cons k t ih =>
    unfold State.tryImages
    dsimp only
    split
    · exact State.loadImage_edits _ _ (State.markTried_edits _ h)
    · exact ih _ (State.slotFailed_edits _ _ (State.markTried_edits _ h))

theorem State.runLink_edits (x : StartIn) (h : EditedFrom c₀ s) : EditedFrom c₀ (s.runLink x) := by
  unfold State.runLink State.linkPort State.findPort State.findTime State.runServe
  repeat' first
    | intro _
    | with_reducible first
        | assumption | apply State.modPort_edits | apply State.toFind_edits | apply State.stepRec_edits | apply State.discIdIn_edits
        | apply State.discCfgIn_edits | apply State.discFinish_edits | apply State.drawn_edits | apply State.reject_edits | apply State.modDom_edits
        | apply State.modGate_edits | apply State.fence_edits | apply State.setMode_edits | refine EditedFrom.foldl ?_ ?_ | apply EditedFrom.ite
    | split | dsimp only

theorem State.runImage_edits (x : StartIn) (h : EditedFrom c₀ s) : EditedFrom c₀ (s.runImage x) := by
  unfold State.runImage
  repeat' first
    | with_reducible first
        | assumption | apply State.tryImages_edits | apply State.runLink_edits | apply State.stepRec_edits | apply State.stopBare_edits
        | apply EditedFrom.ite
    | with_reducible apply EditedFrom.of

theorem State.runOn_edits (x : StartIn) (h : EditedFrom c₀ s) : EditedFrom c₀ (s.runOn x) := by
  unfold State.runOn
  with_reducible
    repeat' first
      | assumption | apply State.runRepair_edits | apply State.runClear_edits | apply State.runCheck_edits | apply State.runFuse_edits
      | apply State.runFirm_edits | apply State.stopBare_edits | apply State.runMicro_edits | apply State.runImage_edits | apply EditedFrom.ite

theorem State.runSupply_edits (x : StartIn) (h : EditedFrom c₀ s) : EditedFrom c₀ (s.runSupply x) := by
  unfold State.runSupply
  repeat' first
    | with_reducible first
        | assumption | apply State.runOn_edits | apply State.stepRec_edits | apply State.faultPin_edits | apply EditedFrom.ite
    | with_reducible apply EditedFrom.of

theorem execSupplyRetry_edits (x : StartIn) (h : EditedFrom c₀ s) : AnswersEdits c₀ (execSupplyRetry x s) := by
  refine ⟨_, rfl, ?_⟩
  with_reducible repeat' first | assumption | apply State.runSupply_edits | apply EditedFrom.ite

theorem execStart_edits (x : StartIn) (h : EditedFrom c₀ s) : AnswersEdits c₀ (execStart x s) := by
  refine ⟨_, rfl, ?_⟩
  unfold State.beginStart
  repeat' first
    | with_reducible first
        | assumption | apply State.runSupply_edits | apply State.bump_edits | apply State.setMode_edits | apply State.peat_edits | apply EditedFrom.ite
    | with_reducible apply EditedFrom.of

theorem State.doMaint_edits (h : EditedFrom c₀ s) : EditedFrom c₀ s.doMaint := by
  unfold State.doMaint
  with_reducible
    repeat' first
      | assumption | apply State.cmdst_edits | apply State.standbyIn_edits | apply State.relock_edits | apply State.setMode_edits | apply EditedFrom.ite

theorem State.doFenceForget_edits (h : EditedFrom c₀ s) : EditedFrom c₀ s.doFenceForget := by
  unfold State.doFenceForget
  with_reducible repeat' first | assumption | apply State.cmdst_edits | apply State.peat_edits | apply EditedFrom.ite

theorem execForcePair_edits (x : StartIn) (h : EditedFrom c₀ s) : AnswersEdits c₀ (execForcePair x s) := by
  refine ⟨_, rfl, ?_⟩
  unfold State.doForcePair
  repeat' first
    | with_reducible first
        | assumption | apply State.cmdst_edits | apply State.pairEntry_edits | apply State.runImage_edits | apply State.setMode_edits | apply EditedFrom.ite
    | with_reducible apply EditedFrom.of

/-! ### Counters through Machine.Images -/

theorem State.imgEnd_edits (st : ImgStatus) (sect off : Nat) (h : EditedFrom c₀ s) : EditedFrom c₀ (s.imgEnd st sect off) := by
  unfold State.imgEnd
  repeat' first | (with_reducible first | assumption | apply State.irq_edits | apply State.bump_edits) | with_reducible apply EditedFrom.of

theorem State.imgStart_edits (op : Nat) (b : Bool) {f : State → State} (hf : ∀ s, EditedFrom c₀ s → EditedFrom c₀ (f s)) (h : EditedFrom c₀ s) :
    EditedFrom c₀ (s.imgStart op b f) := by
  unfold State.imgStart
  repeat' first
    | with_reducible first
        | assumption | apply hf | apply State.bump_edits | apply State.imgEnd_edits | apply EditedFrom.ite
    | split | with_reducible apply EditedFrom.of

theorem State.imgCmd_edits (op : Nat) (b : Bool) {f : State → State} (hf : ∀ s, EditedFrom c₀ s → EditedFrom c₀ (f s)) (h : EditedFrom c₀ s) :
    EditedFrom c₀ (s.imgCmd op b f) := by
  unfold State.imgCmd
  with_reducible repeat' first | assumption | apply hf | apply State.logAcc_edits | apply State.imgStart_edits | apply EditedFrom.ite

theorem State.imgConfirm_edits (h : EditedFrom c₀ s) : EditedFrom c₀ s.imgConfirm := State.imgEnd_edits _ _ _ (State.bump_edits _ h)

theorem execImgConfirm_edits (h : EditedFrom c₀ s) : AnswersEdits c₀ (execImgConfirm s) := by
  refine ⟨_, rfl, ?_⟩
  with_reducible repeat' first | assumption | apply State.imgCmd_edits | apply State.imgConfirm_edits

theorem State.returnLine_edits (d : Nat) (D : ImgDomain) (l : LineAddr) (x : LineData) (h : EditedFrom c₀ s) : EditedFrom c₀ (s.returnLine d D l x) := by
  unfold State.returnLine
  repeat' first
    | with_reducible first
        | assumption | apply State.writeLine_edits | apply State.wbDiscard_edits | apply State.sendHome_edits | apply EditedFrom.ite
    | split

theorem State.imgBad_edits (e : ImgBad) (h : EditedFrom c₀ s) : EditedFrom c₀ (s.imgBad e) := State.imgEnd_edits _ _ _ h

theorem State.imgLog_edits (op : Nat) (k : SlotName) (st : ImgStatus) (seq : Nat) (h : EditedFrom c₀ s) : EditedFrom c₀ (s.imgLog op k st seq) :=
  State.peat_edits _ _ h

theorem State.imgVerify_edits (k : SlotName) (h : EditedFrom c₀ s) : EditedFrom c₀ (s.imgVerify k) := by
  unfold State.imgVerify
  repeat' first
    | with_reducible first
        | assumption | apply State.imgEnd_edits | apply State.imgBad_edits | apply State.imgLog_edits | apply State.setSlot_edits | apply EditedFrom.ite
    | split

theorem State.applyDone_edits (k : SlotName) (seq : Nat) (h : EditedFrom c₀ s) : EditedFrom c₀ (s.applyDone k seq) := by
  unfold State.applyDone
  repeat' first | (with_reducible first | assumption | apply State.imgEnd_edits | apply State.imgLog_edits) | with_reducible apply EditedFrom.of

theorem State.imgWrite_edits (k : SlotName) (bytes : List Byte) (dmaOk : Bool) (h : EditedFrom c₀ s) : EditedFrom c₀ (s.imgWrite k bytes dmaOk) := by
  unfold State.imgWrite
  repeat' first
    | with_reducible first
        | assumption | apply State.setSlot_edits | apply State.imgEnd_edits | apply State.imgLog_edits | apply State.imgBad_edits | apply EditedFrom.ite
    | split | with_reducible apply EditedFrom.of

theorem execImgWrite_edits (slotB : Bool) (bytes : List Byte) (dmaOk : Bool) (h : EditedFrom c₀ s) : AnswersEdits c₀ (execImgWrite slotB bytes dmaOk s) := by
  refine ⟨_, rfl, ?_⟩
  repeat' first | intro _ | (with_reducible first | assumption | apply State.imgCmd_edits | apply State.imgWrite_edits)

theorem execImgVerify_edits (slotB : Bool) (h : EditedFrom c₀ s) : AnswersEdits c₀ (execImgVerify slotB s) := by
  refine ⟨_, rfl, ?_⟩
  repeat' first | intro _ | (with_reducible first | assumption | apply State.imgCmd_edits | apply State.imgVerify_edits)

theorem execImgApply_edits (slotB : Bool) (x : ApplyIn) (y : StartIn) (h : EditedFrom c₀ s) : AnswersEdits c₀ (execImgApply slotB x y s) := by
  refine ⟨_, rfl, ?_⟩
  unfold State.applyBare State.applyFull State.applyDetach State.applyClean State.applyRecalls State.applySnoops State.applyOwn
  repeat' first
    | intro _
    | with_reducible first
        | assumption | apply State.imgCmd_edits | apply State.imgBad_edits | apply State.imgLog_edits | apply State.setSlot_edits
        | apply State.applyDone_edits | apply State.loadImage_edits | apply State.runLink_edits | apply State.setMode_edits | apply State.bump_edits
        | apply State.emit_edits | apply State.isolate_edits | apply State.leaveService_edits | apply State.ncPut_edits | apply State.returnLine_edits
        | apply State.shipWrites_edits | apply State.persistFlush_edits | apply State.imgEnd_edits | refine EditedFrom.foldl ?_ ?_ | apply EditedFrom.ite
    | split | with_reducible apply EditedFrom.of

theorem State.imgRunning_edits (op : Nat) (b : Bool) (h : EditedFrom c₀ s) : EditedFrom c₀ (s.imgRunning op b) := by
  unfold State.imgRunning
  repeat' first | (with_reducible first | assumption | apply State.setSlot_edits | apply EditedFrom.ite) | with_reducible apply EditedFrom.of

theorem State.imgRoute_edits (bytes : List Byte) (dmaOk : Bool) (h : EditedFrom c₀ s) : EditedFrom c₀ (s.imgRoute bytes dmaOk) := by
  unfold State.imgRoute
  repeat' first
    | with_reducible first
        | assumption | apply State.imgEnd_edits | apply State.imgBad_edits | apply EditedFrom.ite
    | split | with_reducible apply EditedFrom.of

theorem State.imgErase_edits (k : SlotName) (h : EditedFrom c₀ s) : EditedFrom c₀ (s.imgErase k) := by
  unfold State.imgErase
  with_reducible repeat' first | assumption | apply State.imgEnd_edits | apply State.imgLog_edits | apply State.setSlot_edits

theorem execImgErase_edits (slotB : Bool) (h : EditedFrom c₀ s) : AnswersEdits c₀ (execImgErase slotB s) := by
  refine ⟨_, rfl, ?_⟩
  repeat' first | intro _ | (with_reducible first | assumption | apply State.imgCmd_edits | apply State.imgErase_edits)

theorem State.nameTrial_edits (k : SlotName) (h : EditedFrom c₀ s) : EditedFrom c₀ (s.nameTrial k) := by
  unfold State.nameTrial
  repeat' first | (with_reducible first | assumption | apply EditedFrom.ite) | with_reducible apply EditedFrom.of

theorem execImgTrial_edits (slotB : Bool) (h : EditedFrom c₀ s) : AnswersEdits c₀ (execImgTrial slotB s) := by
  refine ⟨_, rfl, ?_⟩
  repeat' first | intro _ | (with_reducible first | assumption | apply State.imgCmd_edits | apply State.imgEnd_edits | apply State.nameTrial_edits)

theorem execImgRoute_edits (bytes : List Byte) (dmaOk : Bool) (h : EditedFrom c₀ s) : AnswersEdits c₀ (execImgRoute bytes dmaOk s) := by
  refine ⟨_, rfl, ?_⟩
  repeat' first | intro _ | (with_reducible first | assumption | apply State.imgCmd_edits | apply State.imgRoute_edits)

/-! ### Counters through Machine.Mailbox -/

theorem State.mbxEnd_edits (st : MbxStatus) (n : Nat) (h : EditedFrom c₀ s) : EditedFrom c₀ (s.mbxEnd st n) := State.irq_edits _ _ h

theorem State.mbxStart_edits (op : Nat) (b : Bool) {f : State → State} (hf : ∀ s, EditedFrom c₀ s → EditedFrom c₀ (f s)) (h : EditedFrom c₀ s) :
    EditedFrom c₀ (s.mbxStart op b f) := by
  unfold State.mbxStart
  repeat' first
    | with_reducible first
        | assumption | apply hf | apply State.mbxEnd_edits | apply State.newNonce_edits | apply EditedFrom.ite
    | split | with_reducible apply EditedFrom.of

theorem State.mbxCmd_edits (op : Nat) (b : Bool) {f : State → State} (hf : ∀ s, EditedFrom c₀ s → EditedFrom c₀ (f s)) (h : EditedFrom c₀ s) :
    EditedFrom c₀ (s.mbxCmd op b f) := by
  unfold State.mbxCmd
  repeat' first
    | intro _
    | with_reducible first
        | assumption | apply hf | apply State.newNonce_edits | apply State.logAcc_edits | apply State.mbxStart_edits | apply EditedFrom.ite

theorem State.setFile_edits (fw : Bool) (k : SlotName) (f : Option CodeFile) (h : EditedFrom c₀ s) : EditedFrom c₀ (s.setFile fw k f) := by
  unfold State.setFile
  repeat' first | (with_reducible first | assumption | apply EditedFrom.ite) | split | with_reducible apply EditedFrom.of

theorem State.fileWrite_edits (fw : Bool) (k : SlotName) (bytes : List Byte) (dmaOk : Bool) (h : EditedFrom c₀ s) :
    EditedFrom c₀ (s.fileWrite fw k bytes dmaOk) := by
  unfold State.fileWrite
  repeat' first | (with_reducible first | assumption | apply State.mbxEnd_edits | apply State.setFile_edits | apply EditedFrom.ite) | split

theorem execMcWrite_edits (slotB : Bool) (bytes : List Byte) (dmaOk : Bool) (h : EditedFrom c₀ s) : AnswersEdits c₀ (execMcWrite slotB bytes dmaOk s) := by
  refine ⟨_, rfl, ?_⟩
  repeat' first | intro _ | (with_reducible first | assumption | apply State.mbxCmd_edits | apply State.fileWrite_edits)

theorem State.mbxRespond_edits (bytes : List Byte) (dmaOk : Bool) (h : EditedFrom c₀ s) : EditedFrom c₀ (s.mbxRespond bytes dmaOk) := by
  unfold State.mbxRespond
  with_reducible repeat' first | assumption | apply State.mbxEnd_edits | apply State.emit_edits | apply EditedFrom.ite

theorem State.owner_edits (fill : Bool) (bytes : List Byte) (dmaOk : Bool) (h : EditedFrom c₀ s) : EditedFrom c₀ (s.owner fill bytes dmaOk) := by
  unfold State.owner State.setOwner
  repeat' first | (with_reducible first | assumption | apply State.mbxEnd_edits | apply EditedFrom.ite) | split | with_reducible apply EditedFrom.of

theorem execOwnerFill_edits (bytes : List Byte) (dmaOk : Bool) (h : EditedFrom c₀ s) : AnswersEdits c₀ (execOwnerFill bytes dmaOk s) := by
  refine ⟨_, rfl, ?_⟩
  repeat' first | intro _ | (with_reducible first | assumption | apply State.mbxCmd_edits | apply State.owner_edits)

theorem execPeatRead_edits (dmaOk : Bool) (h : EditedFrom c₀ s) : AnswersEdits c₀ (execPeatRead dmaOk s) := by
  refine ⟨_, rfl, ?_⟩
  repeat' first | intro _ | (with_reducible first | assumption | apply State.mbxCmd_edits | apply State.mbxRespond_edits)

theorem execGetInfo_edits (dmaOk : Bool) (h : EditedFrom c₀ s) : AnswersEdits c₀ (execGetInfo dmaOk s) := by
  refine ⟨_, rfl, ?_⟩
  repeat' first | intro _ | (with_reducible first | assumption | apply State.mbxCmd_edits | apply State.mbxRespond_edits)

theorem State.fileVerify_edits (fw : Bool) (k : SlotName) (h : EditedFrom c₀ s) : EditedFrom c₀ (s.fileVerify fw k) := by
  unfold State.fileVerify
  repeat' first | (with_reducible first | assumption | apply State.mbxEnd_edits | apply State.setFile_edits | apply EditedFrom.ite) | split

theorem execMcVerify_edits (slotB : Bool) (h : EditedFrom c₀ s) : AnswersEdits c₀ (execMcVerify slotB s) := by
  refine ⟨_, rfl, ?_⟩
  repeat' first | intro _ | (with_reducible first | assumption | apply State.mbxCmd_edits | apply State.fileVerify_edits)

theorem execFwVerify_edits (slotB : Bool) (h : EditedFrom c₀ s) : AnswersEdits c₀ (execFwVerify slotB s) := by
  refine ⟨_, rfl, ?_⟩
  repeat' first | intro _ | (with_reducible first | assumption | apply State.mbxCmd_edits | apply State.fileVerify_edits)

theorem execFwWrite_edits (slotB : Bool) (bytes : List Byte) (dmaOk : Bool) (h : EditedFrom c₀ s) : AnswersEdits c₀ (execFwWrite slotB bytes dmaOk s) := by
  refine ⟨_, rfl, ?_⟩
  repeat' first | intro _ | (with_reducible first | assumption | apply State.mbxCmd_edits | apply State.fileWrite_edits)

theorem State.mbxBad_edits (op : Nat) (h : EditedFrom c₀ s) : EditedFrom c₀ (s.mbxBad op) := by
  unfold State.mbxBad
  repeat' first | (with_reducible first | assumption | apply State.mbxEnd_edits | apply EditedFrom.ite) | with_reducible apply EditedFrom.of

theorem State.mbxRunning_edits (h : EditedFrom c₀ s) : EditedFrom c₀ s.mbxRunning := h

theorem execOwnerEmpty_edits (bytes : List Byte) (dmaOk : Bool) (h : EditedFrom c₀ s) : AnswersEdits c₀ (execOwnerEmpty bytes dmaOk s) := by
  refine ⟨_, rfl, ?_⟩
  repeat' first | intro _ | (with_reducible first | assumption | apply State.mbxCmd_edits | apply State.owner_edits)

/-! ### Counters through Machine.HostLink -/

theorem State.sendPba_edits (fn vec : Nat) (h : EditedFrom c₀ s) : EditedFrom c₀ (s.sendPba fn vec) := by
  unfold State.sendPba
  with_reducible repeat' first | assumption | apply State.irq_edits | apply State.modMsix_edits | apply EditedFrom.ite

theorem State.hostReset_edits (held : Bool) (h : EditedFrom c₀ s) : EditedFrom c₀ (s.hostReset held) := by
  unfold State.hostReset State.dmaAbort
  repeat' first
    | with_reducible first
        | assumption | apply State.imgEnd_edits | apply State.imgLog_edits | apply State.setSlot_edits | apply State.mbxEnd_edits
        | apply State.newNonce_edits | apply State.dumpDmaErr_edits | apply EditedFrom.ite
    | with_reducible apply EditedFrom.of

theorem State.spdmAnswer_edits (code : Nat) (xs : List (BitVec 1024)) (signed : Bool) (h : EditedFrom c₀ s) :
    EditedFrom c₀ (s.spdmAnswer code xs signed) := State.emit_edits _ h

theorem execFlrVf_edits (k : Nat) (h : EditedFrom c₀ s) : AnswersEdits c₀ (execFlrVf k s) := by
  refine ⟨_, rfl, ?_⟩
  with_reducible repeat' first | assumption | apply State.modPage_edits | apply State.modMsix_edits | apply EditedFrom.ite

theorem execCert_edits (slot : Nat) (h : EditedFrom c₀ s) : AnswersEdits c₀ (execCert slot s) := by
  refine ⟨_, rfl, ?_⟩
  with_reducible repeat' first | assumption | apply State.spdmAnswer_edits | apply EditedFrom.ite

theorem execConfigurationRequest_edits (x : CfgReq) (h : EditedFrom c₀ s) : AnswersEdits c₀ (execConfigurationRequest x s) := by
  refine ⟨_, rfl, ?_⟩
  unfold State.cfgReq State.sendAllPba
  repeat' first
    | intro _
    | with_reducible first
        | assumption | apply State.emit_edits | apply State.sendPba_edits | apply State.dumpDmaErr_edits | refine EditedFrom.foldl ?_ ?_
        | apply EditedFrom.ite
    | split | with_reducible apply EditedFrom.of

theorem execIdeKm_edits (session : Nat) (key : BitVec 256) (h : EditedFrom c₀ s) : AnswersEdits c₀ (execIdeKm session key s) := by
  refine ⟨_, rfl, ?_⟩
  repeat' first | (with_reducible first | assumption | apply EditedFrom.ite) | with_reducible apply EditedFrom.of

theorem execPerstN_edits (low : Bool) (h : EditedFrom c₀ s) : AnswersEdits c₀ (execPerstN low s) := by
  refine ⟨_, rfl, ?_⟩
  repeat' first | (with_reducible first | assumption | apply State.hostReset_edits | apply EditedFrom.ite) | with_reducible apply EditedFrom.of

theorem execHbeat_edits (session : Nat) (h : EditedFrom c₀ s) : AnswersEdits c₀ (execHbeat session s) := by
  refine ⟨_, rfl, ?_⟩
  with_reducible repeat' first | assumption | apply State.spdmAnswer_edits | apply EditedFrom.ite

theorem execMeasurements_edits (blocks : List Nat) (h : EditedFrom c₀ s) : AnswersEdits c₀ (execMeasurements blocks s) := by
  refine ⟨_, rfl, ?_⟩
  with_reducible repeat' first | assumption | apply State.spdmAnswer_edits | apply EditedFrom.ite

theorem execKeyEx_edits (share : BitVec 768) (h : EditedFrom c₀ s) : AnswersEdits c₀ (execKeyEx share s) := by
  refine ⟨_, rfl, ?_⟩
  repeat' first
    | with_reducible first
        | assumption | apply State.spdmAnswer_edits | apply State.drawn_edits | apply EditedFrom.ite
    | with_reducible apply EditedFrom.of

theorem execChal_edits (nonce : BitVec 256) (h : EditedFrom c₀ s) : AnswersEdits c₀ (execChal nonce s) := by
  refine ⟨_, rfl, ?_⟩
  with_reducible repeat' first | assumption | apply State.spdmAnswer_edits | apply EditedFrom.ite

theorem execVectorUnmask_edits (fn vec : Nat) (h : EditedFrom c₀ s) : AnswersEdits c₀ (execVectorUnmask fn vec s) := by
  refine ⟨_, rfl, ?_⟩
  with_reducible repeat' first | assumption | apply State.sendPba_edits | apply State.modMsix_edits | apply EditedFrom.ite

theorem execFlr_edits (h : EditedFrom c₀ s) : AnswersEdits c₀ (execFlr s) := by
  refine ⟨_, rfl, ?_⟩
  with_reducible repeat' first | assumption | apply State.hostReset_edits | apply EditedFrom.ite

theorem execIdeCheckFail_edits (h : EditedFrom c₀ s) : AnswersEdits c₀ (execIdeCheckFail s) := by
  refine ⟨_, rfl, ?_⟩
  repeat' first | (with_reducible first | assumption | apply EditedFrom.ite) | with_reducible apply EditedFrom.of

theorem execMsixPendingSend_edits (fn vec : Nat) (h : EditedFrom c₀ s) : AnswersEdits c₀ (execMsixPendingSend fn vec s) := by
  refine ⟨_, rfl, ?_⟩
  with_reducible repeat' first | assumption | apply State.irq_edits | apply State.modMsix_edits | apply EditedFrom.ite

/-! ### Counters through Machine.Power -/

theorem execAlwaysOnDomainStart_edits (smbAddr : BitVec 3) (h : EditedFrom c₀ s) : AnswersEdits c₀ (execAlwaysOnDomainStart smbAddr s) := by
  refine ⟨_, rfl, ?_⟩
  split
  · exact CntEdits.clear (fun k => !alwaysOnCnt k) h
  · exact h

theorem execResetN_edits (flushUs : Nat) (durable : Bool) (h : EditedFrom c₀ s) : AnswersEdits c₀ (execResetN flushUs durable s) := by
  refine ⟨_, rfl, ?_⟩
  repeat' first
    | with_reducible first
        | assumption | apply State.toDormant_edits | apply State.irq_edits | apply EditedFrom.ite
    | with_reducible apply EditedFrom.of

theorem execRefLost_edits (noEdge : Bool) (ppm : Nat) (h : EditedFrom c₀ s) : AnswersEdits c₀ (execRefLost noEdge ppm s) := by
  refine ⟨_, rfl, ?_⟩
  repeat' first
    | with_reducible first
        | assumption | apply State.irq_edits | apply State.rep_edits | apply EditedFrom.ite
    | with_reducible apply EditedFrom.of

theorem execPfwN_edits (byPlatform : Bool) (flushUs : Nat) (durable : Bool) (h : EditedFrom c₀ s) :
    AnswersEdits c₀ (execPfwN byPlatform flushUs durable s) := by
  refine ⟨_, rfl, ?_⟩
  repeat' first
    | with_reducible first
        | assumption | apply State.toDormant_edits | apply State.irq_edits | apply EditedFrom.ite
    | with_reducible apply EditedFrom.of

theorem State.pmbTemp_edits (i : Nat) (h : EditedFrom c₀ s) : EditedFrom c₀ (s.pmbTemp i) := h

theorem State.drivePfw_edits (c : LastOff) (h : EditedFrom c₀ s) : EditedFrom c₀ (s.drivePfw c) := by
  unfold State.drivePfw
  repeat' first | (with_reducible first | assumption | apply EditedFrom.ite) | with_reducible apply EditedFrom.of

theorem State.setSensor_edits (x : Sensor) (c : Int) (h : EditedFrom c₀ s) : EditedFrom c₀ (s.setSensor x c) := by
  unfold State.setSensor
  repeat' first | (with_reducible first | assumption | apply EditedFrom.ite) | split | with_reducible apply EditedFrom.of

theorem execThermal_edits (x : Sensor) (c : Int) (h : EditedFrom c₀ s) : AnswersEdits c₀ (execThermal x c s) := by
  refine ⟨_, rfl, ?_⟩
  repeat' first
    | with_reducible first
        | assumption | apply State.pmbTemp_edits | apply State.drivePfw_edits | apply State.setSensor_edits | apply EditedFrom.ite
    | with_reducible apply EditedFrom.of

theorem State.pmbInput_edits (i : Nat) (h : EditedFrom c₀ s) : EditedFrom c₀ (s.pmbInput i) := h

theorem execOvervolt_edits (mv : Nat) (h : EditedFrom c₀ s) : AnswersEdits c₀ (execOvervolt mv s) := by
  refine ⟨_, rfl, ?_⟩
  with_reducible repeat' first | assumption | apply State.pmbInput_edits | apply State.drivePfw_edits | apply EditedFrom.ite

theorem execRefReturn_edits (h : EditedFrom c₀ s) : AnswersEdits c₀ (execRefReturn s) := by
  refine ⟨_, rfl, ?_⟩
  repeat' first
    | with_reducible first
        | assumption | apply State.irq_edits | apply State.relock_edits | apply EditedFrom.ite
    | with_reducible apply EditedFrom.of

theorem execRide_edits (mv bank : Nat) (h : EditedFrom c₀ s) : AnswersEdits c₀ (execRide mv bank s) := by
  refine ⟨_, rfl, ?_⟩
  repeat' first
    | with_reducible first
        | assumption | apply State.irq_edits | apply State.bump_edits | apply EditedFrom.ite
    | with_reducible apply EditedFrom.of

theorem execInputInvalid_edits (mv bank : Nat) (h : EditedFrom c₀ s) : AnswersEdits c₀ (execInputInvalid mv bank s) := by
  refine ⟨_, rfl, ?_⟩
  split
  · exact CntEdits.clear_all h
  · exact h

theorem State.pmbCml_edits (i : Nat) (h : EditedFrom c₀ s) : EditedFrom c₀ (s.pmbCml i) := h

theorem execPfwRelease_edits (mv heldUs : Nat) (h : EditedFrom c₀ s) : AnswersEdits c₀ (execPfwRelease mv heldUs s) := by
  refine ⟨_, rfl, ?_⟩
  repeat' first | (with_reducible first | assumption | apply EditedFrom.ite) | with_reducible apply EditedFrom.of

theorem execDipTimer_edits (h : EditedFrom c₀ s) : AnswersEdits c₀ (execDipTimer s) := by
  refine ⟨_, rfl, ?_⟩
  with_reducible repeat' first | assumption | apply State.drivePfw_edits | apply EditedFrom.ite

theorem execEWarn_edits (bank : Nat) (h : EditedFrom c₀ s) : AnswersEdits c₀ (execEWarn bank s) := by
  refine ⟨_, rfl, ?_⟩
  repeat' first | (with_reducible first | assumption | apply State.drivePfw_edits | apply EditedFrom.ite) | with_reducible apply EditedFrom.of

theorem execVinDip_edits (mv : Nat) (h : EditedFrom c₀ s) : AnswersEdits c₀ (execVinDip mv s) := by
  refine ⟨_, rfl, ?_⟩
  repeat' first | (with_reducible first | assumption | apply State.pmbInput_edits | apply EditedFrom.ite) | with_reducible apply EditedFrom.of

theorem execQuiescent_edits (durable : Bool) (h : EditedFrom c₀ s) : AnswersEdits c₀ (execQuiescent durable s) := by
  refine ⟨_, rfl, ?_⟩
  unfold State.writeBacks
  repeat' first
    | intro _
    | with_reducible first
        | assumption | apply State.takeVictim_edits | apply State.shipWrites_edits | apply State.persistFlush_edits | apply State.cmdst_edits
        | apply State.standbyIn_edits | apply State.relock_edits | apply State.setMode_edits | refine EditedFrom.foldl ?_ ?_ | apply EditedFrom.ite
    | split | with_reducible apply EditedFrom.of

theorem execWarn_edits (x : Sensor) (c : Int) (h : EditedFrom c₀ s) : AnswersEdits c₀ (execWarn x c s) := by
  refine ⟨_, rfl, ?_⟩
  repeat' first
    | with_reducible first
        | assumption | apply State.irq_edits | apply State.bump_edits | apply State.pmbTemp_edits | apply State.setSensor_edits | apply EditedFrom.ite
    | with_reducible apply EditedFrom.of

/-! ### Counters through Machine.Pmbus -/

theorem State.transfer_edits (pecOk : Bool) {f : State → State} (hf : ∀ s, EditedFrom c₀ s → EditedFrom c₀ (f s)) (h : EditedFrom c₀ s) :
    EditedFrom c₀ (s.transfer pecOk f) := by
  unfold State.transfer
  with_reducible repeat' first | assumption | apply hf | apply State.pmbCml_edits | apply EditedFrom.ite

theorem State.answerBytes_edits (pecOk : Bool) (bs : List Byte) (h : EditedFrom c₀ s) : EditedFrom c₀ (s.answerBytes pecOk bs) := by
  unfold State.answerBytes
  repeat' first | intro _ | (with_reducible first | assumption | apply State.transfer_edits | apply State.emit_edits)

theorem State.answerWord_edits (pecOk : Bool) (v : BitVec 16) (h : EditedFrom c₀ s) : EditedFrom c₀ (s.answerWord pecOk v) := State.answerBytes_edits _ _ h

theorem State.answerBlock_edits (pecOk : Bool) (bs : List Nat) (h : EditedFrom c₀ s) : EditedFrom c₀ (s.answerBlock pecOk bs) := State.answerBytes_edits _ _ h

theorem execReadTemperature3_edits (pecOk : Bool) (h : EditedFrom c₀ s) : AnswersEdits c₀ (execReadTemperature3 pecOk s) :=
  ⟨_, rfl, State.answerWord_edits _ _ h⟩

theorem execReadTemperature2_edits (pecOk : Bool) (h : EditedFrom c₀ s) : AnswersEdits c₀ (execReadTemperature2 pecOk s) :=
  ⟨_, rfl, State.answerWord_edits _ _ h⟩

theorem State.latchStatus_edits (h : EditedFrom c₀ s) : EditedFrom c₀ s.latchStatus := h

theorem execSensorRefresh_edits (x : Readings) (h : EditedFrom c₀ s) : AnswersEdits c₀ (execSensorRefresh x s) := by
  refine ⟨_, rfl, ?_⟩
  repeat' first
    | with_reducible first
        | assumption | apply State.bump_edits | apply State.latchStatus_edits | apply EditedFrom.ite
    | with_reducible apply EditedFrom.of

theorem execStatusTemperature_edits (pecOk : Bool) (h : EditedFrom c₀ s) : AnswersEdits c₀ (execStatusTemperature pecOk s) :=
  ⟨_, rfl, State.answerBytes_edits _ _ h⟩

theorem execReadTemperature1_edits (pecOk : Bool) (h : EditedFrom c₀ s) : AnswersEdits c₀ (execReadTemperature1 pecOk s) :=
  ⟨_, rfl, State.answerWord_edits _ _ h⟩

theorem execClearFaults_edits (pecOk : Bool) (h : EditedFrom c₀ s) : AnswersEdits c₀ (execClearFaults pecOk s) := by
  refine ⟨_, rfl, ?_⟩
  repeat' first
    | intro _
    | with_reducible first
        | assumption | apply State.transfer_edits | apply State.latchStatus_edits
    | with_reducible apply EditedFrom.of

theorem execPmbusInvalidCommand_edits (code : Byte) (write : Bool) (h : EditedFrom c₀ s) : AnswersEdits c₀ (execPmbusInvalidCommand code write s) := by
  refine ⟨_, rfl, ?_⟩
  with_reducible repeat' first | assumption | apply State.pmbCml_edits | apply State.emit_edits | apply EditedFrom.ite

theorem execAlertResponse_edits (h : EditedFrom c₀ s) : AnswersEdits c₀ (execAlertResponse s) := by
  refine ⟨_, rfl, ?_⟩
  repeat' first | (with_reducible first | assumption | apply State.emit_edits | apply EditedFrom.ite) | with_reducible apply EditedFrom.of

theorem execPage_edits (v : Byte) (pecOk : Bool) (h : EditedFrom c₀ s) : AnswersEdits c₀ (execPage v pecOk s) := by
  refine ⟨_, rfl, ?_⟩
  repeat' first
    | intro _
    | with_reducible first
        | assumption | apply State.transfer_edits | apply State.pmbCml_edits | apply EditedFrom.ite
    | with_reducible apply EditedFrom.of

/-! ### Counters through Machine.Protect -/

theorem State.crozPut_edits (j r new : Nat) (reseed : Bool) (e : RngEnt) (h : EditedFrom c₀ s) : EditedFrom c₀ (s.crozPut j r new reseed e) :=
  State.modJob_edits _ _ h

theorem State.sweepAll_edits (D : ImgDomain) (j : SweepJob) (h : EditedFrom c₀ s) : EditedFrom c₀ (s.sweepAll D j) := by
  unfold State.sweepAll
  repeat' first | intro _ | (with_reducible first | assumption | apply State.modSlice_edits | refine EditedFrom.foldl ?_ ?_ | apply EditedFrom.ite)

theorem State.doRelease_edits (h : EditedFrom c₀ s) : EditedFrom c₀ s.doRelease := by
  unfold State.doRelease
  repeat' first | (with_reducible first | assumption | apply EditedFrom.ite) | with_reducible apply EditedFrom.of

theorem State.doPop_edits (h : EditedFrom c₀ s) : EditedFrom c₀ s.doPop := h

theorem State.crozFields_edits (j r new op : Nat) (h : EditedFrom c₀ s) : EditedFrom c₀ (s.crozFields j r new op) := h

theorem State.crozEnd_edits (st : Nat) (h : EditedFrom c₀ s) : EditedFrom c₀ (s.crozEnd st) := h

theorem State.doRekey_edits (j r new : Nat) (h : EditedFrom c₀ s) : EditedFrom c₀ (s.doRekey j r new) := by
  unfold State.doRekey
  repeat' first
    | with_reducible first
        | assumption | apply State.crozFields_edits | apply State.crozEnd_edits | apply State.crozPut_edits | apply EditedFrom.ite
    | split | dsimp only

theorem State.doUnfence_edits (frond : Bool) (i : Nat) (h : EditedFrom c₀ s) : EditedFrom c₀ (s.doUnfence frond i) := by
  unfold State.doUnfence State.clrEnd
  repeat' first
    | with_reducible first
        | assumption | apply State.unfenced_edits | apply State.toDetect_edits | apply EditedFrom.ite
    | with_reducible apply EditedFrom.of

theorem State.doReseed_edits (j r new : Nat) (h : EditedFrom c₀ s) : EditedFrom c₀ (s.doReseed j r new) := by
  unfold State.doReseed State.reseedHomes
  repeat' first
    | intro _
    | with_reducible first
        | assumption | apply State.crozFields_edits | apply State.crozEnd_edits | apply State.crozPut_edits | apply State.raDrop_edits
        | apply State.enqHome_edits | apply State.sweepAll_edits | apply State.recheckAll_edits | refine EditedFrom.foldl ?_ ?_ | apply EditedFrom.ite
    | split | with_reducible apply EditedFrom.of

theorem execReseed_edits (job rng newkey : Nat) (h : EditedFrom c₀ s) : AnswersEdits c₀ (execReseed job rng newkey s) :=
  ⟨_, rfl, State.doReseed_edits _ _ _ h⟩

theorem State.doClaim_edits (h : EditedFrom c₀ s) : EditedFrom c₀ s.doClaim := by
  unfold State.doClaim
  repeat' first | (with_reducible first | assumption | apply EditedFrom.ite) | with_reducible apply EditedFrom.of

theorem State.doInv_edits (d : Nat) (h : EditedFrom c₀ s) : EditedFrom c₀ (s.doInv d) := by
  unfold State.doInv State.invStop
  repeat' first
    | with_reducible first
        | assumption | apply State.irq_edits | apply State.sweepAll_edits | apply EditedFrom.ite
    | split | with_reducible apply EditedFrom.of

theorem State.keyStop_edits (st : Nat) (h : EditedFrom c₀ s) : EditedFrom c₀ (s.keyStop st) := State.irq_edits _ _ h

theorem State.doKeygen_edits (k : Nat) (h : EditedFrom c₀ s) : EditedFrom c₀ (s.doKeygen k) := by
  unfold State.doKeygen
  repeat' first
    | with_reducible first
        | assumption | apply State.keyStop_edits | apply State.keyGen_edits | apply EditedFrom.ite
    | with_reducible apply EditedFrom.of

theorem State.doRetire_edits (k : Nat) (h : EditedFrom c₀ s) : EditedFrom c₀ (s.doRetire k) := by
  unfold State.doRetire
  repeat' first
    | with_reducible first
        | assumption | apply State.keyStop_edits | apply State.keyRetire_edits | apply State.recheckAll_edits | apply State.modKey_edits
        | apply EditedFrom.ite
    | with_reducible apply EditedFrom.of

theorem execEpochDrained_edits (h : EditedFrom c₀ s) : AnswersEdits c₀ (execEpochDrained s) := by
  refine ⟨_, rfl, ?_⟩
  repeat' first | (with_reducible first | assumption | apply State.irq_edits | apply EditedFrom.ite) | with_reducible apply EditedFrom.of

theorem execUnfence_edits (frond : Bool) (index : Nat) (h : EditedFrom c₀ s) : AnswersEdits c₀ (execUnfence frond index s) :=
  ⟨_, rfl, State.doUnfence_edits _ _ h⟩

theorem State.doCommit_edits (h : EditedFrom c₀ s) : EditedFrom c₀ s.doCommit := by
  unfold State.doCommit State.drainedNow State.raAll
  repeat' first
    | intro _
    | with_reducible first
        | assumption | apply State.bump_edits | apply State.recheckAll_edits | apply State.raDrop_edits | apply State.commitEdge_edits
        | apply State.irq_edits | refine EditedFrom.foldl ?_ ?_ | apply EditedFrom.ite
    | with_reducible apply EditedFrom.of

theorem execRetireEnd_edits (k : Nat) (h : EditedFrom c₀ s) : AnswersEdits c₀ (execRetireEnd k s) := by
  refine ⟨_, rfl, ?_⟩
  unfold State.keyEnd
  repeat' first
    | with_reducible first
        | assumption | apply State.bump_edits | apply State.modKey_edits | apply State.unfenced_edits | apply State.irq_edits | apply EditedFrom.ite
    | with_reducible apply EditedFrom.of

/-! ### Counters through Machine.TestPort -/

theorem State.tapLoad_edits (i : TapInstr) (h : EditedFrom c₀ s) : EditedFrom c₀ (s.tapLoad i) := h

theorem execIdcode_edits (h : EditedFrom c₀ s) : AnswersEdits c₀ (execIdcode s) := by
  refine ⟨_, rfl, ?_⟩
  with_reducible repeat' first | assumption | apply State.emit_edits | apply State.tapLoad_edits | apply EditedFrom.ite

theorem execBypass_edits (tdi : Bool) (h : EditedFrom c₀ s) : AnswersEdits c₀ (execBypass tdi s) := by
  refine ⟨_, rfl, ?_⟩
  unfold State.bypassShift
  repeat' first
    | with_reducible first
        | assumption | apply State.tapLoad_edits | apply State.emit_edits | apply EditedFrom.ite
    | with_reducible apply EditedFrom.of

theorem execSamplePreload_edits (cells : List Bool) (h : EditedFrom c₀ s) : AnswersEdits c₀ (execSamplePreload cells s) := by
  refine ⟨_, rfl, ?_⟩
  repeat' first
    | with_reducible first
        | assumption | apply State.tapLoad_edits | apply State.emit_edits | apply State.drawn_edits | apply EditedFrom.ite
    | with_reducible apply EditedFrom.of

theorem execArrayInstruction_edits (x : ArrayOp) (h : EditedFrom c₀ s) : AnswersEdits c₀ (execArrayInstruction x s) := by
  refine ⟨_, rfl, ?_⟩
  unfold State.arrayOp
  repeat' first
    | with_reducible first
        | assumption | apply State.emit_edits | apply State.modSlice_edits | apply State.tapLoad_edits | apply EditedFrom.ite
    | split

theorem execExtest_edits (cells : List Bool) (h : EditedFrom c₀ s) : AnswersEdits c₀ (execExtest cells s) := by
  refine ⟨_, rfl, ?_⟩
  repeat' first
    | with_reducible first
        | assumption | apply State.tapLoad_edits | apply State.emit_edits | apply State.drawn_edits | apply EditedFrom.ite
    | with_reducible apply EditedFrom.of

/-! ### Counters through Machine.RegWrite -/

theorem State.loadCnt_edits (k v : Nat) (h : EditedFrom c₀ s) : EditedFrom c₀ (s.loadCnt k v) := CntEdits.load k v h

theorem State.cntPut_edits (o size : Nat) (val : BitVec 64) (inc : Nat) (h : EditedFrom c₀ s) : EditedFrom c₀ (s.cntPut o size val inc) := by
  unfold State.cntPut
  repeat' first
    | with_reducible first
        | assumption | apply State.loadCnt_edits | apply State.pageN_edits | apply State.bumpN_edits | apply EditedFrom.ite
    | split

theorem State.accPut_edits (base : Nat) (w : Wr) (h : EditedFrom c₀ s) : EditedFrom c₀ (s.accPut base w) := by
  unfold State.accPut
  repeat' first | (with_reducible first | assumption | apply State.modAcc_edits | apply EditedFrom.ite) | with_reducible apply EditedFrom.of

theorem State.modeCmd_edits (w : Wr) (h : EditedFrom c₀ s) : EditedFrom c₀ (s.modeCmd w) := by
  unfold State.modeCmd
  repeat' first
    | with_reducible first
        | assumption | apply State.doDrain_edits | apply State.doMaint_edits | apply State.doResume_edits | apply State.cmdst_edits
        | apply State.doPairGood_edits | apply State.doFenceForget_edits | apply EditedFrom.ite
    | with_reducible apply EditedFrom.of

theorem State.setSphMax_edits (k v : Nat) (h : EditedFrom c₀ s) : EditedFrom c₀ (s.setSphMax k v) := h

theorem State.when_edits (b : Bool) {f : State → State} (hf : ∀ s, EditedFrom c₀ s → EditedFrom c₀ (f s)) (h : EditedFrom c₀ s) :
    EditedFrom c₀ (s.when_ b f) := by
  unfold State.when_
  with_reducible repeat' first | assumption | apply hf | apply EditedFrom.ite

theorem State.lockPut_edits (w : Wr) (h : EditedFrom c₀ s) : EditedFrom c₀ (s.lockPut w) := by
  unfold State.lockPut
  repeat' first
    | intro _
    | with_reducible first
        | assumption | apply State.when_edits | apply State.startLock_edits | apply EditedFrom.ite
    | with_reducible apply EditedFrom.of

theorem State.glbPutHi_edits (o : Nat) (w : Wr) (h : EditedFrom c₀ s) : EditedFrom c₀ (s.glbPutHi o w) := by
  unfold State.glbPutHi
  repeat' first
    | with_reducible first
        | assumption | apply State.modDom_edits | apply State.setSphMax_edits | apply State.lockPut_edits | apply EditedFrom.ite
    | with_reducible apply EditedFrom.of

theorem State.glbPut_edits (o : Nat) (w : Wr) (h : EditedFrom c₀ s) : EditedFrom c₀ (s.glbPut o w) := by
  unfold State.glbPut
  repeat' first
    | with_reducible first
        | assumption | apply State.accPut_edits | apply State.modeCmd_edits | apply State.glbPutHi_edits | apply EditedFrom.ite
    | with_reducible apply EditedFrom.of

theorem State.imgGo_edits (op : Nat) (b : Bool) (h : EditedFrom c₀ s) : EditedFrom c₀ (s.imgGo op b) := by
  unfold State.imgGo
  repeat' first
    | intro _
    | with_reducible first
        | assumption | apply State.imgStart_edits | apply State.imgVerify_edits | apply State.imgEnd_edits | apply State.nameTrial_edits
        | apply State.imgConfirm_edits | apply State.imgErase_edits | apply State.imgRunning_edits | apply State.imgWrite_edits | apply State.imgRoute_edits
        | apply EditedFrom.ite
    | split

theorem State.imgPut_edits (o : Nat) (w : Wr) (h : EditedFrom c₀ s) : EditedFrom c₀ (s.imgPut o w) := by
  unfold State.imgPut
  repeat' first
    | with_reducible first
        | assumption | apply State.imgGo_edits | apply State.accPut_edits | apply EditedFrom.ite
    | with_reducible apply EditedFrom.of

theorem State.gatePut_edits (g o : Nat) (w : Wr) (h : EditedFrom c₀ s) : EditedFrom c₀ (s.gatePut g o w) := by
  unfold State.gatePut
  repeat' first
    | intro _
    | with_reducible first
        | assumption | apply State.modGate_edits | apply State.when_edits | apply State.doHoldClr_edits | apply State.doGateAudit_edits
        | apply State.accPut_edits | apply EditedFrom.ite

theorem State.slcPutHi_edits (n o : Nat) (w : Wr) (h : EditedFrom c₀ s) : EditedFrom c₀ (s.slcPutHi n o w) := by
  unfold State.slcPutHi
  repeat' first
    | intro _
    | with_reducible first
        | assumption | apply State.modSlice_edits | apply State.modPool_edits | apply State.when_edits | apply State.doFlush_edits | apply EditedFrom.ite

theorem State.slcPut_edits (n o : Nat) (w : Wr) (h : EditedFrom c₀ s) : EditedFrom c₀ (s.slcPut n o w) := by
  unfold State.slcPut
  repeat' first
    | intro _
    | with_reducible first
        | assumption | apply State.modSlice_edits | apply State.when_edits | apply State.doQrel_edits | apply State.askLstest_edits
        | apply State.doPredClr_edits | apply State.accPut_edits | apply State.doSlcAudit_edits | apply State.slcPutHi_edits | apply EditedFrom.ite

theorem State.homPut_edits (n o : Nat) (w : Wr) (h : EditedFrom c₀ s) : EditedFrom c₀ (s.homPut n o w) := by
  unfold State.homPut
  repeat' first
    | intro _
    | with_reducible first
        | assumption | apply State.modHome_edits | apply State.when_edits | apply State.doHomQrel_edits | apply State.accPut_edits
        | apply State.doNcAudit_edits | apply EditedFrom.ite

theorem State.rtrPut_edits (n o : Nat) (w : Wr) (h : EditedFrom c₀ s) : EditedFrom c₀ (s.rtrPut n o w) := by
  unfold State.rtrPut
  repeat' first
    | intro _
    | with_reducible first
        | assumption | apply State.modRouter_edits | apply State.when_edits | apply State.doRtrAudit_edits | apply State.accPut_edits | apply EditedFrom.ite

theorem State.portPut_edits (p o : Nat) (w : Wr) (h : EditedFrom c₀ s) : EditedFrom c₀ (s.portPut p o w) := by
  unfold State.portPut
  repeat' first
    | intro _
    | with_reducible first
        | assumption | apply State.modPort_edits | apply State.when_edits | apply State.doRetrain_edits | apply State.doPortDrain_edits
        | apply State.accPut_edits | apply EditedFrom.ite

theorem State.keyCmd_edits (w : Wr) (h : EditedFrom c₀ s) : EditedFrom c₀ (s.keyCmd w) := by
  unfold State.keyCmd
  repeat' first
    | intro _
    | with_reducible first
        | assumption | apply State.when_edits | apply State.doKeygen_edits | apply State.doRetire_edits | apply EditedFrom.ite
    | with_reducible apply EditedFrom.of

theorem State.crozCmd_edits (w : Wr) (h : EditedFrom c₀ s) : EditedFrom c₀ (s.crozCmd w) := by
  unfold State.crozCmd
  repeat' first
    | intro _
    | with_reducible first
        | assumption | apply State.crozFields_edits | apply State.when_edits | apply State.doRekey_edits | apply State.doReseed_edits | apply EditedFrom.ite

theorem State.protPutHi_edits (o : Nat) (w : Wr) (h : EditedFrom c₀ s) : EditedFrom c₀ (s.protPutHi o w) := by
  unfold State.protPutHi
  repeat' first
    | with_reducible first
        | assumption | apply State.keyCmd_edits | apply State.crozCmd_edits | apply State.modJob_edits | apply EditedFrom.ite
    | with_reducible apply EditedFrom.of

theorem State.protPut_edits (o : Nat) (w : Wr) (h : EditedFrom c₀ s) : EditedFrom c₀ (s.protPut o w) := by
  unfold State.protPut
  repeat' first
    | intro _
    | with_reducible first
        | assumption | apply State.when_edits | apply State.doClaim_edits | apply State.doCommit_edits | apply State.doRelease_edits
        | apply State.accPut_edits | apply State.doInv_edits | apply State.protPutHi_edits | apply EditedFrom.ite
    | with_reducible apply EditedFrom.of

theorem State.fltPut_edits (o : Nat) (w : Wr) (h : EditedFrom c₀ s) : EditedFrom c₀ (s.fltPut o w) := by
  unfold State.fltPut
  repeat' first
    | intro _
    | with_reducible first
        | assumption | apply State.when_edits | apply State.doPop_edits | apply State.accPut_edits | apply State.doUnfence_edits | apply EditedFrom.ite
    | with_reducible apply EditedFrom.of

theorem State.capCmd_edits (w : Wr) (h : EditedFrom c₀ s) : EditedFrom c₀ (s.capCmd w) := by
  unfold State.capCmd
  repeat' first
    | intro _
    | with_reducible first
        | assumption | apply State.when_edits | apply State.doArm_edits | apply State.doDisarm_edits | apply State.doSnap_edits | apply State.doZero_edits

theorem State.capPutHi_edits (o : Nat) (w : Wr) (h : EditedFrom c₀ s) : EditedFrom c₀ (s.capPutHi o w) := by
  unfold State.capPutHi
  repeat' first
    | intro _
    | with_reducible first
        | assumption | apply State.modPage_edits | apply State.when_edits | apply State.pageZero_edits | apply EditedFrom.ite
    | with_reducible apply EditedFrom.of

theorem State.capPut_edits (o : Nat) (w : Wr) (h : EditedFrom c₀ s) : EditedFrom c₀ (s.capPut o w) := by
  unfold State.capPut
  with_reducible
    repeat' first
      | assumption | apply State.modCap_edits | apply State.capCmd_edits | apply State.accPut_edits | apply State.capPutHi_edits | apply EditedFrom.ite

theorem State.mbxGo_edits (op : Nat) (b : Bool) (h : EditedFrom c₀ s) : EditedFrom c₀ (s.mbxGo op b) := by
  unfold State.mbxGo
  repeat' first
    | intro _
    | with_reducible first
        | assumption | apply State.mbxBad_edits | apply State.mbxStart_edits | apply State.fileVerify_edits | apply State.mbxEnd_edits
        | apply State.mbxRunning_edits | apply State.newNonce_edits | apply EditedFrom.ite
    | split

theorem State.mbxPut_edits (o : Nat) (w : Wr) (h : EditedFrom c₀ s) : EditedFrom c₀ (s.mbxPut o w) := by
  unfold State.mbxPut
  repeat' first
    | with_reducible first
        | assumption | apply State.mbxGo_edits | apply State.accPut_edits | apply EditedFrom.ite
    | with_reducible apply EditedFrom.of

theorem State.slowPut_edits (k o : Nat) (w : Wr) (h : EditedFrom c₀ s) : EditedFrom c₀ (s.slowPut k o w) := State.modSlow_edits _ _ h

theorem State.regPut_edits (b : Blk) (o : Nat) (w : Wr) (h : EditedFrom c₀ s) : EditedFrom c₀ (s.regPut b o w) := by
  unfold State.regPut
  repeat' first
    | with_reducible first
        | assumption | apply State.glbPut_edits | apply State.imgPut_edits | apply State.gatePut_edits | apply State.slcPut_edits | apply State.homPut_edits
        | apply State.rtrPut_edits | apply State.portPut_edits | apply State.protPut_edits | apply State.fltPut_edits | apply State.capPut_edits
        | apply State.mbxPut_edits | apply State.slowPut_edits | apply EditedFrom.ite
    | split

/-! ### Counters through Machine.Regs -/

theorem State.writeAt_edits (a : Access) (v : View) (b : Blk) (o : Nat) (val : BitVec 64) (h : EditedFrom c₀ s) : EditedFrom c₀ (s.writeAt a v b o val) := by
  unfold State.writeAt
  repeat' first
    | with_reducible first
        | assumption | apply State.logAcc_edits | apply State.cntPut_edits | apply State.regPut_edits | apply EditedFrom.ite
    | split | dsimp only

theorem State.readAt_edits (b : Blk) (o size : Nat) (h : EditedFrom c₀ s) : EditedFrom c₀ (s.readAt b o size).1 := by
  unfold State.readAt
  with_reducible repeat' first | assumption | apply State.drawn_edits | apply EditedFrom.ite

theorem State.perform_edits (a : Access) (v : View) (b : Blk) (o : Nat) (h : EditedFrom c₀ s) : EditedFrom c₀ (s.perform a v b o).1 := by
  unfold State.perform
  repeat' first
    | with_reducible first
        | assumption | apply State.logAcc_edits | apply State.writeAt_edits | apply State.readAt_edits | apply EditedFrom.ite
    | split

theorem State.access_edits (a : Access) (h : EditedFrom c₀ s) : EditedFrom c₀ (s.access a).1 := by
  unfold State.access
  repeat' first | (with_reducible first | assumption | apply State.logAcc_edits | apply State.perform_edits | apply EditedFrom.ite) | split

theorem State.complete_edits {r : Reply} (write : Bool) (h : EditedFrom c₀ r.1) : EditedFrom c₀ (State.complete r write) := State.emit_edits _ h

theorem State.regAccess_edits (a : Access) (h : EditedFrom c₀ s) : EditedFrom c₀ (s.regAccess a) := by
  unfold State.regAccess
  repeat' first | (with_reducible first | assumption | apply State.access_edits | apply State.complete_edits | apply EditedFrom.ite) | split

theorem State.cfgAccess_edits (p : Nat) (m : Msg) (write : Bool) (h : EditedFrom c₀ s) : EditedFrom c₀ (s.cfgAccess p m write) := by
  unfold State.cfgAccess State.cfgReply
  repeat' first
    | with_reducible first
        | assumption | apply State.ingressEdge_edits | apply State.bump_edits | apply State.modGate_edits | apply State.access_edits | apply EditedFrom.ite
    | split

theorem execSphMaxWrite_edits (who : Requester) (t : Nat) (val : BitVec 32) (h : EditedFrom c₀ s) : AnswersEdits c₀ (execSphMaxWrite who t val s) := by
  refine ⟨_, rfl, ?_⟩
  with_reducible repeat' first | assumption | apply State.regAccess_edits | apply EditedFrom.ite

theorem execCfgWr_edits (port : Nat) (m : Msg) (h : EditedFrom c₀ s) : AnswersEdits c₀ (execCfgWr port m s) := by
  refine ⟨_, rfl, ?_⟩
  repeat' first | intro _ | (with_reducible first | assumption | apply State.atPort_edits | apply State.cfgAccess_edits)

theorem execShadowWrite_edits (who : Requester) (off : BitVec 26) (size : Nat) (val : BitVec 64) (h : EditedFrom c₀ s) :
    AnswersEdits c₀ (execShadowWrite who off size val s) := by
  refine ⟨_, rfl, ?_⟩
  with_reducible repeat' first | assumption | apply State.regAccess_edits | apply EditedFrom.ite

theorem execCfgRd_edits (port : Nat) (m : Msg) (h : EditedFrom c₀ s) : AnswersEdits c₀ (execCfgRd port m s) := by
  refine ⟨_, rfl, ?_⟩
  repeat' first | intro _ | (with_reducible first | assumption | apply State.atPort_edits | apply State.cfgAccess_edits)

theorem execCounterWrite_edits (who : Requester) (off : BitVec 26) (size : Nat) (val : BitVec 64) (inc : Nat) (h : EditedFrom c₀ s) :
    AnswersEdits c₀ (execCounterWrite who off size val inc s) := by
  refine ⟨_, rfl, ?_⟩
  with_reducible repeat' first | assumption | apply State.regAccess_edits | apply EditedFrom.ite

theorem execAliasWrite_edits (who : Requester) (off : BitVec 26) (size : Nat) (val : BitVec 64) (h : EditedFrom c₀ s) :
    AnswersEdits c₀ (execAliasWrite who off size val s) := by
  refine ⟨_, rfl, ?_⟩
  with_reducible repeat' first | assumption | apply State.regAccess_edits | apply EditedFrom.ite

theorem execRegisterRead_edits (who : Requester) (bar : Nat) (off : BitVec 26) (size : Nat) (h : EditedFrom c₀ s) :
    AnswersEdits c₀ (execRegisterRead who bar off size s) := by
  refine ⟨_, rfl, ?_⟩
  unfold State.barRead State.pageRead
  repeat' first
    | with_reducible first
        | assumption | apply State.regAccess_edits | apply State.complete_edits | apply State.perform_edits | apply State.capDenied_edits
        | apply EditedFrom.ite
    | split

theorem execSlowWrite_edits (who : Requester) (off : BitVec 26) (size : Nat) (val : BitVec 64) (h : EditedFrom c₀ s) :
    AnswersEdits c₀ (execSlowWrite who off size val s) := by
  refine ⟨_, rfl, ?_⟩
  repeat' first | (with_reducible first | assumption | apply State.regAccess_edits | apply EditedFrom.ite) | split

theorem execSlowWriteDone_edits (k : Nat) (h : EditedFrom c₀ s) : AnswersEdits c₀ (execSlowWriteDone k s) := by
  refine ⟨_, rfl, ?_⟩
  with_reducible repeat' first | assumption | apply State.modSlow_edits | apply State.accPut_edits | apply EditedFrom.ite

/-! ### Counters through Machine.Clock -/

theorem State.countEdge_edits (h : EditedFrom c₀ s) : EditedFrom c₀ s.countEdge := h

theorem State.tick_edits (h : EditedFrom c₀ s) : EditedFrom c₀ s.tick := by
  unfold State.tick tickAclk State.creditEdge State.auditEdge
  repeat' first
    | intro _
    | with_reducible first
        | assumption | apply State.returnCredits_edits | apply State.cellFences_edits | apply State.slcLatch_edits | apply State.ncLatchEdge_edits
        | apply State.rtrLatch_edits | apply State.gateLatch_edits | apply State.countEdge_edits | refine EditedFrom.foldl ?_ ?_ | apply EditedFrom.ite
    | with_reducible apply EditedFrom.of

/-! ### Every command and every edge -/

/-- Every command answers a next state and does to the counters what `CntEdits` lists: one arm per command. -/
theorem exec_edits (c : Instr) (hs : EditedFrom c₀ s) : AnswersEdits c₀ (exec c s) :=
  match c with
  | .start x => execStart_edits x hs
  | .supplyRetry x => execSupplyRetry_edits x hs
  | .resetN flushUs durable => execResetN_edits flushUs durable hs
  | .pfwN byPlatform flushUs durable => execPfwN_edits byPlatform flushUs durable hs
  | .inputInvalid mv bank => execInputInvalid_edits mv bank hs
  | .vinDip mv => execVinDip_edits mv hs
  | .dipTimer => execDipTimer_edits hs
  | .eWarn bank => execEWarn_edits bank hs
  | .ride mv bank => execRide_edits mv bank hs
  | .overvolt mv => execOvervolt_edits mv hs
  | .thermal x c => execThermal_edits x c hs
  | .warn x c => execWarn_edits x c hs
  | .pfwRelease mv heldUs => execPfwRelease_edits mv heldUs hs
  | .perstN low => execPerstN_edits low hs
  | .flr => execFlr_edits hs
  | .flrVf k => execFlrVf_edits k hs
  | .refLost noEdge ppm => execRefLost_edits noEdge ppm hs
  | .refReturn => execRefReturn_edits hs
  | .drain => ⟨_, rfl, State.doDrain_edits hs⟩
  | .quiescent durable => execQuiescent_edits durable hs
  | .maint => ⟨_, rfl, State.doMaint_edits hs⟩
  | .resume => ⟨_, rfl, State.doResume_edits hs⟩
  | .forcePair x => execForcePair_edits x hs
  | .pairGood => ⟨_, rfl, State.doPairGood_edits hs⟩
  | .fenceForget => ⟨_, rfl, State.doFenceForget_edits hs⟩
  | .knownGood => execKnownGood_edits hs
  | .imgWrite slotB bytes dmaOk => execImgWrite_edits slotB bytes dmaOk hs
  | .imgVerify slotB => execImgVerify_edits slotB hs
  | .imgTrial slotB => execImgTrial_edits slotB hs
  | .imgApply slotB x y => execImgApply_edits slotB x y hs
  | .imgConfirm => execImgConfirm_edits hs
  | .imgErase slotB => execImgErase_edits slotB hs
  | .imgRoute bytes dmaOk => execImgRoute_edits bytes dmaOk hs
  | .getInfo dmaOk => execGetInfo_edits dmaOk hs
  | .fwWrite slotB bytes dmaOk => execFwWrite_edits slotB bytes dmaOk hs
  | .fwVerify slotB => execFwVerify_edits slotB hs
  | .mcWrite slotB bytes dmaOk => execMcWrite_edits slotB bytes dmaOk hs
  | .mcVerify slotB => execMcVerify_edits slotB hs
  | .ownerFill bytes dmaOk => execOwnerFill_edits bytes dmaOk hs
  | .ownerEmpty bytes dmaOk => execOwnerEmpty_edits bytes dmaOk hs
  | .peatRead dmaOk => execPeatRead_edits dmaOk hs
  | .measurements blocks => execMeasurements_edits blocks hs
  | .cert slot => execCert_edits slot hs
  | .chal nonce => execChal_edits nonce hs
  | .keyEx share => execKeyEx_edits share hs
  | .hbeat session => execHbeat_edits session hs
  | .ideKm session key => execIdeKm_edits session key hs
  | .ideCheckFail => execIdeCheckFail_edits hs
  | .msixPendingSend fn vec => execMsixPendingSend_edits fn vec hs
  | .registerWrite .. => ⟨_, rfl, State.regAccess_edits _ hs⟩
  | .aliasWrite who off size val => execAliasWrite_edits who off size val hs
  | .counterWrite who off size val inc => execCounterWrite_edits who off size val inc hs
  | .slowWrite who off size val => execSlowWrite_edits who off size val hs
  | .slowWriteDone k => execSlowWriteDone_edits k hs
  | .shadowWrite who off size val => execShadowWrite_edits who off size val hs
  | .sphMaxWrite who t val => execSphMaxWrite_edits who t val hs
  | .cfgRd port m => execCfgRd_edits port m hs
  | .cfgWr port m => execCfgWr_edits port m hs
  | .qrel n => execQrel_edits n hs
  | .homQrel n => execHomQrel_edits n hs
  | .lstest n squashed => execLstest_edits n squashed hs
  | .predClr n => execPredClr_edits n hs
  | .predClrDone n => execPredClrDone_edits n hs
  | .slcAudit n => execSlcAudit_edits n hs
  | .slcAuditEnd n => execSlcAuditEnd_edits n hs
  | .flush n q => execFlush_edits n q hs
  | .flushDone n q => execFlushDone_edits n q hs
  | .holdClr g => execHoldClr_edits g hs
  | .gateAudit g => execGateAudit_edits g hs
  | .gateAuditEnd g => execGateAuditEnd_edits g hs
  | .rtrAudit n => execRtrAudit_edits n hs
  | .rtrAuditEnd n => execRtrAuditEnd_edits n hs
  | .homNcAudit n => execHomNcAudit_edits n hs
  | .homNcAuditEnd n => execHomNcAuditEnd_edits n hs
  | .lock .. => ⟨_, rfl, State.startLock_edits _ _ hs⟩
  | .unlock .. => ⟨_, rfl, State.startLock_edits _ _ hs⟩
  | .lockPass p line ten => execLockPass_edits p line ten hs
  | .unlockPass p line ten => execUnlockPass_edits p line ten hs
  | .claim => ⟨_, rfl, State.doClaim_edits hs⟩
  | .release => ⟨_, rfl, State.doRelease_edits hs⟩
  | .commit => ⟨_, rfl, State.doCommit_edits hs⟩
  | .epochDrained => execEpochDrained_edits hs
  | .keygen .. => ⟨_, rfl, State.doKeygen_edits _ hs⟩
  | .retire .. => ⟨_, rfl, State.doRetire_edits _ hs⟩
  | .retireEnd k => execRetireEnd_edits k hs
  | .rangeInvalidation .. => ⟨_, rfl, State.doInv_edits _ hs⟩
  | .rekey .. => ⟨_, rfl, State.doRekey_edits _ _ _ hs⟩
  | .reseed job rng newkey => execReseed_edits job rng newkey hs
  | .crozierPass job line => execCrozierPass_edits job line hs
  | .pop => ⟨_, rfl, State.doPop_edits hs⟩
  | .unfence frond index => execUnfence_edits frond index hs
  | .arm => ⟨_, rfl, State.doArm_edits hs⟩
  | .disarm => ⟨_, rfl, State.doDisarm_edits hs⟩
  | .snap => ⟨_, rfl, State.doSnap_edits hs⟩
  | .zero .. => ⟨_, rfl, State.doZero_edits _ hs⟩
  | .capsuleLatch => execCapsuleLatch_edits hs
  | .dumpEnd x => execDumpEnd_edits x hs
  | .pageZero who t incs => execPageZero_edits who t incs hs
  | .rdSh .. => ⟨_, rfl, State.requestAs_edits _ _ _ hs⟩
  | .rdOwn .. => ⟨_, rfl, State.requestAs_edits _ _ _ hs⟩
  | .ownUpg .. => ⟨_, rfl, State.requestAs_edits _ _ _ hs⟩
  | .ownNodata .. => ⟨_, rfl, State.requestAs_edits _ _ _ hs⟩
  | .rdNa .. => ⟨_, rfl, State.requestAs_edits _ _ _ hs⟩
  | .wr .. => ⟨_, rfl, State.requestAs_edits _ _ _ hs⟩
  | .carriedRequest port m => execCarriedRequest_edits port m hs
  | .holdExpire g h => execHoldExpire_edits g h hs
  | .retryOrderClose g slot j => execRetryOrderClose_edits g slot j hs
  | .balancer d => execBalancer_edits d hs
  | .slotAdvance d => execSlotAdvance_edits d hs
  | .watchTimeout g j => execWatchTimeout_edits g j hs
  | .tailExpire g j => execTailExpire_edits g j hs
  | .completionEgress port m => execCompletionEgress_edits port m hs
  | .barrier port m => execBarrier_edits port m hs
  | .barDone g j => execBarDone_edits g j hs
  | .lookupPass n m x => execLookupPass_edits n m x hs
  | .pfHint n m => execPfHint_edits n m hs
  | .runAheadExpire n line => execRunAheadExpire_edits n line hs
  | .tileData n slot upper flips used m => execTileData_edits n slot upper flips used m hs
  | .halfFill n m => execHalfFill_edits n m hs
  | .snpSh n m x => execSnpSh_edits n m x hs
  | .snpOwn n m x => execSnpOwn_edits n m x hs
  | .snpInv n m x => execSnpInv_edits n m x hs
  | .snpCur n m x => execSnpCur_edits n m x hs
  | .rspI atHome n m x => execRspI_edits atHome n m x hs
  | .rspS atHome n m x => execRspS_edits atHome n m x hs
  | .rspFwd atHome n m x => execRspFwd_edits atHome n m x hs
  | .sdata atHome n m x => execSdata_edits atHome n m x hs
  | .compAck atHome p m => execCompAck_edits atHome p m hs
  | .data n m x => execData_edits n m x hs
  | .grant p m => execGrant_edits p m hs
  | .cmp p m => execCmp_edits p m hs
  | .dur p m => execDur_edits p m hs
  | .err p m => execErr_edits p m hs
  | .wbAck n m => execWbAck_edits n m hs
  | .wbSuperseded n m => execWbSuperseded_edits n m hs
  | .wb atHome p m => execWb_edits atHome p m hs
  | .evn atHome p m => execEvn_edits atHome p m hs
  | .rolloverEnd n key => execRolloverEnd_edits n key hs
  | .homeSequence n m src => execHomeSequence_edits n m src hs
  | .activation p line => execActivation_edits p line hs
  | .memData n m ing => execMemData_edits n m ing hs
  | .memAck n m => execMemAck_edits n m hs
  | .memDur n m ing => execMemDur_edits n m ing hs
  | .memWrEjected n line => execMemWrEjected_edits n line hs
  | .mshrTimeout n j => execMshrTimeout_edits n j hs
  | .nodeClean n key => execNodeClean_edits n key hs
  | .epoch n => execEpoch_edits n hs
  | .sphagnumMove n => execSphagnumMove_edits n hs
  | .sweepMarker n => execSweepMarker_edits n hs
  | .sweepPass p => execSweepPass_edits p hs
  | .sweepEnd n => execSweepEnd_edits n hs
  | .patrolScrub n flips x => execPatrolScrub_edits n flips x hs
  | .dirScrub n x => execDirScrub_edits n x hs
  | .ncScrub n correctable uncorrectable => execNcScrub_edits n correctable uncorrectable hs
  | .stipeScrub disagree badKeys => execStipeScrub_edits disagree badKeys hs
  | .spareRemap n => execSpareRemap_edits n hs
  | .sliceDrainStep n => execSliceDrainStep_edits n hs
  | .drainEnd n => execDrainEnd_edits n hs
  | .handoverEnd n => execHandoverEnd_edits n hs
  | .detour d => execDetour_edits d hs
  | .detourReorderEnd d => execDetourReorderEnd_edits d hs
  | .unitArrival n a x => execUnitArrival_edits n a x hs
  | .detect p awake => execDetect_edits p awake hs
  | .train p x => execTrain_edits p x hs
  | .discId p x => execDiscId_edits p x hs
  | .discCfg p x => execDiscCfg_edits p x hs
  | .discKeyx p share sig chainRoot => execDiscKeyx_edits p share sig chainRoot hs
  | .discDone p offset => execDiscDone_edits p offset hs
  | .discRej p reason => execDiscRej_edits p reason hs
  | .discTimeout p => execDiscTimeout_edits p hs
  | .failedReturn p => execFailedReturn_edits p hs
  | .timeStep d => execTimeStep_edits d hs
  | .tsyncExchange p t1 => execTsyncExchange_edits p t1 hs
  | .tsyncReq p t1 t2 t3 => execTsyncReq_edits p t1 t2 t3 hs
  | .tsyncRsp p t1 t2 t3 t4 sync rootIdx rootHops => execTsyncRsp_edits p t1 t2 t3 t4 sync rootIdx rootHops hs
  | .syncLost d => execSyncLost_edits d hs
  | .lack p seq => execLack_edits p seq hs
  | .lnak p seq => execLnak_edits p seq hs
  | .tag p block flits tagBits newKey => execTag_edits p block flits tagBits newKey hs
  | .linkKeyExchange p share sig chainRoot => execLinkKeyExchange_edits p share sig chainRoot hs
  | .retrain .. => ⟨_, rfl, State.doRetrain_edits _ hs⟩
  | .fastRetrainEnd p ok => execFastRetrainEnd_edits p ok hs
  | .portDrain .. => ⟨_, rfl, State.doPortDrain_edits _ hs⟩
  | .detachReq p => execDetachReq_edits p hs
  | .detachAck p => execDetachAck_edits p hs
  | .detachDone p => execDetachDone_edits p hs
  | .drainFallback p => execDrainFallback_edits p hs
  | .partnerDead p => execPartnerDead_edits p hs
  | .isolationEnd p => execIsolationEnd_edits p hs
  | .sensorRefresh x => execSensorRefresh_edits x hs
  | .page v pecOk => execPage_edits v pecOk hs
  | .clearFaults pecOk => execClearFaults_edits pecOk hs
  | .capability .. => ⟨_, rfl, State.answerBytes_edits _ _ hs⟩
  | .voutMode .. => ⟨_, rfl, State.answerBytes_edits _ _ hs⟩
  | .statusByte .. => ⟨_, rfl, State.answerBytes_edits _ _ hs⟩
  | .statusWord .. => ⟨_, rfl, State.answerWord_edits _ _ hs⟩
  | .statusVout .. => ⟨_, rfl, State.answerBytes_edits _ _ hs⟩
  | .statusIout .. => ⟨_, rfl, State.answerBytes_edits _ _ hs⟩
  | .statusInput .. => ⟨_, rfl, State.answerBytes_edits _ _ hs⟩
  | .statusTemperature pecOk => execStatusTemperature_edits pecOk hs
  | .statusCml .. => ⟨_, rfl, State.answerBytes_edits _ _ hs⟩
  | .readVin .. => ⟨_, rfl, State.answerWord_edits _ _ hs⟩
  | .readIin .. => ⟨_, rfl, State.answerWord_edits _ _ hs⟩
  | .readVout .. => ⟨_, rfl, State.answerWord_edits _ _ hs⟩
  | .readIout .. => ⟨_, rfl, State.answerWord_edits _ _ hs⟩
  | .readTemperature1 pecOk => execReadTemperature1_edits pecOk hs
  | .readTemperature2 pecOk => execReadTemperature2_edits pecOk hs
  | .readTemperature3 pecOk => execReadTemperature3_edits pecOk hs
  | .readPout .. => ⟨_, rfl, State.answerWord_edits _ _ hs⟩
  | .readPin .. => ⟨_, rfl, State.answerWord_edits _ _ hs⟩
  | .pmbusRevision .. => ⟨_, rfl, State.answerBytes_edits _ _ hs⟩
  | .mfrId .. => ⟨_, rfl, State.answerBlock_edits _ _ hs⟩
  | .mfrModel .. => ⟨_, rfl, State.answerBlock_edits _ _ hs⟩
  | .mfrRevision .. => ⟨_, rfl, State.answerBlock_edits _ _ hs⟩
  | .alertResponse => execAlertResponse_edits hs
  | .idcode => execIdcode_edits hs
  | .bypass tdi => execBypass_edits tdi hs
  | .samplePreload cells => execSamplePreload_edits cells hs
  | .extest cells => execExtest_edits cells hs
  | .arrayInstruction x => execArrayInstruction_edits x hs
  | .linkCheckFail p f => execLinkCheckFail_edits p f hs
  | .trainingBudget p x => execTrainingBudget_edits p x hs
  | .registerRead who bar off size => execRegisterRead_edits who bar off size hs
  | .configurationRequest x => execConfigurationRequest_edits x hs
  | .vectorUnmask fn vec => execVectorUnmask_edits fn vec hs
  | .alwaysOnDomainStart smbAddr => execAlwaysOnDomainStart_edits smbAddr hs
  | .retryResend d => execRetryResend_edits d hs
  | .pmbusInvalidCommand code write => execPmbusInvalidCommand_edits code write hs

theorem step_edits {t : State} (hstep : step s = .next t) : EditedFrom s.cnt t := by
  unfold step at hstep
  split at hstep
  next =>
    cases hstep
    exact State.tick_edits .same
  next c rest hp =>
    obtain ⟨u, hu, hedits⟩ := exec_edits (s := { s with pending := rest }) c .same
    cases hstep.symm.trans hu
    exact hedits

theorem tget_tset_le {b k v : Nat} {t : Tab Nat} (hv : v ≤ b) (ht : ∀ j, tget 0 t j ≤ b) (j : Nat) : tget 0 (tset 0 t k v) j ≤ b := by
  by_cases hjk : j = k
  · rw [hjk, tget_tset_self]
    exact hv
  · rw [tget_tset_ne _ _ _ hjk]
    exact ht j

theorem CntEdits.le_cntMax {t : Tab Nat} (h : CntEdits c₀ t) (hc : ∀ k, tget 0 c₀ k ≤ cntMax) : ∀ k, tget 0 t k ≤ cntMax := by
  induction h with
  | same => exact hc
  | count k n _ ih => exact tget_tset_le (satAdd_le _ _) ih
  | load k v _ ih => exact tget_tset_le (Nat.le_sub_one_of_lt (Nat.mod_lt _ (Nat.two_pow_pos 48))) ih
  | uncount k _ ih => exact tget_tset_le (Nat.sub_le_of_le_add (Nat.le_succ_of_le (ih k))) ih
  | clear p _ ih =>
    intro k
    rw [tget_filter_key]
    split
    · exact ih k
    · exact Nat.zero_le _

/-- Settles O47: each thing that a step may do to a counter keeps it within 48 bits. -/
theorem countersStayWithin48Bits : Obligations.CountersStayWithin48Bits :=
  fun _ _ hbound hstep => (step_edits hstep).le_cntMax hbound

end Sys2Proof.Machine
